-- ==== Sys2Proof/Syntax.lean ====
section
/-!
DEFINITION. The instruction set as syntax: one record per operand layout of the spec's encoding tables
(R43 to R56, and the form tables of the instruction chapters), and one inductive with one constructor per row
of spec/opcode_table.json: 210 slot words and 75 events of the device's agents.
-/

namespace Sys2Proof

/-- A C-slot word with no operand (R47), and NOP (R44). -/
structure CN where
  g : BitVec 1
  deriving DecidableEq, Repr

/-- JMP and CALL: a 23-bit offset (R47). -/
structure CJ where
  g : BitVec 1
  off : BitVec 23
  deriving DecidableEq, Repr

/-- BR (R47, R86). -/
structure CBr where
  g : BitVec 1
  s : BitVec 5
  cond : BitVec 2
  off : BitVec 16
  deriving DecidableEq, Repr

/-- BRP (R47, R87). -/
structure CBrp where
  g : BitVec 1
  cl : BitVec 1
  pn : BitVec 2
  sense : BitVec 1
  w : BitVec 2
  off : BitVec 16
  deriving DecidableEq, Repr

/-- JMPI, CALLI and WAITJ: one scalar register (R47). -/
structure CS where
  g : BitVec 1
  s : BitVec 5
  deriving DecidableEq, Repr

/-- LOOP (R47, R91). -/
structure CLp where
  g : BitVec 1
  s : BitVec 5
  pre : BitVec 1
  dist : BitVec 12
  deriving DecidableEq, Repr

/-- LOOPI (R47, R91). -/
structure CLpi where
  g : BitVec 1
  n : BitVec 10
  pre : BitVec 1
  dist : BitVec 12
  deriving DecidableEq, Repr

/-- BRKL (R47, R94). -/
structure CK where
  g : BitVec 1
  k : BitVec 3
  deriving DecidableEq, Repr

/-- SEGJ (R47, R90). -/
structure CSeg where
  g : BitVec 1
  s : BitVec 5
  idx : BitVec 16
  deriving DecidableEq, Repr

/-- TRAP and BRKPT (R47, R98). -/
structure CCode where
  g : BitVec 1
  code : BitVec 16
  deriving DecidableEq, Repr

/-- WAITB, ARRIVE and ARWAIT: level and barrier number (R47, R231). -/
structure CBar where
  g : BitVec 1
  lvl : BitVec 3
  num : BitVec 5
  deriving DecidableEq, Repr

/-- SSTEP (R47, R232). -/
structure CLvl where
  g : BitVec 1
  lvl : BitVec 3
  deriving DecidableEq, Repr

/-- MFSR (R47, R102). -/
structure CMf where
  g : BitVec 1
  sd : BitVec 5
  reg : BitVec 12
  deriving DecidableEq, Repr

/-- MTSR (R47, R102). -/
structure CMt where
  g : BitVec 1
  sa : BitVec 5
  reg : BitVec 12
  deriving DecidableEq, Repr

/-- Scalar layout SR with two sources (R46). -/
structure SR where
  ar : BitVec 2
  sd : BitVec 5
  sa : BitVec 5
  sb : BitVec 5
  deriving DecidableEq, Repr

/-- Scalar layout SR with three sources: SEL (R46). -/
structure SSel where
  ar : BitVec 2
  sd : BitVec 5
  sa : BitVec 5
  sb : BitVec 5
  sc : BitVec 5
  deriving DecidableEq, Repr

/-- Scalar layout SR with one source (R46). -/
structure SOne where
  ar : BitVec 2
  sd : BitVec 5
  sa : BitVec 5
  deriving DecidableEq, Repr

/-- Scalar layout SF: BFX and BFI (R46). -/
structure SFld where
  ar : BitVec 2
  sd : BitVec 5
  sa : BitVec 5
  pos : BitVec 6
  wid : BitVec 7
  deriving DecidableEq, Repr

/-- Scalar layout SI (R46). -/
structure SImm where
  ar : BitVec 2
  sd : BitVec 5
  sa : BitVec 5
  imm : BitVec 13
  deriving DecidableEq, Repr

/-- Scalar layout SH (R46). -/
structure SSh where
  ar : BitVec 2
  sd : BitVec 5
  sa : BitVec 5
  sh : BitVec 6
  deriving DecidableEq, Repr

/-- Scalar layout SL: LI (R46). -/
structure SLi where
  ar : BitVec 2
  sd : BitVec 5
  imm : BitVec 18
  deriving DecidableEq, Repr

/-- Scalar layout SX: LIH, LIX and LIT (R46). -/
structure SIns where
  ar : BitVec 2
  sd : BitVec 5
  imm : BitVec 16
  deriving DecidableEq, Repr

/-- Scalar layout SX with a loop level: MFLI and MFLC (R46). -/
structure SLv where
  ar : BitVec 2
  sd : BitVec 5
  lvl : BitVec 3
  deriving DecidableEq, Repr

/-- Vector word with two sources (R48). `cl` is the executing cluster: 0 for slot 2, 1 for slot 3. -/
structure V3 where
  cl : BitVec 1
  ar : BitVec 2
  vd : BitVec 4
  va : BitVec 5
  vb : BitVec 5
  pa : BitVec 1
  pb : BitVec 1
  pred : BitVec 3
  fmt : BitVec 4
  deriving DecidableEq, Repr

/-- Vector word with one source (R48, R50). -/
structure V2 where
  cl : BitVec 1
  ar : BitVec 2
  vd : BitVec 4
  va : BitVec 5
  pa : BitVec 1
  pred : BitVec 3
  fmt : BitVec 4
  deriving DecidableEq, Repr

/-- VCMP and VFCMP: vd names a predicate and a condition (R52). -/
structure VCm where
  cl : BitVec 1
  ar : BitVec 2
  cond : BitVec 2
  vd : BitVec 2
  va : BitVec 5
  vb : BitVec 5
  pa : BitVec 1
  pb : BitVec 1
  pred : BitVec 3
  fmt : BitVec 4
  deriving DecidableEq, Repr

/-- VRNG, in VB only (R169). -/
structure VRn where
  ar : BitVec 2
  vd : BitVec 4
  pred : BitVec 3
  fmt : BitVec 4
  deriving DecidableEq, Repr

/-- VCVT: vb[3:0] is the source format (R52). -/
structure VCv where
  cl : BitVec 1
  ar : BitVec 2
  vd : BitVec 4
  va : BitVec 5
  sfmt : BitVec 4
  pa : BitVec 1
  pred : BitVec 3
  fmt : BitVec 4
  deriving DecidableEq, Repr

/-- VQNT: vb holds the trap bit and a scale register (R172). -/
structure VQn where
  cl : BitVec 1
  ar : BitVec 2
  vd : BitVec 4
  va : BitVec 5
  chk : BitVec 1
  ks : BitVec 3
  pa : BitVec 1
  pred : BitVec 3
  fmt : BitVec 4
  deriving DecidableEq, Repr

/-- VDQNT: vb holds a scale register (R172). -/
structure VDq where
  cl : BitVec 1
  ar : BitVec 2
  vd : BitVec 4
  va : BitVec 5
  ks : BitVec 3
  pa : BitVec 1
  pred : BitVec 3
  fmt : BitVec 4
  deriving DecidableEq, Repr

/-- PAND, POR and PXOR (R52). -/
structure PP3 where
  cl : BitVec 1
  ar : BitVec 2
  vd : BitVec 2
  va : BitVec 2
  vb : BitVec 2
  deriving DecidableEq, Repr

/-- PNOT and PMOV (R52). -/
structure PP2 where
  cl : BitVec 1
  ar : BitVec 2
  vd : BitVec 2
  va : BitVec 2
  deriving DecidableEq, Repr

/-- PSETN (R163). -/
structure PSn where
  cl : BitVec 1
  ar : BitVec 2
  vd : BitVec 2
  va : BitVec 5
  pa : BitVec 1
  fmt : BitVec 4
  deriving DecidableEq, Repr

/-- VROT (R176). -/
structure VRt where
  cl : BitVec 1
  ar : BitVec 2
  vd : BitVec 4
  va : BitVec 5
  vb : BitVec 5
  pa : BitVec 1
  pb : BitVec 1
  deriving DecidableEq, Repr

/-- VBAND (R178). -/
structure VBn where
  cl : BitVec 1
  ar : BitVec 2
  vd : BitVec 4
  va : BitVec 5
  vb : BitVec 5
  pa : BitVec 1
  pb : BitVec 1
  pred : BitVec 3
  deriving DecidableEq, Repr

/-- VISECT, unpredicated (R179). -/
structure VIs where
  cl : BitVec 1
  ar : BitVec 2
  vd : BitVec 4
  va : BitVec 5
  vb : BitVec 5
  pa : BitVec 1
  pb : BitVec 1
  fmt : BitVec 4
  deriving DecidableEq, Repr

/-- MALLOC and MFREE (R204). -/
structure MBk where
  ar : BitVec 2
  sx : BitVec 5
  n : BitVec 6
  deriving DecidableEq, Repr

/-- MBAND (R204). -/
structure MBd where
  ar : BitVec 2
  sx : BitVec 5
  sy : BitVec 5
  rel : BitVec 1
  pos : BitVec 2
  deriving DecidableEq, Repr

/-- Scalar registers in sx and sy (R55). -/
structure R2 where
  ar : BitVec 2
  sx : BitVec 5
  sy : BitVec 5
  deriving DecidableEq, Repr

/-- MLDW (R204). -/
structure MLd where
  ar : BitVec 2
  sx : BitVec 5
  cb : BitVec 1
  buf : BitVec 1
  west : BitVec 1
  fmt : BitVec 4
  deriving DecidableEq, Repr

/-- MMUL, MMULB and MMULC (R204). -/
structure MMu where
  ar : BitVec 2
  sx : BitVec 5
  sy : BitVec 5
  sz : BitVec 5
  keep : BitVec 1
  rg : BitVec 3
  fmt : BitVec 4
  deriving DecidableEq, Repr

/-- MMULG (R204). -/
structure MMg where
  ar : BitVec 2
  sx : BitVec 5
  sy : BitVec 5
  sz : BitVec 5
  rg : BitVec 3
  cl : BitVec 1
  q : BitVec 4
  deriving DecidableEq, Repr

/-- MMULS (R204). -/
structure MMs where
  ar : BitVec 2
  sx : BitVec 5
  sy : BitVec 5
  sz : BitVec 5
  pat : BitVec 1
  rg : BitVec 3
  fmt : BitVec 4
  deriving DecidableEq, Repr

/-- MCOND (R204). -/
structure MCo where
  ar : BitVec 2
  sx : BitVec 5
  sy : BitVec 5
  fmt : BitVec 4
  deriving DecidableEq, Repr

/-- MCHAIN, source role (R204). -/
structure MCh where
  ar : BitVec 2
  sx : BitVec 5
  sy : BitVec 5
  sz : BitVec 5
  rg : BitVec 3
  fmt : BitVec 4
  deriving DecidableEq, Repr

/-- Scalar registers in sx, sy and sz (R55). -/
structure R3 where
  ar : BitVec 2
  sx : BitVec 5
  sy : BitVec 5
  sz : BitVec 5
  deriving DecidableEq, Repr

/-- MDRAIN (R204). -/
structure MDr where
  ar : BitVec 2
  sx : BitVec 5
  sy : BitVec 5
  sz : BitVec 5
  q : BitVec 1
  log : BitVec 1
  lux : BitVec 1
  clr : BitVec 1
  fmt : BitVec 4
  deriving DecidableEq, Repr

/-- MCHK (R204). -/
structure MCk where
  ar : BitVec 2
  sx : BitVec 5
  sy : BitVec 5
  col : BitVec 1
  deriving DecidableEq, Repr

/-- L-slot layout of LDV (R56, R118, R323). -/
structure LLd where
  ar : BitVec 2
  sx : BitVec 5
  sy : BitVec 5
  cl : BitVec 1
  q : BitVec 4
  ma : BitVec 1
  view : BitVec 1
  deriving DecidableEq, Repr

/-- L-slot layout of STV (R56, R118, R323). -/
structure LSt where
  ar : BitVec 2
  sx : BitVec 5
  sy : BitVec 5
  cl : BitVec 1
  q : BitVec 4
  pk : BitVec 1
  ma : BitVec 1
  view : BitVec 1
  deriving DecidableEq, Repr

/-- L-slot layout of LDS (R56, R118, R323). -/
structure LEl where
  ar : BitVec 2
  sx : BitVec 5
  sy : BitVec 5
  ma : BitVec 1
  view : BitVec 1
  sgn : BitVec 1
  size : BitVec 2
  deriving DecidableEq, Repr

/-- L-slot layout of STS (R56, R118, R323). -/
structure LEs where
  ar : BitVec 2
  sx : BitVec 5
  sy : BitVec 5
  ma : BitVec 1
  view : BitVec 1
  size : BitVec 2
  deriving DecidableEq, Repr

/-- L-slot layout of LDX (R56, R118, R323). -/
structure LXl where
  ar : BitVec 2
  sx : BitVec 5
  sy : BitVec 5
  cl : BitVec 1
  q : BitVec 4
  ma : BitVec 1
  xp : BitVec 2
  fmt : BitVec 4
  deriving DecidableEq, Repr

/-- L-slot layout of STX (R56, R118, R323). -/
structure LXs where
  ar : BitVec 2
  sx : BitVec 5
  sy : BitVec 5
  cl : BitVec 1
  q : BitVec 4
  pk : BitVec 1
  ma : BitVec 1
  xp : BitVec 2
  fmt : BitVec 4
  deriving DecidableEq, Repr

/-- L-slot layout of LDF (R56, R118, R323). -/
structure LFl where
  ar : BitVec 2
  sx : BitVec 5
  cl : BitVec 1
  q : BitVec 4
  dist : BitVec 12
  deriving DecidableEq, Repr

/-- L-slot layout of STF (R56, R118, R323). -/
structure LFs where
  ar : BitVec 2
  sx : BitVec 5
  cl : BitVec 1
  q : BitVec 4
  pk : BitVec 1
  deriving DecidableEq, Repr

/-- No operand but AR. -/
structure R0 where
  ar : BitVec 2
  deriving DecidableEq, Repr

/-- L-slot layout of SFENCE (R56, R118, R323). -/
structure LSf where
  ar : BitVec 2
  scope : BitVec 3
  deriving DecidableEq, Repr

/-- L-slot layout of VJOIN (R56, R118, R323). -/
structure LVj where
  ar : BitVec 2
  sx : BitVec 5
  sy : BitVec 5
  dir : BitVec 2
  deriving DecidableEq, Repr

/-- L-slot layout of RSET (R56, R118, R323). -/
structure LRs where
  ar : BitVec 2
  sx : BitVec 5
  sy : BitVec 5
  rg : BitVec 3
  deriving DecidableEq, Repr

/-- L-slot layout of RPUSH (R56, R118, R323). -/
structure LRp where
  ar : BitVec 2
  n : BitVec 3
  rg : BitVec 3
  deriving DecidableEq, Repr

/-- X-slot layout of XCOPY (R55, R333). -/
structure XCp where
  ar : BitVec 2
  sx : BitVec 5
  sy : BitVec 5
  sz : BitVec 5
  ch : BitVec 3
  pb : BitVec 1
  emit : BitVec 1
  quiet : BitVec 1
  deriving DecidableEq, Repr

/-- X-slot layout of XCOPYT, XPAIR, XGATH, XSCAT, XNEAR, XPOST, XCOLL, XMEDIA, XRECALL (R55, R333). -/
structure XBk where
  ar : BitVec 2
  sx : BitVec 5
  ch : BitVec 3
  pb : BitVec 1
  deriving DecidableEq, Repr

/-- X-slot layout of XFILL (R55, R333). -/
structure XFi where
  ar : BitVec 2
  sx : BitVec 5
  sy : BitVec 5
  sz : BitVec 5
  ch : BitVec 3
  pb : BitVec 1
  kind : BitVec 3
  deriving DecidableEq, Repr

/-- X-slot layout of XACC (R55, R333). -/
structure XAc where
  ar : BitVec 2
  sx : BitVec 5
  sy : BitVec 5
  sz : BitVec 5
  ch : BitVec 3
  pb : BitVec 1
  op : BitVec 4
  deriving DecidableEq, Repr

/-- X-slot layout of XCAS (R55, R333). -/
structure XCa where
  ar : BitVec 2
  sx : BitVec 5
  sy : BitVec 5
  sz : BitVec 5
  ch : BitVec 3
  pb : BitVec 1
  w64 : BitVec 1
  deriving DecidableEq, Repr

/-- X-slot layout of XSEND (R55, R333). -/
structure XSe where
  ar : BitVec 2
  sx : BitVec 5
  ch : BitVec 3
  pb : BitVec 1
  emit : BitVec 1
  deriving DecidableEq, Repr

/-- X-slot layout of XFENCE (R55, R333). -/
structure XFe where
  ar : BitVec 2
  sx : BitVec 5
  s : BitVec 1
  q : BitVec 1
  deriving DecidableEq, Repr

/-- X-slot layout of XTAKE (R55, R333). -/
structure XTk where
  ar : BitVec 2
  sx : BitVec 5
  sy : BitVec 5
  free : BitVec 1
  deriving DecidableEq, Repr

/-- X-slot layout of XSPILL (R55, R333). -/
structure XSp where
  ar : BitVec 2
  sx : BitVec 5
  sy : BitVec 5
  ch : BitVec 3
  pb : BitVec 1
  sel : BitVec 2
  deriving DecidableEq, Repr

/-- K-slot layout of QPOP (R55). -/
structure KQp where
  ar : BitVec 2
  sx : BitVec 5
  w : BitVec 1
  q : BitVec 1
  deriving DecidableEq, Repr

/-- K-slot layout of KBL (R55). -/
structure KBl where
  ar : BitVec 2
  sx : BitVec 5
  cl : BitVec 1
  fmt : BitVec 4
  deriving DecidableEq, Repr

/-- K-slot layout of KBL_W (R55). -/
structure KBw where
  ar : BitVec 2
  sx : BitVec 5
  cl : BitVec 1
  i : BitVec 5
  deriving DecidableEq, Repr

/-- K-slot layout of KXPAT (R55). -/
structure KXp where
  ar : BitVec 2
  sx : BitVec 5
  sy : BitVec 5
  xp : BitVec 2
  deriving DecidableEq, Repr

/-- K-slot layout of FLAGS_RD (R55). -/
structure KF1 where
  ar : BitVec 2
  sx : BitVec 5
  eng : BitVec 3
  deriving DecidableEq, Repr

/-- K-slot layout of FLAGS_CLR, FLAGS_EN (R55). -/
structure KF2 where
  ar : BitVec 2
  sx : BitVec 5
  sy : BitVec 5
  eng : BitVec 3
  deriving DecidableEq, Repr

/-- K-slot layout of KSCALE, KSCALEI (R55). -/
structure KSc where
  ar : BitVec 2
  sx : BitVec 5
  sy : BitVec 5
  ks : BitVec 3
  deriving DecidableEq, Repr

/-- K-slot layout of KRBIND (R55). -/
structure KRb where
  ar : BitVec 2
  sx : BitVec 5
  sy : BitVec 5
  unbind : BitVec 1
  cos : BitVec 1
  deriving DecidableEq, Repr

/-- K-slot layout of KREC (R55). -/
structure KRc where
  ar : BitVec 2
  sx : BitVec 5
  sy : BitVec 5
  sz : BitVec 5
  sealed : BitVec 1
  fld : BitVec 4
  deriving DecidableEq, Repr

/-- K-slot layout of KRCLR (R55). -/
structure KRr where
  ar : BitVec 2
  sx : BitVec 5
  sel : BitVec 2
  deriving DecidableEq, Repr

/-- One scalar register in sx (R55). -/
structure R1 where
  ar : BitVec 2
  sx : BitVec 5
  deriving DecidableEq, Repr

/-- K-slot layout of TTQ (R55). -/
structure KTq where
  ar : BitVec 2
  sx : BitVec 5
  sy : BitVec 5
  w1 : BitVec 1
  deriving DecidableEq, Repr

/-- K-slot layout of TTSET (R55). -/
structure KTs where
  ar : BitVec 2
  sx : BitVec 5
  sy : BitVec 5
  fmt : BitVec 4
  kind : BitVec 3
  deriving DecidableEq, Repr

/-- K-slot layout of JCBADD (R55). -/
structure KJa where
  ar : BitVec 2
  sx : BitVec 5
  sy : BitVec 5
  slot : BitVec 6
  deriving DecidableEq, Repr

/-- K-slot layout of JCBDONE (R55). -/
structure KJd where
  ar : BitVec 2
  sx : BitVec 5
  err : BitVec 1
  close : BitVec 1
  slot : BitVec 6
  deriving DecidableEq, Repr

/-- K-slot layout of JEMIT (R55). -/
structure KJe where
  ar : BitVec 2
  sx : BitVec 5
  sy : BitVec 5
  sz : BitVec 5
  n : BitVec 3
  deriving DecidableEq, Repr

/-- K-slot layout of JROUTE (R55). -/
structure KJr where
  ar : BitVec 2
  sx : BitVec 5
  sy : BitVec 5
  sz : BitVec 5
  gf : BitVec 1
  n : BitVec 3
  deriving DecidableEq, Repr

/-- K-slot layout of JRPL (R55). -/
structure KJp where
  ar : BitVec 2
  kind : BitVec 2
  cl : BitVec 1
  q : BitVec 4
  deriving DecidableEq, Repr

/-- The instructions of the spec's opcode table, one constructor per row. The slot words carry their operand
layout; the events carry the choices of the agent that takes them (which core, channel or queue, and the data an
outside agent supplies). DESIGN CHOICE: log entry 101. -/
inductive Instr where
  /-- NOP (R44). No operation; in slot 0 the G bit may end the group. -/
  | nop (f : CN)
  /-- JMP (R85). Jumps unconditionally to a bundle of the executing segment at a relative offset. -/
  | jmp (f : CJ)
  /-- BR (R86). Branches when a scalar register meets the EQZ, NEZ, LTZ or GEZ condition. -/
  | br (f : CBr)
  /-- BRP (R87). Branches on a uniform predicate, and traps NONUNIFORM_BRANCH when the predicate is mixed. -/
  | brp (f : CBrp)
  /-- JMPI (R88). Jumps to the bundle index held in a scalar register. -/
  | jmpi (f : CS)
  /-- CALL (R85). Pushes a return entry and jumps to a relative offset. -/
  | call (f : CJ)
  /-- CALLI (R88). Pushes a return entry and jumps to the bundle index held in a register. -/
  | calli (f : CS)
  /-- RET (R89). Pops a return entry and resumes at the segment and bundle it records. -/
  | ret (f : CN)
  /-- LOOP (R91). Opens a hardware loop level whose count is taken from a scalar register. -/
  | loop (f : CLp)
  /-- LOOPI (R91). Opens a hardware loop level with an immediate count. -/
  | loopi (f : CLpi)
  /-- BRKL (R94). Leaves the innermost k loop levels and runs end processing for the levels that remain. -/
  | brkl (f : CK)
  /-- SEGJ (R90). Enters the segment whose index is imm16 plus a register, at its bundle 0. -/
  | segj (f : CSeg)
  /-- SAFE (R373). Marks a safe point for pre-emption. -/
  | safe (f : CN)
  /-- TRAP (R98). Retires its group and then traps with SOFTWARE_TRAP, carrying a code. -/
  | trap (f : CCode)
  /-- ERET (R99). Leaves the trap handler, resumes at epc and lands the captured results. -/
  | eret (f : CN)
  /-- BRKPT (R98). Retires its group and then traps with BREAKPOINT, running no end processing. -/
  | brkpt (f : CCode)
  /-- HALT (R100). Ends the task after its group; its queues and stacks are discarded. -/
  | halt (f : CN)
  /-- WAITB (R231). Waits until the barrier phase reaches the task's issued arrival count. -/
  | waitb (f : CBar)
  /-- ARRIVE (R231). Arrives on a numbered barrier without waiting. -/
  | arrive (f : CBar)
  /-- ARWAIT (R231). Arrives on a numbered barrier and then waits on it, as one instruction. -/
  | arwait (f : CBar)
  /-- SSTEP (R232). Ends the task's compute phase at a level and waits for the communication phase. -/
  | sstep (f : CLvl)
  /-- ECLIPSE (R228). Waits for a drain point and swaps planes there when the other plane is ready. -/
  | eclipse (f : CN)
  /-- YIELD (R228). Acts as ECLIPSE and also takes the task out of the ready set. -/
  | yield (f : CN)
  /-- WAITJ (R237). Waits until a job control block is complete. -/
  | waitj (f : CS)
  /-- MFSR (R102). Reads a system register into a scalar register. -/
  | mfsr (f : CMf)
  /-- MTSR (R102). Writes a scalar register into a writable system register. -/
  | mtsr (f : CMt)
  /-- ADD (R105). Sets sd to sa plus sb, modulo 2^64. -/
  | add (f : SR)
  /-- SUB (R105). Sets sd to sa minus sb. -/
  | sub (f : SR)
  /-- AND (R105). Sets sd to the bitwise AND of sa and sb. -/
  | and (f : SR)
  /-- OR (R105). Sets sd to the bitwise OR of sa and sb. -/
  | or (f : SR)
  /-- XOR (R105). Sets sd to the bitwise XOR of sa and sb. -/
  | xor (f : SR)
  /-- ANDN (R105). Sets sd to sa AND NOT sb. -/
  | andn (f : SR)
  /-- SHL (R105). Shifts sa left by sb[5:0]. -/
  | shl (f : SR)
  /-- SHR (R105). Shifts sa right logically by sb[5:0]. -/
  | shr (f : SR)
  /-- SRA (R105). Shifts sa right arithmetically by sb[5:0]. -/
  | sra (f : SR)
  /-- MUL (R105). Sets sd to the low 64 bits of the product, with a latency of 3. -/
  | mul (f : SR)
  /-- MULH (R105). Sets sd to the high 64 bits of the signed product. -/
  | mulh (f : SR)
  /-- MULHU (R105). Sets sd to the high 64 bits of the unsigned product. -/
  | mulhu (f : SR)
  /-- MIN (R105). Sets sd to the signed minimum. -/
  | min (f : SR)
  /-- MAX (R105). Sets sd to the signed maximum. -/
  | max (f : SR)
  /-- MINU (R105). Sets sd to the unsigned minimum. -/
  | minu (f : SR)
  /-- MAXU (R105). Sets sd to the unsigned maximum. -/
  | maxu (f : SR)
  /-- SEQ (R105). Sets sd to 1 when sa equals sb, else 0. -/
  | seq (f : SR)
  /-- SNE (R105). Sets sd to 1 when sa differs from sb, else 0. -/
  | sne (f : SR)
  /-- SLT (R105). Sets sd to 1 when sa is below sb, signed. -/
  | slt (f : SR)
  /-- SLTU (R105). Sets sd to 1 when sa is below sb, unsigned. -/
  | sltu (f : SR)
  /-- SLE (R105). Sets sd to 1 when sa is at most sb, signed. -/
  | sle (f : SR)
  /-- SLEU (R105). Sets sd to 1 when sa is at most sb, unsigned. -/
  | sleu (f : SR)
  /-- SEL (R106). Sets sd to sa when sc is nonzero, else to sb. -/
  | sel (f : SSel)
  /-- MOV (R106). Copies sa to sd. -/
  | mov (f : SOne)
  /-- ABS (R106). Sets sd to the absolute value of sa. -/
  | abs (f : SOne)
  /-- NEG (R106). Sets sd to 0 minus sa. -/
  | neg (f : SOne)
  /-- CLZ (R106). Counts the leading zero bits of sa. -/
  | clz (f : SOne)
  /-- CTZ (R106). Counts the trailing zero bits of sa. -/
  | ctz (f : SOne)
  /-- POPC (R106). Counts the set bits of sa. -/
  | popc (f : SOne)
  /-- BFX (R107). Extracts a zero-extended bit field from sa. -/
  | bfx (f : SFld)
  /-- BFI (R107). Inserts the low bits of sa into a field of sd. -/
  | bfi (f : SFld)
  /-- ADDI (R108). Adds a sign-extended immediate to sa. -/
  | addi (f : SImm)
  /-- ANDI (R108). ANDs sa with a sign-extended immediate. -/
  | andi (f : SImm)
  /-- ORI (R108). ORs sa with a sign-extended immediate. -/
  | ori (f : SImm)
  /-- XORI (R108). XORs sa with a sign-extended immediate. -/
  | xori (f : SImm)
  /-- SHLI (R108). Shifts sa left by an immediate amount. -/
  | shli (f : SSh)
  /-- SHRI (R108). Shifts sa right logically by an immediate amount. -/
  | shri (f : SSh)
  /-- SRAI (R108). Shifts sa right arithmetically by an immediate amount. -/
  | srai (f : SSh)
  /-- MULI (R108). Sets sd to the low 64 bits of sa times an immediate. -/
  | muli (f : SImm)
  /-- LI (R109). Loads a sign-extended 18-bit immediate into sd. -/
  | li (f : SLi)
  /-- LIH (R109). Replaces bits [31:16] of sd with imm16. -/
  | lih (f : SIns)
  /-- LIX (R109). Replaces bits [47:32] of sd with imm16. -/
  | lix (f : SIns)
  /-- LIT (R109). Replaces bits [63:48] of sd with imm16. -/
  | lit (f : SIns)
  /-- MFLI (R110). Reads the index of a live loop level. -/
  | mfli (f : SLv)
  /-- MFLC (R110). Reads the remaining count of a live loop level. -/
  | mflc (f : SLv)
  /-- SLTI (R108). Sets sd to 1 when sa is below the immediate, signed. -/
  | slti (f : SImm)
  /-- SEQI (R108). Sets sd to 1 when sa equals the immediate. -/
  | seqi (f : SImm)
  /-- VADD (R164). Adds integer elements, wrapping. -/
  | vadd (f : V3)
  /-- VSUB (R164). Subtracts integer elements, wrapping. -/
  | vsub (f : V3)
  /-- VADDS (R164). Adds integer elements with saturation. -/
  | vadds (f : V3)
  /-- VSUBS (R164). Subtracts integer elements with saturation. -/
  | vsubs (f : V3)
  /-- VMUL (R164). Multiplies integer elements, keeping the low bits. -/
  | vmul (f : V3)
  /-- VMULH (R164). Gives the high half of each integer product. -/
  | vmulh (f : V3)
  /-- VMAD (R164). Adds a times b to the addend popped from qd, wrapping. -/
  | vmad (f : V3)
  /-- VAND (R164). Takes the bitwise AND of elements. -/
  | vand (f : V3)
  /-- VOR (R164). Takes the bitwise OR of elements. -/
  | vor (f : V3)
  /-- VXOR (R164). Takes the bitwise XOR of elements. -/
  | vxor (f : V3)
  /-- VANDN (R164). Takes a AND NOT b for each element. -/
  | vandn (f : V3)
  /-- VSHL (R164). Shifts elements left. -/
  | vshl (f : V3)
  /-- VSHR (R164). Shifts elements right logically. -/
  | vshr (f : V3)
  /-- VSRA (R164). Shifts elements right arithmetically. -/
  | vsra (f : V3)
  /-- VMIN (R164). Takes the smaller of each pair of integer elements. -/
  | vmin (f : V3)
  /-- VMAX (R164). Takes the larger of each pair of integer elements. -/
  | vmax (f : V3)
  /-- VABS (R164). Takes the absolute value of signed integer elements. -/
  | vabs (f : V2)
  /-- VNEG (R164). Negates signed integer elements. -/
  | vneg (f : V2)
  /-- VCMP (R164). Compares integer elements into a predicate. -/
  | vcmp (f : VCm)
  /-- VFADD (R165). Adds float elements with one rounding. -/
  | vfadd (f : V3)
  /-- VFSUB (R165). Subtracts float elements with one rounding. -/
  | vfsub (f : V3)
  /-- VFMUL (R165). Multiplies float elements with one rounding. -/
  | vfmul (f : V3)
  /-- VFMA (R165). Fused multiply-add onto the addend popped from qd. -/
  | vfma (f : V3)
  /-- VFMIN (R166). Takes fmin of float elements. -/
  | vfmin (f : V3)
  /-- VFMAX (R166). Takes fmax of float elements. -/
  | vfmax (f : V3)
  /-- VFABS (R166). Clears the sign of float elements. -/
  | vfabs (f : V2)
  /-- VFNEG (R166). Inverts the sign of float elements. -/
  | vfneg (f : V2)
  /-- VFCMP (R167). Compares float elements into a predicate. -/
  | vfcmp (f : VCm)
  /-- VFRND (R166). Rounds float elements to integral values, ties to even. -/
  | vfrnd (f : V2)
  /-- VRCP (R168). Computes reciprocals within 1 ulp; VB only. -/
  | vrcp (f : V2)
  /-- VRSQ (R168). Computes reciprocal square roots; VB only. -/
  | vrsq (f : V2)
  /-- VEXP2 (R168). Computes 2^x; VB only. -/
  | vexp2 (f : V2)
  /-- VLOG2 (R168). Computes log2 x; VB only. -/
  | vlog2 (f : V2)
  /-- VTANH (R168). Computes tanh x; VB only. -/
  | vtanh (f : V2)
  /-- VSIGM (R168). Computes the logistic sigmoid; VB only. -/
  | vsigm (f : V2)
  /-- VRNG (R169). Generates Philox4x32-10 output from the key and counter in blb. -/
  | vrng (f : VRn)
  /-- VCVT (R171). Converts elements between formats with cvt. -/
  | vcvt (f : VCv)
  /-- VQNT (R172). Quantises float elements through a scale register, with an optional rescale check. -/
  | vqnt (f : VQn)
  /-- VDQNT (R172). Dequantises elements through a scale register. -/
  | vdqnt (f : VDq)
  /-- PAND (R162). ANDs two predicates. -/
  | pand (f : PP3)
  /-- POR (R162). ORs two predicates. -/
  | por (f : PP3)
  /-- PXOR (R162). XORs two predicates. -/
  | pxor (f : PP3)
  /-- PNOT (R162). Inverts a predicate. -/
  | pnot (f : PP2)
  /-- PMOV (R162). Copies a predicate. -/
  | pmov (f : PP2)
  /-- PSETN (R163). Sets the first n elements of a predicate. -/
  | psetn (f : PSn)
  /-- VSEL (R173). Takes va where active and vb elsewhere. -/
  | vsel (f : V3)
  /-- VPERM (R173). Permutes va by the indices in vb. -/
  | vperm (f : V3)
  /-- VROT (R176). Returns 256 bytes of va joined with vb, starting at the byte named in the latch. -/
  | vrot (f : VRt)
  /-- VSHFL (R173). Shuffles elements by XOR with a latch value. -/
  | vshfl (f : V2)
  /-- VBCST (R173). Broadcasts one element of va, selected by b[0]. -/
  | vbcst (f : V3)
  /-- VMOV (R173). Copies an operand, keeping its tag when unpredicated. -/
  | vmov (f : V2)
  /-- VRADD (R177). Sums integer elements through the tree reduction into lane 0. -/
  | vradd (f : V2)
  /-- VRMAX (R177). Reduces integer elements to their maximum. -/
  | vrmax (f : V2)
  /-- VRMIN (R177). Reduces integer elements to their minimum. -/
  | vrmin (f : V2)
  /-- VRFADD (R177). Sums float elements through the fixed tree. -/
  | vrfadd (f : V2)
  /-- VRFMAX (R177). Reduces float elements by fmax. -/
  | vrfmax (f : V2)
  /-- VBAND (R178). ANDs two bitmaps. -/
  | vband (f : VBn)
  /-- VPOPC (R178). Counts the set bits of each element. -/
  | vpopc (f : V2)
  /-- VPFX (R178). Computes the exclusive prefix sum of elements plus a base. -/
  | vpfx (f : V3)
  /-- VISECT (R179). Extracts bits, or compresses elements, under a selector bitmap. -/
  | visect (f : VIs)
  /-- VCSW (R180). Keeps the better of two (value, index) pairs. -/
  | vcsw (f : V3)
  /-- VCSWX (R180). Keeps the worse of two (value, index) pairs. -/
  | vcswx (f : V3)
  /-- MALLOC (R205). Allocates the lowest run of n free accumulator banks and zeroes them at start. -/
  | malloc (f : MBk)
  /-- MFREE (R206). Releases accumulator banks and the band entries that touch them. -/
  | mfree (f : MBk)
  /-- MBAND (R207). Creates, reassigns or releases a band of accumulator rows. -/
  | mband (f : MBd)
  /-- MZERO (R208). Zeroes accumulator rows and clears their checksum state. -/
  | mzero (f : R2)
  /-- MLDW (R209). Loads a stationary buffer from the tile claimed on a ring. -/
  | mldw (f : MLd)
  /-- MMUL (R210). Streams A rows through the stationary buffer and accumulates into accumulator rows. -/
  | mmul (f : MMu)
  /-- MMULG (R211). Multiplies gathered A rows selected by indices taken from a queue. -/
  | mmulg (f : MMg)
  /-- MMULS (R212). Multiplies by an N:M structured-sparse stationary, checking the metadata. -/
  | mmuls (f : MMs)
  /-- MMULB (R213). Multiplies using a bitmap of present A elements. -/
  | mmulb (f : MMu)
  /-- MMULC (R214). Multiplies in codebook form into pairs of accumulator rows. -/
  | mmulc (f : MMu)
  /-- MCOND (R215). Condenses two sparse operands into dense tiles and returns the kept count. -/
  | mcond (f : MCo)
  /-- MCHAIN (R216). Source of a chain that streams A eastward across cores of a cluster. -/
  | mchain (f : MCh)
  /-- MCHAIN_RECV (R216). Receiver of a chain that multiplies the streamed rows by its own buffer. -/
  | mchainRecv (f : R3)
  /-- MDRAIN (R217). Drains accumulator rows into mq, with optional conversion, clearing, Lux merge and quantising. -/
  | mdrain (f : MDr)
  /-- MCHK (R218). Reads and clears the checksum status word, optionally after a column check of a bank. -/
  | mchk (f : MCk)
  /-- LDV (R119). Loads one scratchpad row into a queue, with latency 6. -/
  | ldv (f : LLd)
  /-- STV (R119). Stores a queue entry as one scratchpad row and updates the sums by delta. -/
  | stv (f : LSt)
  /-- LDS (R120). Loads one scratchpad element into a scalar register. -/
  | lds (f : LEl)
  /-- STS (R120). Stores one scalar element into a scratchpad row. -/
  | sts (f : LEs)
  /-- LDX (R123). Unpacks bit fields into lanes through a pattern register. -/
  | ldx (f : LXl)
  /-- STX (R124). Packs lanes into bit fields through a pattern register. -/
  | stx (f : LXs)
  /-- LDF (R125). Far-loads 256 bytes that land exactly dist bundles after issue. -/
  | ldf (f : LFl)
  /-- STF (R125). Far-stores 256 bytes through the store queue. -/
  | stf (f : LFs)
  /-- MARK (R323). Enters a mark into LQ and SQ that orders far loads against far stores. -/
  | mark (f : R0)
  /-- SFENCE (R323). Enters the SQ and leaves only once the earlier stores are visible at a scope. -/
  | sfence (f : LSf)
  /-- VJOIN (R323). Makes the writes of one view seen by the other view for a range of rows. -/
  | vjoin (f : LVj)
  /-- RSET (R128). Sets the base and size of an operand ring and empties it. -/
  | rset (f : LRs)
  /-- RPUSH (R129). Publishes the next n tiles of an operand ring. -/
  | rpush (f : LRp)
  /-- XCOPY (R340). Copies bytes between operands in 64 KiB pieces. -/
  | xcopy (f : XCp)
  /-- XCOPYT (R341). Shaped two-dimensional copy, with transpose or sparse expansion. -/
  | xcopyt (f : XBk)
  /-- XPAIR (R343). Writes a plain tile and its transposed partner with a new pair generation. -/
  | xpair (f : XBk)
  /-- XFILL (R290). Writes one symbol into a run of tiles as a copy command. -/
  | xfill (f : XFi)
  /-- XGATH (R345). Gathers rows by index. -/
  | xgath (f : XBk)
  /-- XSCAT (R345). Scatters rows by index. -/
  | xscat (f : XBk)
  /-- XACC (R346). Applies an atomic read-modify-write at the memory port. -/
  | xacc (f : XAc)
  /-- XCAS (R347). Atomic compare-and-swap at the memory port. -/
  | xcas (f : XCa)
  /-- XNEAR (R348). Sends a near command to a stack's near-memory engine. -/
  | xnear (f : XBk)
  /-- XSEND (R351). Sends a fabric message into a buffer posted at the destination. -/
  | xsend (f : XSe)
  /-- XPOST (R350). Posts a receive buffer for a match tag. -/
  | xpost (f : XBk)
  /-- XCOLL (R352). Performs an all-reduce, reduce-scatter or all-gather among domain members. -/
  | xcoll (f : XBk)
  /-- XFENCE (R325). Orders the held channels after the earlier channels, with optional store and SQ forms. -/
  | xfence (f : XFe)
  /-- XHAND (R263). Offers an owned tile slot to another task of the launch and returns a handle. -/
  | xhand (f : R3)
  /-- XTAKE (R264). Claims a slot by handle or as a free slot; the result lands after 96 bundles. -/
  | xtake (f : XTk)
  /-- XMEDIA (R354). Decodes a compressed bitstream on a die decoder. -/
  | xmedia (f : XBk)
  /-- XSPILL (R357). Forces a tensor offload to a neighbour or the host, or drops it. -/
  | xspill (f : XSp)
  /-- XRECALL (R357). Brings an offloaded tensor back into frames of its home pool. -/
  | xrecall (f : XBk)
  /-- QPOP (R338). Pops xq or mq into a scalar register, optionally waiting on xq. -/
  | qpop (f : KQp)
  /-- KBL (R160). Fills every element of a broadcast latch from a scalar register. -/
  | kbl (f : KBl)
  /-- KBL_W (R160). Writes one 8-byte word of a broadcast latch. -/
  | kblW (f : KBw)
  /-- KXPAT (R122). Loads a bit-field pattern register. -/
  | kxpat (f : KXp)
  /-- FLAGS_RD (R144). Reads an engine's flag word. -/
  | flagsRd (f : KF1)
  /-- FLAGS_CLR (R144). Reads an engine's flag word and clears selected sticky bits. -/
  | flagsClr (f : KF2)
  /-- FLAGS_EN (R144). Reads an engine's flag word and sets its trap enables. -/
  | flagsEn (f : KF2)
  /-- KSCALE (R309). Derives a scale register from a sealed Lux record. -/
  | kscale (f : KSc)
  /-- KSCALEI (R309). Loads a scale register directly from raw FP32 bits. -/
  | kscalei (f : KSc)
  /-- KRBIND (R312). Binds or unbinds a tensor or slot to a Lux record. -/
  | krbind (f : KRb)
  /-- KREC (R313). Reads one field of a Lux record section; it lands after 96 bundles. -/
  | krec (f : KRc)
  /-- KRCLR (R314). Clears the live section, the sealed section or both of a Lux record. -/
  | krclr (f : KRr)
  /-- KSEAL (R314). Seals one Lux record with tag level 0. -/
  | kseal (f : R1)
  /-- CKSUM (R302). Runs the whole-tile sum check and returns the outcome. -/
  | cksum (f : R2)
  /-- TTQ (R286). Reads word 0 or word 1 of a tile entry. -/
  | ttq (f : KTq)
  /-- TTSET (R287). Writes one symbol into one tile entry. -/
  | ttset (f : KTs)
  /-- TTSETTLE (R288). Settles a run of consecutive tiles and counts the kind changes. -/
  | ttsettle (f : R3)
  /-- TTPROMO (R289). Promotes a symbolic tile to STORED with no write. -/
  | ttpromo (f : R2)
  /-- JCBADD (R236). Raises a job control block's expected count while its slot is open. -/
  | jcbadd (f : KJa)
  /-- JCBDONE (R236). Posts a completion to a job control block, optionally with an error or a slot close. -/
  | jcbdone (f : KJd)
  /-- JCBQ (R236). Reads a job control block's summary; it lands after 96 bundles. -/
  | jcbq (f : R2)
  /-- JEMIT (R402). Appends a TOKEN entry to the launch's journal stream. -/
  | jemit (f : KJe)
  /-- JEMIT_MARK (R402). Appends a MARKER entry to the journal stream. -/
  | jemitMark (f : R3)
  /-- JROUTE (R402). Appends a ROUTE entry of expert routings and gate codes. -/
  | jroute (f : KJr)
  /-- JGEN (R402). Appends a GEN entry with the generator counter before and after the step. -/
  | jgen (f : R3)
  /-- JRPL (R409). Pushes the journal entry at the replay cursor into a queue after 96 bundles. -/
  | jrpl (f : KJp)
  /-- JTRUNC (R411). Raises the stream's truncation step. -/
  | jtrunc (f : R1)
  /-- CTAG (R358). Writes a descriptor's recompute cost and next-use fields. -/
  | ctag (f : R3)
  /-- RESQ (R358). Reads a descriptor's residency field. -/
  | resq (f : R2)
  /-- DEFERRED_TRAP (R366). Raises a deferred-precise cause at the group boundary where its reporting count falls. -/
  | deferredTrap
  /-- RESULT_LANDING (R15). A fixed-latency result lands in its register, predicate or queue at its bundle count. -/
  | resultLanding
  /-- FAR_DATA_ARRIVAL (R18). Far data arrives and waits in the landing buffer, or ends a late-landing freeze. -/
  | farDataArrival (c p rid : Nat)
  /-- TIMED_LANDING (R18). At count n+d the landing-buffer entry is pushed, or the core freezes until the data arrives. -/
  | timedLanding
  /-- SEGMENT_FETCH_DONE (R37). The fetcher finishes expanding a segment into the loop buffer. -/
  | segmentFetchDone (c p : Nat)
  /-- EMPTY_BUNDLE (R226). A waiting task issues a counted empty bundle while its condition is false. -/
  | emptyBundle
  /-- ECLIPSE_SWAP (R227). At a drain point the core swaps to the other ready plane in 4 cycles. -/
  | eclipseSwap
  /-- PUSH_WINDOW_WRITE (R253). A 256-byte window write requests a push into a vector queue of a plane. -/
  | pushWindowWrite (c off lid : Nat) (d : BitVec 2048)
  /-- PUSH_WINDOW_ADMIT (R31). A held window push is admitted once the queue has a free entry. -/
  | pushWindowAdmit (c : Nat)
  /-- M_INSTRUCTION_START (R189). An M-slot instruction starts once its resource and operands are free and ready. -/
  | mInstructionStart
  /-- M_INSTRUCTION_RETIRE (R189). An M-slot instruction retires, pops its ring tiles, arrives and raises deferred causes. -/
  | mInstructionRetire
  /-- DRAIN_VECTOR_PUSH (R217). One drained vector lands in mq at its fixed count. -/
  | drainVectorPush
  /-- CHAIN_FORM (R216). An MCHAIN chain forms once the source and every receiver have issued. -/
  | chainForm (c : Nat)
  /-- ACC_WINDOW_WRITE (R199). A window write to an accumulator row is applied once the row's writer retires. -/
  | accWindowWrite (c row : Nat) (d : BitVec 8192)
  /-- ST_WRITE (R389). A write of a queue's submit tail makes new launch records available. -/
  | stWrite (q : Nat) (v : BitVec 64)
  /-- HC_WRITE (R389). A write of host-consumed frees completion-ring entries. -/
  | hcWrite (q : Nat) (v : BitVec 64)
  /-- LAUNCH_RECORD_READ (R239). The dispatcher reads and checks a queue's head launch record. -/
  | launchRecordRead (q : Nat)
  /-- LAUNCH_PLACE (R244). The dispatcher chooses an eligible launch, picks its variant, places it and loads its planes. -/
  | launchPlace
  /-- AGING_TICK (R241). An eligible head spends a full aging limit and its effective priority rises. -/
  | agingTick (q : Nat)
  /-- TASK_SAVE (R375). At a safe point a pre-empted task drains and writes its image to the save area. -/
  | taskSave (c p : Nat)
  /-- LAUNCH_RESTORE (R378). A saved launch is reloaded once its cores, banks and slots are free. -/
  | launchRestore (lid : Nat)
  /-- LAUNCH_COMPLETE (R245). Once all tasks and commands are done, the launch posts its block, writes its record and advances CH. -/
  | launchComplete (lid : Nat)
  /-- FAULT_ACK (R245). System software acknowledges a held completion and it is written again. -/
  | faultAck (q : Nat)
  /-- DEPENDENCE_WATCHDOG (R247). A head's dependences stay incomplete past the limit, and it completes with status 3. -/
  | dependenceWatchdog (q : Nat)
  /-- RUN_WATCHDOG (R380). A placed launch exceeds its run limit, and its tasks end with status 4. -/
  | runWatchdog (lid : Nat)
  /-- DISPATCHER_FAILOVER (R239). The standby dispatcher on die 1 takes over from the failed die-0 dispatcher. -/
  | dispatcherFailover
  /-- ARRIVAL_DELIVER (R230). An arrival is delivered at its retire point once its effects are visible at scope. -/
  | arrivalDeliver (i : Nat)
  /-- COMMUNICATION_PHASE (R232). When all members issue SSTEP, copies complete, merges apply, tiles settle, records seal and the count rises. -/
  | communicationPhase (lid level inst : Nat)
  /-- JCB_APPLY (R235). A job control block update is applied atomically at its home and completion is evaluated. -/
  | jcbApply (i : Nat)
  /-- TRANSLATION_WALK (R256). A three-level walk completes, sets A and D, or fails with a cause. -/
  | translationWalk (die sp va : Nat) (write fetch : Bool)
  /-- TRANSLATION_INVALIDATE (R257). A management invalidation removes old translations of a range. -/
  | translationInvalidate (sp lo hi : Nat)
  /-- CHANNEL_REPLAY (R259). System software replays a held command from its first unplaced piece. -/
  | channelReplay (c ch : Nat)
  /-- CHANNEL_ABORT (R259). System software aborts a held command; the failed record becomes final. -/
  | channelAbort (c ch : Nat)
  /-- OFFER_TAKEABLE (R263). An XHAND offer becomes takeable once the earlier accesses to the slot have completed. -/
  | offerTakeable (c slot : Nat)
  /-- XTAKE_APPLY (R264). An XTAKE request is applied at the slot's core and its result is fixed. -/
  | xtakeApply (i : Nat)
  /-- FRAME_RETURN (R280). A released frame returns to its pool once every access that sampled it has completed. -/
  | frameReturn (i : Nat)
  /-- OFFLOAD_DONE (R356). An offload or drop of a tensor completes and its tiles become UNMAPPED. -/
  | offloadDone (i : Nat)
  /-- TILE_CHECK_RETRY (R296). A mismatch found during a write is checked again once that write completes. -/
  | tileCheckRetry (sp : Nat) (ref : BitVec 64)
  /-- LUX_MERGE_APPLY (R306). A partial record merge is applied atomically at the record's home and acknowledged. -/
  | luxMergeApply (i : Nat)
  /-- LQ_PERFORM (R321). The LQ head far load performs and reads the latest store it sees. -/
  | lqPerform (c p : Nat)
  /-- SQ_LEAVE (R321). The SQ head leaves: a store takes its coherence position, or a mark or fence entry departs. -/
  | sqLeave (c p : Nat)
  /-- SCOPE_PROPAGATE (R322). A far store visible at one level becomes visible at the next outer domain. -/
  | scopePropagate (i : Nat)
  /-- VIEW_SEEN_RAISE (R319). The machine raises a row's seen index for one view. -/
  | viewSeenRaise (c row view idx : Nat)
  /-- ENGINE_ACCESS_PERFORM (R320). An accepted engine access to a scratchpad bank performs at the port. -/
  | engineAccessPerform (c i : Nat)
  /-- COMMAND_START (R324). A channel command starts after its predecessor completes and its fences are met. -/
  | commandStart (c ch : Nat)
  /-- COMMAND_COMPLETE (R324). A command's writes are visible; it writes its xq entries, arrives and posts its block. -/
  | commandComplete (c ch : Nat)
  /-- ATOMIC_APPLY (R326). An XACC or XCAS is applied in one step at its location's memory port. -/
  | atomicApply (c ch : Nat)
  /-- FABRIC_MESSAGE_ARRIVE (R351). A message takes the oldest matching posted buffer at its destination. -/
  | fabricMessageArrive (src sp tag : Nat) (data : List (BitVec 8))
  /-- COLLECTIVE_MATCH (R352). Matching members of a collective fold their data in the fixed order. -/
  | collectiveMatch (lid level inst id : Nat)
  /-- VIEW_CACHE_FILL (R342). A miss in a configured view fills a transformed tile from its base. -/
  | viewCacheFill (die view tile : Nat)
  /-- HOST_ACCESS (R387). A host read or write of device memory, checked by the access tables. -/
  | hostAccess (write : Bool) (pa n : Nat) (data : List (BitVec 8))
  /-- MANAGEMENT_WRITE (R387). A write to a management register that has no row of its own. -/
  | managementWrite (off : Nat) (v : BitVec 64)
  /-- LINK_FLIT_RESEND (R381). A flit failing its CRC is resent by the link layer. -/
  | linkFlitResend
  /-- DEVICE_FAILED (R382). The die link cannot retrain within 1 ms, so the device stops and enters the failed state. -/
  | deviceFailed
  /-- DEVICE_RESET (R390). A reset raises the epoch and returns every queue block to reset. -/
  | deviceReset
  /-- SECURE_BOOT (R393). At power-up the ROM verifies and loads firmware stages 1 to 3. -/
  | secureBoot (k g : BitVec 3) (v1 v2 v3 : BitVec 32) (d1 d2 d3 : BitVec 256)
  /-- ATTEST_NONCE_WRITE (R394). A host writes a nonce to the attestation mailbox. -/
  | attestNonceWrite (n : BitVec 256)
  /-- ATTEST_REPORT_DONE (R394). The device writes a signed attestation report and sets done. -/
  | attestReportDone
  /-- AGEING_UPDATE (R395). Each powered hour the monitor records update and may raise AGEING. -/
  | ageingUpdate (i : Nat) (margin : BitVec 16) (remaining : BitVec 32)
  /-- POWER_STATE_REQUEST (R396). System software requests a power state, which is refused when it is not allowed. -/
  | powerStateRequest (st : BitVec 2)
  /-- IDLE_ENTRY (R396). With no launch placed for 100 µs, the device enters IDLE. -/
  | idleEntry
  /-- LOW_EXIT (R396). Leaving LOW re-verifies the firmware, raises the epoch and resets the state. -/
  | lowExit
  /-- CLOCK_STEP_DOWN (R397). Power over the limit for 1 ms, or a die at its thermal limit, lowers the clock by 100 MHz. -/
  | clockStepDown
  /-- CLOCK_STEP_UP (R397). Power 5 % below the limit for 10 ms raises the clock by 100 MHz. -/
  | clockStepUp
  /-- CRITICAL_TEMPERATURE (R397). A die staying above critical temperature at 1.0 GHz makes the device fail. -/
  | criticalTemperature
  /-- JOURNAL_APPEND_ASSIGN (R403). The journal controller numbers an append and writes it to the local buffer, or makes it wait. -/
  | journalAppendAssign
  /-- MIRROR_ENTRY_WRITE (R404). The mirror writes an arriving entry into its ring and acknowledges it once durable. -/
  | mirrorEntryWrite (src : Nat) (entry : BitVec 512)
  /-- MIRROR_ACK (R404). An acknowledgement raises ack, frees truncated entries and releases EMIT copies. -/
  | mirrorAck (stream seq : Nat)
  /-- MIRROR_LOST (R407). An unacknowledged entry past the timeout sets lost and raises MIRROR_LOST. -/
  | mirrorLost (stream : Nat)
  /-- JMIRROR_WRITE (R407). Naming a new mirror clears lost and re-sends the held entries above tstep. -/
  | jmirrorWrite (v : BitVec 64)
  /-- REPLAY_START (R408). Setting mode to replay copies the replay source into the local buffer. -/
  | replayStart (stream : Nat) (src : List (BitVec 512))
  /-- DIE_LINK_RETRAIN (R381). The die-to-die link loses training and starts retraining, which opens the 1 ms window whose expiry fails the device. -/
  | dieLinkRetrain (up : Bool)
  /-- FABRIC_PORT_FAILURE (R385). A fabric port fails, is left out of the sector hash, and a fully failed direction reroutes the other way round the ring. -/
  | fabricPortFailure (p : Nat)
  /-- FABRIC_PEER_REQUEST (R265). A read or write from a fabric peer arrives at a target of this device and is checked against its access table and performed. -/
  | fabricPeerRequest (write : Bool) (pa n sp : Nat) (data : List (BitVec 8))
  /-- RESIDENCY_RECALL_DONE (R356). A recall that the residency unit started by itself finishes, restores the tile entries and clears busy. -/
  | residencyRecallDone (i : Nat)
  deriving DecidableEq, Repr

/-- One entry of the machine's agenda: an event that some agent takes now, or the turn of a core to issue. -/
inductive Act where
  /-- The event `e` takes place now. -/
  | ev (e : Instr)
  /-- Core `c` is the next to issue a bundle. -/
  | turn (c : Nat)
  deriving DecidableEq, Repr

end Sys2Proof
end

