-- ==== Sys2Proof/Word.lean ====
section
/-!
DEFINITION. The word types: bytes, 64-bit scalars, 256-byte rows, bundles of eight slot words. Nothing here computes
anything the spec describes; the helpers that do stand in Machine/Bits.lean and Decode.lean.
-/

namespace Sys2Proof

/-- One byte. -/
abbrev Byte := BitVec 8
/-- A scalar register's word (R25). -/
abbrev Word := BitVec 64
/-- 256 bytes, byte 0 in bits [7:0]: a scratchpad row (R111) or the data of a queue entry (R27). -/
abbrev Row := BitVec 2048
/-- A 24-bit row sum or tag (R27, R291). -/
abbrev Sum24 := BitVec 24
/-- A predicate: one bit per byte lane (R161). -/
abbrev Pred := BitVec 256
/-- The eight slot words of a bundle (R9). -/
abbrev Bundle := Vector (BitVec 32) 8

end Sys2Proof
end

