-- ==== Sys2Proof/Decode.lean ====
section
/-!
DEFINITION. The decoder and the encoder of slot words (R43 to R62), total on any word and refusing by cause and
reason, and the compressed code segments of R63 to R65. The segment and bundle decoders take bytes; a slot word is
decoded together with the slot it stands in, because each slot has its own opcode map (R57 to R60).
-/

namespace Sys2Proof

/-- Why a slot word is refused: the cause code of R61 (1 ILLEGAL_OPCODE, 2 ILLEGAL_ENCODING), and the reason and
field of the detail word of R62. -/
structure DecErr where
  code : Nat
  reason : Nat
  field : Nat
  deriving DecidableEq, Repr

/-- Barriers per level (R47). -/
def barrierCount : Nat → Nat
  | 1 => 16
  | 2 => 32
  | 3 => 32
  | 4 => 8
  | _ => 0

/-- The system registers R101 lists. -/
abbrev sysListed (n : Nat) : Prop :=
  n ∈ [0x000, 0x001, 0x002, 0x008, 0x009, 0x00A, 0x00B, 0x00C, 0x00D, 0x010, 0x011, 0x018,
    0x020, 0x021, 0x022, 0x023, 0x024, 0x030]

/-- The system registers R101 lets MTSR write. -/
abbrev sysWritable (n : Nat) : Prop := n ∈ [0x002, 0x008, 0x009]

/-- INT of R164. -/
abbrev fInt (n : Nat) : Prop := n ≤ 5 ∨ n = 13 ∨ n = 14
/-- SINT of R164. -/
abbrev fSint (n : Nat) : Prop := n = 0 ∨ n = 2 ∨ n = 4 ∨ n = 13
/-- BIT of R164. -/
abbrev fBit (n : Nat) : Prop := fInt n ∨ n = 15
/-- FLT of R165. -/
abbrev fFlt (n : Nat) : Prop := n = 10 ∨ n = 11 ∨ n = 12
/-- The formats of VRNG (R169). -/
abbrev fRng (n : Nat) : Prop := n = 5 ∨ n = 12 ∨ n = 15
/-- The formats of VCVT (R171). -/
abbrev fCvt (n : Nat) : Prop := n ≤ 14
/-- ALL of R173. -/
abbrev fAll (n : Nat) : Prop := n ≤ 15
/-- W of R173. -/
abbrev fWid (n : Nat) : Prop := n ≤ 12
/-- Codes 0 to 5 (R163, R177, R178). -/
abbrev fW6 (n : Nat) : Prop := n ≤ 5
/-- The formats of VISECT (R179). -/
abbrev fIsect (n : Nat) : Prop := n ≤ 5 ∨ n = 15
/-- The formats of VCSW and VCSWX (R180). -/
abbrev fPair (n : Nat) : Prop := n = 2 ∨ n = 3 ∨ n = 10 ∨ n = 11
/-- The formats of the 8-bit and 16-bit forms of the matrix engine (R186). -/
abbrev fMat16 (n : Nat) : Prop := n = 0 ∨ n = 1 ∨ (6 ≤ n ∧ n ≤ 11)
/-- The formats of the 8-bit, 16-bit and 4-bit forms (R186, R209). -/
abbrev fMat (n : Nat) : Prop := fMat16 n ∨ n = 13 ∨ n = 14
/-- The codebook formats (R209). -/
abbrev fCb (n : Nat) : Prop := n = 9 ∨ n = 13 ∨ n = 14

/-- The first pair of a list whose test holds. -/
def firstErr : List (Bool × Nat × Nat) → Option DecErr
  | [] => none
  | (b, r, f) :: t => if b then some ⟨2, r, f⟩ else firstErr t

/-- The first field of an instruction that holds a value its layout rules out (R46 to R56, R204, R285, R311, R333):
none for a well-formed instruction. -/
def fieldErr : Instr → Option DecErr
  | .nop _ => none
  | .jmp _ => none
  | .br _ => none
  | .brp f => firstErr [(decide (f.pn = 0), 3, 20), (decide (f.w = 3), 3, 17)]
  | .jmpi _ => none
  | .call _ => none
  | .calli _ => none
  | .ret _ => none
  | .loop _ => none
  | .loopi _ => none
  | .brkl f => firstErr [(decide (6 ≤ f.k.toNat), 3, 0)]
  | .segj _ => none
  | .safe _ => none
  | .trap _ => none
  | .eret _ => none
  | .brkpt _ => none
  | .halt _ => none
  | .waitb f => firstErr [(decide (¬ (1 ≤ f.lvl.toNat ∧ f.lvl.toNat ≤ 4)), 3, 8), (decide (barrierCount f.lvl.toNat ≤ f.num.toNat), 3, 0)]
  | .arrive f => firstErr [(decide (¬ (1 ≤ f.lvl.toNat ∧ f.lvl.toNat ≤ 4)), 3, 8), (decide (barrierCount f.lvl.toNat ≤ f.num.toNat), 3, 0)]
  | .arwait f => firstErr [(decide (¬ (1 ≤ f.lvl.toNat ∧ f.lvl.toNat ≤ 4)), 3, 8), (decide (barrierCount f.lvl.toNat ≤ f.num.toNat), 3, 0)]
  | .sstep f => firstErr [(decide (¬ (1 ≤ f.lvl.toNat ∧ f.lvl.toNat ≤ 4)), 3, 0)]
  | .eclipse _ => none
  | .yield _ => none
  | .waitj _ => none
  | .mfsr f => firstErr [(decide (¬ sysListed f.reg.toNat), 3, 0)]
  | .mtsr f => firstErr [(decide (¬ sysWritable f.reg.toNat), 3, 0)]
  | .add _ => none
  | .sub _ => none
  | .and _ => none
  | .or _ => none
  | .xor _ => none
  | .andn _ => none
  | .shl _ => none
  | .shr _ => none
  | .sra _ => none
  | .mul _ => none
  | .mulh _ => none
  | .mulhu _ => none
  | .min _ => none
  | .max _ => none
  | .minu _ => none
  | .maxu _ => none
  | .seq _ => none
  | .sne _ => none
  | .slt _ => none
  | .sltu _ => none
  | .sle _ => none
  | .sleu _ => none
  | .sel _ => none
  | .mov _ => none
  | .abs _ => none
  | .neg _ => none
  | .clz _ => none
  | .ctz _ => none
  | .popc _ => none
  | .bfx f => firstErr [(decide (f.wid = 0 ∨ 64 < f.wid.toNat), 3, 0), (decide (64 < f.pos.toNat + f.wid.toNat), 3, 7)]
  | .bfi f => firstErr [(decide (f.wid = 0 ∨ 64 < f.wid.toNat), 3, 0), (decide (64 < f.pos.toNat + f.wid.toNat), 3, 7)]
  | .addi _ => none
  | .andi _ => none
  | .ori _ => none
  | .xori _ => none
  | .shli _ => none
  | .shri _ => none
  | .srai _ => none
  | .muli _ => none
  | .li _ => none
  | .lih _ => none
  | .lix _ => none
  | .lit _ => none
  | .mfli f => firstErr [(decide (5 < f.lvl.toNat), 3, 0)]
  | .mflc f => firstErr [(decide (5 < f.lvl.toNat), 3, 0)]
  | .slti _ => none
  | .seqi _ => none
  | .vadd f => firstErr [(decide (f.pred = 4), 3, 4), (decide (¬ fInt f.fmt.toNat), 10, 0), (decide (28 ≤ f.va.toNat), 3, 14), (decide (f.pa = 1 ∧ 25 ≤ f.va.toNat), 3, 8), (decide (28 ≤ f.vb.toNat), 3, 9), (decide (f.pb = 1 ∧ 25 ≤ f.vb.toNat), 3, 7)]
  | .vsub f => firstErr [(decide (f.pred = 4), 3, 4), (decide (¬ fInt f.fmt.toNat), 10, 0), (decide (28 ≤ f.va.toNat), 3, 14), (decide (f.pa = 1 ∧ 25 ≤ f.va.toNat), 3, 8), (decide (28 ≤ f.vb.toNat), 3, 9), (decide (f.pb = 1 ∧ 25 ≤ f.vb.toNat), 3, 7)]
  | .vadds f => firstErr [(decide (f.pred = 4), 3, 4), (decide (¬ fInt f.fmt.toNat), 10, 0), (decide (28 ≤ f.va.toNat), 3, 14), (decide (f.pa = 1 ∧ 25 ≤ f.va.toNat), 3, 8), (decide (28 ≤ f.vb.toNat), 3, 9), (decide (f.pb = 1 ∧ 25 ≤ f.vb.toNat), 3, 7)]
  | .vsubs f => firstErr [(decide (f.pred = 4), 3, 4), (decide (¬ fInt f.fmt.toNat), 10, 0), (decide (28 ≤ f.va.toNat), 3, 14), (decide (f.pa = 1 ∧ 25 ≤ f.va.toNat), 3, 8), (decide (28 ≤ f.vb.toNat), 3, 9), (decide (f.pb = 1 ∧ 25 ≤ f.vb.toNat), 3, 7)]
  | .vmul f => firstErr [(decide (f.pred = 4), 3, 4), (decide (¬ fInt f.fmt.toNat), 10, 0), (decide (28 ≤ f.va.toNat), 3, 14), (decide (f.pa = 1 ∧ 25 ≤ f.va.toNat), 3, 8), (decide (28 ≤ f.vb.toNat), 3, 9), (decide (f.pb = 1 ∧ 25 ≤ f.vb.toNat), 3, 7)]
  | .vmulh f => firstErr [(decide (f.pred = 4), 3, 4), (decide (¬ fInt f.fmt.toNat), 10, 0), (decide (28 ≤ f.va.toNat), 3, 14), (decide (f.pa = 1 ∧ 25 ≤ f.va.toNat), 3, 8), (decide (28 ≤ f.vb.toNat), 3, 9), (decide (f.pb = 1 ∧ 25 ≤ f.vb.toNat), 3, 7)]
  | .vmad f => firstErr [(decide (f.pred = 4), 3, 4), (decide (¬ fInt f.fmt.toNat), 10, 0), (decide (28 ≤ f.va.toNat), 3, 14), (decide (f.pa = 1 ∧ 25 ≤ f.va.toNat), 3, 8), (decide (28 ≤ f.vb.toNat), 3, 9), (decide (f.pb = 1 ∧ 25 ≤ f.vb.toNat), 3, 7)]
  | .vand f => firstErr [(decide (f.pred = 4), 3, 4), (decide (¬ fBit f.fmt.toNat), 10, 0), (decide (28 ≤ f.va.toNat), 3, 14), (decide (f.pa = 1 ∧ 25 ≤ f.va.toNat), 3, 8), (decide (28 ≤ f.vb.toNat), 3, 9), (decide (f.pb = 1 ∧ 25 ≤ f.vb.toNat), 3, 7)]
  | .vor f => firstErr [(decide (f.pred = 4), 3, 4), (decide (¬ fBit f.fmt.toNat), 10, 0), (decide (28 ≤ f.va.toNat), 3, 14), (decide (f.pa = 1 ∧ 25 ≤ f.va.toNat), 3, 8), (decide (28 ≤ f.vb.toNat), 3, 9), (decide (f.pb = 1 ∧ 25 ≤ f.vb.toNat), 3, 7)]
  | .vxor f => firstErr [(decide (f.pred = 4), 3, 4), (decide (¬ fBit f.fmt.toNat), 10, 0), (decide (28 ≤ f.va.toNat), 3, 14), (decide (f.pa = 1 ∧ 25 ≤ f.va.toNat), 3, 8), (decide (28 ≤ f.vb.toNat), 3, 9), (decide (f.pb = 1 ∧ 25 ≤ f.vb.toNat), 3, 7)]
  | .vandn f => firstErr [(decide (f.pred = 4), 3, 4), (decide (¬ fBit f.fmt.toNat), 10, 0), (decide (28 ≤ f.va.toNat), 3, 14), (decide (f.pa = 1 ∧ 25 ≤ f.va.toNat), 3, 8), (decide (28 ≤ f.vb.toNat), 3, 9), (decide (f.pb = 1 ∧ 25 ≤ f.vb.toNat), 3, 7)]
  | .vshl f => firstErr [(decide (f.pred = 4), 3, 4), (decide (¬ fInt f.fmt.toNat), 10, 0), (decide (28 ≤ f.va.toNat), 3, 14), (decide (f.pa = 1 ∧ 25 ≤ f.va.toNat), 3, 8), (decide (28 ≤ f.vb.toNat), 3, 9), (decide (f.pb = 1 ∧ 25 ≤ f.vb.toNat), 3, 7)]
  | .vshr f => firstErr [(decide (f.pred = 4), 3, 4), (decide (¬ fInt f.fmt.toNat), 10, 0), (decide (28 ≤ f.va.toNat), 3, 14), (decide (f.pa = 1 ∧ 25 ≤ f.va.toNat), 3, 8), (decide (28 ≤ f.vb.toNat), 3, 9), (decide (f.pb = 1 ∧ 25 ≤ f.vb.toNat), 3, 7)]
  | .vsra f => firstErr [(decide (f.pred = 4), 3, 4), (decide (¬ fInt f.fmt.toNat), 10, 0), (decide (28 ≤ f.va.toNat), 3, 14), (decide (f.pa = 1 ∧ 25 ≤ f.va.toNat), 3, 8), (decide (28 ≤ f.vb.toNat), 3, 9), (decide (f.pb = 1 ∧ 25 ≤ f.vb.toNat), 3, 7)]
  | .vmin f => firstErr [(decide (f.pred = 4), 3, 4), (decide (¬ fInt f.fmt.toNat), 10, 0), (decide (28 ≤ f.va.toNat), 3, 14), (decide (f.pa = 1 ∧ 25 ≤ f.va.toNat), 3, 8), (decide (28 ≤ f.vb.toNat), 3, 9), (decide (f.pb = 1 ∧ 25 ≤ f.vb.toNat), 3, 7)]
  | .vmax f => firstErr [(decide (f.pred = 4), 3, 4), (decide (¬ fInt f.fmt.toNat), 10, 0), (decide (28 ≤ f.va.toNat), 3, 14), (decide (f.pa = 1 ∧ 25 ≤ f.va.toNat), 3, 8), (decide (28 ≤ f.vb.toNat), 3, 9), (decide (f.pb = 1 ∧ 25 ≤ f.vb.toNat), 3, 7)]
  | .vabs f => firstErr [(decide (f.pred = 4), 3, 4), (decide (¬ fSint f.fmt.toNat), 10, 0), (decide (28 ≤ f.va.toNat), 3, 14), (decide (f.pa = 1 ∧ 25 ≤ f.va.toNat), 3, 8)]
  | .vneg f => firstErr [(decide (f.pred = 4), 3, 4), (decide (¬ fSint f.fmt.toNat), 10, 0), (decide (28 ≤ f.va.toNat), 3, 14), (decide (f.pa = 1 ∧ 25 ≤ f.va.toNat), 3, 8)]
  | .vcmp f => firstErr [(decide (f.pred = 4), 3, 4), (decide (¬ fInt f.fmt.toNat), 10, 0), (decide (28 ≤ f.va.toNat), 3, 14), (decide (f.pa = 1 ∧ 25 ≤ f.va.toNat), 3, 8), (decide (28 ≤ f.vb.toNat), 3, 9), (decide (f.pb = 1 ∧ 25 ≤ f.vb.toNat), 3, 7), (decide (f.vd = 0), 3, 19)]
  | .vfadd f => firstErr [(decide (f.pred = 4), 3, 4), (decide (¬ fFlt f.fmt.toNat), 10, 0), (decide (28 ≤ f.va.toNat), 3, 14), (decide (f.pa = 1 ∧ 25 ≤ f.va.toNat), 3, 8), (decide (28 ≤ f.vb.toNat), 3, 9), (decide (f.pb = 1 ∧ 25 ≤ f.vb.toNat), 3, 7)]
  | .vfsub f => firstErr [(decide (f.pred = 4), 3, 4), (decide (¬ fFlt f.fmt.toNat), 10, 0), (decide (28 ≤ f.va.toNat), 3, 14), (decide (f.pa = 1 ∧ 25 ≤ f.va.toNat), 3, 8), (decide (28 ≤ f.vb.toNat), 3, 9), (decide (f.pb = 1 ∧ 25 ≤ f.vb.toNat), 3, 7)]
  | .vfmul f => firstErr [(decide (f.pred = 4), 3, 4), (decide (¬ fFlt f.fmt.toNat), 10, 0), (decide (28 ≤ f.va.toNat), 3, 14), (decide (f.pa = 1 ∧ 25 ≤ f.va.toNat), 3, 8), (decide (28 ≤ f.vb.toNat), 3, 9), (decide (f.pb = 1 ∧ 25 ≤ f.vb.toNat), 3, 7)]
  | .vfma f => firstErr [(decide (f.pred = 4), 3, 4), (decide (¬ fFlt f.fmt.toNat), 10, 0), (decide (28 ≤ f.va.toNat), 3, 14), (decide (f.pa = 1 ∧ 25 ≤ f.va.toNat), 3, 8), (decide (28 ≤ f.vb.toNat), 3, 9), (decide (f.pb = 1 ∧ 25 ≤ f.vb.toNat), 3, 7)]
  | .vfmin f => firstErr [(decide (f.pred = 4), 3, 4), (decide (¬ fFlt f.fmt.toNat), 10, 0), (decide (28 ≤ f.va.toNat), 3, 14), (decide (f.pa = 1 ∧ 25 ≤ f.va.toNat), 3, 8), (decide (28 ≤ f.vb.toNat), 3, 9), (decide (f.pb = 1 ∧ 25 ≤ f.vb.toNat), 3, 7)]
  | .vfmax f => firstErr [(decide (f.pred = 4), 3, 4), (decide (¬ fFlt f.fmt.toNat), 10, 0), (decide (28 ≤ f.va.toNat), 3, 14), (decide (f.pa = 1 ∧ 25 ≤ f.va.toNat), 3, 8), (decide (28 ≤ f.vb.toNat), 3, 9), (decide (f.pb = 1 ∧ 25 ≤ f.vb.toNat), 3, 7)]
  | .vfabs f => firstErr [(decide (f.pred = 4), 3, 4), (decide (¬ fFlt f.fmt.toNat), 10, 0), (decide (28 ≤ f.va.toNat), 3, 14), (decide (f.pa = 1 ∧ 25 ≤ f.va.toNat), 3, 8)]
  | .vfneg f => firstErr [(decide (f.pred = 4), 3, 4), (decide (¬ fFlt f.fmt.toNat), 10, 0), (decide (28 ≤ f.va.toNat), 3, 14), (decide (f.pa = 1 ∧ 25 ≤ f.va.toNat), 3, 8)]
  | .vfcmp f => firstErr [(decide (f.pred = 4), 3, 4), (decide (¬ fFlt f.fmt.toNat), 10, 0), (decide (28 ≤ f.va.toNat), 3, 14), (decide (f.pa = 1 ∧ 25 ≤ f.va.toNat), 3, 8), (decide (28 ≤ f.vb.toNat), 3, 9), (decide (f.pb = 1 ∧ 25 ≤ f.vb.toNat), 3, 7), (decide (f.vd = 0), 3, 19)]
  | .vfrnd f => firstErr [(decide (f.pred = 4), 3, 4), (decide (¬ fFlt f.fmt.toNat), 10, 0), (decide (28 ≤ f.va.toNat), 3, 14), (decide (f.pa = 1 ∧ 25 ≤ f.va.toNat), 3, 8)]
  | .vrcp f => firstErr [(decide (f.cl = 0), 1, 23), (decide (f.pred = 4), 3, 4), (decide (¬ fFlt f.fmt.toNat), 10, 0), (decide (28 ≤ f.va.toNat), 3, 14), (decide (f.pa = 1 ∧ 25 ≤ f.va.toNat), 3, 8)]
  | .vrsq f => firstErr [(decide (f.cl = 0), 1, 23), (decide (f.pred = 4), 3, 4), (decide (¬ fFlt f.fmt.toNat), 10, 0), (decide (28 ≤ f.va.toNat), 3, 14), (decide (f.pa = 1 ∧ 25 ≤ f.va.toNat), 3, 8)]
  | .vexp2 f => firstErr [(decide (f.cl = 0), 1, 23), (decide (f.pred = 4), 3, 4), (decide (¬ fFlt f.fmt.toNat), 10, 0), (decide (28 ≤ f.va.toNat), 3, 14), (decide (f.pa = 1 ∧ 25 ≤ f.va.toNat), 3, 8)]
  | .vlog2 f => firstErr [(decide (f.cl = 0), 1, 23), (decide (f.pred = 4), 3, 4), (decide (¬ fFlt f.fmt.toNat), 10, 0), (decide (28 ≤ f.va.toNat), 3, 14), (decide (f.pa = 1 ∧ 25 ≤ f.va.toNat), 3, 8)]
  | .vtanh f => firstErr [(decide (f.cl = 0), 1, 23), (decide (f.pred = 4), 3, 4), (decide (¬ fFlt f.fmt.toNat), 10, 0), (decide (28 ≤ f.va.toNat), 3, 14), (decide (f.pa = 1 ∧ 25 ≤ f.va.toNat), 3, 8)]
  | .vsigm f => firstErr [(decide (f.cl = 0), 1, 23), (decide (f.pred = 4), 3, 4), (decide (¬ fFlt f.fmt.toNat), 10, 0), (decide (28 ≤ f.va.toNat), 3, 14), (decide (f.pa = 1 ∧ 25 ≤ f.va.toNat), 3, 8)]
  | .vrng f => firstErr [(decide (f.pred = 4), 3, 4), (decide (¬ fRng f.fmt.toNat), 10, 0)]
  | .vcvt f => firstErr [(decide (f.pred = 4), 3, 4), (decide (¬ fCvt f.fmt.toNat), 10, 0), (decide (f.sfmt = 15), 10, 9), (decide (28 ≤ f.va.toNat), 3, 14), (decide (f.pa = 1 ∧ 25 ≤ f.va.toNat), 3, 8)]
  | .vqnt f => firstErr [(decide (f.pred = 4), 3, 4), (decide (¬ fFlt f.fmt.toNat), 10, 0), (decide (28 ≤ f.va.toNat), 3, 14), (decide (f.pa = 1 ∧ 25 ≤ f.va.toNat), 3, 8)]
  | .vdqnt f => firstErr [(decide (f.pred = 4), 3, 4), (decide (¬ fFlt f.fmt.toNat), 10, 0), (decide (28 ≤ f.va.toNat), 3, 14), (decide (f.pa = 1 ∧ 25 ≤ f.va.toNat), 3, 8)]
  | .pand f => firstErr [(decide (f.vd = 0), 3, 19)]
  | .por f => firstErr [(decide (f.vd = 0), 3, 19)]
  | .pxor f => firstErr [(decide (f.vd = 0), 3, 19)]
  | .pnot f => firstErr [(decide (f.vd = 0), 3, 19)]
  | .pmov f => firstErr [(decide (f.vd = 0), 3, 19)]
  | .psetn f => firstErr [(decide (¬ fW6 f.fmt.toNat), 10, 0), (decide (28 ≤ f.va.toNat), 3, 14), (decide (f.pa = 1 ∧ 25 ≤ f.va.toNat), 3, 8), (decide (f.vd = 0), 3, 19)]
  | .vsel f => firstErr [(decide (f.pred = 4), 3, 4), (decide (¬ fAll f.fmt.toNat), 10, 0), (decide (28 ≤ f.va.toNat), 3, 14), (decide (f.pa = 1 ∧ 25 ≤ f.va.toNat), 3, 8), (decide (28 ≤ f.vb.toNat), 3, 9), (decide (f.pb = 1 ∧ 25 ≤ f.vb.toNat), 3, 7)]
  | .vperm f => firstErr [(decide (f.pred = 4), 3, 4), (decide (¬ fWid f.fmt.toNat), 10, 0), (decide (28 ≤ f.va.toNat), 3, 14), (decide (f.pa = 1 ∧ 25 ≤ f.va.toNat), 3, 8), (decide (28 ≤ f.vb.toNat), 3, 9), (decide (f.pb = 1 ∧ 25 ≤ f.vb.toNat), 3, 7)]
  | .vrot f => firstErr [(decide (28 ≤ f.va.toNat), 3, 14), (decide (f.pa = 1 ∧ 25 ≤ f.va.toNat), 3, 8), (decide (28 ≤ f.vb.toNat), 3, 9), (decide (f.pb = 1 ∧ 25 ≤ f.vb.toNat), 3, 7)]
  | .vshfl f => firstErr [(decide (f.pred = 4), 3, 4), (decide (¬ fWid f.fmt.toNat), 10, 0), (decide (28 ≤ f.va.toNat), 3, 14), (decide (f.pa = 1 ∧ 25 ≤ f.va.toNat), 3, 8)]
  | .vbcst f => firstErr [(decide (f.pred = 4), 3, 4), (decide (¬ fWid f.fmt.toNat), 10, 0), (decide (28 ≤ f.va.toNat), 3, 14), (decide (f.pa = 1 ∧ 25 ≤ f.va.toNat), 3, 8), (decide (28 ≤ f.vb.toNat), 3, 9), (decide (f.pb = 1 ∧ 25 ≤ f.vb.toNat), 3, 7)]
  | .vmov f => firstErr [(decide (f.pred = 4), 3, 4), (decide (¬ fAll f.fmt.toNat), 10, 0), (decide (28 ≤ f.va.toNat), 3, 14), (decide (f.pa = 1 ∧ 25 ≤ f.va.toNat), 3, 8)]
  | .vradd f => firstErr [(decide (f.pred = 4), 3, 4), (decide (¬ fW6 f.fmt.toNat), 10, 0), (decide (28 ≤ f.va.toNat), 3, 14), (decide (f.pa = 1 ∧ 25 ≤ f.va.toNat), 3, 8)]
  | .vrmax f => firstErr [(decide (f.pred = 4), 3, 4), (decide (¬ fW6 f.fmt.toNat), 10, 0), (decide (28 ≤ f.va.toNat), 3, 14), (decide (f.pa = 1 ∧ 25 ≤ f.va.toNat), 3, 8)]
  | .vrmin f => firstErr [(decide (f.pred = 4), 3, 4), (decide (¬ fW6 f.fmt.toNat), 10, 0), (decide (28 ≤ f.va.toNat), 3, 14), (decide (f.pa = 1 ∧ 25 ≤ f.va.toNat), 3, 8)]
  | .vrfadd f => firstErr [(decide (f.pred = 4), 3, 4), (decide (¬ fFlt f.fmt.toNat), 10, 0), (decide (28 ≤ f.va.toNat), 3, 14), (decide (f.pa = 1 ∧ 25 ≤ f.va.toNat), 3, 8)]
  | .vrfmax f => firstErr [(decide (f.pred = 4), 3, 4), (decide (¬ fFlt f.fmt.toNat), 10, 0), (decide (28 ≤ f.va.toNat), 3, 14), (decide (f.pa = 1 ∧ 25 ≤ f.va.toNat), 3, 8)]
  | .vband f => firstErr [(decide (f.pred = 4), 3, 4), (decide (28 ≤ f.va.toNat), 3, 14), (decide (f.pa = 1 ∧ 25 ≤ f.va.toNat), 3, 8), (decide (28 ≤ f.vb.toNat), 3, 9), (decide (f.pb = 1 ∧ 25 ≤ f.vb.toNat), 3, 7)]
  | .vpopc f => firstErr [(decide (f.pred = 4), 3, 4), (decide (¬ fW6 f.fmt.toNat), 10, 0), (decide (28 ≤ f.va.toNat), 3, 14), (decide (f.pa = 1 ∧ 25 ≤ f.va.toNat), 3, 8)]
  | .vpfx f => firstErr [(decide (f.pred = 4), 3, 4), (decide (¬ fW6 f.fmt.toNat), 10, 0), (decide (28 ≤ f.va.toNat), 3, 14), (decide (f.pa = 1 ∧ 25 ≤ f.va.toNat), 3, 8), (decide (28 ≤ f.vb.toNat), 3, 9), (decide (f.pb = 1 ∧ 25 ≤ f.vb.toNat), 3, 7)]
  | .visect f => firstErr [(decide (¬ fIsect f.fmt.toNat), 10, 0), (decide (28 ≤ f.va.toNat), 3, 14), (decide (f.pa = 1 ∧ 25 ≤ f.va.toNat), 3, 8), (decide (28 ≤ f.vb.toNat), 3, 9), (decide (f.pb = 1 ∧ 25 ≤ f.vb.toNat), 3, 7)]
  | .vcsw f => firstErr [(decide (f.pred = 4), 3, 4), (decide (¬ fPair f.fmt.toNat), 10, 0), (decide (28 ≤ f.va.toNat), 3, 14), (decide (f.pa = 1 ∧ 25 ≤ f.va.toNat), 3, 8), (decide (28 ≤ f.vb.toNat), 3, 9), (decide (f.pb = 1 ∧ 25 ≤ f.vb.toNat), 3, 7)]
  | .vcswx f => firstErr [(decide (f.pred = 4), 3, 4), (decide (¬ fPair f.fmt.toNat), 10, 0), (decide (28 ≤ f.va.toNat), 3, 14), (decide (f.pa = 1 ∧ 25 ≤ f.va.toNat), 3, 8), (decide (28 ≤ f.vb.toNat), 3, 9), (decide (f.pb = 1 ∧ 25 ≤ f.vb.toNat), 3, 7)]
  | .malloc _ => none
  | .mfree _ => none
  | .mband f => firstErr [(decide (f.rel = 1 ∧ f.pos ≠ 0), 3, 0)]
  | .mzero _ => none
  | .mldw f => firstErr [(decide (f.cb = 0 ∧ ¬ fMat f.fmt.toNat), 10, 0), (decide (f.cb = 1 ∧ ¬ fCb f.fmt.toNat), 10, 0)]
  | .mmul f => firstErr [(decide (¬ fMat f.fmt.toNat), 10, 0)]
  | .mmulg _ => none
  | .mmuls f => firstErr [(decide (¬ fMat16 f.fmt.toNat), 10, 0)]
  | .mmulb f => firstErr [(decide (¬ fMat f.fmt.toNat), 10, 0)]
  | .mmulc f => firstErr [(decide (¬ (f.fmt = 6 ∨ f.fmt = 8)), 10, 0)]
  | .mcond f => firstErr [(decide (¬ fMat16 f.fmt.toNat), 10, 0)]
  | .mchain f => firstErr [(decide (¬ fMat f.fmt.toNat), 10, 0)]
  | .mchainRecv _ => none
  | .mdrain f => firstErr [(decide (f.fmt = 15), 10, 0)]
  | .mchk f => firstErr [(decide (f.col = 0 ∧ f.sy ≠ 0), 2, 13)]
  | .ldv _ => none
  | .stv _ => none
  | .lds _ => none
  | .sts _ => none
  | .ldx f => firstErr [(decide (5 < f.fmt.toNat), 10, 0)]
  | .stx f => firstErr [(decide (5 < f.fmt.toNat), 10, 0)]
  | .ldf f => firstErr [(decide (f.dist.toNat < 96), 3, 0)]
  | .stf _ => none
  | .mark _ => none
  | .sfence f => firstErr [(decide (4 < f.scope.toNat), 3, 0)]
  | .vjoin f => firstErr [(decide (f.dir = 0), 3, 0)]
  | .rset _ => none
  | .rpush _ => none
  | .xcopy _ => none
  | .xcopyt _ => none
  | .xpair _ => none
  | .xfill f => firstErr [(decide (f.kind = 1 ∨ 6 ≤ f.kind.toNat), 3, 0)]
  | .xgath _ => none
  | .xscat _ => none
  | .xacc f => firstErr [(decide (12 ≤ f.op.toNat), 3, 0)]
  | .xcas _ => none
  | .xnear _ => none
  | .xsend _ => none
  | .xpost _ => none
  | .xcoll _ => none
  | .xfence _ => none
  | .xhand _ => none
  | .xtake _ => none
  | .xmedia _ => none
  | .xspill f => firstErr [(decide (f.sel = 0), 3, 0), (decide (f.sel ≠ 1 ∧ f.sy ≠ 0), 2, 13)]
  | .xrecall _ => none
  | .qpop _ => none
  | .kbl _ => none
  | .kblW _ => none
  | .kxpat _ => none
  | .flagsRd f => firstErr [(decide (5 ≤ f.eng.toNat), 3, 0)]
  | .flagsClr f => firstErr [(decide (5 ≤ f.eng.toNat), 3, 0)]
  | .flagsEn f => firstErr [(decide (5 ≤ f.eng.toNat), 3, 0)]
  | .kscale _ => none
  | .kscalei _ => none
  | .krbind f => firstErr [(decide (f.unbind = 1 ∧ f.sy ≠ 0), 2, 13)]
  | .krec f => firstErr [(decide (9 ≤ f.fld.toNat), 3, 0), (decide (f.fld ≠ 8 ∧ f.sz ≠ 0), 2, 8)]
  | .krclr f => firstErr [(decide (f.sel = 0), 3, 0)]
  | .kseal _ => none
  | .cksum _ => none
  | .ttq _ => none
  | .ttset f => firstErr [(decide (f.kind = 1 ∨ 6 ≤ f.kind.toNat), 3, 0), (decide (f.kind = 4 ∧ ¬ fInt f.fmt.toNat), 10, 4)]
  | .ttsettle _ => none
  | .ttpromo _ => none
  | .jcbadd _ => none
  | .jcbdone _ => none
  | .jcbq _ => none
  | .jemit _ => none
  | .jemitMark _ => none
  | .jroute _ => none
  | .jgen _ => none
  | .jrpl _ => none
  | .jtrunc _ => none
  | .ctag _ => none
  | .resq _ => none
  | .deferredTrap => none
  | .resultLanding => none
  | .farDataArrival _ _ _ => none
  | .timedLanding => none
  | .segmentFetchDone _ _ => none
  | .emptyBundle => none
  | .eclipseSwap => none
  | .pushWindowWrite _ _ _ _ => none
  | .pushWindowAdmit _ => none
  | .mInstructionStart => none
  | .mInstructionRetire => none
  | .drainVectorPush => none
  | .chainForm _ => none
  | .accWindowWrite _ _ _ => none
  | .stWrite _ _ => none
  | .hcWrite _ _ => none
  | .launchRecordRead _ => none
  | .launchPlace => none
  | .agingTick _ => none
  | .taskSave _ _ => none
  | .launchRestore _ => none
  | .launchComplete _ => none
  | .faultAck _ => none
  | .dependenceWatchdog _ => none
  | .runWatchdog _ => none
  | .dispatcherFailover => none
  | .arrivalDeliver _ => none
  | .communicationPhase _ _ _ => none
  | .jcbApply _ => none
  | .translationWalk _ _ _ _ _ => none
  | .translationInvalidate _ _ _ => none
  | .channelReplay _ _ => none
  | .channelAbort _ _ => none
  | .offerTakeable _ _ => none
  | .xtakeApply _ => none
  | .frameReturn _ => none
  | .offloadDone _ => none
  | .tileCheckRetry _ _ => none
  | .luxMergeApply _ => none
  | .lqPerform _ _ => none
  | .sqLeave _ _ => none
  | .scopePropagate _ => none
  | .viewSeenRaise _ _ _ _ => none
  | .engineAccessPerform _ _ => none
  | .commandStart _ _ => none
  | .commandComplete _ _ => none
  | .atomicApply _ _ => none
  | .fabricMessageArrive _ _ _ _ => none
  | .collectiveMatch _ _ _ _ => none
  | .viewCacheFill _ _ _ => none
  | .hostAccess _ _ _ _ => none
  | .managementWrite _ _ => none
  | .linkFlitResend => none
  | .deviceFailed => none
  | .deviceReset => none
  | .secureBoot _ _ _ _ _ _ _ _ => none
  | .attestNonceWrite _ => none
  | .attestReportDone => none
  | .ageingUpdate _ _ _ => none
  | .powerStateRequest _ => none
  | .idleEntry => none
  | .lowExit => none
  | .clockStepDown => none
  | .clockStepUp => none
  | .criticalTemperature => none
  | .journalAppendAssign => none
  | .mirrorEntryWrite _ _ => none
  | .mirrorAck _ _ => none
  | .mirrorLost _ => none
  | .jmirrorWrite _ => none
  | .replayStart _ _ => none
  | .dieLinkRetrain _ => none
  | .fabricPortFailure _ => none
  | .fabricPeerRequest _ _ _ _ _ => none
  | .residencyRecallDone _ => none

/-- Is the instruction one of the agents' events, which no slot word encodes? -/
def Instr.isEvent : Instr → Bool
  | .nop _ => false
  | .jmp _ => false
  | .br _ => false
  | .brp _ => false
  | .jmpi _ => false
  | .call _ => false
  | .calli _ => false
  | .ret _ => false
  | .loop _ => false
  | .loopi _ => false
  | .brkl _ => false
  | .segj _ => false
  | .safe _ => false
  | .trap _ => false
  | .eret _ => false
  | .brkpt _ => false
  | .halt _ => false
  | .waitb _ => false
  | .arrive _ => false
  | .arwait _ => false
  | .sstep _ => false
  | .eclipse _ => false
  | .yield _ => false
  | .waitj _ => false
  | .mfsr _ => false
  | .mtsr _ => false
  | .add _ => false
  | .sub _ => false
  | .and _ => false
  | .or _ => false
  | .xor _ => false
  | .andn _ => false
  | .shl _ => false
  | .shr _ => false
  | .sra _ => false
  | .mul _ => false
  | .mulh _ => false
  | .mulhu _ => false
  | .min _ => false
  | .max _ => false
  | .minu _ => false
  | .maxu _ => false
  | .seq _ => false
  | .sne _ => false
  | .slt _ => false
  | .sltu _ => false
  | .sle _ => false
  | .sleu _ => false
  | .sel _ => false
  | .mov _ => false
  | .abs _ => false
  | .neg _ => false
  | .clz _ => false
  | .ctz _ => false
  | .popc _ => false
  | .bfx _ => false
  | .bfi _ => false
  | .addi _ => false
  | .andi _ => false
  | .ori _ => false
  | .xori _ => false
  | .shli _ => false
  | .shri _ => false
  | .srai _ => false
  | .muli _ => false
  | .li _ => false
  | .lih _ => false
  | .lix _ => false
  | .lit _ => false
  | .mfli _ => false
  | .mflc _ => false
  | .slti _ => false
  | .seqi _ => false
  | .vadd _ => false
  | .vsub _ => false
  | .vadds _ => false
  | .vsubs _ => false
  | .vmul _ => false
  | .vmulh _ => false
  | .vmad _ => false
  | .vand _ => false
  | .vor _ => false
  | .vxor _ => false
  | .vandn _ => false
  | .vshl _ => false
  | .vshr _ => false
  | .vsra _ => false
  | .vmin _ => false
  | .vmax _ => false
  | .vabs _ => false
  | .vneg _ => false
  | .vcmp _ => false
  | .vfadd _ => false
  | .vfsub _ => false
  | .vfmul _ => false
  | .vfma _ => false
  | .vfmin _ => false
  | .vfmax _ => false
  | .vfabs _ => false
  | .vfneg _ => false
  | .vfcmp _ => false
  | .vfrnd _ => false
  | .vrcp _ => false
  | .vrsq _ => false
  | .vexp2 _ => false
  | .vlog2 _ => false
  | .vtanh _ => false
  | .vsigm _ => false
  | .vrng _ => false
  | .vcvt _ => false
  | .vqnt _ => false
  | .vdqnt _ => false
  | .pand _ => false
  | .por _ => false
  | .pxor _ => false
  | .pnot _ => false
  | .pmov _ => false
  | .psetn _ => false
  | .vsel _ => false
  | .vperm _ => false
  | .vrot _ => false
  | .vshfl _ => false
  | .vbcst _ => false
  | .vmov _ => false
  | .vradd _ => false
  | .vrmax _ => false
  | .vrmin _ => false
  | .vrfadd _ => false
  | .vrfmax _ => false
  | .vband _ => false
  | .vpopc _ => false
  | .vpfx _ => false
  | .visect _ => false
  | .vcsw _ => false
  | .vcswx _ => false
  | .malloc _ => false
  | .mfree _ => false
  | .mband _ => false
  | .mzero _ => false
  | .mldw _ => false
  | .mmul _ => false
  | .mmulg _ => false
  | .mmuls _ => false
  | .mmulb _ => false
  | .mmulc _ => false
  | .mcond _ => false
  | .mchain _ => false
  | .mchainRecv _ => false
  | .mdrain _ => false
  | .mchk _ => false
  | .ldv _ => false
  | .stv _ => false
  | .lds _ => false
  | .sts _ => false
  | .ldx _ => false
  | .stx _ => false
  | .ldf _ => false
  | .stf _ => false
  | .mark _ => false
  | .sfence _ => false
  | .vjoin _ => false
  | .rset _ => false
  | .rpush _ => false
  | .xcopy _ => false
  | .xcopyt _ => false
  | .xpair _ => false
  | .xfill _ => false
  | .xgath _ => false
  | .xscat _ => false
  | .xacc _ => false
  | .xcas _ => false
  | .xnear _ => false
  | .xsend _ => false
  | .xpost _ => false
  | .xcoll _ => false
  | .xfence _ => false
  | .xhand _ => false
  | .xtake _ => false
  | .xmedia _ => false
  | .xspill _ => false
  | .xrecall _ => false
  | .qpop _ => false
  | .kbl _ => false
  | .kblW _ => false
  | .kxpat _ => false
  | .flagsRd _ => false
  | .flagsClr _ => false
  | .flagsEn _ => false
  | .kscale _ => false
  | .kscalei _ => false
  | .krbind _ => false
  | .krec _ => false
  | .krclr _ => false
  | .kseal _ => false
  | .cksum _ => false
  | .ttq _ => false
  | .ttset _ => false
  | .ttsettle _ => false
  | .ttpromo _ => false
  | .jcbadd _ => false
  | .jcbdone _ => false
  | .jcbq _ => false
  | .jemit _ => false
  | .jemitMark _ => false
  | .jroute _ => false
  | .jgen _ => false
  | .jrpl _ => false
  | .jtrunc _ => false
  | .ctag _ => false
  | .resq _ => false
  | .deferredTrap => true
  | .resultLanding => true
  | .farDataArrival _ _ _ => true
  | .timedLanding => true
  | .segmentFetchDone _ _ => true
  | .emptyBundle => true
  | .eclipseSwap => true
  | .pushWindowWrite _ _ _ _ => true
  | .pushWindowAdmit _ => true
  | .mInstructionStart => true
  | .mInstructionRetire => true
  | .drainVectorPush => true
  | .chainForm _ => true
  | .accWindowWrite _ _ _ => true
  | .stWrite _ _ => true
  | .hcWrite _ _ => true
  | .launchRecordRead _ => true
  | .launchPlace => true
  | .agingTick _ => true
  | .taskSave _ _ => true
  | .launchRestore _ => true
  | .launchComplete _ => true
  | .faultAck _ => true
  | .dependenceWatchdog _ => true
  | .runWatchdog _ => true
  | .dispatcherFailover => true
  | .arrivalDeliver _ => true
  | .communicationPhase _ _ _ => true
  | .jcbApply _ => true
  | .translationWalk _ _ _ _ _ => true
  | .translationInvalidate _ _ _ => true
  | .channelReplay _ _ => true
  | .channelAbort _ _ => true
  | .offerTakeable _ _ => true
  | .xtakeApply _ => true
  | .frameReturn _ => true
  | .offloadDone _ => true
  | .tileCheckRetry _ _ => true
  | .luxMergeApply _ => true
  | .lqPerform _ _ => true
  | .sqLeave _ _ => true
  | .scopePropagate _ => true
  | .viewSeenRaise _ _ _ _ => true
  | .engineAccessPerform _ _ => true
  | .commandStart _ _ => true
  | .commandComplete _ _ => true
  | .atomicApply _ _ => true
  | .fabricMessageArrive _ _ _ _ => true
  | .collectiveMatch _ _ _ _ => true
  | .viewCacheFill _ _ _ => true
  | .hostAccess _ _ _ _ => true
  | .managementWrite _ _ => true
  | .linkFlitResend => true
  | .deviceFailed => true
  | .deviceReset => true
  | .secureBoot _ _ _ _ _ _ _ _ => true
  | .attestNonceWrite _ => true
  | .attestReportDone => true
  | .ageingUpdate _ _ _ => true
  | .powerStateRequest _ => true
  | .idleEntry => true
  | .lowExit => true
  | .clockStepDown => true
  | .clockStepUp => true
  | .criticalTemperature => true
  | .journalAppendAssign => true
  | .mirrorEntryWrite _ _ => true
  | .mirrorAck _ _ => true
  | .mirrorLost _ => true
  | .jmirrorWrite _ => true
  | .replayStart _ _ => true
  | .dieLinkRetrain _ => true
  | .fabricPortFailure _ => true
  | .fabricPeerRequest _ _ _ _ _ => true
  | .residencyRecallDone _ => true

/-- The slot an instruction stands in (R9): 2 or 3 by cluster for a vector word; 8 for an event, which has none. -/
def Instr.slot : Instr → Nat
  | .nop _ => 0
  | .jmp _ => 0
  | .br _ => 0
  | .brp _ => 0
  | .jmpi _ => 0
  | .call _ => 0
  | .calli _ => 0
  | .ret _ => 0
  | .loop _ => 0
  | .loopi _ => 0
  | .brkl _ => 0
  | .segj _ => 0
  | .safe _ => 0
  | .trap _ => 0
  | .eret _ => 0
  | .brkpt _ => 0
  | .halt _ => 0
  | .waitb _ => 0
  | .arrive _ => 0
  | .arwait _ => 0
  | .sstep _ => 0
  | .eclipse _ => 0
  | .yield _ => 0
  | .waitj _ => 0
  | .mfsr _ => 0
  | .mtsr _ => 0
  | .add _ => 1
  | .sub _ => 1
  | .and _ => 1
  | .or _ => 1
  | .xor _ => 1
  | .andn _ => 1
  | .shl _ => 1
  | .shr _ => 1
  | .sra _ => 1
  | .mul _ => 1
  | .mulh _ => 1
  | .mulhu _ => 1
  | .min _ => 1
  | .max _ => 1
  | .minu _ => 1
  | .maxu _ => 1
  | .seq _ => 1
  | .sne _ => 1
  | .slt _ => 1
  | .sltu _ => 1
  | .sle _ => 1
  | .sleu _ => 1
  | .sel _ => 1
  | .mov _ => 1
  | .abs _ => 1
  | .neg _ => 1
  | .clz _ => 1
  | .ctz _ => 1
  | .popc _ => 1
  | .bfx _ => 1
  | .bfi _ => 1
  | .addi _ => 1
  | .andi _ => 1
  | .ori _ => 1
  | .xori _ => 1
  | .shli _ => 1
  | .shri _ => 1
  | .srai _ => 1
  | .muli _ => 1
  | .li _ => 1
  | .lih _ => 1
  | .lix _ => 1
  | .lit _ => 1
  | .mfli _ => 1
  | .mflc _ => 1
  | .slti _ => 1
  | .seqi _ => 1
  | .vadd f => 2 + f.cl.toNat
  | .vsub f => 2 + f.cl.toNat
  | .vadds f => 2 + f.cl.toNat
  | .vsubs f => 2 + f.cl.toNat
  | .vmul f => 2 + f.cl.toNat
  | .vmulh f => 2 + f.cl.toNat
  | .vmad f => 2 + f.cl.toNat
  | .vand f => 2 + f.cl.toNat
  | .vor f => 2 + f.cl.toNat
  | .vxor f => 2 + f.cl.toNat
  | .vandn f => 2 + f.cl.toNat
  | .vshl f => 2 + f.cl.toNat
  | .vshr f => 2 + f.cl.toNat
  | .vsra f => 2 + f.cl.toNat
  | .vmin f => 2 + f.cl.toNat
  | .vmax f => 2 + f.cl.toNat
  | .vabs f => 2 + f.cl.toNat
  | .vneg f => 2 + f.cl.toNat
  | .vcmp f => 2 + f.cl.toNat
  | .vfadd f => 2 + f.cl.toNat
  | .vfsub f => 2 + f.cl.toNat
  | .vfmul f => 2 + f.cl.toNat
  | .vfma f => 2 + f.cl.toNat
  | .vfmin f => 2 + f.cl.toNat
  | .vfmax f => 2 + f.cl.toNat
  | .vfabs f => 2 + f.cl.toNat
  | .vfneg f => 2 + f.cl.toNat
  | .vfcmp f => 2 + f.cl.toNat
  | .vfrnd f => 2 + f.cl.toNat
  | .vrcp f => 2 + f.cl.toNat
  | .vrsq f => 2 + f.cl.toNat
  | .vexp2 f => 2 + f.cl.toNat
  | .vlog2 f => 2 + f.cl.toNat
  | .vtanh f => 2 + f.cl.toNat
  | .vsigm f => 2 + f.cl.toNat
  | .vrng _ => 3
  | .vcvt f => 2 + f.cl.toNat
  | .vqnt f => 2 + f.cl.toNat
  | .vdqnt f => 2 + f.cl.toNat
  | .pand f => 2 + f.cl.toNat
  | .por f => 2 + f.cl.toNat
  | .pxor f => 2 + f.cl.toNat
  | .pnot f => 2 + f.cl.toNat
  | .pmov f => 2 + f.cl.toNat
  | .psetn f => 2 + f.cl.toNat
  | .vsel f => 2 + f.cl.toNat
  | .vperm f => 2 + f.cl.toNat
  | .vrot f => 2 + f.cl.toNat
  | .vshfl f => 2 + f.cl.toNat
  | .vbcst f => 2 + f.cl.toNat
  | .vmov f => 2 + f.cl.toNat
  | .vradd f => 2 + f.cl.toNat
  | .vrmax f => 2 + f.cl.toNat
  | .vrmin f => 2 + f.cl.toNat
  | .vrfadd f => 2 + f.cl.toNat
  | .vrfmax f => 2 + f.cl.toNat
  | .vband f => 2 + f.cl.toNat
  | .vpopc f => 2 + f.cl.toNat
  | .vpfx f => 2 + f.cl.toNat
  | .visect f => 2 + f.cl.toNat
  | .vcsw f => 2 + f.cl.toNat
  | .vcswx f => 2 + f.cl.toNat
  | .malloc _ => 4
  | .mfree _ => 4
  | .mband _ => 4
  | .mzero _ => 4
  | .mldw _ => 4
  | .mmul _ => 4
  | .mmulg _ => 4
  | .mmuls _ => 4
  | .mmulb _ => 4
  | .mmulc _ => 4
  | .mcond _ => 4
  | .mchain _ => 4
  | .mchainRecv _ => 4
  | .mdrain _ => 4
  | .mchk _ => 4
  | .ldv _ => 5
  | .stv _ => 5
  | .lds _ => 5
  | .sts _ => 5
  | .ldx _ => 5
  | .stx _ => 5
  | .ldf _ => 5
  | .stf _ => 5
  | .mark _ => 5
  | .sfence _ => 5
  | .vjoin _ => 5
  | .rset _ => 5
  | .rpush _ => 5
  | .xcopy _ => 6
  | .xcopyt _ => 6
  | .xpair _ => 6
  | .xfill _ => 6
  | .xgath _ => 6
  | .xscat _ => 6
  | .xacc _ => 6
  | .xcas _ => 6
  | .xnear _ => 6
  | .xsend _ => 6
  | .xpost _ => 6
  | .xcoll _ => 6
  | .xfence _ => 6
  | .xhand _ => 6
  | .xtake _ => 6
  | .xmedia _ => 6
  | .xspill _ => 6
  | .xrecall _ => 6
  | .qpop _ => 7
  | .kbl _ => 7
  | .kblW _ => 7
  | .kxpat _ => 7
  | .flagsRd _ => 7
  | .flagsClr _ => 7
  | .flagsEn _ => 7
  | .kscale _ => 7
  | .kscalei _ => 7
  | .krbind _ => 7
  | .krec _ => 7
  | .krclr _ => 7
  | .kseal _ => 7
  | .cksum _ => 7
  | .ttq _ => 7
  | .ttset _ => 7
  | .ttsettle _ => 7
  | .ttpromo _ => 7
  | .jcbadd _ => 7
  | .jcbdone _ => 7
  | .jcbq _ => 7
  | .jemit _ => 7
  | .jemitMark _ => 7
  | .jroute _ => 7
  | .jgen _ => 7
  | .jrpl _ => 7
  | .jtrunc _ => 7
  | .ctag _ => 7
  | .resq _ => 7
  | .deferredTrap => 8
  | .resultLanding => 8
  | .farDataArrival _ _ _ => 8
  | .timedLanding => 8
  | .segmentFetchDone _ _ => 8
  | .emptyBundle => 8
  | .eclipseSwap => 8
  | .pushWindowWrite _ _ _ _ => 8
  | .pushWindowAdmit _ => 8
  | .mInstructionStart => 8
  | .mInstructionRetire => 8
  | .drainVectorPush => 8
  | .chainForm _ => 8
  | .accWindowWrite _ _ _ => 8
  | .stWrite _ _ => 8
  | .hcWrite _ _ => 8
  | .launchRecordRead _ => 8
  | .launchPlace => 8
  | .agingTick _ => 8
  | .taskSave _ _ => 8
  | .launchRestore _ => 8
  | .launchComplete _ => 8
  | .faultAck _ => 8
  | .dependenceWatchdog _ => 8
  | .runWatchdog _ => 8
  | .dispatcherFailover => 8
  | .arrivalDeliver _ => 8
  | .communicationPhase _ _ _ => 8
  | .jcbApply _ => 8
  | .translationWalk _ _ _ _ _ => 8
  | .translationInvalidate _ _ _ => 8
  | .channelReplay _ _ => 8
  | .channelAbort _ _ => 8
  | .offerTakeable _ _ => 8
  | .xtakeApply _ => 8
  | .frameReturn _ => 8
  | .offloadDone _ => 8
  | .tileCheckRetry _ _ => 8
  | .luxMergeApply _ => 8
  | .lqPerform _ _ => 8
  | .sqLeave _ _ => 8
  | .scopePropagate _ => 8
  | .viewSeenRaise _ _ _ _ => 8
  | .engineAccessPerform _ _ => 8
  | .commandStart _ _ => 8
  | .commandComplete _ _ => 8
  | .atomicApply _ _ => 8
  | .fabricMessageArrive _ _ _ _ => 8
  | .collectiveMatch _ _ _ _ => 8
  | .viewCacheFill _ _ _ => 8
  | .hostAccess _ _ _ _ => 8
  | .managementWrite _ _ => 8
  | .linkFlitResend => 8
  | .deviceFailed => 8
  | .deviceReset => 8
  | .secureBoot _ _ _ _ _ _ _ _ => 8
  | .attestNonceWrite _ => 8
  | .attestReportDone => 8
  | .ageingUpdate _ _ _ => 8
  | .powerStateRequest _ => 8
  | .idleEntry => 8
  | .lowExit => 8
  | .clockStepDown => 8
  | .clockStepUp => 8
  | .criticalTemperature => 8
  | .journalAppendAssign => 8
  | .mirrorEntryWrite _ _ => 8
  | .mirrorAck _ _ => 8
  | .mirrorLost _ => 8
  | .jmirrorWrite _ => 8
  | .replayStart _ _ => 8
  | .dieLinkRetrain _ => 8
  | .fabricPortFailure _ => 8
  | .fabricPeerRequest _ _ _ _ _ => 8
  | .residencyRecallDone _ => 8

/-- The position of the lowest bit set, 0 for 0. -/
def lowBit (w : BitVec 32) : Nat := ((List.range 32).find? fun i => w.getLsbD i).getD 0

/-- Where the operand fields of a slot's layouts begin that may lie side by side with nothing in them (R46, R48, R55,
R56). -/
def fieldStarts (slot op : Nat) : List Nat :=
  match slot with
  | 0 => []
  | 1 => if op ≤ 0x1D then [3, 8] else if 0x29 ≤ op then [16] else []
  | 2 | 3 => [7, 8, 9, 14, 19]
  | 5 => [6, 7, 8, 12, 13, 18]
  | _ => [8, 13, 18]

/-- The lowest bit of the reserved field that holds bit `i` (R62; DEDUCED, log entry 28). -/
def fieldLow (zero : BitVec 32) (starts : List Nat) : Nat → Nat
  | 0 => 0
  | i + 1 => if starts.contains (i + 1) || !zero.getLsbD i then i + 1 else fieldLow zero starts i

/-- The first fixed field of a layout that does not hold its value: (low bit, width, value, reason). -/
def firstFixed (w : BitVec 32) : List (Nat × Nat × Nat × Nat) → Option DecErr
  | [] => none
  | (lo, n, v, r) :: t => if (w.toNat / 2 ^ lo) % 2 ^ n = v then firstFixed w t else some ⟨2, r, lo⟩

/-- Accept `i` for the word `w` unless a reserved bit is set (reason 2), a fixed field holds another value, or a
field of `i` holds a value its layout rules out (R61). DEDUCED: log entry 34. -/
def accept (w zero : BitVec 32) (fixed : List (Nat × Nat × Nat × Nat)) (i : Instr) : Except DecErr Instr :=
  if w &&& zero = 0 then
    match firstFixed w fixed with
    | some e => .error e
    | none => match fieldErr i with
      | some e => .error e
      | none => .ok i
  else
    .error ⟨2, 2, fieldLow zero (fieldStarts i.slot (w.extractLsb' 23 7).toNat) (lowBit (w &&& zero))⟩

/-- An opcode its slot's map does not assign (R61, reason 0). -/
def unassigned : Except DecErr Instr := .error ⟨1, 0, 0xFF⟩

/-- The fields of layout CN. -/
def unCN (w : BitVec 32) : CN :=
  { g := w.extractLsb' 31 1 }
/-- The fields of layout CJ. -/
def unCJ (w : BitVec 32) : CJ :=
  { g := w.extractLsb' 31 1, off := w.extractLsb' 0 23 }
/-- The fields of layout CBr. -/
def unCBr (w : BitVec 32) : CBr :=
  { g := w.extractLsb' 31 1, s := w.extractLsb' 18 5, cond := w.extractLsb' 16 2, off := w.extractLsb' 0 16 }
/-- The fields of layout CBrp. -/
def unCBrp (w : BitVec 32) : CBrp :=
  { g := w.extractLsb' 31 1, cl := w.extractLsb' 22 1, pn := w.extractLsb' 20 2, sense := w.extractLsb' 19 1, w := w.extractLsb' 17 2, off := w.extractLsb' 0 16 }
/-- The fields of layout CS. -/
def unCS (w : BitVec 32) : CS :=
  { g := w.extractLsb' 31 1, s := w.extractLsb' 18 5 }
/-- The fields of layout CLp. -/
def unCLp (w : BitVec 32) : CLp :=
  { g := w.extractLsb' 31 1, s := w.extractLsb' 18 5, pre := w.extractLsb' 12 1, dist := w.extractLsb' 0 12 }
/-- The fields of layout CLpi. -/
def unCLpi (w : BitVec 32) : CLpi :=
  { g := w.extractLsb' 31 1, n := w.extractLsb' 13 10, pre := w.extractLsb' 12 1, dist := w.extractLsb' 0 12 }
/-- The fields of layout CK. -/
def unCK (w : BitVec 32) : CK :=
  { g := w.extractLsb' 31 1, k := w.extractLsb' 0 3 }
/-- The fields of layout CSeg. -/
def unCSeg (w : BitVec 32) : CSeg :=
  { g := w.extractLsb' 31 1, s := w.extractLsb' 18 5, idx := w.extractLsb' 0 16 }
/-- The fields of layout CCode. -/
def unCCode (w : BitVec 32) : CCode :=
  { g := w.extractLsb' 31 1, code := w.extractLsb' 0 16 }
/-- The fields of layout CBar. -/
def unCBar (w : BitVec 32) : CBar :=
  { g := w.extractLsb' 31 1, lvl := w.extractLsb' 8 3, num := w.extractLsb' 0 5 }
/-- The fields of layout CLvl. -/
def unCLvl (w : BitVec 32) : CLvl :=
  { g := w.extractLsb' 31 1, lvl := w.extractLsb' 0 3 }
/-- The fields of layout CMf. -/
def unCMf (w : BitVec 32) : CMf :=
  { g := w.extractLsb' 31 1, sd := w.extractLsb' 18 5, reg := w.extractLsb' 0 12 }
/-- The fields of layout CMt. -/
def unCMt (w : BitVec 32) : CMt :=
  { g := w.extractLsb' 31 1, sa := w.extractLsb' 13 5, reg := w.extractLsb' 0 12 }
/-- The fields of layout SR. -/
def unSR (w : BitVec 32) : SR :=
  { ar := w.extractLsb' 30 2, sd := w.extractLsb' 18 5, sa := w.extractLsb' 13 5, sb := w.extractLsb' 8 5 }
/-- The fields of layout SSel. -/
def unSSel (w : BitVec 32) : SSel :=
  { ar := w.extractLsb' 30 2, sd := w.extractLsb' 18 5, sa := w.extractLsb' 13 5, sb := w.extractLsb' 8 5, sc := w.extractLsb' 3 5 }
/-- The fields of layout SOne. -/
def unSOne (w : BitVec 32) : SOne :=
  { ar := w.extractLsb' 30 2, sd := w.extractLsb' 18 5, sa := w.extractLsb' 13 5 }
/-- The fields of layout SFld. -/
def unSFld (w : BitVec 32) : SFld :=
  { ar := w.extractLsb' 30 2, sd := w.extractLsb' 18 5, sa := w.extractLsb' 13 5, pos := w.extractLsb' 7 6, wid := w.extractLsb' 0 7 }
/-- The fields of layout SImm. -/
def unSImm (w : BitVec 32) : SImm :=
  { ar := w.extractLsb' 30 2, sd := w.extractLsb' 18 5, sa := w.extractLsb' 13 5, imm := w.extractLsb' 0 13 }
/-- The fields of layout SSh. -/
def unSSh (w : BitVec 32) : SSh :=
  { ar := w.extractLsb' 30 2, sd := w.extractLsb' 18 5, sa := w.extractLsb' 13 5, sh := w.extractLsb' 0 6 }
/-- The fields of layout SLi. -/
def unSLi (w : BitVec 32) : SLi :=
  { ar := w.extractLsb' 30 2, sd := w.extractLsb' 18 5, imm := w.extractLsb' 0 18 }
/-- The fields of layout SIns. -/
def unSIns (w : BitVec 32) : SIns :=
  { ar := w.extractLsb' 30 2, sd := w.extractLsb' 18 5, imm := w.extractLsb' 0 16 }
/-- The fields of layout SLv. -/
def unSLv (w : BitVec 32) : SLv :=
  { ar := w.extractLsb' 30 2, sd := w.extractLsb' 18 5, lvl := w.extractLsb' 0 3 }
/-- The fields of layout V3. -/
def unV3 (cl : BitVec 1) (w : BitVec 32) : V3 :=
  { cl := cl, ar := w.extractLsb' 30 2, vd := w.extractLsb' 19 4, va := w.extractLsb' 14 5, vb := w.extractLsb' 9 5, pa := w.extractLsb' 8 1, pb := w.extractLsb' 7 1, pred := w.extractLsb' 4 3, fmt := w.extractLsb' 0 4 }
/-- The fields of layout V2. -/
def unV2 (cl : BitVec 1) (w : BitVec 32) : V2 :=
  { cl := cl, ar := w.extractLsb' 30 2, vd := w.extractLsb' 19 4, va := w.extractLsb' 14 5, pa := w.extractLsb' 8 1, pred := w.extractLsb' 4 3, fmt := w.extractLsb' 0 4 }
/-- The fields of layout VCm. -/
def unVCm (cl : BitVec 1) (w : BitVec 32) : VCm :=
  { cl := cl, ar := w.extractLsb' 30 2, cond := w.extractLsb' 21 2, vd := w.extractLsb' 19 2, va := w.extractLsb' 14 5, vb := w.extractLsb' 9 5, pa := w.extractLsb' 8 1, pb := w.extractLsb' 7 1, pred := w.extractLsb' 4 3, fmt := w.extractLsb' 0 4 }
/-- The fields of layout VRn. -/
def unVRn (w : BitVec 32) : VRn :=
  { ar := w.extractLsb' 30 2, vd := w.extractLsb' 19 4, pred := w.extractLsb' 4 3, fmt := w.extractLsb' 0 4 }
/-- The fields of layout VCv. -/
def unVCv (cl : BitVec 1) (w : BitVec 32) : VCv :=
  { cl := cl, ar := w.extractLsb' 30 2, vd := w.extractLsb' 19 4, va := w.extractLsb' 14 5, sfmt := w.extractLsb' 9 4, pa := w.extractLsb' 8 1, pred := w.extractLsb' 4 3, fmt := w.extractLsb' 0 4 }
/-- The fields of layout VQn. -/
def unVQn (cl : BitVec 1) (w : BitVec 32) : VQn :=
  { cl := cl, ar := w.extractLsb' 30 2, vd := w.extractLsb' 19 4, va := w.extractLsb' 14 5, chk := w.extractLsb' 12 1, ks := w.extractLsb' 9 3, pa := w.extractLsb' 8 1, pred := w.extractLsb' 4 3, fmt := w.extractLsb' 0 4 }
/-- The fields of layout VDq. -/
def unVDq (cl : BitVec 1) (w : BitVec 32) : VDq :=
  { cl := cl, ar := w.extractLsb' 30 2, vd := w.extractLsb' 19 4, va := w.extractLsb' 14 5, ks := w.extractLsb' 9 3, pa := w.extractLsb' 8 1, pred := w.extractLsb' 4 3, fmt := w.extractLsb' 0 4 }
/-- The fields of layout PP3. -/
def unPP3 (cl : BitVec 1) (w : BitVec 32) : PP3 :=
  { cl := cl, ar := w.extractLsb' 30 2, vd := w.extractLsb' 19 2, va := w.extractLsb' 14 2, vb := w.extractLsb' 9 2 }
/-- The fields of layout PP2. -/
def unPP2 (cl : BitVec 1) (w : BitVec 32) : PP2 :=
  { cl := cl, ar := w.extractLsb' 30 2, vd := w.extractLsb' 19 2, va := w.extractLsb' 14 2 }
/-- The fields of layout PSn. -/
def unPSn (cl : BitVec 1) (w : BitVec 32) : PSn :=
  { cl := cl, ar := w.extractLsb' 30 2, vd := w.extractLsb' 19 2, va := w.extractLsb' 14 5, pa := w.extractLsb' 8 1, fmt := w.extractLsb' 0 4 }
/-- The fields of layout VRt. -/
def unVRt (cl : BitVec 1) (w : BitVec 32) : VRt :=
  { cl := cl, ar := w.extractLsb' 30 2, vd := w.extractLsb' 19 4, va := w.extractLsb' 14 5, vb := w.extractLsb' 9 5, pa := w.extractLsb' 8 1, pb := w.extractLsb' 7 1 }
/-- The fields of layout VBn. -/
def unVBn (cl : BitVec 1) (w : BitVec 32) : VBn :=
  { cl := cl, ar := w.extractLsb' 30 2, vd := w.extractLsb' 19 4, va := w.extractLsb' 14 5, vb := w.extractLsb' 9 5, pa := w.extractLsb' 8 1, pb := w.extractLsb' 7 1, pred := w.extractLsb' 4 3 }
/-- The fields of layout VIs. -/
def unVIs (cl : BitVec 1) (w : BitVec 32) : VIs :=
  { cl := cl, ar := w.extractLsb' 30 2, vd := w.extractLsb' 19 4, va := w.extractLsb' 14 5, vb := w.extractLsb' 9 5, pa := w.extractLsb' 8 1, pb := w.extractLsb' 7 1, fmt := w.extractLsb' 0 4 }
/-- The fields of layout MBk. -/
def unMBk (w : BitVec 32) : MBk :=
  { ar := w.extractLsb' 30 2, sx := w.extractLsb' 18 5, n := w.extractLsb' 0 6 }
/-- The fields of layout MBd. -/
def unMBd (w : BitVec 32) : MBd :=
  { ar := w.extractLsb' 30 2, sx := w.extractLsb' 18 5, sy := w.extractLsb' 13 5, rel := w.extractLsb' 2 1, pos := w.extractLsb' 0 2 }
/-- The fields of layout R2. -/
def unR2 (w : BitVec 32) : R2 :=
  { ar := w.extractLsb' 30 2, sx := w.extractLsb' 18 5, sy := w.extractLsb' 13 5 }
/-- The fields of layout MLd. -/
def unMLd (w : BitVec 32) : MLd :=
  { ar := w.extractLsb' 30 2, sx := w.extractLsb' 18 5, cb := w.extractLsb' 6 1, buf := w.extractLsb' 5 1, west := w.extractLsb' 4 1, fmt := w.extractLsb' 0 4 }
/-- The fields of layout MMu. -/
def unMMu (w : BitVec 32) : MMu :=
  { ar := w.extractLsb' 30 2, sx := w.extractLsb' 18 5, sy := w.extractLsb' 13 5, sz := w.extractLsb' 8 5, keep := w.extractLsb' 7 1, rg := w.extractLsb' 4 3, fmt := w.extractLsb' 0 4 }
/-- The fields of layout MMg. -/
def unMMg (w : BitVec 32) : MMg :=
  { ar := w.extractLsb' 30 2, sx := w.extractLsb' 18 5, sy := w.extractLsb' 13 5, sz := w.extractLsb' 8 5, rg := w.extractLsb' 5 3, cl := w.extractLsb' 4 1, q := w.extractLsb' 0 4 }
/-- The fields of layout MMs. -/
def unMMs (w : BitVec 32) : MMs :=
  { ar := w.extractLsb' 30 2, sx := w.extractLsb' 18 5, sy := w.extractLsb' 13 5, sz := w.extractLsb' 8 5, pat := w.extractLsb' 7 1, rg := w.extractLsb' 4 3, fmt := w.extractLsb' 0 4 }
/-- The fields of layout MCo. -/
def unMCo (w : BitVec 32) : MCo :=
  { ar := w.extractLsb' 30 2, sx := w.extractLsb' 18 5, sy := w.extractLsb' 13 5, fmt := w.extractLsb' 0 4 }
/-- The fields of layout MCh. -/
def unMCh (w : BitVec 32) : MCh :=
  { ar := w.extractLsb' 30 2, sx := w.extractLsb' 18 5, sy := w.extractLsb' 13 5, sz := w.extractLsb' 8 5, rg := w.extractLsb' 4 3, fmt := w.extractLsb' 0 4 }
/-- The fields of layout R3. -/
def unR3 (w : BitVec 32) : R3 :=
  { ar := w.extractLsb' 30 2, sx := w.extractLsb' 18 5, sy := w.extractLsb' 13 5, sz := w.extractLsb' 8 5 }
/-- The fields of layout MDr. -/
def unMDr (w : BitVec 32) : MDr :=
  { ar := w.extractLsb' 30 2, sx := w.extractLsb' 18 5, sy := w.extractLsb' 13 5, sz := w.extractLsb' 8 5, q := w.extractLsb' 7 1, log := w.extractLsb' 6 1, lux := w.extractLsb' 5 1, clr := w.extractLsb' 4 1, fmt := w.extractLsb' 0 4 }
/-- The fields of layout MCk. -/
def unMCk (w : BitVec 32) : MCk :=
  { ar := w.extractLsb' 30 2, sx := w.extractLsb' 18 5, sy := w.extractLsb' 13 5, col := w.extractLsb' 0 1 }
/-- The fields of layout LLd. -/
def unLLd (w : BitVec 32) : LLd :=
  { ar := w.extractLsb' 30 2, sx := w.extractLsb' 18 5, sy := w.extractLsb' 13 5, cl := w.extractLsb' 12 1, q := w.extractLsb' 8 4, ma := w.extractLsb' 6 1, view := w.extractLsb' 5 1 }
/-- The fields of layout LSt. -/
def unLSt (w : BitVec 32) : LSt :=
  { ar := w.extractLsb' 30 2, sx := w.extractLsb' 18 5, sy := w.extractLsb' 13 5, cl := w.extractLsb' 12 1, q := w.extractLsb' 8 4, pk := w.extractLsb' 7 1, ma := w.extractLsb' 6 1, view := w.extractLsb' 5 1 }
/-- The fields of layout LEl. -/
def unLEl (w : BitVec 32) : LEl :=
  { ar := w.extractLsb' 30 2, sx := w.extractLsb' 18 5, sy := w.extractLsb' 13 5, ma := w.extractLsb' 6 1, view := w.extractLsb' 5 1, sgn := w.extractLsb' 2 1, size := w.extractLsb' 0 2 }
/-- The fields of layout LEs. -/
def unLEs (w : BitVec 32) : LEs :=
  { ar := w.extractLsb' 30 2, sx := w.extractLsb' 18 5, sy := w.extractLsb' 13 5, ma := w.extractLsb' 6 1, view := w.extractLsb' 5 1, size := w.extractLsb' 0 2 }
/-- The fields of layout LXl. -/
def unLXl (w : BitVec 32) : LXl :=
  { ar := w.extractLsb' 30 2, sx := w.extractLsb' 18 5, sy := w.extractLsb' 13 5, cl := w.extractLsb' 12 1, q := w.extractLsb' 8 4, ma := w.extractLsb' 6 1, xp := w.extractLsb' 4 2, fmt := w.extractLsb' 0 4 }
/-- The fields of layout LXs. -/
def unLXs (w : BitVec 32) : LXs :=
  { ar := w.extractLsb' 30 2, sx := w.extractLsb' 18 5, sy := w.extractLsb' 13 5, cl := w.extractLsb' 12 1, q := w.extractLsb' 8 4, pk := w.extractLsb' 7 1, ma := w.extractLsb' 6 1, xp := w.extractLsb' 4 2, fmt := w.extractLsb' 0 4 }
/-- The fields of layout LFl. -/
def unLFl (w : BitVec 32) : LFl :=
  { ar := w.extractLsb' 30 2, sx := w.extractLsb' 18 5, cl := w.extractLsb' 17 1, q := w.extractLsb' 13 4, dist := w.extractLsb' 0 12 }
/-- The fields of layout LFs. -/
def unLFs (w : BitVec 32) : LFs :=
  { ar := w.extractLsb' 30 2, sx := w.extractLsb' 18 5, cl := w.extractLsb' 17 1, q := w.extractLsb' 13 4, pk := w.extractLsb' 12 1 }
/-- The fields of layout R0. -/
def unR0 (w : BitVec 32) : R0 :=
  { ar := w.extractLsb' 30 2 }
/-- The fields of layout LSf. -/
def unLSf (w : BitVec 32) : LSf :=
  { ar := w.extractLsb' 30 2, scope := w.extractLsb' 0 3 }
/-- The fields of layout LVj. -/
def unLVj (w : BitVec 32) : LVj :=
  { ar := w.extractLsb' 30 2, sx := w.extractLsb' 18 5, sy := w.extractLsb' 13 5, dir := w.extractLsb' 0 2 }
/-- The fields of layout LRs. -/
def unLRs (w : BitVec 32) : LRs :=
  { ar := w.extractLsb' 30 2, sx := w.extractLsb' 18 5, sy := w.extractLsb' 13 5, rg := w.extractLsb' 0 3 }
/-- The fields of layout LRp. -/
def unLRp (w : BitVec 32) : LRp :=
  { ar := w.extractLsb' 30 2, n := w.extractLsb' 3 3, rg := w.extractLsb' 0 3 }
/-- The fields of layout XCp. -/
def unXCp (w : BitVec 32) : XCp :=
  { ar := w.extractLsb' 30 2, sx := w.extractLsb' 18 5, sy := w.extractLsb' 13 5, sz := w.extractLsb' 8 5, ch := w.extractLsb' 5 3, pb := w.extractLsb' 4 1, emit := w.extractLsb' 3 1, quiet := w.extractLsb' 2 1 }
/-- The fields of layout XBk. -/
def unXBk (w : BitVec 32) : XBk :=
  { ar := w.extractLsb' 30 2, sx := w.extractLsb' 18 5, ch := w.extractLsb' 5 3, pb := w.extractLsb' 4 1 }
/-- The fields of layout XFi. -/
def unXFi (w : BitVec 32) : XFi :=
  { ar := w.extractLsb' 30 2, sx := w.extractLsb' 18 5, sy := w.extractLsb' 13 5, sz := w.extractLsb' 8 5, ch := w.extractLsb' 5 3, pb := w.extractLsb' 4 1, kind := w.extractLsb' 0 3 }
/-- The fields of layout XAc. -/
def unXAc (w : BitVec 32) : XAc :=
  { ar := w.extractLsb' 30 2, sx := w.extractLsb' 18 5, sy := w.extractLsb' 13 5, sz := w.extractLsb' 8 5, ch := w.extractLsb' 5 3, pb := w.extractLsb' 4 1, op := w.extractLsb' 0 4 }
/-- The fields of layout XCa. -/
def unXCa (w : BitVec 32) : XCa :=
  { ar := w.extractLsb' 30 2, sx := w.extractLsb' 18 5, sy := w.extractLsb' 13 5, sz := w.extractLsb' 8 5, ch := w.extractLsb' 5 3, pb := w.extractLsb' 4 1, w64 := w.extractLsb' 3 1 }
/-- The fields of layout XSe. -/
def unXSe (w : BitVec 32) : XSe :=
  { ar := w.extractLsb' 30 2, sx := w.extractLsb' 18 5, ch := w.extractLsb' 5 3, pb := w.extractLsb' 4 1, emit := w.extractLsb' 3 1 }
/-- The fields of layout XFe. -/
def unXFe (w : BitVec 32) : XFe :=
  { ar := w.extractLsb' 30 2, sx := w.extractLsb' 18 5, s := w.extractLsb' 1 1, q := w.extractLsb' 0 1 }
/-- The fields of layout XTk. -/
def unXTk (w : BitVec 32) : XTk :=
  { ar := w.extractLsb' 30 2, sx := w.extractLsb' 18 5, sy := w.extractLsb' 13 5, free := w.extractLsb' 0 1 }
/-- The fields of layout XSp. -/
def unXSp (w : BitVec 32) : XSp :=
  { ar := w.extractLsb' 30 2, sx := w.extractLsb' 18 5, sy := w.extractLsb' 13 5, ch := w.extractLsb' 5 3, pb := w.extractLsb' 4 1, sel := w.extractLsb' 0 2 }
/-- The fields of layout KQp. -/
def unKQp (w : BitVec 32) : KQp :=
  { ar := w.extractLsb' 30 2, sx := w.extractLsb' 18 5, w := w.extractLsb' 7 1, q := w.extractLsb' 0 1 }
/-- The fields of layout KBl. -/
def unKBl (w : BitVec 32) : KBl :=
  { ar := w.extractLsb' 30 2, sx := w.extractLsb' 18 5, cl := w.extractLsb' 7 1, fmt := w.extractLsb' 0 4 }
/-- The fields of layout KBw. -/
def unKBw (w : BitVec 32) : KBw :=
  { ar := w.extractLsb' 30 2, sx := w.extractLsb' 18 5, cl := w.extractLsb' 7 1, i := w.extractLsb' 0 5 }
/-- The fields of layout KXp. -/
def unKXp (w : BitVec 32) : KXp :=
  { ar := w.extractLsb' 30 2, sx := w.extractLsb' 18 5, sy := w.extractLsb' 13 5, xp := w.extractLsb' 0 2 }
/-- The fields of layout KF1. -/
def unKF1 (w : BitVec 32) : KF1 :=
  { ar := w.extractLsb' 30 2, sx := w.extractLsb' 18 5, eng := w.extractLsb' 0 3 }
/-- The fields of layout KF2. -/
def unKF2 (w : BitVec 32) : KF2 :=
  { ar := w.extractLsb' 30 2, sx := w.extractLsb' 18 5, sy := w.extractLsb' 13 5, eng := w.extractLsb' 0 3 }
/-- The fields of layout KSc. -/
def unKSc (w : BitVec 32) : KSc :=
  { ar := w.extractLsb' 30 2, sx := w.extractLsb' 18 5, sy := w.extractLsb' 13 5, ks := w.extractLsb' 0 3 }
/-- The fields of layout KRb. -/
def unKRb (w : BitVec 32) : KRb :=
  { ar := w.extractLsb' 30 2, sx := w.extractLsb' 18 5, sy := w.extractLsb' 13 5, unbind := w.extractLsb' 1 1, cos := w.extractLsb' 0 1 }
/-- The fields of layout KRc. -/
def unKRc (w : BitVec 32) : KRc :=
  { ar := w.extractLsb' 30 2, sx := w.extractLsb' 18 5, sy := w.extractLsb' 13 5, sz := w.extractLsb' 8 5, sealed := w.extractLsb' 7 1, fld := w.extractLsb' 0 4 }
/-- The fields of layout KRr. -/
def unKRr (w : BitVec 32) : KRr :=
  { ar := w.extractLsb' 30 2, sx := w.extractLsb' 18 5, sel := w.extractLsb' 0 2 }
/-- The fields of layout R1. -/
def unR1 (w : BitVec 32) : R1 :=
  { ar := w.extractLsb' 30 2, sx := w.extractLsb' 18 5 }
/-- The fields of layout KTq. -/
def unKTq (w : BitVec 32) : KTq :=
  { ar := w.extractLsb' 30 2, sx := w.extractLsb' 18 5, sy := w.extractLsb' 13 5, w1 := w.extractLsb' 0 1 }
/-- The fields of layout KTs. -/
def unKTs (w : BitVec 32) : KTs :=
  { ar := w.extractLsb' 30 2, sx := w.extractLsb' 18 5, sy := w.extractLsb' 13 5, fmt := w.extractLsb' 4 4, kind := w.extractLsb' 0 3 }
/-- The fields of layout KJa. -/
def unKJa (w : BitVec 32) : KJa :=
  { ar := w.extractLsb' 30 2, sx := w.extractLsb' 18 5, sy := w.extractLsb' 13 5, slot := w.extractLsb' 0 6 }
/-- The fields of layout KJd. -/
def unKJd (w : BitVec 32) : KJd :=
  { ar := w.extractLsb' 30 2, sx := w.extractLsb' 18 5, err := w.extractLsb' 7 1, close := w.extractLsb' 6 1, slot := w.extractLsb' 0 6 }
/-- The fields of layout KJe. -/
def unKJe (w : BitVec 32) : KJe :=
  { ar := w.extractLsb' 30 2, sx := w.extractLsb' 18 5, sy := w.extractLsb' 13 5, sz := w.extractLsb' 8 5, n := w.extractLsb' 0 3 }
/-- The fields of layout KJr. -/
def unKJr (w : BitVec 32) : KJr :=
  { ar := w.extractLsb' 30 2, sx := w.extractLsb' 18 5, sy := w.extractLsb' 13 5, sz := w.extractLsb' 8 5, gf := w.extractLsb' 3 1, n := w.extractLsb' 0 3 }
/-- The fields of layout KJp. -/
def unKJp (w : BitVec 32) : KJp :=
  { ar := w.extractLsb' 30 2, kind := w.extractLsb' 6 2, cl := w.extractLsb' 4 1, q := w.extractLsb' 0 4 }

/-- The opcode map of the C slot (R57). -/
def decodeC (w : BitVec 32) : Nat → Except DecErr Instr
  | 0x01 => accept w 0x40000000 [] (.jmp (unCJ w))
  | 0x02 => accept w 0x40000000 [] (.br (unCBr w))
  | 0x03 => accept w 0x40010000 [] (.brp (unCBrp w))
  | 0x04 => accept w 0x4003FFFF [] (.jmpi (unCS w))
  | 0x05 => accept w 0x40000000 [] (.call (unCJ w))
  | 0x06 => accept w 0x4003FFFF [] (.calli (unCS w))
  | 0x07 => accept w 0x407FFFFF [] (.ret (unCN w))
  | 0x08 => accept w 0x4003E000 [] (.loop (unCLp w))
  | 0x09 => accept w 0x40000000 [] (.loopi (unCLpi w))
  | 0x0A => accept w 0x407FFFF8 [] (.brkl (unCK w))
  | 0x0B => accept w 0x40030000 [] (.segj (unCSeg w))
  | 0x0C => accept w 0x407FFFFF [] (.safe (unCN w))
  | 0x0D => accept w 0x407F0000 [] (.trap (unCCode w))
  | 0x0E => accept w 0x407FFFFF [] (.eret (unCN w))
  | 0x0F => accept w 0x407F0000 [] (.brkpt (unCCode w))
  | 0x10 => accept w 0x407FFFFF [] (.halt (unCN w))
  | 0x11 => accept w 0x407FF8E0 [] (.waitb (unCBar w))
  | 0x12 => accept w 0x407FF8E0 [] (.arrive (unCBar w))
  | 0x13 => accept w 0x407FF8E0 [] (.arwait (unCBar w))
  | 0x14 => accept w 0x407FFFF8 [] (.sstep (unCLvl w))
  | 0x15 => accept w 0x407FFFFF [] (.eclipse (unCN w))
  | 0x16 => accept w 0x407FFFFF [] (.yield (unCN w))
  | 0x17 => accept w 0x4003FFFF [] (.waitj (unCS w))
  | 0x18 => accept w 0x4003F000 [] (.mfsr (unCMf w))
  | 0x19 => accept w 0x407C1000 [] (.mtsr (unCMt w))
  | _ => unassigned

/-- The opcode map of the S slot (R58). A nonzero unused register field is reported with reason 2: DESIGN CHOICE, log entry
116. -/
def decodeS (w : BitVec 32) : Nat → Except DecErr Instr
  | 0x01 => accept w 0x000000FF [] (.add (unSR w))
  | 0x02 => accept w 0x000000FF [] (.sub (unSR w))
  | 0x03 => accept w 0x000000FF [] (.and (unSR w))
  | 0x04 => accept w 0x000000FF [] (.or (unSR w))
  | 0x05 => accept w 0x000000FF [] (.xor (unSR w))
  | 0x06 => accept w 0x000000FF [] (.andn (unSR w))
  | 0x07 => accept w 0x000000FF [] (.shl (unSR w))
  | 0x08 => accept w 0x000000FF [] (.shr (unSR w))
  | 0x09 => accept w 0x000000FF [] (.sra (unSR w))
  | 0x0A => accept w 0x000000FF [] (.mul (unSR w))
  | 0x0B => accept w 0x000000FF [] (.mulh (unSR w))
  | 0x0C => accept w 0x000000FF [] (.mulhu (unSR w))
  | 0x0D => accept w 0x000000FF [] (.min (unSR w))
  | 0x0E => accept w 0x000000FF [] (.max (unSR w))
  | 0x0F => accept w 0x000000FF [] (.minu (unSR w))
  | 0x10 => accept w 0x000000FF [] (.maxu (unSR w))
  | 0x11 => accept w 0x000000FF [] (.seq (unSR w))
  | 0x12 => accept w 0x000000FF [] (.sne (unSR w))
  | 0x13 => accept w 0x000000FF [] (.slt (unSR w))
  | 0x14 => accept w 0x000000FF [] (.sltu (unSR w))
  | 0x15 => accept w 0x000000FF [] (.sle (unSR w))
  | 0x16 => accept w 0x000000FF [] (.sleu (unSR w))
  | 0x17 => accept w 0x00000007 [] (.sel (unSSel w))
  | 0x18 => accept w 0x00001FFF [] (.mov (unSOne w))
  | 0x19 => accept w 0x00001FFF [] (.abs (unSOne w))
  | 0x1A => accept w 0x00001FFF [] (.neg (unSOne w))
  | 0x1B => accept w 0x00001FFF [] (.clz (unSOne w))
  | 0x1C => accept w 0x00001FFF [] (.ctz (unSOne w))
  | 0x1D => accept w 0x00001FFF [] (.popc (unSOne w))
  | 0x1E => accept w 0x00000000 [] (.bfx (unSFld w))
  | 0x1F => accept w 0x00000000 [] (.bfi (unSFld w))
  | 0x20 => accept w 0x00000000 [] (.addi (unSImm w))
  | 0x21 => accept w 0x00000000 [] (.andi (unSImm w))
  | 0x22 => accept w 0x00000000 [] (.ori (unSImm w))
  | 0x23 => accept w 0x00000000 [] (.xori (unSImm w))
  | 0x24 => accept w 0x00001FC0 [] (.shli (unSSh w))
  | 0x25 => accept w 0x00001FC0 [] (.shri (unSSh w))
  | 0x26 => accept w 0x00001FC0 [] (.srai (unSSh w))
  | 0x27 => accept w 0x00000000 [] (.muli (unSImm w))
  | 0x28 => accept w 0x00000000 [] (.li (unSLi w))
  | 0x29 => accept w 0x00030000 [] (.lih (unSIns w))
  | 0x2A => accept w 0x00030000 [] (.lix (unSIns w))
  | 0x2B => accept w 0x00030000 [] (.lit (unSIns w))
  | 0x2C => accept w 0x0003FFF8 [] (.mfli (unSLv w))
  | 0x2D => accept w 0x0003FFF8 [] (.mflc (unSLv w))
  | 0x2E => accept w 0x00000000 [] (.slti (unSImm w))
  | 0x2F => accept w 0x00000000 [] (.seqi (unSImm w))
  | _ => unassigned

/-- The opcode map of the VA and VB slots (R59); cl is 0 in slot 2 and 1 in slot 3. An unused va or vb other than 26 is
reported with reason 3, a set bit of an unused pa or pb with reason 2: DESIGN CHOICE, log entry 116. -/
def decodeV (cl : BitVec 1) (w : BitVec 32) : Nat → Except DecErr Instr
  | 0x01 => accept w 0x00000000 [] (.vadd (unV3 cl w))
  | 0x02 => accept w 0x00000000 [] (.vsub (unV3 cl w))
  | 0x03 => accept w 0x00000000 [] (.vadds (unV3 cl w))
  | 0x04 => accept w 0x00000000 [] (.vsubs (unV3 cl w))
  | 0x05 => accept w 0x00000000 [] (.vmul (unV3 cl w))
  | 0x06 => accept w 0x00000000 [] (.vmulh (unV3 cl w))
  | 0x07 => accept w 0x00000000 [] (.vmad (unV3 cl w))
  | 0x08 => accept w 0x00000000 [] (.vand (unV3 cl w))
  | 0x09 => accept w 0x00000000 [] (.vor (unV3 cl w))
  | 0x0A => accept w 0x00000000 [] (.vxor (unV3 cl w))
  | 0x0B => accept w 0x00000000 [] (.vandn (unV3 cl w))
  | 0x0C => accept w 0x00000000 [] (.vshl (unV3 cl w))
  | 0x0D => accept w 0x00000000 [] (.vshr (unV3 cl w))
  | 0x0E => accept w 0x00000000 [] (.vsra (unV3 cl w))
  | 0x0F => accept w 0x00000000 [] (.vmin (unV3 cl w))
  | 0x10 => accept w 0x00000000 [] (.vmax (unV3 cl w))
  | 0x11 => accept w 0x00000080 [(9, 5, 26, 3)] (.vabs (unV2 cl w))
  | 0x12 => accept w 0x00000080 [(9, 5, 26, 3)] (.vneg (unV2 cl w))
  | 0x13 => accept w 0x00000000 [] (.vcmp (unVCm cl w))
  | 0x18 => accept w 0x00000000 [] (.vfadd (unV3 cl w))
  | 0x19 => accept w 0x00000000 [] (.vfsub (unV3 cl w))
  | 0x1A => accept w 0x00000000 [] (.vfmul (unV3 cl w))
  | 0x1B => accept w 0x00000000 [] (.vfma (unV3 cl w))
  | 0x1C => accept w 0x00000000 [] (.vfmin (unV3 cl w))
  | 0x1D => accept w 0x00000000 [] (.vfmax (unV3 cl w))
  | 0x1E => accept w 0x00000080 [(9, 5, 26, 3)] (.vfabs (unV2 cl w))
  | 0x1F => accept w 0x00000080 [(9, 5, 26, 3)] (.vfneg (unV2 cl w))
  | 0x20 => accept w 0x00000000 [] (.vfcmp (unVCm cl w))
  | 0x21 => accept w 0x00000080 [(9, 5, 26, 3)] (.vfrnd (unV2 cl w))
  | 0x28 => if cl = 0 then .error ⟨1, 1, 0xFF⟩ else accept w 0x00000080 [(9, 5, 26, 3)] (.vrcp (unV2 cl w))
  | 0x29 => if cl = 0 then .error ⟨1, 1, 0xFF⟩ else accept w 0x00000080 [(9, 5, 26, 3)] (.vrsq (unV2 cl w))
  | 0x2A => if cl = 0 then .error ⟨1, 1, 0xFF⟩ else accept w 0x00000080 [(9, 5, 26, 3)] (.vexp2 (unV2 cl w))
  | 0x2B => if cl = 0 then .error ⟨1, 1, 0xFF⟩ else accept w 0x00000080 [(9, 5, 26, 3)] (.vlog2 (unV2 cl w))
  | 0x2C => if cl = 0 then .error ⟨1, 1, 0xFF⟩ else accept w 0x00000080 [(9, 5, 26, 3)] (.vtanh (unV2 cl w))
  | 0x2D => if cl = 0 then .error ⟨1, 1, 0xFF⟩ else accept w 0x00000080 [(9, 5, 26, 3)] (.vsigm (unV2 cl w))
  | 0x2E => if cl = 0 then .error ⟨1, 1, 0xFF⟩ else accept w 0x00000180 [(14, 5, 26, 3), (9, 5, 26, 3)] (.vrng (unVRn w))
  | 0x30 => accept w 0x00002080 [] (.vcvt (unVCv cl w))
  | 0x31 => accept w 0x00002080 [] (.vqnt (unVQn cl w))
  | 0x32 => accept w 0x00003080 [] (.vdqnt (unVDq cl w))
  | 0x38 => accept w 0x00673980 [(4, 3, 0, 3), (0, 4, 15, 10)] (.pand (unPP3 cl w))
  | 0x39 => accept w 0x00673980 [(4, 3, 0, 3), (0, 4, 15, 10)] (.por (unPP3 cl w))
  | 0x3A => accept w 0x00673980 [(4, 3, 0, 3), (0, 4, 15, 10)] (.pxor (unPP3 cl w))
  | 0x3B => accept w 0x00673F80 [(4, 3, 0, 3), (0, 4, 15, 10)] (.pnot (unPP2 cl w))
  | 0x3C => accept w 0x00673F80 [(4, 3, 0, 3), (0, 4, 15, 10)] (.pmov (unPP2 cl w))
  | 0x3D => accept w 0x00600080 [(9, 5, 26, 3), (4, 3, 0, 3)] (.psetn (unPSn cl w))
  | 0x40 => accept w 0x00000000 [] (.vsel (unV3 cl w))
  | 0x41 => accept w 0x00000000 [] (.vperm (unV3 cl w))
  | 0x42 => accept w 0x00000000 [(4, 3, 0, 3), (0, 4, 15, 10)] (.vrot (unVRt cl w))
  | 0x43 => accept w 0x00000080 [(9, 5, 26, 3)] (.vshfl (unV2 cl w))
  | 0x44 => accept w 0x00000000 [] (.vbcst (unV3 cl w))
  | 0x45 => accept w 0x00000080 [(9, 5, 26, 3)] (.vmov (unV2 cl w))
  | 0x48 => accept w 0x00000080 [(9, 5, 26, 3)] (.vradd (unV2 cl w))
  | 0x49 => accept w 0x00000080 [(9, 5, 26, 3)] (.vrmax (unV2 cl w))
  | 0x4A => accept w 0x00000080 [(9, 5, 26, 3)] (.vrmin (unV2 cl w))
  | 0x4B => accept w 0x00000080 [(9, 5, 26, 3)] (.vrfadd (unV2 cl w))
  | 0x4C => accept w 0x00000080 [(9, 5, 26, 3)] (.vrfmax (unV2 cl w))
  | 0x50 => accept w 0x00000000 [(0, 4, 15, 10)] (.vband (unVBn cl w))
  | 0x51 => accept w 0x00000080 [(9, 5, 26, 3)] (.vpopc (unV2 cl w))
  | 0x52 => accept w 0x00000000 [] (.vpfx (unV3 cl w))
  | 0x53 => accept w 0x00000000 [(4, 3, 0, 3)] (.visect (unVIs cl w))
  | 0x54 => accept w 0x00000000 [] (.vcsw (unV3 cl w))
  | 0x55 => accept w 0x00000000 [] (.vcswx (unV3 cl w))
  | _ => unassigned

/-- The opcode map of the M slot (R60). -/
def decodeM (w : BitVec 32) : Nat → Except DecErr Instr
  | 0x01 => accept w 0x0003FFC0 [] (.malloc (unMBk w))
  | 0x02 => accept w 0x0003FFC0 [] (.mfree (unMBk w))
  | 0x03 => accept w 0x00001FF8 [] (.mband (unMBd w))
  | 0x04 => accept w 0x00001FFF [] (.mzero (unR2 w))
  | 0x08 => accept w 0x0003FF80 [] (.mldw (unMLd w))
  | 0x09 => accept w 0x00000000 [] (.mmul (unMMu w))
  | 0x0A => accept w 0x00000000 [] (.mmulg (unMMg w))
  | 0x0B => accept w 0x00000000 [] (.mmuls (unMMs w))
  | 0x0C => accept w 0x00000000 [] (.mmulb (unMMu w))
  | 0x0D => accept w 0x00000000 [] (.mmulc (unMMu w))
  | 0x0E => accept w 0x00001FF0 [] (.mcond (unMCo w))
  | 0x0F => if w.getLsbD 7 then accept w 0x0000007F [] (.mchainRecv (unR3 w))
      else accept w 0x00000000 [] (.mchain (unMCh w))
  | 0x10 => accept w 0x00000000 [] (.mdrain (unMDr w))
  | 0x12 => accept w 0x00001FFE [] (.mchk (unMCk w))
  | _ => unassigned

/-- The opcode map of the L slot (R60). LDS with size 11 and signed 1, which no suffix writes, is a load of 64 bits (DESIGN CHOICE, log entry
111). -/
def decodeL (w : BitVec 32) : Nat → Except DecErr Instr
  | 0x01 => accept w 0x0000009F [] (.ldv (unLLd w))
  | 0x02 => accept w 0x0000001F [] (.stv (unLSt w))
  | 0x03 => accept w 0x00001F98 [] (.lds (unLEl w))
  | 0x04 => accept w 0x00001F9C [] (.sts (unLEs w))
  | 0x05 => accept w 0x00000080 [] (.ldx (unLXl w))
  | 0x06 => accept w 0x00000000 [] (.stx (unLXs w))
  | 0x07 => accept w 0x00001000 [] (.ldf (unLFl w))
  | 0x08 => accept w 0x00000000 [(0, 12, 0, 3)] (.stf (unLFs w))
  | 0x09 => accept w 0x007FFFFF [] (.mark (unR0 w))
  | 0x0A => accept w 0x007FFFF8 [] (.sfence (unLSf w))
  | 0x0B => accept w 0x00001FFC [] (.vjoin (unLVj w))
  | 0x0C => accept w 0x00001FF8 [] (.rset (unLRs w))
  | 0x0D => accept w 0x007FFFC0 [] (.rpush (unLRp w))
  | _ => unassigned

/-- The opcode map of the X slot (R60). -/
def decodeX (w : BitVec 32) : Nat → Except DecErr Instr
  | 0x01 => accept w 0x00000003 [] (.xcopy (unXCp w))
  | 0x02 => accept w 0x0003FF0F [] (.xcopyt (unXBk w))
  | 0x03 => accept w 0x0003FF0F [] (.xpair (unXBk w))
  | 0x04 => accept w 0x00000008 [] (.xfill (unXFi w))
  | 0x05 => accept w 0x0003FF0F [] (.xgath (unXBk w))
  | 0x06 => accept w 0x0003FF0F [] (.xscat (unXBk w))
  | 0x07 => accept w 0x00000000 [] (.xacc (unXAc w))
  | 0x08 => accept w 0x00000007 [] (.xcas (unXCa w))
  | 0x09 => accept w 0x0003FF0F [] (.xnear (unXBk w))
  | 0x0A => accept w 0x0003FF07 [] (.xsend (unXSe w))
  | 0x0B => accept w 0x0003FF0F [] (.xpost (unXBk w))
  | 0x0C => accept w 0x0003FF0F [] (.xcoll (unXBk w))
  | 0x0D => accept w 0x0003FFFC [] (.xfence (unXFe w))
  | 0x0E => accept w 0x000000FF [] (.xhand (unR3 w))
  | 0x0F => accept w 0x00001FFE [] (.xtake (unXTk w))
  | 0x10 => accept w 0x0003FF0F [] (.xmedia (unXBk w))
  | 0x11 => accept w 0x00001F0C [] (.xspill (unXSp w))
  | 0x12 => accept w 0x0003FF0F [] (.xrecall (unXBk w))
  | _ => unassigned

/-- The opcode map of the K slot (R60). -/
def decodeK (w : BitVec 32) : Nat → Except DecErr Instr
  | 0x01 => accept w 0x0003FF7E [] (.qpop (unKQp w))
  | 0x03 => if w.getLsbD 6 then accept w 0x0003FF20 [] (.kblW (unKBw w))
      else accept w 0x0003FF30 [] (.kbl (unKBl w))
  | 0x04 => accept w 0x00001FFC [] (.kxpat (unKXp w))
  | 0x05 => (match w.extractLsb' 3 2 with
      | 0 => if w &&& 0x00001FE0 = 0 ∧ w.extractLsb' 13 5 ≠ 0 then .error ⟨2, 3, 13⟩ else accept w 0x0003FFE0 [] (.flagsRd (unKF1 w))
      | 1 => accept w 0x00001FE0 [] (.flagsClr (unKF2 w))
      | 2 => accept w 0x00001FE0 [] (.flagsEn (unKF2 w))
      | _ => .error ⟨2, 3, 3⟩)
  | 0x08 => accept w 0x00001FF8 [] (.kscale (unKSc w))
  | 0x09 => accept w 0x00001FF8 [] (.kscalei (unKSc w))
  | 0x0A => accept w 0x00001FFC [] (.krbind (unKRb w))
  | 0x0B => accept w 0x00000070 [] (.krec (unKRc w))
  | 0x0C => accept w 0x0003FFFC [] (.krclr (unKRr w))
  | 0x0D => accept w 0x0003FFFF [] (.kseal (unR1 w))
  | 0x0E => accept w 0x00001FFF [] (.cksum (unR2 w))
  | 0x10 => accept w 0x00001FFE [] (.ttq (unKTq w))
  | 0x11 => accept w 0x00001F08 [] (.ttset (unKTs w))
  | 0x12 => accept w 0x000000FF [] (.ttsettle (unR3 w))
  | 0x13 => accept w 0x00001FFF [] (.ttpromo (unR2 w))
  | 0x18 => accept w 0x00001FC0 [] (.jcbadd (unKJa w))
  | 0x19 => accept w 0x0003FF00 [] (.jcbdone (unKJd w))
  | 0x1A => accept w 0x00001FFF [] (.jcbq (unR2 w))
  | 0x20 => if w.getLsbD 4 then accept w 0x000000EF [] (.jemitMark (unR3 w))
      else accept w 0x000000E8 [] (.jemit (unKJe w))
  | 0x21 => accept w 0x000000F0 [] (.jroute (unKJr w))
  | 0x22 => accept w 0x000000FF [] (.jgen (unR3 w))
  | 0x23 => accept w 0x007FFF20 [] (.jrpl (unKJp w))
  | 0x24 => accept w 0x0003FFFF [] (.jtrunc (unR1 w))
  | 0x28 => accept w 0x000000FF [] (.ctag (unR3 w))
  | 0x29 => accept w 0x00001FFF [] (.resq (unR2 w))
  | _ => unassigned

/-- A NOP word carries nothing but, in slot 0, the G bit (R44). -/
def decodeNop (slot : Nat) (w : BitVec 32) : Except DecErr Instr :=
  let zero : BitVec 32 := if slot = 0 then 0x7FFFFFFF else 0xFFFFFFFF
  if w &&& zero = 0 then .ok (.nop { g := w.extractLsb' 31 1 })
  else .error ⟨2, 2, fieldLow zero [30] (lowBit (w &&& zero))⟩

/-- Decode one slot word by the map of its slot (R43, R61). -/
def decodeSlot (slot : Nat) (w : BitVec 32) : Except DecErr Instr :=
  let op := (w.extractLsb' 23 7).toNat
  if op = 0 then decodeNop slot w
  else match slot with
    | 0 => decodeC w op
    | 1 => decodeS w op
    | 2 => decodeV 0 w op
    | 3 => decodeV 1 w op
    | 4 => decodeM w op
    | 5 => decodeL w op
    | 6 => decodeX w op
    | _ => decodeK w op

/-- The bits of layout CN, as a number. -/
def CN.bits (f : CN) : Nat :=
  f.g.toNat * 2 ^ 31
/-- The bits of layout CJ, as a number. -/
def CJ.bits (f : CJ) : Nat :=
  f.g.toNat * 2 ^ 31 + f.off.toNat
/-- The bits of layout CBr, as a number. -/
def CBr.bits (f : CBr) : Nat :=
  f.g.toNat * 2 ^ 31 + f.s.toNat * 2 ^ 18 + f.cond.toNat * 2 ^ 16 + f.off.toNat
/-- The bits of layout CBrp, as a number. -/
def CBrp.bits (f : CBrp) : Nat :=
  f.g.toNat * 2 ^ 31 + f.cl.toNat * 2 ^ 22 + f.pn.toNat * 2 ^ 20 + f.sense.toNat * 2 ^ 19 + f.w.toNat * 2 ^ 17 + f.off.toNat
/-- The bits of layout CS, as a number. -/
def CS.bits (f : CS) : Nat :=
  f.g.toNat * 2 ^ 31 + f.s.toNat * 2 ^ 18
/-- The bits of layout CLp, as a number. -/
def CLp.bits (f : CLp) : Nat :=
  f.g.toNat * 2 ^ 31 + f.s.toNat * 2 ^ 18 + f.pre.toNat * 2 ^ 12 + f.dist.toNat
/-- The bits of layout CLpi, as a number. -/
def CLpi.bits (f : CLpi) : Nat :=
  f.g.toNat * 2 ^ 31 + f.n.toNat * 2 ^ 13 + f.pre.toNat * 2 ^ 12 + f.dist.toNat
/-- The bits of layout CK, as a number. -/
def CK.bits (f : CK) : Nat :=
  f.g.toNat * 2 ^ 31 + f.k.toNat
/-- The bits of layout CSeg, as a number. -/
def CSeg.bits (f : CSeg) : Nat :=
  f.g.toNat * 2 ^ 31 + f.s.toNat * 2 ^ 18 + f.idx.toNat
/-- The bits of layout CCode, as a number. -/
def CCode.bits (f : CCode) : Nat :=
  f.g.toNat * 2 ^ 31 + f.code.toNat
/-- The bits of layout CBar, as a number. -/
def CBar.bits (f : CBar) : Nat :=
  f.g.toNat * 2 ^ 31 + f.lvl.toNat * 2 ^ 8 + f.num.toNat
/-- The bits of layout CLvl, as a number. -/
def CLvl.bits (f : CLvl) : Nat :=
  f.g.toNat * 2 ^ 31 + f.lvl.toNat
/-- The bits of layout CMf, as a number. -/
def CMf.bits (f : CMf) : Nat :=
  f.g.toNat * 2 ^ 31 + f.sd.toNat * 2 ^ 18 + f.reg.toNat
/-- The bits of layout CMt, as a number. -/
def CMt.bits (f : CMt) : Nat :=
  f.g.toNat * 2 ^ 31 + f.sa.toNat * 2 ^ 13 + f.reg.toNat
/-- The bits of layout SR, as a number. -/
def SR.bits (f : SR) : Nat :=
  f.ar.toNat * 2 ^ 30 + f.sd.toNat * 2 ^ 18 + f.sa.toNat * 2 ^ 13 + f.sb.toNat * 2 ^ 8
/-- The bits of layout SSel, as a number. -/
def SSel.bits (f : SSel) : Nat :=
  f.ar.toNat * 2 ^ 30 + f.sd.toNat * 2 ^ 18 + f.sa.toNat * 2 ^ 13 + f.sb.toNat * 2 ^ 8 + f.sc.toNat * 2 ^ 3
/-- The bits of layout SOne, as a number. -/
def SOne.bits (f : SOne) : Nat :=
  f.ar.toNat * 2 ^ 30 + f.sd.toNat * 2 ^ 18 + f.sa.toNat * 2 ^ 13
/-- The bits of layout SFld, as a number. -/
def SFld.bits (f : SFld) : Nat :=
  f.ar.toNat * 2 ^ 30 + f.sd.toNat * 2 ^ 18 + f.sa.toNat * 2 ^ 13 + f.pos.toNat * 2 ^ 7 + f.wid.toNat
/-- The bits of layout SImm, as a number. -/
def SImm.bits (f : SImm) : Nat :=
  f.ar.toNat * 2 ^ 30 + f.sd.toNat * 2 ^ 18 + f.sa.toNat * 2 ^ 13 + f.imm.toNat
/-- The bits of layout SSh, as a number. -/
def SSh.bits (f : SSh) : Nat :=
  f.ar.toNat * 2 ^ 30 + f.sd.toNat * 2 ^ 18 + f.sa.toNat * 2 ^ 13 + f.sh.toNat
/-- The bits of layout SLi, as a number. -/
def SLi.bits (f : SLi) : Nat :=
  f.ar.toNat * 2 ^ 30 + f.sd.toNat * 2 ^ 18 + f.imm.toNat
/-- The bits of layout SIns, as a number. -/
def SIns.bits (f : SIns) : Nat :=
  f.ar.toNat * 2 ^ 30 + f.sd.toNat * 2 ^ 18 + f.imm.toNat
/-- The bits of layout SLv, as a number. -/
def SLv.bits (f : SLv) : Nat :=
  f.ar.toNat * 2 ^ 30 + f.sd.toNat * 2 ^ 18 + f.lvl.toNat
/-- The bits of layout V3, as a number. -/
def V3.bits (f : V3) : Nat :=
  f.ar.toNat * 2 ^ 30 + f.vd.toNat * 2 ^ 19 + f.va.toNat * 2 ^ 14 + f.vb.toNat * 2 ^ 9 + f.pa.toNat * 2 ^ 8 + f.pb.toNat * 2 ^ 7 + f.pred.toNat * 2 ^ 4 + f.fmt.toNat
/-- The bits of layout V2, as a number. -/
def V2.bits (f : V2) : Nat :=
  f.ar.toNat * 2 ^ 30 + f.vd.toNat * 2 ^ 19 + f.va.toNat * 2 ^ 14 + f.pa.toNat * 2 ^ 8 + f.pred.toNat * 2 ^ 4 + f.fmt.toNat
/-- The bits of layout VCm, as a number. -/
def VCm.bits (f : VCm) : Nat :=
  f.ar.toNat * 2 ^ 30 + f.cond.toNat * 2 ^ 21 + f.vd.toNat * 2 ^ 19 + f.va.toNat * 2 ^ 14 + f.vb.toNat * 2 ^ 9 + f.pa.toNat * 2 ^ 8 + f.pb.toNat * 2 ^ 7 + f.pred.toNat * 2 ^ 4 + f.fmt.toNat
/-- The bits of layout VRn, as a number. -/
def VRn.bits (f : VRn) : Nat :=
  f.ar.toNat * 2 ^ 30 + f.vd.toNat * 2 ^ 19 + f.pred.toNat * 2 ^ 4 + f.fmt.toNat
/-- The bits of layout VCv, as a number. -/
def VCv.bits (f : VCv) : Nat :=
  f.ar.toNat * 2 ^ 30 + f.vd.toNat * 2 ^ 19 + f.va.toNat * 2 ^ 14 + f.sfmt.toNat * 2 ^ 9 + f.pa.toNat * 2 ^ 8 + f.pred.toNat * 2 ^ 4 + f.fmt.toNat
/-- The bits of layout VQn, as a number. -/
def VQn.bits (f : VQn) : Nat :=
  f.ar.toNat * 2 ^ 30 + f.vd.toNat * 2 ^ 19 + f.va.toNat * 2 ^ 14 + f.chk.toNat * 2 ^ 12 + f.ks.toNat * 2 ^ 9 + f.pa.toNat * 2 ^ 8 + f.pred.toNat * 2 ^ 4 + f.fmt.toNat
/-- The bits of layout VDq, as a number. -/
def VDq.bits (f : VDq) : Nat :=
  f.ar.toNat * 2 ^ 30 + f.vd.toNat * 2 ^ 19 + f.va.toNat * 2 ^ 14 + f.ks.toNat * 2 ^ 9 + f.pa.toNat * 2 ^ 8 + f.pred.toNat * 2 ^ 4 + f.fmt.toNat
/-- The bits of layout PP3, as a number. -/
def PP3.bits (f : PP3) : Nat :=
  f.ar.toNat * 2 ^ 30 + f.vd.toNat * 2 ^ 19 + f.va.toNat * 2 ^ 14 + f.vb.toNat * 2 ^ 9
/-- The bits of layout PP2, as a number. -/
def PP2.bits (f : PP2) : Nat :=
  f.ar.toNat * 2 ^ 30 + f.vd.toNat * 2 ^ 19 + f.va.toNat * 2 ^ 14
/-- The bits of layout PSn, as a number. -/
def PSn.bits (f : PSn) : Nat :=
  f.ar.toNat * 2 ^ 30 + f.vd.toNat * 2 ^ 19 + f.va.toNat * 2 ^ 14 + f.pa.toNat * 2 ^ 8 + f.fmt.toNat
/-- The bits of layout VRt, as a number. -/
def VRt.bits (f : VRt) : Nat :=
  f.ar.toNat * 2 ^ 30 + f.vd.toNat * 2 ^ 19 + f.va.toNat * 2 ^ 14 + f.vb.toNat * 2 ^ 9 + f.pa.toNat * 2 ^ 8 + f.pb.toNat * 2 ^ 7
/-- The bits of layout VBn, as a number. -/
def VBn.bits (f : VBn) : Nat :=
  f.ar.toNat * 2 ^ 30 + f.vd.toNat * 2 ^ 19 + f.va.toNat * 2 ^ 14 + f.vb.toNat * 2 ^ 9 + f.pa.toNat * 2 ^ 8 + f.pb.toNat * 2 ^ 7 + f.pred.toNat * 2 ^ 4
/-- The bits of layout VIs, as a number. -/
def VIs.bits (f : VIs) : Nat :=
  f.ar.toNat * 2 ^ 30 + f.vd.toNat * 2 ^ 19 + f.va.toNat * 2 ^ 14 + f.vb.toNat * 2 ^ 9 + f.pa.toNat * 2 ^ 8 + f.pb.toNat * 2 ^ 7 + f.fmt.toNat
/-- The bits of layout MBk, as a number. -/
def MBk.bits (f : MBk) : Nat :=
  f.ar.toNat * 2 ^ 30 + f.sx.toNat * 2 ^ 18 + f.n.toNat
/-- The bits of layout MBd, as a number. -/
def MBd.bits (f : MBd) : Nat :=
  f.ar.toNat * 2 ^ 30 + f.sx.toNat * 2 ^ 18 + f.sy.toNat * 2 ^ 13 + f.rel.toNat * 2 ^ 2 + f.pos.toNat
/-- The bits of layout R2, as a number. -/
def R2.bits (f : R2) : Nat :=
  f.ar.toNat * 2 ^ 30 + f.sx.toNat * 2 ^ 18 + f.sy.toNat * 2 ^ 13
/-- The bits of layout MLd, as a number. -/
def MLd.bits (f : MLd) : Nat :=
  f.ar.toNat * 2 ^ 30 + f.sx.toNat * 2 ^ 18 + f.cb.toNat * 2 ^ 6 + f.buf.toNat * 2 ^ 5 + f.west.toNat * 2 ^ 4 + f.fmt.toNat
/-- The bits of layout MMu, as a number. -/
def MMu.bits (f : MMu) : Nat :=
  f.ar.toNat * 2 ^ 30 + f.sx.toNat * 2 ^ 18 + f.sy.toNat * 2 ^ 13 + f.sz.toNat * 2 ^ 8 + f.keep.toNat * 2 ^ 7 + f.rg.toNat * 2 ^ 4 + f.fmt.toNat
/-- The bits of layout MMg, as a number. -/
def MMg.bits (f : MMg) : Nat :=
  f.ar.toNat * 2 ^ 30 + f.sx.toNat * 2 ^ 18 + f.sy.toNat * 2 ^ 13 + f.sz.toNat * 2 ^ 8 + f.rg.toNat * 2 ^ 5 + f.cl.toNat * 2 ^ 4 + f.q.toNat
/-- The bits of layout MMs, as a number. -/
def MMs.bits (f : MMs) : Nat :=
  f.ar.toNat * 2 ^ 30 + f.sx.toNat * 2 ^ 18 + f.sy.toNat * 2 ^ 13 + f.sz.toNat * 2 ^ 8 + f.pat.toNat * 2 ^ 7 + f.rg.toNat * 2 ^ 4 + f.fmt.toNat
/-- The bits of layout MCo, as a number. -/
def MCo.bits (f : MCo) : Nat :=
  f.ar.toNat * 2 ^ 30 + f.sx.toNat * 2 ^ 18 + f.sy.toNat * 2 ^ 13 + f.fmt.toNat
/-- The bits of layout MCh, as a number. -/
def MCh.bits (f : MCh) : Nat :=
  f.ar.toNat * 2 ^ 30 + f.sx.toNat * 2 ^ 18 + f.sy.toNat * 2 ^ 13 + f.sz.toNat * 2 ^ 8 + f.rg.toNat * 2 ^ 4 + f.fmt.toNat
/-- The bits of layout R3, as a number. -/
def R3.bits (f : R3) : Nat :=
  f.ar.toNat * 2 ^ 30 + f.sx.toNat * 2 ^ 18 + f.sy.toNat * 2 ^ 13 + f.sz.toNat * 2 ^ 8
/-- The bits of layout MDr, as a number. -/
def MDr.bits (f : MDr) : Nat :=
  f.ar.toNat * 2 ^ 30 + f.sx.toNat * 2 ^ 18 + f.sy.toNat * 2 ^ 13 + f.sz.toNat * 2 ^ 8 + f.q.toNat * 2 ^ 7 + f.log.toNat * 2 ^ 6 + f.lux.toNat * 2 ^ 5 + f.clr.toNat * 2 ^ 4 + f.fmt.toNat
/-- The bits of layout MCk, as a number. -/
def MCk.bits (f : MCk) : Nat :=
  f.ar.toNat * 2 ^ 30 + f.sx.toNat * 2 ^ 18 + f.sy.toNat * 2 ^ 13 + f.col.toNat
/-- The bits of layout LLd, as a number. -/
def LLd.bits (f : LLd) : Nat :=
  f.ar.toNat * 2 ^ 30 + f.sx.toNat * 2 ^ 18 + f.sy.toNat * 2 ^ 13 + f.cl.toNat * 2 ^ 12 + f.q.toNat * 2 ^ 8 + f.ma.toNat * 2 ^ 6 + f.view.toNat * 2 ^ 5
/-- The bits of layout LSt, as a number. -/
def LSt.bits (f : LSt) : Nat :=
  f.ar.toNat * 2 ^ 30 + f.sx.toNat * 2 ^ 18 + f.sy.toNat * 2 ^ 13 + f.cl.toNat * 2 ^ 12 + f.q.toNat * 2 ^ 8 + f.pk.toNat * 2 ^ 7 + f.ma.toNat * 2 ^ 6 + f.view.toNat * 2 ^ 5
/-- The bits of layout LEl, as a number. -/
def LEl.bits (f : LEl) : Nat :=
  f.ar.toNat * 2 ^ 30 + f.sx.toNat * 2 ^ 18 + f.sy.toNat * 2 ^ 13 + f.ma.toNat * 2 ^ 6 + f.view.toNat * 2 ^ 5 + f.sgn.toNat * 2 ^ 2 + f.size.toNat
/-- The bits of layout LEs, as a number. -/
def LEs.bits (f : LEs) : Nat :=
  f.ar.toNat * 2 ^ 30 + f.sx.toNat * 2 ^ 18 + f.sy.toNat * 2 ^ 13 + f.ma.toNat * 2 ^ 6 + f.view.toNat * 2 ^ 5 + f.size.toNat
/-- The bits of layout LXl, as a number. -/
def LXl.bits (f : LXl) : Nat :=
  f.ar.toNat * 2 ^ 30 + f.sx.toNat * 2 ^ 18 + f.sy.toNat * 2 ^ 13 + f.cl.toNat * 2 ^ 12 + f.q.toNat * 2 ^ 8 + f.ma.toNat * 2 ^ 6 + f.xp.toNat * 2 ^ 4 + f.fmt.toNat
/-- The bits of layout LXs, as a number. -/
def LXs.bits (f : LXs) : Nat :=
  f.ar.toNat * 2 ^ 30 + f.sx.toNat * 2 ^ 18 + f.sy.toNat * 2 ^ 13 + f.cl.toNat * 2 ^ 12 + f.q.toNat * 2 ^ 8 + f.pk.toNat * 2 ^ 7 + f.ma.toNat * 2 ^ 6 + f.xp.toNat * 2 ^ 4 + f.fmt.toNat
/-- The bits of layout LFl, as a number. -/
def LFl.bits (f : LFl) : Nat :=
  f.ar.toNat * 2 ^ 30 + f.sx.toNat * 2 ^ 18 + f.cl.toNat * 2 ^ 17 + f.q.toNat * 2 ^ 13 + f.dist.toNat
/-- The bits of layout LFs, as a number. -/
def LFs.bits (f : LFs) : Nat :=
  f.ar.toNat * 2 ^ 30 + f.sx.toNat * 2 ^ 18 + f.cl.toNat * 2 ^ 17 + f.q.toNat * 2 ^ 13 + f.pk.toNat * 2 ^ 12
/-- The bits of layout R0, as a number. -/
def R0.bits (f : R0) : Nat :=
  f.ar.toNat * 2 ^ 30
/-- The bits of layout LSf, as a number. -/
def LSf.bits (f : LSf) : Nat :=
  f.ar.toNat * 2 ^ 30 + f.scope.toNat
/-- The bits of layout LVj, as a number. -/
def LVj.bits (f : LVj) : Nat :=
  f.ar.toNat * 2 ^ 30 + f.sx.toNat * 2 ^ 18 + f.sy.toNat * 2 ^ 13 + f.dir.toNat
/-- The bits of layout LRs, as a number. -/
def LRs.bits (f : LRs) : Nat :=
  f.ar.toNat * 2 ^ 30 + f.sx.toNat * 2 ^ 18 + f.sy.toNat * 2 ^ 13 + f.rg.toNat
/-- The bits of layout LRp, as a number. -/
def LRp.bits (f : LRp) : Nat :=
  f.ar.toNat * 2 ^ 30 + f.n.toNat * 2 ^ 3 + f.rg.toNat
/-- The bits of layout XCp, as a number. -/
def XCp.bits (f : XCp) : Nat :=
  f.ar.toNat * 2 ^ 30 + f.sx.toNat * 2 ^ 18 + f.sy.toNat * 2 ^ 13 + f.sz.toNat * 2 ^ 8 + f.ch.toNat * 2 ^ 5 + f.pb.toNat * 2 ^ 4 + f.emit.toNat * 2 ^ 3 + f.quiet.toNat * 2 ^ 2
/-- The bits of layout XBk, as a number. -/
def XBk.bits (f : XBk) : Nat :=
  f.ar.toNat * 2 ^ 30 + f.sx.toNat * 2 ^ 18 + f.ch.toNat * 2 ^ 5 + f.pb.toNat * 2 ^ 4
/-- The bits of layout XFi, as a number. -/
def XFi.bits (f : XFi) : Nat :=
  f.ar.toNat * 2 ^ 30 + f.sx.toNat * 2 ^ 18 + f.sy.toNat * 2 ^ 13 + f.sz.toNat * 2 ^ 8 + f.ch.toNat * 2 ^ 5 + f.pb.toNat * 2 ^ 4 + f.kind.toNat
/-- The bits of layout XAc, as a number. -/
def XAc.bits (f : XAc) : Nat :=
  f.ar.toNat * 2 ^ 30 + f.sx.toNat * 2 ^ 18 + f.sy.toNat * 2 ^ 13 + f.sz.toNat * 2 ^ 8 + f.ch.toNat * 2 ^ 5 + f.pb.toNat * 2 ^ 4 + f.op.toNat
/-- The bits of layout XCa, as a number. -/
def XCa.bits (f : XCa) : Nat :=
  f.ar.toNat * 2 ^ 30 + f.sx.toNat * 2 ^ 18 + f.sy.toNat * 2 ^ 13 + f.sz.toNat * 2 ^ 8 + f.ch.toNat * 2 ^ 5 + f.pb.toNat * 2 ^ 4 + f.w64.toNat * 2 ^ 3
/-- The bits of layout XSe, as a number. -/
def XSe.bits (f : XSe) : Nat :=
  f.ar.toNat * 2 ^ 30 + f.sx.toNat * 2 ^ 18 + f.ch.toNat * 2 ^ 5 + f.pb.toNat * 2 ^ 4 + f.emit.toNat * 2 ^ 3
/-- The bits of layout XFe, as a number. -/
def XFe.bits (f : XFe) : Nat :=
  f.ar.toNat * 2 ^ 30 + f.sx.toNat * 2 ^ 18 + f.s.toNat * 2 ^ 1 + f.q.toNat
/-- The bits of layout XTk, as a number. -/
def XTk.bits (f : XTk) : Nat :=
  f.ar.toNat * 2 ^ 30 + f.sx.toNat * 2 ^ 18 + f.sy.toNat * 2 ^ 13 + f.free.toNat
/-- The bits of layout XSp, as a number. -/
def XSp.bits (f : XSp) : Nat :=
  f.ar.toNat * 2 ^ 30 + f.sx.toNat * 2 ^ 18 + f.sy.toNat * 2 ^ 13 + f.ch.toNat * 2 ^ 5 + f.pb.toNat * 2 ^ 4 + f.sel.toNat
/-- The bits of layout KQp, as a number. -/
def KQp.bits (f : KQp) : Nat :=
  f.ar.toNat * 2 ^ 30 + f.sx.toNat * 2 ^ 18 + f.w.toNat * 2 ^ 7 + f.q.toNat
/-- The bits of layout KBl, as a number. -/
def KBl.bits (f : KBl) : Nat :=
  f.ar.toNat * 2 ^ 30 + f.sx.toNat * 2 ^ 18 + f.cl.toNat * 2 ^ 7 + f.fmt.toNat
/-- The bits of layout KBw, as a number. -/
def KBw.bits (f : KBw) : Nat :=
  f.ar.toNat * 2 ^ 30 + f.sx.toNat * 2 ^ 18 + f.cl.toNat * 2 ^ 7 + f.i.toNat
/-- The bits of layout KXp, as a number. -/
def KXp.bits (f : KXp) : Nat :=
  f.ar.toNat * 2 ^ 30 + f.sx.toNat * 2 ^ 18 + f.sy.toNat * 2 ^ 13 + f.xp.toNat
/-- The bits of layout KF1, as a number. -/
def KF1.bits (f : KF1) : Nat :=
  f.ar.toNat * 2 ^ 30 + f.sx.toNat * 2 ^ 18 + f.eng.toNat
/-- The bits of layout KF2, as a number. -/
def KF2.bits (f : KF2) : Nat :=
  f.ar.toNat * 2 ^ 30 + f.sx.toNat * 2 ^ 18 + f.sy.toNat * 2 ^ 13 + f.eng.toNat
/-- The bits of layout KSc, as a number. -/
def KSc.bits (f : KSc) : Nat :=
  f.ar.toNat * 2 ^ 30 + f.sx.toNat * 2 ^ 18 + f.sy.toNat * 2 ^ 13 + f.ks.toNat
/-- The bits of layout KRb, as a number. -/
def KRb.bits (f : KRb) : Nat :=
  f.ar.toNat * 2 ^ 30 + f.sx.toNat * 2 ^ 18 + f.sy.toNat * 2 ^ 13 + f.unbind.toNat * 2 ^ 1 + f.cos.toNat
/-- The bits of layout KRc, as a number. -/
def KRc.bits (f : KRc) : Nat :=
  f.ar.toNat * 2 ^ 30 + f.sx.toNat * 2 ^ 18 + f.sy.toNat * 2 ^ 13 + f.sz.toNat * 2 ^ 8 + f.sealed.toNat * 2 ^ 7 + f.fld.toNat
/-- The bits of layout KRr, as a number. -/
def KRr.bits (f : KRr) : Nat :=
  f.ar.toNat * 2 ^ 30 + f.sx.toNat * 2 ^ 18 + f.sel.toNat
/-- The bits of layout R1, as a number. -/
def R1.bits (f : R1) : Nat :=
  f.ar.toNat * 2 ^ 30 + f.sx.toNat * 2 ^ 18
/-- The bits of layout KTq, as a number. -/
def KTq.bits (f : KTq) : Nat :=
  f.ar.toNat * 2 ^ 30 + f.sx.toNat * 2 ^ 18 + f.sy.toNat * 2 ^ 13 + f.w1.toNat
/-- The bits of layout KTs, as a number. -/
def KTs.bits (f : KTs) : Nat :=
  f.ar.toNat * 2 ^ 30 + f.sx.toNat * 2 ^ 18 + f.sy.toNat * 2 ^ 13 + f.fmt.toNat * 2 ^ 4 + f.kind.toNat
/-- The bits of layout KJa, as a number. -/
def KJa.bits (f : KJa) : Nat :=
  f.ar.toNat * 2 ^ 30 + f.sx.toNat * 2 ^ 18 + f.sy.toNat * 2 ^ 13 + f.slot.toNat
/-- The bits of layout KJd, as a number. -/
def KJd.bits (f : KJd) : Nat :=
  f.ar.toNat * 2 ^ 30 + f.sx.toNat * 2 ^ 18 + f.err.toNat * 2 ^ 7 + f.close.toNat * 2 ^ 6 + f.slot.toNat
/-- The bits of layout KJe, as a number. -/
def KJe.bits (f : KJe) : Nat :=
  f.ar.toNat * 2 ^ 30 + f.sx.toNat * 2 ^ 18 + f.sy.toNat * 2 ^ 13 + f.sz.toNat * 2 ^ 8 + f.n.toNat
/-- The bits of layout KJr, as a number. -/
def KJr.bits (f : KJr) : Nat :=
  f.ar.toNat * 2 ^ 30 + f.sx.toNat * 2 ^ 18 + f.sy.toNat * 2 ^ 13 + f.sz.toNat * 2 ^ 8 + f.gf.toNat * 2 ^ 3 + f.n.toNat
/-- The bits of layout KJp, as a number. -/
def KJp.bits (f : KJp) : Nat :=
  f.ar.toNat * 2 ^ 30 + f.kind.toNat * 2 ^ 6 + f.cl.toNat * 2 ^ 4 + f.q.toNat

/-- The slot word of an instruction, from the same tables (R43 to R60); 0 for an event, which has no word. -/
def encode : Instr → BitVec 32
  | .nop f => .ofNat 32 (f.bits)
  | .jmp f => .ofNat 32 (0x00800000 + f.bits)
  | .br f => .ofNat 32 (0x01000000 + f.bits)
  | .brp f => .ofNat 32 (0x01800000 + f.bits)
  | .jmpi f => .ofNat 32 (0x02000000 + f.bits)
  | .call f => .ofNat 32 (0x02800000 + f.bits)
  | .calli f => .ofNat 32 (0x03000000 + f.bits)
  | .ret f => .ofNat 32 (0x03800000 + f.bits)
  | .loop f => .ofNat 32 (0x04000000 + f.bits)
  | .loopi f => .ofNat 32 (0x04800000 + f.bits)
  | .brkl f => .ofNat 32 (0x05000000 + f.bits)
  | .segj f => .ofNat 32 (0x05800000 + f.bits)
  | .safe f => .ofNat 32 (0x06000000 + f.bits)
  | .trap f => .ofNat 32 (0x06800000 + f.bits)
  | .eret f => .ofNat 32 (0x07000000 + f.bits)
  | .brkpt f => .ofNat 32 (0x07800000 + f.bits)
  | .halt f => .ofNat 32 (0x08000000 + f.bits)
  | .waitb f => .ofNat 32 (0x08800000 + f.bits)
  | .arrive f => .ofNat 32 (0x09000000 + f.bits)
  | .arwait f => .ofNat 32 (0x09800000 + f.bits)
  | .sstep f => .ofNat 32 (0x0A000000 + f.bits)
  | .eclipse f => .ofNat 32 (0x0A800000 + f.bits)
  | .yield f => .ofNat 32 (0x0B000000 + f.bits)
  | .waitj f => .ofNat 32 (0x0B800000 + f.bits)
  | .mfsr f => .ofNat 32 (0x0C000000 + f.bits)
  | .mtsr f => .ofNat 32 (0x0C800000 + f.bits)
  | .add f => .ofNat 32 (0x00800000 + f.bits)
  | .sub f => .ofNat 32 (0x01000000 + f.bits)
  | .and f => .ofNat 32 (0x01800000 + f.bits)
  | .or f => .ofNat 32 (0x02000000 + f.bits)
  | .xor f => .ofNat 32 (0x02800000 + f.bits)
  | .andn f => .ofNat 32 (0x03000000 + f.bits)
  | .shl f => .ofNat 32 (0x03800000 + f.bits)
  | .shr f => .ofNat 32 (0x04000000 + f.bits)
  | .sra f => .ofNat 32 (0x04800000 + f.bits)
  | .mul f => .ofNat 32 (0x05000000 + f.bits)
  | .mulh f => .ofNat 32 (0x05800000 + f.bits)
  | .mulhu f => .ofNat 32 (0x06000000 + f.bits)
  | .min f => .ofNat 32 (0x06800000 + f.bits)
  | .max f => .ofNat 32 (0x07000000 + f.bits)
  | .minu f => .ofNat 32 (0x07800000 + f.bits)
  | .maxu f => .ofNat 32 (0x08000000 + f.bits)
  | .seq f => .ofNat 32 (0x08800000 + f.bits)
  | .sne f => .ofNat 32 (0x09000000 + f.bits)
  | .slt f => .ofNat 32 (0x09800000 + f.bits)
  | .sltu f => .ofNat 32 (0x0A000000 + f.bits)
  | .sle f => .ofNat 32 (0x0A800000 + f.bits)
  | .sleu f => .ofNat 32 (0x0B000000 + f.bits)
  | .sel f => .ofNat 32 (0x0B800000 + f.bits)
  | .mov f => .ofNat 32 (0x0C000000 + f.bits)
  | .abs f => .ofNat 32 (0x0C800000 + f.bits)
  | .neg f => .ofNat 32 (0x0D000000 + f.bits)
  | .clz f => .ofNat 32 (0x0D800000 + f.bits)
  | .ctz f => .ofNat 32 (0x0E000000 + f.bits)
  | .popc f => .ofNat 32 (0x0E800000 + f.bits)
  | .bfx f => .ofNat 32 (0x0F000000 + f.bits)
  | .bfi f => .ofNat 32 (0x0F800000 + f.bits)
  | .addi f => .ofNat 32 (0x10000000 + f.bits)
  | .andi f => .ofNat 32 (0x10800000 + f.bits)
  | .ori f => .ofNat 32 (0x11000000 + f.bits)
  | .xori f => .ofNat 32 (0x11800000 + f.bits)
  | .shli f => .ofNat 32 (0x12000000 + f.bits)
  | .shri f => .ofNat 32 (0x12800000 + f.bits)
  | .srai f => .ofNat 32 (0x13000000 + f.bits)
  | .muli f => .ofNat 32 (0x13800000 + f.bits)
  | .li f => .ofNat 32 (0x14000000 + f.bits)
  | .lih f => .ofNat 32 (0x14800000 + f.bits)
  | .lix f => .ofNat 32 (0x15000000 + f.bits)
  | .lit f => .ofNat 32 (0x15800000 + f.bits)
  | .mfli f => .ofNat 32 (0x16000000 + f.bits)
  | .mflc f => .ofNat 32 (0x16800000 + f.bits)
  | .slti f => .ofNat 32 (0x17000000 + f.bits)
  | .seqi f => .ofNat 32 (0x17800000 + f.bits)
  | .vadd f => .ofNat 32 (0x00800000 + f.bits)
  | .vsub f => .ofNat 32 (0x01000000 + f.bits)
  | .vadds f => .ofNat 32 (0x01800000 + f.bits)
  | .vsubs f => .ofNat 32 (0x02000000 + f.bits)
  | .vmul f => .ofNat 32 (0x02800000 + f.bits)
  | .vmulh f => .ofNat 32 (0x03000000 + f.bits)
  | .vmad f => .ofNat 32 (0x03800000 + f.bits)
  | .vand f => .ofNat 32 (0x04000000 + f.bits)
  | .vor f => .ofNat 32 (0x04800000 + f.bits)
  | .vxor f => .ofNat 32 (0x05000000 + f.bits)
  | .vandn f => .ofNat 32 (0x05800000 + f.bits)
  | .vshl f => .ofNat 32 (0x06000000 + f.bits)
  | .vshr f => .ofNat 32 (0x06800000 + f.bits)
  | .vsra f => .ofNat 32 (0x07000000 + f.bits)
  | .vmin f => .ofNat 32 (0x07800000 + f.bits)
  | .vmax f => .ofNat 32 (0x08000000 + f.bits)
  | .vabs f => .ofNat 32 (0x08803400 + f.bits)
  | .vneg f => .ofNat 32 (0x09003400 + f.bits)
  | .vcmp f => .ofNat 32 (0x09800000 + f.bits)
  | .vfadd f => .ofNat 32 (0x0C000000 + f.bits)
  | .vfsub f => .ofNat 32 (0x0C800000 + f.bits)
  | .vfmul f => .ofNat 32 (0x0D000000 + f.bits)
  | .vfma f => .ofNat 32 (0x0D800000 + f.bits)
  | .vfmin f => .ofNat 32 (0x0E000000 + f.bits)
  | .vfmax f => .ofNat 32 (0x0E800000 + f.bits)
  | .vfabs f => .ofNat 32 (0x0F003400 + f.bits)
  | .vfneg f => .ofNat 32 (0x0F803400 + f.bits)
  | .vfcmp f => .ofNat 32 (0x10000000 + f.bits)
  | .vfrnd f => .ofNat 32 (0x10803400 + f.bits)
  | .vrcp f => .ofNat 32 (0x14003400 + f.bits)
  | .vrsq f => .ofNat 32 (0x14803400 + f.bits)
  | .vexp2 f => .ofNat 32 (0x15003400 + f.bits)
  | .vlog2 f => .ofNat 32 (0x15803400 + f.bits)
  | .vtanh f => .ofNat 32 (0x16003400 + f.bits)
  | .vsigm f => .ofNat 32 (0x16803400 + f.bits)
  | .vrng f => .ofNat 32 (0x1706B400 + f.bits)
  | .vcvt f => .ofNat 32 (0x18000000 + f.bits)
  | .vqnt f => .ofNat 32 (0x18800000 + f.bits)
  | .vdqnt f => .ofNat 32 (0x19000000 + f.bits)
  | .pand f => .ofNat 32 (0x1C00000F + f.bits)
  | .por f => .ofNat 32 (0x1C80000F + f.bits)
  | .pxor f => .ofNat 32 (0x1D00000F + f.bits)
  | .pnot f => .ofNat 32 (0x1D80000F + f.bits)
  | .pmov f => .ofNat 32 (0x1E00000F + f.bits)
  | .psetn f => .ofNat 32 (0x1E803400 + f.bits)
  | .vsel f => .ofNat 32 (0x20000000 + f.bits)
  | .vperm f => .ofNat 32 (0x20800000 + f.bits)
  | .vrot f => .ofNat 32 (0x2100000F + f.bits)
  | .vshfl f => .ofNat 32 (0x21803400 + f.bits)
  | .vbcst f => .ofNat 32 (0x22000000 + f.bits)
  | .vmov f => .ofNat 32 (0x22803400 + f.bits)
  | .vradd f => .ofNat 32 (0x24003400 + f.bits)
  | .vrmax f => .ofNat 32 (0x24803400 + f.bits)
  | .vrmin f => .ofNat 32 (0x25003400 + f.bits)
  | .vrfadd f => .ofNat 32 (0x25803400 + f.bits)
  | .vrfmax f => .ofNat 32 (0x26003400 + f.bits)
  | .vband f => .ofNat 32 (0x2800000F + f.bits)
  | .vpopc f => .ofNat 32 (0x28803400 + f.bits)
  | .vpfx f => .ofNat 32 (0x29000000 + f.bits)
  | .visect f => .ofNat 32 (0x29800000 + f.bits)
  | .vcsw f => .ofNat 32 (0x2A000000 + f.bits)
  | .vcswx f => .ofNat 32 (0x2A800000 + f.bits)
  | .malloc f => .ofNat 32 (0x00800000 + f.bits)
  | .mfree f => .ofNat 32 (0x01000000 + f.bits)
  | .mband f => .ofNat 32 (0x01800000 + f.bits)
  | .mzero f => .ofNat 32 (0x02000000 + f.bits)
  | .mldw f => .ofNat 32 (0x04000000 + f.bits)
  | .mmul f => .ofNat 32 (0x04800000 + f.bits)
  | .mmulg f => .ofNat 32 (0x05000000 + f.bits)
  | .mmuls f => .ofNat 32 (0x05800000 + f.bits)
  | .mmulb f => .ofNat 32 (0x06000000 + f.bits)
  | .mmulc f => .ofNat 32 (0x06800000 + f.bits)
  | .mcond f => .ofNat 32 (0x07000000 + f.bits)
  | .mchain f => .ofNat 32 (0x07800000 + f.bits)
  | .mchainRecv f => .ofNat 32 (0x07800080 + f.bits)
  | .mdrain f => .ofNat 32 (0x08000000 + f.bits)
  | .mchk f => .ofNat 32 (0x09000000 + f.bits)
  | .ldv f => .ofNat 32 (0x00800000 + f.bits)
  | .stv f => .ofNat 32 (0x01000000 + f.bits)
  | .lds f => .ofNat 32 (0x01800000 + f.bits)
  | .sts f => .ofNat 32 (0x02000000 + f.bits)
  | .ldx f => .ofNat 32 (0x02800000 + f.bits)
  | .stx f => .ofNat 32 (0x03000000 + f.bits)
  | .ldf f => .ofNat 32 (0x03800000 + f.bits)
  | .stf f => .ofNat 32 (0x04000000 + f.bits)
  | .mark f => .ofNat 32 (0x04800000 + f.bits)
  | .sfence f => .ofNat 32 (0x05000000 + f.bits)
  | .vjoin f => .ofNat 32 (0x05800000 + f.bits)
  | .rset f => .ofNat 32 (0x06000000 + f.bits)
  | .rpush f => .ofNat 32 (0x06800000 + f.bits)
  | .xcopy f => .ofNat 32 (0x00800000 + f.bits)
  | .xcopyt f => .ofNat 32 (0x01000000 + f.bits)
  | .xpair f => .ofNat 32 (0x01800000 + f.bits)
  | .xfill f => .ofNat 32 (0x02000000 + f.bits)
  | .xgath f => .ofNat 32 (0x02800000 + f.bits)
  | .xscat f => .ofNat 32 (0x03000000 + f.bits)
  | .xacc f => .ofNat 32 (0x03800000 + f.bits)
  | .xcas f => .ofNat 32 (0x04000000 + f.bits)
  | .xnear f => .ofNat 32 (0x04800000 + f.bits)
  | .xsend f => .ofNat 32 (0x05000000 + f.bits)
  | .xpost f => .ofNat 32 (0x05800000 + f.bits)
  | .xcoll f => .ofNat 32 (0x06000000 + f.bits)
  | .xfence f => .ofNat 32 (0x06800000 + f.bits)
  | .xhand f => .ofNat 32 (0x07000000 + f.bits)
  | .xtake f => .ofNat 32 (0x07800000 + f.bits)
  | .xmedia f => .ofNat 32 (0x08000000 + f.bits)
  | .xspill f => .ofNat 32 (0x08800000 + f.bits)
  | .xrecall f => .ofNat 32 (0x09000000 + f.bits)
  | .qpop f => .ofNat 32 (0x00800000 + f.bits)
  | .kbl f => .ofNat 32 (0x01800000 + f.bits)
  | .kblW f => .ofNat 32 (0x01800040 + f.bits)
  | .kxpat f => .ofNat 32 (0x02000000 + f.bits)
  | .flagsRd f => .ofNat 32 (0x02800000 + f.bits)
  | .flagsClr f => .ofNat 32 (0x02800008 + f.bits)
  | .flagsEn f => .ofNat 32 (0x02800010 + f.bits)
  | .kscale f => .ofNat 32 (0x04000000 + f.bits)
  | .kscalei f => .ofNat 32 (0x04800000 + f.bits)
  | .krbind f => .ofNat 32 (0x05000000 + f.bits)
  | .krec f => .ofNat 32 (0x05800000 + f.bits)
  | .krclr f => .ofNat 32 (0x06000000 + f.bits)
  | .kseal f => .ofNat 32 (0x06800000 + f.bits)
  | .cksum f => .ofNat 32 (0x07000000 + f.bits)
  | .ttq f => .ofNat 32 (0x08000000 + f.bits)
  | .ttset f => .ofNat 32 (0x08800000 + f.bits)
  | .ttsettle f => .ofNat 32 (0x09000000 + f.bits)
  | .ttpromo f => .ofNat 32 (0x09800000 + f.bits)
  | .jcbadd f => .ofNat 32 (0x0C000000 + f.bits)
  | .jcbdone f => .ofNat 32 (0x0C800000 + f.bits)
  | .jcbq f => .ofNat 32 (0x0D000000 + f.bits)
  | .jemit f => .ofNat 32 (0x10000000 + f.bits)
  | .jemitMark f => .ofNat 32 (0x10000010 + f.bits)
  | .jroute f => .ofNat 32 (0x10800000 + f.bits)
  | .jgen f => .ofNat 32 (0x11000000 + f.bits)
  | .jrpl f => .ofNat 32 (0x11800000 + f.bits)
  | .jtrunc f => .ofNat 32 (0x12000000 + f.bits)
  | .ctag f => .ofNat 32 (0x14000000 + f.bits)
  | .resq f => .ofNat 32 (0x14800000 + f.bits)
  | .deferredTrap => 0
  | .resultLanding => 0
  | .farDataArrival _ _ _ => 0
  | .timedLanding => 0
  | .segmentFetchDone _ _ => 0
  | .emptyBundle => 0
  | .eclipseSwap => 0
  | .pushWindowWrite _ _ _ _ => 0
  | .pushWindowAdmit _ => 0
  | .mInstructionStart => 0
  | .mInstructionRetire => 0
  | .drainVectorPush => 0
  | .chainForm _ => 0
  | .accWindowWrite _ _ _ => 0
  | .stWrite _ _ => 0
  | .hcWrite _ _ => 0
  | .launchRecordRead _ => 0
  | .launchPlace => 0
  | .agingTick _ => 0
  | .taskSave _ _ => 0
  | .launchRestore _ => 0
  | .launchComplete _ => 0
  | .faultAck _ => 0
  | .dependenceWatchdog _ => 0
  | .runWatchdog _ => 0
  | .dispatcherFailover => 0
  | .arrivalDeliver _ => 0
  | .communicationPhase _ _ _ => 0
  | .jcbApply _ => 0
  | .translationWalk _ _ _ _ _ => 0
  | .translationInvalidate _ _ _ => 0
  | .channelReplay _ _ => 0
  | .channelAbort _ _ => 0
  | .offerTakeable _ _ => 0
  | .xtakeApply _ => 0
  | .frameReturn _ => 0
  | .offloadDone _ => 0
  | .tileCheckRetry _ _ => 0
  | .luxMergeApply _ => 0
  | .lqPerform _ _ => 0
  | .sqLeave _ _ => 0
  | .scopePropagate _ => 0
  | .viewSeenRaise _ _ _ _ => 0
  | .engineAccessPerform _ _ => 0
  | .commandStart _ _ => 0
  | .commandComplete _ _ => 0
  | .atomicApply _ _ => 0
  | .fabricMessageArrive _ _ _ _ => 0
  | .collectiveMatch _ _ _ _ => 0
  | .viewCacheFill _ _ _ => 0
  | .hostAccess _ _ _ _ => 0
  | .managementWrite _ _ => 0
  | .linkFlitResend => 0
  | .deviceFailed => 0
  | .deviceReset => 0
  | .secureBoot _ _ _ _ _ _ _ _ => 0
  | .attestNonceWrite _ => 0
  | .attestReportDone => 0
  | .ageingUpdate _ _ _ => 0
  | .powerStateRequest _ => 0
  | .idleEntry => 0
  | .lowExit => 0
  | .clockStepDown => 0
  | .clockStepUp => 0
  | .criticalTemperature => 0
  | .journalAppendAssign => 0
  | .mirrorEntryWrite _ _ => 0
  | .mirrorAck _ _ => 0
  | .mirrorLost _ => 0
  | .jmirrorWrite _ => 0
  | .replayStart _ _ => 0
  | .dieLinkRetrain _ => 0
  | .fabricPortFailure _ => 0
  | .fabricPeerRequest _ _ _ _ _ => 0
  | .residencyRecallDone _ => 0

/-- A little-endian number from bytes (R5). -/
def leNat : List Byte → Nat
  | [] => 0
  | b :: t => b.toNat + 256 * leNat t

/-- The first `n` bytes of a number, little-endian (R5). -/
def leBytes : Nat → Nat → List Byte
  | 0, _ => []
  | n + 1, v => .ofNat 8 v :: leBytes n (v / 256)

/-- A segment header (R63). -/
structure SegHdr where
  len : Nat
  idx : Nat
  bytes : Nat
  next : Nat
  nidx : Nat
  deriving DecidableEq, Repr

/-- A segment header from its 32 bytes; none when it breaks a value rule of R63 or R65 that the header alone
decides: a length of 0 or above 4,096, a reserved bit set, or a next pointer that is not 32-byte aligned. -/
def decodeHeader (b : List Byte) : Option SegHdr :=
  let w0 := leNat (b.take 4)
  let nx := leNat ((b.drop 8).take 8)
  let h : SegHdr := { len := w0 % 2 ^ 13, idx := w0 / 2 ^ 16, bytes := leNat ((b.drop 4).take 4), next := nx,
                      nidx := leNat ((b.drop 20).take 4) }
  if 1 ≤ h.len ∧ h.len ≤ 4096 ∧ (w0 / 2 ^ 13) % 8 = 0 ∧ nx < 2 ^ 55 ∧ nx % 32 = 0 ∧
      leNat ((b.drop 16).take 4) = 0 ∧ leNat ((b.drop 24).take 8) = 0 then some h else none

/-- The present slot words of a compressed bundle, from slot `8 - k` on (R64). -/
def takeSlots (mask : Nat) : Nat → List Byte → Option (List (BitVec 32) × List Byte)
  | 0, b => some ([], b)
  | k + 1, b =>
    if mask.testBit (7 - k) then
      match b with
      | b0 :: b1 :: b2 :: b3 :: r =>
        (takeSlots mask k r).map fun p => (.ofNat 32 (leNat [b0, b1, b2, b3]) :: p.1, p.2)
      | _ => none
    else (takeSlots mask k b).map fun p => (0 :: p.1, p.2)

/-- A bundle from a list of words; missing words are 0. -/
def bundleOf (l : List (BitVec 32)) : Bundle := Vector.ofFn fun i : Fin 8 => l.getD i.val 0

/-- One compressed bundle and the bytes after it (R64). -/
def takeBundle : List Byte → Option (Bundle × List Byte)
  | [] => none
  | m :: r => (takeSlots m.toNat 8 r).map fun p => (bundleOf p.1, p.2)

/-- `n` compressed bundles and the bytes after them (R65). -/
def takeBundles : Nat → List Byte → Option (List Bundle × List Byte)
  | 0, b => some ([], b)
  | n + 1, b =>
    match takeBundle b with
    | none => none
    | some (x, r) => (takeBundles n r).map fun p => (x :: p.1, p.2)

/-- The body of a segment: exactly `len` bundles that use exactly the stored bytes (R65). -/
def decodeBody (h : SegHdr) (b : List Byte) : Option (List Bundle) :=
  match takeBundles h.len (b.take h.bytes) with
  | some (l, []) => some l
  | _ => none

/-- The compressed form of a bundle (R64): slots that hold 0 are left out. -/
def compress (b : Bundle) : List Byte :=
  let l := b.toList
  .ofNat 8 ((List.range 8).foldl (fun a i => if l.getD i 0 = 0 then a else a + 2 ^ i) 0) ::
    (l.flatMap fun w => if w = 0 then [] else leBytes 4 w.toNat)

/-- The order in which the slots are tried on a word of the opcode table, whose rows do not say their slot:
DESIGN CHOICE, log entry 5. -/
def tableSlots : List Nat := [4, 7, 0, 3, 2, 1, 5, 6]

/-- The instruction a table word stands for: the words of different slots coincide, so the first slot of
`tableSlots` whose map accepts the word decides (DESIGN CHOICE, log entry 5). -/
def decodeTableWord (nbits w : Nat) : Option Instr :=
  if nbits = 32 then tableSlots.findSome? fun s => (decodeSlot s (.ofNat 32 w)).toOption else none

end Sys2Proof
end

