-- ==== Sys2Proof/Config.lean ====
section
/-!
DEFINITION. What an SXA-2 fixes once: sizes and capacities the spec names, and the free values: opaque constants with
no body, for results the spec leaves open. Nothing in Lean can evaluate a free value or prove one.
-/

namespace Sys2Proof.Config

/-- Entries of a vector queue (R27). -/
def vqCap : Nat := 4
/-- Entries of mq (R32). -/
def mqCap : Nat := 32
/-- Entries of xq (R337). -/
def xqCap : Nat := 64
/-- Landing-buffer entries (R21). -/
def lbCap : Nat := 64
/-- Store-queue entries (R315). -/
def sqCap : Nat := 64
/-- Bundles of a group at most (R11). -/
def groupMax : Nat := 8
/-- Live loop levels (R33). -/
def loopMax : Nat := 6
/-- Live return entries (R33). -/
def retMax : Nat := 16
/-- M-slot instructions waiting for their start (R190). -/
def mWaitMax : Nat := 8
/-- Band table entries of a core (R197). -/
def bandMax : Nat := 32
/-- Accumulator banks of a core (R195). -/
def banks : Nat := 64
/-- Commands of a channel queue (R332). -/
def chanCap : Nat := 32
/-- Dirty tiles a die lists (R284). -/
def dirtyCap : Nat := 16384
/-- Entries of the local journal buffer (R403). -/
def journalCap : Nat := 1048576
/-- Entries of the emission hold buffer (R405). -/
def holdCap : Nat := 4096
/-- Entries of one mirror ring: 4 GiB of 64-byte entries (R399). -/
def ringCap : Nat := 67108864

/-- FREE VALUE (DESIGN CHOICE, log entry 7): the FP32 result of transcendental `op` (opcode 0x2A to 0x2D) on the FP32 value `x`, where
R152 does not fix it; the machine holds it within R151's bound. A fixed function of the input (R151). -/
opaque transcendental (op : Nat) (x : BitVec 32) : BitVec 32

/-- FREE VALUE (DESIGN CHOICE, log entry 7): which of the two FP32 neighbours of the exact value VRCP and VRSQ return (R151). -/
opaque roundsUp (op : Nat) (x : BitVec 32) : Bool

/-- FREE VALUE (DESIGN CHOICE, log entry 10): cycles a freeze lasts whose length the spec does not give (R19). -/
opaque freezeCycles : Nat → Nat

/-- Entries of a copy channel's TLB, and of a die's translation cache (R257). -/
def tlbCap : Nat := 1024
def tcacheCap : Nat := 65536

/-- FREE VALUE (DESIGN CHOICE, log entry 107): which entry a full TLB or translation cache gives up for a new one, by a counter and the
number of its entries (R257). -/
opaque tlbVictim (n len : Nat) : Nat

/-- FREE VALUE (DESIGN CHOICE, log entry 17): the hash of a destination sector's address that picks a fabric port (R385). -/
opaque portHash (sector : Nat) : Nat

/-- FREE VALUE (DESIGN CHOICE, log entry 23): what another device answers to a message, by a counter: 1 when it takes the message, 2 when
its oldest matching buffer is too short, else no matching buffer is posted yet (R351). -/
opaque sendAnswer (n : Nat) : Nat

/-- First physical address of the 4 KiB page of device memory that holds the launch queue registers (R238, R389). The spec gives no
address (DESIGN CHOICE, log entry 108): the last page of the last stack. -/
def queuePage : Nat := 2 ^ 40 - 4096

/-- What a decoder gets out of a bitstream: the frames, each a list of planes, each plane its width in samples and its
samples in row order; the number of concealed frames; and the context it leaves (R354). -/
structure MediaOut where
  frames : List (List (Nat × List Nat))
  concealed : Nat
  ctx : List Byte
  deriving DecidableEq, Repr, Inhabited

/-- FREE VALUE (DESIGN CHOICE, log entry 11): the outcome of decoding a bitstream with a codec and a context (R354). -/
opaque mediaDecode (codec : Nat) (bits ctx : List Byte) (maxFrames : Nat) : MediaOut

/-- Decoder context sizes in units of 4 KiB (R417): AV1, VVC, HEVC, AVC, baseline JPEG. -/
def mediaCtxUnits : List Nat := [3072, 3584, 2560, 1792, 16]

/-- FREE VALUE (DESIGN CHOICE, log entry 21): the FP32 code of a quotient (op 0) or a root (op 1) of the near-memory kernel ADAM where
the spec states no result: a zero or infinite divisor or dividend, the root of a negative number or of infinity. -/
opaque adamCorner (op : Nat) (a b : BitVec 32) : BitVec 32

/-- FREE VALUE (DESIGN CHOICE, log entry 22): which of the members still to combine comes next in a collective's arrival order (R353),
by a counter and the number of members left. -/
opaque arrivalPick (n left : Nat) : Nat

/-- FREE VALUE (DESIGN CHOICE, log entry 16): a member of a collective on another device, by a counter and its rank (R352, R353): its
device index, its rank at the device level, and whether its kind, combine, format, count and order agree. -/
opaque peerMember (n rank : Nat) : Nat × Nat × Bool

/-- FREE VALUE (DESIGN CHOICE, log entry 16): an element of what such a member contributes. -/
opaque peerElem (n rank e : Nat) : Nat

/-- FREE VALUE (DESIGN CHOICE, log entry 42): which of the tasks whose requests wait is the next to reach the journal controller
(R403), by a counter and their number. -/
opaque journalPick (n tasks : Nat) : Nat

/-- FREE VALUE (DESIGN CHOICE, log entry 86): the tstep of a stream of another device, as this device, its mirror, knows it (R404). -/
opaque peerTstep (n dev stream : Nat) : Nat

/-- FREE VALUE (DESIGN CHOICE, log entry 86): whether the mirror has answered that its ring is full, so that no timeout runs (R404). -/
opaque mirrorFull (n : Nat) : Bool

/-- FREE VALUES (DESIGN CHOICE, log entry 11): the SM3 digest of bytes, whether an SM2 signature of a digest verifies under a public
key, and the key that signed a certificate over another (R393). -/
opaque sm3 (bytes : List Byte) : BitVec 256
opaque sm2Verify (key : BitVec 512) (digest : BitVec 256) (sig : BitVec 512) : Bool
opaque certKey (key cert : BitVec 512) : BitVec 512

/-- FREE VALUE (DESIGN CHOICE, log entry 101): the bytes of the image of a stage that the boot finds, by a counter (R393). -/
opaque bootImage (n stage : Nat) : List Byte

/-- FREE VALUE (DESIGN CHOICE, log entry 11): the SM2 signature over the SM3 digest of a report (R394). -/
opaque attestSign (report : List Byte) : BitVec 512

/-- FREE VALUE (DESIGN CHOICE, log entry 26): the 16-byte field of a report that holds the firmware's versions and rollback counters,
whose layout R394 does not give. -/
opaque attestVersions (versions rollback : List Nat) : BitVec 128

/-- FREE VALUE (DESIGN CHOICE, log entry 13): the neighbour that grants frames for an offload, with its first frame, or none when no
neighbour grants them (R356, R357); the counter, the wanted neighbour (none: any) and the number of tiles. -/
opaque neighbourGrant (n : Nat) (want : Option Nat) (tiles : Nat) : Option (Nat × Nat)

end Sys2Proof.Config
end

