-- ==== Sys2Proof/Machine/Bits.lean ====
section
/-!
DEFINITION. Small operations on vectors, bit vectors, numbers and byte lists that the meanings share.
-/

namespace Sys2Proof.Machine

/-- Element `i` of a vector, `d` where there is none. -/
def vget {α : Type} {n : Nat} (v : Vector α n) (i : Nat) (d : α) : α := v[i]?.getD d

/-- A vector with element `i` replaced; unchanged where there is none. -/
def vput {α : Type} {n : Nat} (v : Vector α n) (i : Nat) (x : α) : Vector α n := v.setIfInBounds i x

/-- Bits [lo + n − 1 : lo] of a number. -/
def bitsOf (x lo n : Nat) : Nat := (x >>> lo) % 2 ^ n

/-- A number with bits [lo + n − 1 : lo] replaced by the low n bits of `v`. -/
def bitsPut (x lo n v : Nat) : Nat := x - (bitsOf x lo n) <<< lo + (v % 2 ^ n) <<< lo

/-- The value of the low `n` bits read as two's complement. -/
def sgn (n x : Nat) : Int :=
  let v := x % 2 ^ n
  if n = 0 then 0 else if v < 2 ^ (n - 1) then (v : Int) else (v : Int) - 2 ^ n

/-- An integer modulo 2^n, as a number. -/
def wrap (n : Nat) (x : Int) : Nat := (x % 2 ^ n).toNat

/-- Ceiling of a quotient. -/
def ceilDiv (a b : Nat) : Nat := (a + b - 1) / b

/-- Truth as 0 or 1. -/
def b2n (b : Bool) : Nat := if b then 1 else 0

/-- The integer square root of `n`, found bit by bit from bit `k` down. -/
def isqrtGo (n : Nat) : Nat → Nat → Nat
  | 0, r => r
  | k + 1, r => let c := r + 2 ^ k; if c * c ≤ n then isqrtGo n k c else isqrtGo n k r

/-- The integer square root. -/
def isqrt (n : Nat) : Nat := isqrtGo n (Nat.log2 n / 2 + 1) 0

/-- Bytes read little-endian (R5). -/
def natOfBytes : List Byte → Nat
  | [] => 0
  | b :: t => b.toNat + 256 * natOfBytes t

/-- The `n` low bytes of a number, little-endian (R5). -/
def bytesOfNat : Nat → Nat → List Byte
  | 0, _ => []
  | n + 1, x => BitVec.ofNat 8 x :: bytesOfNat n (x / 256)

/-- Elements of `w` bits of a number, the first `n`, lowest first. -/
def elems (w : Nat) : Nat → Nat → List Nat
  | 0, _ => []
  | n + 1, x => x % 2 ^ w :: elems w n (x >>> w)

/-- Elements of `w` bits packed into a number, the first lowest. -/
def packs (w : Nat) : List Nat → Nat
  | [] => 0
  | x :: t => x % 2 ^ w + (packs w t) <<< w

/-- The sum of a list of numbers. -/
def sumN (l : List Nat) : Nat := l.foldl (· + ·) 0

/-- The sum of a row's 256 bytes, 24 bits wide: a queue entry's tag (R301). -/
def rowTag (r : Row) : Sum24 := BitVec.ofNat 24 (sumN (elems 8 256 r.toNat))

/-- The sum of a row's 128 halves, 24 bits wide (R291). -/
def rowHalves (r : Row) : Sum24 := BitVec.ofNat 24 (sumN (elems 16 128 r.toNat))

/-- A list without its element `i`. -/
def dropAt {α : Type} : List α → Nat → List α
  | [], _ => []
  | _ :: t, 0 => t
  | x :: t, i + 1 => x :: dropAt t i

/-- A list with element `i` changed by `f`. -/
def updAt {α : Type} (f : α → α) : List α → Nat → List α
  | [], _ => []
  | x :: t, 0 => f x :: t
  | x :: t, i + 1 => x :: updAt f t i

/-- Consecutive numbers from `a`. -/
def upTo (a : Nat) : Nat → List Nat
  | 0 => []
  | n + 1 => a :: upTo (a + 1) n

end Sys2Proof.Machine
end

