-- ==== Sys2Proof/Machine/NumFmt.lean ====
section
/-!
DEFINITION. The number formats and exact arithmetic of "Number Formats and Exact Arithmetic" (R131 to R152): every
value is decoded exactly, and rounded only by the named functions of R138 to R140.
-/

namespace Sys2Proof.Machine

/-! ### Formats (R54, R131 to R134) -/

/-- A binary float format: exponent bits, fraction bits, bias, and whether an exponent of all ones means infinity or
NaN (R132, R133); E4M3 has no infinity. -/
structure FFmt where
  eb : Nat
  fb : Nat
  bias : Nat
  ieee : Bool
  deriving DecidableEq, Repr

def fp32 : FFmt := ⟨8, 23, 127, true⟩
def bf16 : FFmt := ⟨8, 7, 127, true⟩
def fp16 : FFmt := ⟨5, 10, 15, true⟩
def e4m3 : FFmt := ⟨4, 3, 7, false⟩
def e5m2 : FFmt := ⟨5, 2, 15, true⟩

/-- What a format code of R54 stands for. -/
inductive NKind where
  | int (signed : Bool) (w : Nat)
  | flt (f : FFmt)
  | tap (n : Nat)
  deriving DecidableEq, Repr

/-- The format of a code (R54). Code 15, raw bytes, reads as unsigned bytes. -/
def fmtKind : Nat → NKind
  | 0 => .int true 8
  | 1 => .int false 8
  | 2 => .int true 16
  | 3 => .int false 16
  | 4 => .int true 32
  | 5 => .int false 32
  | 6 => .flt e4m3
  | 7 => .flt e5m2
  | 8 => .tap 7
  | 9 => .tap 5
  | 10 => .flt bf16
  | 11 => .flt fp16
  | 12 => .flt fp32
  | 13 => .int true 4
  | 14 => .int false 4
  | _ => .int false 8

/-- The lane width of a format code (R153). -/
def laneBits (fmt : Nat) : Nat :=
  if fmt = 2 ∨ fmt = 3 ∨ fmt = 10 ∨ fmt = 11 then 16 else if fmt = 4 ∨ fmt = 5 ∨ fmt = 12 then 32 else 8

/-- The bits an element of a format code takes in memory (R131). -/
def elemBits (fmt : Nat) : Nat := if fmt = 13 ∨ fmt = 14 then 4 else if fmt = 9 then 6 else laneBits fmt

/-- Whether a code names an integer format (R54). -/
def isIntFmt (fmt : Nat) : Bool := fmt ≤ 5 || fmt = 13 || fmt = 14 || fmt = 15

/-- Whether an integer format code is signed. -/
def isSigned (fmt : Nat) : Bool := fmt = 0 || fmt = 2 || fmt = 4 || fmt = 13

/-- Bits of an integer element. -/
def intBits (fmt : Nat) : Nat := if fmt = 13 ∨ fmt = 14 then 4 else laneBits fmt

/-! ### Exact values -/

/-- An exact value: NaN (signalling or not), infinity, or ± m × 2^e with signed zeros. -/
inductive Num where
  | nan (sig : Bool)
  | inf (neg : Bool)
  | fin (neg : Bool) (m : Nat) (e : Int)
  deriving DecidableEq, Repr

/-- An exact integer. -/
def Num.ofInt (x : Int) : Num := .fin (decide (x < 0)) x.natAbs 0

/-- Sticky bits in the order of R142: INV, SAT, UNF, INX, NAN. -/
def fINV : Nat := 1
def fSAT : Nat := 2
def fUNF : Nat := 4
def fINX : Nat := 8
def fNAN : Nat := 16

/-- The exact value of a float code (R132, R133). -/
def decodeF (f : FFmt) (c : Nat) : Num :=
  let neg := (c >>> (f.eb + f.fb)) % 2 = 1
  let ex := bitsOf c f.fb f.eb
  let fr := c % 2 ^ f.fb
  if ex = 2 ^ f.eb - 1 ∧ f.ieee then
    if fr = 0 then .inf neg else .nan (f.fb > 2 ∧ fr < 2 ^ (f.fb - 1))
  else if ex = 2 ^ f.eb - 1 ∧ fr = 2 ^ f.fb - 1 then .nan false
  else if ex = 0 then .fin neg fr (1 - (f.bias : Int) - f.fb)
  else .fin neg (2 ^ f.fb + fr) ((ex : Int) - f.bias - f.fb)

/-- Length of the run of bits of `m` equal to `b`, from bit `n − 1` downward. -/
def runLen (m : Nat) (b : Bool) : Nat → Nat
  | 0 => 0
  | n + 1 => if m.testBit n = b then 1 + runLen m b n else 0

/-- decode_tapered (R134). -/
def decodeT (c n : Nat) : Num :=
  let s := c.testBit n
  let m := c % 2 ^ n
  if m = 0 then (if s then .nan false else .fin false 0 0)
  else
    let lead := m.testBit (n - 1)
    let k := runLen m lead n
    let r : Int := if lead then (k : Int) - 1 else -(k : Int)
    let restLen := n - k - 1
    let e : Int := if restLen = 0 then 0 else if m.testBit (restLen - 1) then 1 else 0
    let nf := restLen - 1
    .fin s (2 ^ nf + m % 2 ^ nf) (2 * r + e - nf)

/-- The exact value of a code of a format (R131 to R134). -/
def decodeN (fmt c : Nat) : Num :=
  match fmtKind fmt with
  | .int true w => .ofInt (sgn w c)
  | .int false w => .fin false (c % 2 ^ w) 0
  | .flt f => decodeF f c
  | .tap n => decodeT c n

/-- The canonical NaN of a format (R137); 0 for an integer format. -/
def canonNaN (fmt : Nat) : Nat :=
  match fmt with
  | 6 => 0x7F | 7 => 0x7E | 8 => 0x80 | 9 => 0x20 | 10 => 0x7FC0 | 11 => 0x7E00 | 12 => 0x7FC00000 | _ => 0

/-- The canonical NaN of a float format. -/
def FFmt.nan (f : FFmt) : Nat :=
  if f.ieee then (2 ^ f.eb - 1) <<< f.fb + 2 ^ (f.fb - 1) else (2 ^ f.eb - 1) <<< f.fb + (2 ^ f.fb - 1)

/-- The code of infinity. -/
def FFmt.infCode (f : FFmt) (neg : Bool) : Nat := b2n neg <<< (f.eb + f.fb) + (2 ^ f.eb - 1) <<< f.fb

/-- The largest finite value's code. -/
def FFmt.maxCode (f : FFmt) (neg : Bool) : Nat :=
  b2n neg <<< (f.eb + f.fb) + (if f.ieee then (2 ^ f.eb - 1) <<< f.fb - 1 else 2 ^ (f.eb + f.fb) - 2)

/-- The largest finite value, as m × 2^e. -/
def FFmt.maxFin (f : FFmt) : Nat × Int :=
  let top : Int := (2 ^ f.eb - 1 : Nat)
  if f.ieee then (2 ^ (f.fb + 1) - 1, top - 1 - f.bias - f.fb)
  else (2 ^ (f.fb + 1) - 2, top - f.bias - f.fb)

/-- Whether a × 2^p ≤ b × 2^q. -/
def leP2 (a : Nat) (p : Int) (b : Nat) (q : Int) : Bool :=
  if p ≤ q then a ≤ b <<< (q - p).toNat else a <<< (p - q).toNat ≤ b

/-- Whether a × 2^p < b × 2^q. -/
def ltP2 (a : Nat) (p : Int) (b : Nat) (q : Int) : Bool := !leP2 b q a p

/-! ### Rounding (R138) -/

/-- A rounded magnitude: m × 2^e, and whether it differs from what was rounded. -/
structure Rnd where
  m : Nat
  e : Int
  inx : Bool
  deriving DecidableEq, Repr

/-- m × 2^e, a little more when `sticky`, rounded to nearest with ties to even at the exponent `q` of the last place. -/
def rneAt (m : Nat) (e : Int) (sticky : Bool) (q : Int) : Rnd :=
  if q ≤ e then ⟨m <<< (e - q).toNat, q, sticky⟩
  else
    let sh := (q - e).toNat
    let hi := m >>> sh
    let lo := m % 2 ^ sh
    let half := 2 ^ (sh - 1)
    let up := decide (half < lo) || (lo == half && (sticky || hi % 2 == 1))
    ⟨hi + b2n up, q, lo ≠ 0 || sticky⟩

/-- round_rne of a magnitude into a float format: subnormals at the bottom, no limit at the top. -/
def rneF (f : FFmt) (m : Nat) (e : Int) (sticky : Bool) : Rnd :=
  if m = 0 then ⟨0, 1 - (f.bias : Int) - f.fb, sticky⟩
  else
    let q := max ((Nat.log2 m : Int) + e - f.fb) (1 - (f.bias : Int) - f.fb)
    rneAt m e sticky q

/-- The code of an exactly representable magnitude within range. -/
def packF (f : FFmt) (neg : Bool) (m : Nat) (e : Int) : Nat :=
  let s := b2n neg <<< (f.eb + f.fb)
  if m = 0 then s
  else
    let l : Int := Nat.log2 m
    let ex := l + e + f.bias
    if ex ≤ 0 then
      let d := e - (1 - (f.bias : Int) - f.fb)
      s + (if d ≥ 0 then m <<< d.toNat else m >>> (-d).toNat)
    else
      let fr := if l ≤ f.fb then m <<< (f.fb - l.toNat) else m >>> (l.toNat - f.fb)
      s + ex.toNat <<< f.fb + (fr - 2 ^ f.fb)

/-- Flags of a rounded magnitude (R138): INX, and UNF for a tiny nonzero inexact result. -/
def rndFlags (f : FFmt) (r : Rnd) : Nat :=
  if r.inx then
    fINX + (if r.m ≠ 0 ∧ ltP2 r.m r.e 1 (1 - (f.bias : Int)) then fUNF else 0)
  else 0

/-- Whether a magnitude exceeds the largest finite value. -/
def overF (f : FFmt) (m : Nat) (e : Int) : Bool := ltP2 f.maxFin.1 f.maxFin.2 m e

/-- arith_round of a magnitude (R138, R141). -/
def arithMag (f : FFmt) (neg : Bool) (m : Nat) (e : Int) (sticky : Bool) : Nat × Nat :=
  let r := rneF f m e sticky
  if overF f r.m r.e then
    if f.ieee then (f.infCode neg, fINX) else (f.maxCode neg, fSAT ||| fINX)
  else (packF f neg r.m r.e, rndFlags f r)

/-- arith_round of an exact value. A NaN here is the result of an operation that has set its own flags. -/
def arithRound (f : FFmt) : Num → Nat × Nat
  | .nan _ => (f.nan, fNAN)
  | .inf neg => if f.ieee then (f.infCode neg, 0) else (f.maxCode neg, fSAT)
  | .fin neg m e => arithMag f neg m e false

/-! ### Exact operations with IEEE special values (R141) -/

/-- Flags of NaN operands (R141, R142). -/
def nanFlags : Num → Nat
  | .nan s => if s then fNAN ||| fINV else fNAN
  | _ => 0

/-- The exact product, with the flags of its special cases. -/
def nmul (a b : Num) : Num × Nat :=
  match a, b with
  | .nan _, _ | _, .nan _ => (.nan false, nanFlags a ||| nanFlags b)
  | .inf s, .inf t => (.inf (s != t), 0)
  | .inf s, .fin t m _ | .fin t m _, .inf s => if m = 0 then (.nan false, fINV ||| fNAN) else (.inf (s != t), 0)
  | .fin s m e, .fin t n g => (.fin (s != t) (m * n) (e + g), 0)

/-- The exact sum, with the flags of its special cases; an exact zero sum is −0 only when both terms are negative. -/
def nadd (a b : Num) : Num × Nat :=
  match a, b with
  | .nan _, _ | _, .nan _ => (.nan false, nanFlags a ||| nanFlags b)
  | .inf s, .inf t => if s = t then (.inf s, 0) else (.nan false, fINV ||| fNAN)
  | .inf s, .fin _ _ _ | .fin _ _ _, .inf s => (.inf s, 0)
  | .fin s m e, .fin t n g =>
    let q := min e g
    let x : Int := ((m <<< (e - q).toNat : Nat) : Int) * (if s then -1 else 1)
    let y : Int := ((n <<< (g - q).toNat : Nat) : Int) * (if t then -1 else 1)
    let z := x + y
    if z = 0 then (.fin (s && t) 0 q, 0) else (.fin (decide (z < 0)) z.natAbs q, 0)

/-- The negated value. -/
def Num.neg : Num → Num
  | .nan s => .nan s
  | .inf s => .inf (!s)
  | .fin s m e => .fin (!s) m e

/-- The magnitude. -/
def Num.abs : Num → Num
  | .nan s => .nan s
  | .inf _ => .inf false
  | .fin _ m e => .fin false m e

/-- Whether a value is a NaN. -/
def Num.isNaN : Num → Bool
  | .nan _ => true
  | _ => false

/-- Whether a value is zero. -/
def Num.isZero : Num → Bool
  | .fin _ m _ => m = 0
  | _ => false

/-- Whether a value is a NaN or an infinity. -/
def Num.nonFinite : Num → Bool
  | .fin _ _ _ => false
  | _ => true

/-- a < b, false with a NaN; −0 equals +0. -/
def nlt (a b : Num) : Bool :=
  match a, b with
  | .nan _, _ | _, .nan _ => false
  | .inf s, .inf t => s && !t
  | .inf s, .fin _ _ _ => s
  | .fin _ _ _, .inf t => !t
  | .fin s m e, .fin t n g =>
    if m = 0 ∧ n = 0 then false
    else if s && !t then true
    else if !s && t then false
    else if s then ltP2 n g m e
    else ltP2 m e n g

/-- a = b in value, false with a NaN. -/
def neqv (a b : Num) : Bool := !a.isNaN && !b.isNaN && !nlt a b && !nlt b a

/-- A sign, with −0 negative. -/
def Num.sign : Num → Bool
  | .nan _ => false
  | .inf s => s
  | .fin s _ _ => s

/-- fmin of R166: the smaller, −0 below +0, a NaN ignored; none when both are NaN. -/
def fminN (a b : Num) : Option Num :=
  if a.isNaN then (if b.isNaN then none else some b)
  else if b.isNaN then some a
  else if nlt a b then some a else if nlt b a then some b else if a.sign then some a else some b

/-- fmax of R166. -/
def fmaxN (a b : Num) : Option Num :=
  if a.isNaN then (if b.isNaN then none else some b)
  else if b.isNaN then some a
  else if nlt a b then some b else if nlt b a then some a else if a.sign then some b else some a

/-! ### Conversion (R139, R140) -/

/-- encode_tapered of a finite magnitude (R139). -/
def tapMag (s : Bool) (m : Nat) (e : Int) (n : Nat) : Nat × Nat :=
  let sb := b2n s <<< n
  let rmax : Int := (n : Int) - 1
  if m = 0 then (0, 0)
  else if leP2 1 (2 * rmax) m e then
    (sb + (2 ^ n - 1), if leP2 m e 1 (2 * rmax) then 0 else fSAT ||| fINX)
  else if ltP2 m e 1 (-2 * rmax) then (sb + 1, fUNF ||| fINX)
  else
    let l := Nat.log2 m
    let t : Int := (l : Int) + e
    let r := t / 2
    let eb := (t - 2 * r).toNat
    let reg : Nat := if r ≥ 0 then (2 ^ (r.toNat + 1) - 1) <<< 1 else 1
    let regLen : Nat := if r ≥ 0 then r.toNat + 2 else (-r).toNat + 1
    let str := ((reg <<< 1) + eb) <<< l + (m - 2 ^ l)
    let len := regLen + 1 + l
    let q := rneAt str 0 false ((len : Int) - n)
    (sb + (if len ≤ n then str <<< (n - len) else q.m), if len ≤ n then 0 else if q.inx then fINX else 0)

/-- The bounds of an integer format. -/
def intRange (signed : Bool) (w : Nat) : Int × Int :=
  if signed then (-(2 ^ (w - 1) : Int), 2 ^ (w - 1) - 1) else (0, 2 ^ w - 1)

/-- cvt (R140): the code and the flags. DEDUCED: log entry 31. -/
def cvt (x : Num) (fmt : Nat) : Nat × Nat :=
  match fmtKind fmt with
  | .flt f =>
    match x with
    | .nan s => (f.nan, if s then fNAN ||| fINV else fNAN)
    | .inf neg => (f.maxCode neg, fSAT)
    | .fin neg m e =>
      let r := rneF f m e false
      if overF f r.m r.e then (f.maxCode neg, fSAT ||| fINX) else (packF f neg r.m r.e, rndFlags f r)
  | .tap n =>
    match x with
    | .nan s => (canonNaN fmt, if s then fNAN ||| fINV else fNAN)
    | .inf neg => (b2n neg <<< n + (2 ^ n - 1), fSAT)
    | .fin neg m e => tapMag neg m e n
  | .int sg w =>
    let rg := intRange sg w
    match x with
    | .nan _ => (0, fNAN ||| fINV)
    | .inf neg => (wrap w (if neg then rg.1 else rg.2), fSAT)
    | .fin neg m e =>
      let r := rneAt m e false 0
      let v : Int := if neg then -(r.m : Int) else r.m
      let fx := if r.inx then fINX else 0
      if v > rg.2 then (wrap w rg.2, fSAT ||| fINX)
      else if v < rg.1 then (wrap w rg.1, fSAT ||| fINX)
      else (wrap w v, fx)

/-- A code placed in its lane: 4-bit signed codes sign-filled, others zero-filled (R131). -/
def toLane (fmt c : Nat) : Nat :=
  if fmt = 13 then wrap 8 (sgn 4 c) else if fmt = 14 then c % 16 else if fmt = 9 then c % 64 else c

/-! ### Quotients and roots, for rounding once -/

/-- num × 2^e / den as m × 2^g with a sticky bit, at least 40 bits longer than needed. -/
def quot (num den : Nat) (e : Int) : Nat × Int × Bool :=
  let k := Nat.log2 den + 64
  let n := num <<< k
  (n / den, e - k, n % den ≠ 0)

/-- √(m × 2^e) as r × 2^g with a sticky bit. -/
def root (m : Nat) (e : Int) : Nat × Int × Bool :=
  let odd := e % 2 = 1
  let m1 := if odd then m <<< 1 else m
  let e1 := if odd then e - 1 else e
  let m2 := m1 <<< 128
  let r := isqrt m2
  (r, e1 / 2 - 64, r * r ≠ m2)

end Sys2Proof.Machine
end

