-- ==== Sys2Proof/Machine/State.lean ====
section
/-!
DEFINITION. The machine's state as plain data: everything the spec gives the SXA-2 (INVENTORY.md, heading State, names
the rule of each field), the reasons a step could stop, and the state after reset.

The state is FOCUSED on one core: `pl` is that core's lit plane, `co` the rest of it, `others` every other core with its
lit plane. The focus is the model's own device (DESIGN CHOICE, log entry 4); it moves nothing.
-/

namespace Sys2Proof.Machine

/-- Why a step could stop. No meaning of this model stops: the spec gives every instruction and event an effect. -/
inductive Fault where
  /-- Raised by nobody. Safe: a stop would only hide behaviour. -/
  | stuck
  deriving DecidableEq, Repr

/-- Why a step could be refused. -/
inductive Refusal where
  /-- Raised by a dispatch arm whose instruction has no meaning yet. Safe: nothing runs. -/
  | notModelled (mnemonic : String)
  deriving DecidableEq, Repr

/-- A sparse table: keys strictly rising, no value equal to the default that its reader names (Machine/Mem.lean). -/
abbrev SMap (α : Type) := List (Nat × α)

/-- An entry of a vector queue or of mq (R27, R32). -/
structure Entry where
  data : Row
  tag : Sum24
  deriving DecidableEq, Repr

/-- Where a result lands (R15, R370). -/
inductive Dest where
  /-- No destination. -/
  | none
  /-- A scalar register; s0 takes nothing (R25). -/
  | sreg (r : BitVec 5)
  /-- A predicate: cluster × 4 + number. -/
  | pred (k : Nat)
  /-- A scale register (R145). -/
  | scale (n : Nat)
  /-- A push into a vector queue: cluster × 16 + number. -/
  | vq (k : Nat)
  /-- A push into mq. -/
  | mq
  deriving DecidableEq, Repr

/-- A precise or deferred cause with its detail word. -/
structure Cause where
  code : BitVec 8
  detail : Word
  deriving DecidableEq, Repr

/-- A cause found while a group is checked: with the bundle's position in the group and the slot (R61). -/
structure Found where
  cause : Cause
  pos : Nat
  slot : Nat
  deriving DecidableEq, Repr

/-- A barrier arrival an operation owes (R230): level and number, 0 levels meaning none, and the AR selector that named
it, 0 for ARRIVE and ARWAIT. -/
structure Owed where
  lid : Nat
  rank : Nat
  level : Nat
  num : Nat
  ar : Nat
  deriving DecidableEq, Repr

/-- A result in flight (R15, R18, R21). `due` counts bundles issued by the plane; a captured result holds its remaining
distance in `due` instead (R369). `known` says the value is fixed, `arrived` that it is back at the core; `raised` that its FP_EXCEPTION has been. -/
structure Flight where
  id : Nat
  due : Nat
  dest : Dest
  val : Row
  tag : Sum24
  flags : BitVec 5
  eng : Nat
  arr : Option Owed
  lb : Bool
  known : Bool
  arrived : Bool
  raised : Bool
  slot : Nat
  issued : Nat
  take : Option (Nat × Nat)
  qfSet : Option Bool
  deriving DecidableEq, Repr

/-- A deferred-precise cause: reporting count and request identifier (R364, R366). The count is a task count, or in
`hdefer`, which holds the causes of a handler's own instructions, a bundle count. -/
structure Deferred where
  cause : Cause
  due : Nat
  req : Word
  deriving DecidableEq, Repr

/-- A live loop level (R33, R91). -/
structure Loop where
  count : BitVec 32
  index : BitVec 32
  seg : BitVec 32
  start : BitVec 12
  stop : BitVec 12
  pre : Bool
  deriving DecidableEq, Repr

/-- An operand ring (R127). -/
structure Ring where
  base : BitVec 8
  size : BitVec 9
  head : BitVec 8
  count : BitVec 9
  deriving DecidableEq, Repr

/-- A scale register and its reciprocal (R145). -/
structure Scale where
  w : Word
  rcp : BitVec 32
  deriving DecidableEq, Repr

/-- A segment expanded into a loop-buffer half, or the held fault of fetching it (R37, R39); `unc` is the address of
its first sector with an uncorrectable error (R371); `broken` says that the table entry `nidx` does not hold `next`, so
that a fall-through fails (R65). -/
structure SegBuf where
  idx : Nat
  bundles : List Bundle
  next : Word
  nidx : Nat
  err : Option Cause
  unc : Option Word
  broken : Bool
  deriving DecidableEq, Repr

/-- How control enters a segment: by a transfer, by fall-through (R65), as a trap handler (R96), or by ERET (R99). -/
inductive Via where
  | jump
  | fall
  | trap
  | eret
  deriving DecidableEq, Repr

/-- A segment entry under way (R38): target segment and bundle, and how control enters. -/
structure Enter where
  seg : Nat
  bun : Nat
  via : Via
  deriving DecidableEq, Repr

/-- States of a plane (R225). -/
inductive PStatus where
  | empty
  | loaded
  | ready
  | parked
  | ended
  deriving DecidableEq, Repr

/-- What a waiting task waits for (R226). -/
inductive Wait where
  /-- WAITB and ARWAIT: the barrier's phase reaches `target` (R231). -/
  | bar (level num target : Nat)
  /-- SSTEP: the superstep count passes `count` (R232). -/
  | sstep (level count : Nat)
  /-- WAITJ: the block at this physical address is complete (R237). -/
  | jcb (pa : Nat)
  /-- WAITJ on a block of a symbolic tile or of a view, sampled as the instruction issued: its complete bit (R237, R276). -/
  | jcbBit (done : Bool)
  /-- ECLIPSE (R228). -/
  | eclipse
  /-- YIELD; the flag is set once the task has left the ready set (R228). -/
  | yield (gone : Bool)
  /-- The task ends once its M-slot instructions have retired (R194, R246). -/
  | halt
  /-- The task is being pre-empted (R375). -/
  | save
  deriving DecidableEq, Repr

/-- Where control goes after the bundle (R13, R92). -/
inductive Xfer where
  /-- A bundle of the executing segment. -/
  | bundle (b : Nat)
  /-- A bundle of a segment of the table (R38). -/
  | segment (s b : Nat)
  /-- End processing after `BRKL`, as if bundle `b` of segment `s` had issued (R94). -/
  | after (s b : Nat)
  /-- TRAP or BRKPT after the group retires (R98); the flag is set for BRKPT, which runs no end processing. -/
  | software (c : Cause) (brk : Bool)
  /-- ERET (R99). -/
  | eret
  /-- HALT (R100). -/
  | halt
  deriving DecidableEq, Repr

/-- How a meaning treats a failing precise check (DESIGN CHOICE, log entry 9): take the trap at once, only note it while its group is
being checked, or skip the checks of a group already checked. -/
inductive Mode where
  | direct
  | check
  | run
  deriving DecidableEq, Repr

/-- A configured view (R342). -/
structure View where
  sp : Nat
  va : Nat
  size : Nat
  base : Nat
  transposed : Bool
  fmt : BitVec 4
  scale : BitVec 32
  deriving DecidableEq, Repr

/-- An LQ entry: an LDF not yet performed, with the 256 bytes it names, the row a symbolic tile gives it, or the view it
reads and the offset of its row there; or a MARK (R321, R323, R342). `ref` is the tile it sampled, by space and
reference. -/
structure LqEnt where
  id : Nat
  mark : Bool
  fid : Nat
  pa : Nat
  sym : Option Row
  view : Option (Nat × View × Nat)
  ref : Option (Nat × Word)
  deriving DecidableEq, Repr

/-- What an SQ entry is (R315). -/
inductive SqKind where
  /-- A far store of 256 bytes at a physical address, with the tile it samples: address space and reference, or plain; and
  the Lux record the tile was bound to at the sample (R312). -/
  | stf (pa : Nat) (data : Row) (sp : Nat) (ref : Option Word) (lux : Option (BitVec 16))
  | mark
  /-- SFENCE of a scope. -/
  | fence (level : Nat)
  /-- XFENCE.q waiting for commands, by channel and number. -/
  | cmds (w : List (Nat × Nat))
  deriving DecidableEq, Repr

/-- An SQ entry (R321). -/
structure SqEnt where
  id : Nat
  kind : SqKind
  lid : Nat
  rank : Nat
  arr : Option Owed
  issued : Nat
  deriving DecidableEq, Repr

/-- A tile read of an M-slot instruction: the slot, and what its entry resolved to at issue (R192): words of the symbol,
or a STORED entry whose word 1 is the reference of the slot that holds the bytes; `kind` is the kind of the slot's own
entry (R203). -/
structure TileRd where
  slot : Nat
  kind : Nat
  w0 : Word
  w1 : Word
  deriving DecidableEq, Repr

/-- An accumulator row (R195, R200, R148). -/
structure AccRow where
  data : BitVec 8192
  isInt : Bool
  c : BitVec 32
  mag : BitVec 32
  nb : Nat
  marks : BitVec 256
  deriving DecidableEq, Repr

/-- An issued, unretired M-slot instruction (R189): its register values at issue, the tiles it claimed, the pops its
retirement makes, and its progress. -/
structure MEnt where
  ins : Instr
  x : Word
  y : Word
  z : Word
  idx : Row
  issued : Nat
  arr : Option Owed
  supp : Option Cause
  reads : List TileRd
  pops : List (Nat × Nat)
  outs : List (Nat × Nat)
  skip : Bool
  steps : Nat
  start : Option Nat
  retire : Nat
  cap : List Row
  cap2 : List Row
  pushed : Nat
  formed : Bool
  bad : Option Cause
  old : List (Nat × AccRow)
  deriving DecidableEq, Repr

/-- A write to a push window that its engine holds until it is admitted (R31): queue, data, and the number of the
command that writes, 0 for none. -/
structure Push where
  queue : Nat
  data : Row
  seq : Nat
  deriving DecidableEq, Repr

/-- A tile: a slot of a core, or a tile of a tensor with its entry's physical address. -/
structure TLoc where
  sp : Nat
  ref : Word
  isSlot : Bool
  c : Nat
  k : Nat
  desc : Nat
  ent : Nat
  fmt : Nat
  lux : Option (BitVec 16)
  deriving DecidableEq, Repr

/-- What an entry resolves to: a stored tile with its NF bit, a symbol, or a fault's reason (R274). -/
inductive Term where
  | stored (isSlot : Bool) (c k frame : Nat) (nf : Bool)
  | sym (w0 w1 : Word) (fmt : Nat)
  | bad (reason : Nat)
  deriving DecidableEq, Repr

/-- Where an access leads: bytes at a physical address, of plain memory or of a STORED tile; rows of a symbolic tile;
or rows of a view. -/
inductive Look where
  | mem (pa : Nat) (l : Option TLoc)
  | sym (l : TLoc) (t : Term)
  | view (n : Nat) (v : View)
  deriving DecidableEq, Repr

/-- The place of a piece of a copy: a window address with its view, or what a virtual address leads to. -/
inductive Place where
  | win (pa : Nat) (swz : Bool)
  | virt (va : Nat) (k : Look)
  deriving DecidableEq, Repr

/-- What an LDF or STF of a group found before its group issued (R126): the bundle's place in the group, direction,
address, where it leads, and the frame taken for its promotion. -/
structure Looked where
  pos : Nat
  write : Bool
  va : Word
  look : Look
  frame : Option Nat
  deriving DecidableEq, Repr

/-- A plane: one task's resumable state, and its far queues. `grp` is the place of the bundle at pc in its group of `gEnd`
bundles. `dport` is the task count from which the drain port of the
matrix engine is free (R189), `mseen` the causes of the engine raised at the present count before they fell due (R366),
`looks` what the group's far accesses found, `soft` an uncorrectable error that stands in the task's registers,
predicates, latches, stacks or landing buffer, and `lbErr` one in its loop buffer (R371). -/
structure Plane where
  status : PStatus
  lid : Nat
  rank : Nat
  space : Nat
  jact : Bool
  stream : Nat
  ab : Vector (BitVec 8) 3
  dmr : Vector Word 5
  s : Vector Word 32
  vq : Vector (List Entry) 32
  mq : List Entry
  pr : Vector Pred 8
  bl : Vector Row 2
  flags : Vector (BitVec 16) 5
  ks : Vector Scale 8
  xp : Vector (BitVec 128) 4
  rg : Vector Ring 8
  seg : BitVec 32
  bun : BitVec 12
  loops : List Loop
  rets : List (BitVec 44)
  tbase : Word
  epc : Word
  ecause : BitVec 8
  edetail : Word
  ereq : Word
  intrap : Bool
  loopFloor : Nat
  retFloor : Nat
  captured : Nat
  qf : Bool
  cycle : Nat
  bcount : Nat
  tcount : Nat
  xq : List Word
  flight : List Flight
  pending : List Flight
  deferred : List Deferred
  hdefer : List Deferred
  held : Option Cause
  lq : List LqEnt
  sq : List SqEnt
  m : List MEnt
  dport : Nat
  wait : Option Wait
  endReq : Bool
  safe : Bool
  segtab : Word
  nseg : Nat
  resident : Bool
  cur : Option SegBuf
  nxt : Option SegBuf
  res : List SegBuf
  enter : Option Enter
  pushes : List Push
  grp : Nat
  gEnd : Nat
  mode : Mode
  found : List Found
  popped : List Nat
  willPop : List Nat
  newFlags : List (Nat × BitVec 5 × Word × Bool)
  born : Nat
  xfer : Option Xfer
  loopNew : Option Loop
  skipTo : Option Nat
  mseen : List Deferred
  looks : List Looked
  soft : Bool
  lbErr : Bool
  deriving DecidableEq, Repr

/-- A row whose views lag: its contents from before its first write on, oldest first, and the two seen indices (R319). -/
structure RowView where
  hist : List Row
  lin : Nat
  swz : Nat
  deriving DecidableEq, Repr

/-- An engine access accepted by a bank's port and not yet performed (R320): the command that owns it, the physical row
and the view; of a write the row it stores, and of a read, whose `src` holds what the slot's entry resolved to as its piece
started (R276), the window address it is for. -/
structure EngAcc where
  core : Nat
  ch : Nat
  seq : Nat
  row : Nat
  swz : Bool
  data : Row
  lid : Nat
  rank : Nat
  src : Option Term
  pa : Nat
  deriving DecidableEq, Repr

/-- A window row that a command's present piece has read (R320): its address and view, the row, and the cause of a failing
check. -/
structure WinRead where
  pa : Nat
  swz : Bool
  row : Row
  bad : Option Cause
  deriving DecidableEq, Repr

/-- The column state of a bank (R202): sums, magnitudes and block counts per column. -/
structure ColState where
  invalid : Bool
  c : BitVec 8192
  mag : BitVec 8192
  nb : BitVec 8192
  deriving DecidableEq, Repr

/-- A band (R197): first row, count, the launch and the cluster position of its owner. -/
structure Band where
  row : Nat
  count : Nat
  lid : Nat
  pos : Nat
  deriving DecidableEq, Repr

/-- Properties of a stationary buffer (R187); `born` numbers the MLDW, against the `born` of a task's plane. -/
structure WProp where
  fmt : BitVec 4
  cb : Bool
  west : Bool
  nf : Bool
  zero : Bool
  born : Nat
  deriving DecidableEq, Repr

/-- Contents of a stationary buffer: its 256 stored rows and its codebook bytes (R209). -/
structure WData where
  prop : WProp
  rows : List Row
  cb : BitVec 128
  deriving DecidableEq, Repr

/-- States of a slot (R261). -/
inductive SlotSt where
  | free
  | owned
  | offered
  deriving DecidableEq, Repr

/-- A tile slot's entry, owner record and binding (R272, R260, R305). `hidden` marks a taken slot whose XTAKE has not
landed (R264); `takeable` an offer whose release is complete, and `since` the number that the next command had at the offer
(R263). -/
structure Slot where
  w0 : Word
  w1 : Word
  st : SlotSt
  gen : BitVec 16
  trank : BitVec 8
  plane : Nat
  core : Nat
  lid : Nat
  rank : Nat
  hidden : Bool
  takeable : Bool
  arr : Option Owed
  lux : Option (BitVec 16)
  since : Nat
  deriving DecidableEq, Repr

/-- Progress of a channel command. -/
inductive CmdSt where
  /-- Issued, not started. -/
  | queued
  /-- Started, with pieces left to move (R324). -/
  | running
  /-- Its data has moved or it has failed; it waits for visibility and for room in xq. -/
  | moved
  /-- Waiting for a match: XPOST, XSEND, XCOLL. -/
  | posted
  /-- Its replay-pending record is written and its channel holds (R259). -/
  | held
  deriving DecidableEq, Repr

/-- A piece of what a command writes, known before it is placed (R353, R354): its operand address, its bytes, the flags of its
elements, and what it adds to the count of the record. -/
structure Chunk where
  at_ : Nat
  data : List (BitVec 8)
  fl : Nat
  units : Nat
  deriving DecidableEq, Repr

/-- A channel command (R332 to R337): its register values and block at issue, the task and plane it belongs to, the
task count of its issue, and its progress. `emit`, `wm` and `replay` are the emission flag, the watermark once it is
known, and whether the stream replayed at issue (R405, R406); `err` is the first failure of a piece that let the
others go on (R298, R371), `result` any other failure; `pos` the position of the next piece, `done` what the record counts, `extra` the extra entry's
value, `fl` the flags raised, and `peer` the number of another command whose writes it waits for (R351). `cur` holds
where a near command's ranges lead, by first address and length (R348), `sub` what is placed of the present row and
`bits` what a shaped copy has placed in all, in bits, and `unit` what serves it: an XMEDIA's decoder, an XNEAR's die
(R348, R392). `reads` holds the window rows its present piece has read, `asked` those it has asked for, by address and
view, and `need` those that a trial of the piece misses (R320). `out` is what a collective or an XMEDIA has yet to place
(R353, R354). -/
structure Cmd where
  ins : Instr
  x : Word
  y : Word
  z : Word
  blk : BitVec 512
  seq : Nat
  lid : Nat
  rank : Nat
  plane : Nat
  space : Nat
  jact : Bool
  stream : Nat
  issued : Nat
  arr : Option Owed
  pb : Bool
  emit : Bool
  wm : Option Nat
  replay : Bool
  st : CmdSt
  err : Option Cause
  result : Option Cause
  pos : Nat
  done : Nat
  extra : Option Word
  fl : Nat
  peer : Option Nat
  cur : List (Nat × Nat × Place)
  sub : Nat
  bits : Nat
  unit : Option Nat
  reads : List WinRead
  asked : List (Nat × Bool)
  need : List (Nat × Bool)
  out : List Chunk
  deriving DecidableEq, Repr

/-- An XFENCE whose waits are not all satisfied (R325). -/
structure Fence where
  held : BitVec 8
  cmds : List (Nat × Nat)
  stores : List Nat
  seq : Nat
  arr : Option Owed
  plane : Nat
  deriving DecidableEq, Repr

/-- A core without its lit plane. `lit` names which physical plane is lit (R221). -/
structure Core where
  id : Nat
  lit : Nat
  shadow : Plane
  spad : SMap Row
  views : SMap RowView
  engQ : List EngAcc
  acc : SMap AccRow
  cols : SMap ColState
  bank : SMap Nat
  bands : List Band
  wprop : Vector (Option WProp) 2
  w : Vector (Option WData) 2
  chk : Word
  slots : SMap Slot
  ssum : SMap (BitVec 16384)
  ch : Vector (List Cmd) 8
  hold : BitVec 8
  fences : List Fence
  deriving DecidableEq, Repr

/-- A core with its lit plane, out of focus. -/
structure CoreBox where
  pl : Plane
  co : Core
  deriving DecidableEq, Repr

/-- A far store with a coherence position, not yet visible everywhere (R316, R322): one sector or less. `level` is the
outermost level at which it is visible, `lid`, `rank` and `plane` the task of an STF; the list that holds it is in coherence order, oldest first. -/
structure Far where
  id : Nat
  core : Nat
  addr : Nat
  len : Nat
  data : BitVec 256
  level : Nat
  lid : Nat
  rank : Nat
  plane : Nat
  deriving DecidableEq, Repr

/-- A cached translation (R257): who holds it (0 and 1 the dies' caches, 2 + 8 × core + channel the TLB of a copy
channel), space, first address, size in bytes, and the leaf. -/
structure TEntry where
  holder : Nat
  space : Nat
  va : Nat
  size : Nat
  leaf : Word
  deriving DecidableEq, Repr

/-- A partial or whole section request at a Lux record's home (R306, R307). -/
inductive LuxOp where
  /-- A partial record to merge. -/
  | merge (part : BitVec 2048)
  /-- KRCLR: which sections (R314). -/
  | clear (sel : BitVec 2)
  /-- KSEAL. -/
  | seal
  /-- KREC: a field, its bin, and whether of the sealed section; the flight that takes it. -/
  | read (sealed : Bool) (field bin : Nat) (core plane fid : Nat)
  deriving DecidableEq, Repr

/-- A request at a record's home, with the task it comes from, the task's far stores whose merges come first, and the
number of the store or command whose merge it is, 0 for none (R307). -/
structure LuxReq where
  rec_ : BitVec 16
  lid : Nat
  rank : Nat
  op : LuxOp
  arr : Option Owed
  after : List Nat
  store : Nat
  deriving DecidableEq, Repr

/-- A Lux record: live and sealed sections (R303). -/
structure Lux where
  live : BitVec 2048
  sealed : BitVec 2048
  deriving DecidableEq, Repr

/-- A dirty tile of a die's list (R284): space, reference, and the tasks that dirtied it, the one whose write set DIRTY
first. -/
structure Dirty where
  sp : Nat
  ref : Word
  tags : List (Nat × Nat)
  deriving DecidableEq, Repr

/-- A die's error log (R297, R371). -/
structure ErrLog where
  words : Nat
  sums : Nat
  unc : Nat
  mem : Nat
  lastWord : Word
  lastSum : Word
  lastUnc : Word
  deriving DecidableEq, Repr

/-- An entry of a die's fault queue (R239, R245, R259, R275): the die, the kind (0 a launch record, 1 a copy channel, 2 a
completion record, 3 a broken descriptor), two numbers that name what failed, and the cause. -/
structure FaultRec where
  die : Nat
  kind : Nat
  a : Nat
  b : Nat
  cause : Cause
  deriving DecidableEq, Repr

/-- A launch queue block and the dispatcher's working state for it (R238, R239, R389). -/
structure LQueue where
  lring : BitVec 55
  cring : BitVec 55
  size : BitVec 5
  en : Bool
  st : Nat
  dh : Nat
  chead : Nat
  hc : Nat
  head : Option (BitVec 1024)
  raised : Nat
  done : List (Nat × BitVec 256)
  heldRec : Bool
  deriving DecidableEq, Repr

/-- A task of a launch. -/
structure Task where
  rank : Nat
  core : Nat
  plane : Nat
  ended : Bool
  saved : Bool
  deriving DecidableEq, Repr

/-- A saved task (R375 to R377): its plane, and what of its core comes back with it. `banks` are the banks it holds,
`rows` and `cols` their contents and `w`, `wprop` the stationary buffers, for the class full only. -/
structure TaskImg where
  rank : Nat
  pl : Plane
  banks : List Nat
  bands : List Band
  rows : SMap AccRow
  cols : SMap ColState
  wprop : Vector (Option WProp) 2
  w : Vector (Option WData) 2
  deriving DecidableEq, Repr

/-- A saved slot (R376): core and number, its entry and owner record, and for a STORED slot of the class full its bytes
and sums. -/
structure SlotImg where
  core : Nat
  k : Nat
  slot : Slot
  rows : List Row
  side : BitVec 16384
  deriving DecidableEq, Repr

/-- A launch placed or saved (R219 to R248). `saved` says that all its tasks are saved and its banks and slots
released, `limit` that its run limit has passed (R247, R380). -/
structure Launch where
  lid : Nat
  q : Nat
  seq : Nat
  rc : BitVec 1024
  pset : Nat
  base : Nat
  variant : Nat
  prio : Nat
  tasks : List Task
  preempt : Bool
  saved : Bool
  status : Nat
  err : Option (Nat × Cause × Word)
  images : List TaskImg
  slots : List SlotImg
  limit : Bool
  deriving DecidableEq, Repr

/-- One member's counts at a numbered barrier (R229). -/
structure BarCnt where
  lid : Nat
  rank : Nat
  i : Nat
  d : Nat
  deriving DecidableEq, Repr

/-- A numbered barrier: its owner (a launch, or a slice group), level, instance, number, phase and counts (R229). -/
structure Bar where
  grp : Bool
  own : Nat
  level : Nat
  inst : Nat
  num : Nat
  phase : Nat
  cnt : List BarCnt
  deriving DecidableEq, Repr

/-- A superstep barrier and count (R232). -/
structure SStep where
  grp : Bool
  own : Nat
  level : Nat
  inst : Nat
  count : Nat
  marks : List (Nat × Nat)
  deriving DecidableEq, Repr

/-- An arrival at its retire point, not yet delivered (R230, R231): the stores that must be visible first, at a level. -/
structure Arr where
  owed : Owed
  stores : List Nat
  level : Nat
  deriving DecidableEq, Repr

/-- An update or a query under way to a job control block (R235, R236). -/
inductive JOp where
  | add (inc : BitVec 32) (slot : Nat)
  | done (slot : Option Nat) (close : Bool) (err : Option (BitVec 8))
  | query (core plane fid : Nat)
  /-- A query of a block of a symbolic tile or of a view, with the 64 bytes sampled at issue (R236, R276). -/
  | queryRow (blk : BitVec 512) (core plane fid : Nat)
  deriving DecidableEq, Repr

/-- A block request: physical address of the block, issuing task, and the stores that must be visible first. -/
structure JReq where
  pa : Nat
  lid : Nat
  rank : Nat
  op : JOp
  stores : List Nat
  arr : Option Owed
  deriving DecidableEq, Repr

/-- An XTAKE request (R264). -/
structure XtReq where
  core : Nat
  slot : Nat
  gen : BitVec 16
  free : Bool
  icore : Nat
  iplane : Nat
  lid : Nat
  rank : Nat
  fid : Nat
  deriving DecidableEq, Repr

/-- A residency move under way (R356): descriptor, direction, target, tiles left and moved, owning command. -/
structure Move where
  sp : Nat
  desc : Nat
  back : Bool
  state : Nat
  nbr : Nat
  frame : Nat
  tiles : List Nat
  cmd : Option (Nat × Nat × Nat)
  deriving DecidableEq, Repr

/-- The entries of a tensor that is offloaded, by tile (R356), and the tiles whose bytes its image holds, in order: what a
recall restores. -/
structure Image where
  sp : Nat
  desc : Nat
  ents : List (Word × Word)
  tiles : List Nat
  deriving DecidableEq, Repr

/-- A posted receive buffer (R350): the XPOST command that waits for it. -/
structure Posted where
  sp : Nat
  tag : Nat
  core : Nat
  ch : Nat
  seq : Nat
  deriving DecidableEq, Repr

/-- A message this device sent (R351). -/
structure Msg where
  dest : Nat
  sp : Nat
  tag : Nat
  data : List Byte
  deriving DecidableEq, Repr

/-- A cached tile of a view (R342). -/
structure VTile where
  die : Nat
  view : Nat
  tile : Nat
  rows : List Row
  deriving DecidableEq, Repr

/-- A stream control block (R400), the acknowledged numbers above `ack` (R404), and the highest step of an acknowledged
entry that the buffer has freed (R407). DEDUCED: log entry 85. -/
structure Stream where
  mode : BitVec 2
  verify : Bool
  gap : Bool
  last : Nat
  ack : Nat
  held : Nat
  cursor : Nat
  stop : Nat
  tstep : Nat
  lstep : Nat
  durable : List Nat
  freed : Nat
  deriving DecidableEq, Repr

/-- An entry of the local journal buffer (R403): acknowledged or not, a copied replay entry or not. -/
structure JEnt where
  stream : Nat
  seq : Nat
  step : Nat
  entry : BitVec 512
  acked : Bool
  deriving DecidableEq, Repr

/-- A request at the journal controller (R402, R409, R411). -/
inductive JnlOp where
  /-- An append: the entry with sequence number zero, and the flight of sd. -/
  | append (entry : BitVec 512) (core plane fid : Nat)
  /-- JRPL: the named kind. -/
  | read (kind : Nat) (core plane fid : Nat)
  /-- JTRUNC. -/
  | trunc (step : Nat)
  deriving DecidableEq, Repr

/-- A controller request with its task. -/
structure JnlReq where
  stream : Nat
  lid : Nat
  rank : Nat
  issued : Nat
  op : JnlOp
  arr : Option Owed
  deriving DecidableEq, Repr

/-- A numbered entry waiting for room in the local buffer (R403), with the flight it frees. -/
structure JWait where
  ent : JEnt
  core : Nat
  plane : Nat
  fid : Nat
  deriving DecidableEq, Repr

/-- An EMIT copy in the emission hold buffer (R405). -/
structure Held where
  core : Nat
  ch : Nat
  seq : Nat
  stream : Nat
  w : Nat
  deriving DecidableEq, Repr

/-- This device's answer, as a mirror, to an entry of a device (R404): `durable` acknowledges it, else the ring is full. -/
structure MirrorAns where
  dev : Nat
  stream : Nat
  seq : Nat
  durable : Bool
  deriving DecidableEq, Repr

/-- Power states (R396). -/
inductive Power where
  | active
  | idle
  | low
  deriving DecidableEq, Repr

/-- Management events (R277, R239, R245, R382, R395, R404, R407, R408). -/
inductive MEvent where
  | poolLow (die : Nat)
  | queueFault (q : Nat)
  | heldCompletion (q : Nat)
  | deviceFailed
  | ageing (i : Nat)
  | journalFull (src : Nat)
  | mirrorLost (stream : Nat)
  | replayDone (stream : Nat)
  deriving DecidableEq, Repr

/-- The journal controller and the mirror side (21). -/
structure Journal where
  jm : Word
  timeout : BitVec 16
  streams : SMap Stream
  buf : List JEnt
  waiting : List JWait
  reqs : List JnlReq
  transit : List (BitVec 512)
  hold : List Held
  rings : SMap (List (BitVec 512))
  answers : List MirrorAns
  deriving DecidableEq, Repr

/-- The management block, power, fuses and links (20). DESIGN CHOICE: log entry 88. -/
structure Mgmt where
  epoch : BitVec 32
  bootStage : Nat
  bootReason : BitVec 2
  power : Power
  clock : Nat
  limit : Nat
  events : List MEvent
  failed : Bool
  failDetail : Option Cause
  cores : BitVec 48
  dec : BitVec 16
  ports : BitVec 18
  portsFailed : BitVec 18
  chan : Vector (BitVec 32) 8
  cap : Vector (BitVec 8) 8
  torus : BitVec 18
  ctx : BitVec 60
  linkUp : Bool
  dispDie : Nat
  serial : Word
  idKey : BitVec 512
  rootDigest : BitVec 256
  digests : Vector (BitVec 256) 3
  versions : Vector (BitVec 32) 3
  rollback : Vector (BitVec 32) 3
  monitors : Vector (BitVec 128) 74
  ageLimit : Vector (BitVec 32) 3
  nonce : BitVec 256
  attPending : Bool
  attDone : Bool
  report : BitVec 3072
  seqErrors : Nat
  hostResp : Option (BitVec 4)
  hostData : List Byte
  peerResp : Option (BitVec 4)
  peerData : List Byte
  deriving DecidableEq, Repr

/-- The device outside its cores. `chosen` is the queue whose head waits for a placement and the variant it was chosen with
(R241, R243); `merged` the merges since the last seal of a domain: record, task and level (R232); `gone` the completed
launches of slice groups, whose tasks count as ended members (R224); `weakSect` the sectors that hold a correctable
error, and `badSect` those that hold an uncorrectable one (R371). -/
structure Dev where
  mem : List Host.Cell
  far : List Far
  badSect : List Nat
  weakSect : List Nat
  fside : SMap (BitVec 16384)
  lux : SMap Lux
  luxQ : List LuxReq
  roots : SMap Word
  rootEn : BitVec 16
  descs : SMap (Nat × Nat)
  tcache : List TEntry
  atab : SMap (BitVec 128)
  pool : Vector (List Nat) 2
  poolWm : Vector Nat 2
  resWm : Vector Nat 2
  hostArea : Nat
  release : List (Nat × Nat)
  dirty : Vector (List Dirty) 2
  errs : Vector ErrLog 2
  faultQ : List FaultRec
  queues : Vector LQueue 16
  launches : List Launch
  gone : List Launch
  nextLid : Nat
  rr : Vector Nat 4
  chosen : Option (Nat × Nat)
  bars : List Bar
  steps : List SStep
  merged : List (Nat × Nat × Nat × Nat)
  arrQ : List Arr
  jcbQ : List JReq
  xtQ : List XtReq
  moves : List Move
  images : List Image
  posted : List Posted
  sent : List Msg
  views : SMap View
  vcache : List VTile
  gens : List (Nat × Nat × Word)
  jnl : Journal
  mg : Mgmt
  nextId : Nat
  deriving DecidableEq, Repr

/-- The machine. -/
structure State where
  pl : Plane
  co : Core
  others : List CoreBox
  dv : Dev
  agenda : List Act
  fresh : Nat
  deriving DecidableEq, Repr

/-! ### Reset -/

/-- An empty plane (R26; DESIGN CHOICE, log entry 3). DESIGN CHOICE: log entry 8. -/
def Plane.reset : Plane :=
  { status := .empty, lid := 0, rank := 0, space := 0, jact := false, stream := 0,
    ab := Vector.replicate 3 0#8, dmr := Vector.replicate 5 0#64, s := Vector.replicate 32 0#64,
    vq := Vector.replicate 32 [], mq := [], pr := Vector.replicate 8 0#256, bl := Vector.replicate 2 0#2048,
    flags := Vector.replicate 5 0#16, ks := Vector.replicate 8 ⟨0#64, 0#32⟩, xp := Vector.replicate 4 0#128,
    rg := Vector.replicate 8 ⟨0#8, 0#9, 0#8, 0#9⟩, seg := 0#32, bun := 0#12, loops := [], rets := [],
    tbase := 0#64, epc := 0#64, ecause := 0#8, edetail := 0#64, ereq := 0#64, intrap := false, loopFloor := 0,
    retFloor := 0, captured := 0, qf := false, cycle := 0, bcount := 0, tcount := 0, xq := [], flight := [],
    pending := [], deferred := [], hdefer := [], held := none, lq := [], sq := [], m := [], dport := 0, wait := none, endReq := false,
    safe := false, segtab := 0#64, nseg := 0, resident := false, cur := none, nxt := none, res := [],
    enter := none, pushes := [], grp := 0, gEnd := 0, mode := .direct, found := [], popped := [], willPop := [], newFlags := [], born := 0, xfer := none,
    loopNew := none, skipTo := none, mseen := [], looks := [], soft := false, lbErr := false }

/-- Core `i` after reset: both planes empty, every slot free with a ZERO entry (R260, R272), nothing stored (DESIGN CHOICE, log
entries 3 and 6). -/
def Core.reset (i : Nat) : Core :=
  { id := i, lit := 0, shadow := Plane.reset, spad := [], views := [], engQ := [], acc := [], cols := [], bank := [],
    bands := [], wprop := Vector.replicate 2 none, w := Vector.replicate 2 none, chk := 0#64, slots := [], ssum := [],
    ch := Vector.replicate 8 [], hold := 0#8, fences := [] }

/-- A launch queue after reset (R389). -/
def LQueue.reset : LQueue :=
  { lring := 0, cring := 0, size := 0, en := false, st := 0, dh := 0, chead := 0, hc := 0, head := none, raised := 0,
    done := [], heldRec := false }

/-- The journal after reset: every field 0 and empty but the timeout, 10 ms (R399, R400). -/
def Journal.reset : Journal :=
  { jm := 0#64, timeout := 10#16, streams := [], buf := [], waiting := [], reqs := [], transit := [], hold := [],
    rings := [], answers := [] }

/-- The management block after power-up: epoch 1 (R390), a full device (R391), no stage rejected, ACTIVE (DESIGN CHOICE, log
entry 12). The kinds of the monitors are R395's. -/
def Mgmt.reset : Mgmt :=
  { epoch := 1#32, bootStage := 0, bootReason := 0#2, power := .active, clock := 2000, limit := 2400, events := [],
    failed := false, failDetail := none, cores := BitVec.allOnes 48, dec := BitVec.allOnes 16,
    ports := BitVec.allOnes 18, portsFailed := 0#18, chan := Vector.replicate 8 (BitVec.allOnes 32),
    cap := Vector.replicate 8 128#8, torus := 0#18, ctx := BitVec.ofNat 60 (packs 12 Config.mediaCtxUnits), linkUp := true, dispDie := 0, serial := 0#64,
    idKey := 0#512, rootDigest := 0#256, digests := Vector.replicate 3 0#256, versions := Vector.replicate 3 0#32,
    rollback := Vector.replicate 3 0#32,
    monitors := Vector.ofFn (fun i : Fin 74 => BitVec.ofNat 128 ((if i.val < 48 then 0 else if i.val < 56 then 1 else 2) <<< 48)),
    ageLimit := Vector.replicate 3 0#32, nonce := 0#256, attPending := false, attDone := false, report := 0#3072,
    seqErrors := 0, hostResp := none, hostData := [], peerResp := none, peerData := [] }

/-- The device outside its cores after reset: memory lists nothing, entry 0 of every access table stands as R265 gives
it (the list `atab` holds only what differs), everything else empty. -/
def Dev.reset : Dev :=
  { mem := [], far := [], badSect := [], weakSect := [], fside := [], lux := [], luxQ := [], roots := [], rootEn := 0#16, descs := [],
    tcache := [], atab := [], pool := Vector.replicate 2 [], poolWm := Vector.replicate 2 0,
    resWm := Vector.replicate 2 0, hostArea := 0, release := [], dirty := Vector.replicate 2 [],
    errs := Vector.replicate 2 ⟨0, 0, 0, 0, 0#64, 0#64, 0#64⟩, faultQ := [],
    queues := Vector.replicate 16 LQueue.reset, launches := [], gone := [], nextLid := 1, rr := Vector.replicate 4 0, chosen := none,
    bars := [], steps := [], merged := [], arrQ := [], jcbQ := [], xtQ := [], moves := [], images := [], posted := [], sent := [], views := [], vcache := [], gens := [],
    jnl := Journal.reset, mg := Mgmt.reset, nextId := 1 }

/-- The machine right after reset: no task exists, the focus is on core 0, nothing is on the agenda. -/
def State.reset : State :=
  { pl := Plane.reset, co := Core.reset 0,
    others := (List.range 47).map (fun i => { pl := Plane.reset, co := Core.reset (i + 1) }),
    dv := Dev.reset, agenda := [], fresh := 0 }

end Sys2Proof.Machine
end

