-- ==== Sys2Proof/Machine/Mem.lean ====
section
/-!
DEFINITION. Sparse tables and memory in canonical form, and the far stores of the ordering machine over it (R315, R316,
R322, R326, R328).

An address that memory does not list reads as 0 (R396 for device memory after LOW; DESIGN CHOICE, log entry 2 elsewhere).
-/

namespace Sys2Proof.Machine

/-- Canonical form: keys strictly rising, no value equal to the default. -/
abbrev SMap.wf {α : Type} (d : α) (m : SMap α) : Prop :=
  List.Pairwise (fun a b => a.1 < b.1) m ∧ ∀ p ∈ m, p.2 ≠ d

/-- The value at a key. -/
def SMap.get {α : Type} (d : α) : SMap α → Nat → α
  | [], _ => d
  | (k, v) :: t, a => if a = k then v else SMap.get d t a

/-- The table with the value at a key replaced, in canonical form: no entry of the key is left where the value is the
default. -/
def SMap.set {α : Type} [DecidableEq α] (d : α) : SMap α → Nat → α → SMap α
  | [], a, x => if x = d then [] else [(a, x)]
  | (k, v) :: t, a, x =>
    if a < k then
      let r := ((k, v) :: t).filter fun p => p.1 ≠ a
      if x = d then r else (a, x) :: r
    else if a = k then SMap.set d t a x
    else (k, v) :: SMap.set d t a x

/-- What an unlisted address reads as (DESIGN CHOICE, log entry 2). -/
def memDefault : Byte := 0#8

/-- Canonical form of memory. -/
abbrev Memory.wf (m : List Host.Cell) : Prop := SMap.wf memDefault m

/-- One byte of memory. -/
def Memory.byte (m : List Host.Cell) (a : Nat) : Byte := SMap.get memDefault m a

/-- Memory with one byte written. -/
def Memory.put (m : List Host.Cell) (a : Nat) (b : Byte) : List Host.Cell := SMap.set memDefault m a b

/-- Memory with consecutive bytes written. -/
def Memory.puts (m : List Host.Cell) (a : Nat) : List Byte → List Host.Cell
  | [] => m
  | b :: t => Memory.puts (Memory.put m a b) (a + 1) t

/-! ### Agents and levels (R223, R315) -/

/-- The cluster of a core (R221). -/
def clusterOf (c : Nat) : Nat := c / 4

/-- The die of a core, or of a die agent numbered 48 + die. -/
def dieOf (c : Nat) : Nat := if c < 48 then c / 24 else c - 48

/-- Agent numbers: cores 0 to 47; 48 and 49 the decoders and near-memory engines of dies 0 and 1; 50 the device's
infrastructure; 51 the host and fabric peers. -/
def agentDie (d : Nat) : Nat := 48 + d
/-- The device's infrastructure (DEDUCED, log entry 15). -/
def agentInfra : Nat := 50
/-- The host and fabric peers. -/
def agentHost : Nat := 51

/-- The innermost level whose domain holds both agents (R315, R316). -/
def commonLevel (a b : Nat) : Nat :=
  if a ≥ 51 ∨ b ≥ 51 then 4
  else if a ≥ 50 ∨ b ≥ 50 then 3
  else if a = b ∧ a < 48 then 0
  else if a < 48 ∧ b < 48 ∧ clusterOf a = clusterOf b then 1
  else if dieOf a = dieOf b then 2
  else 3

/-! ### Far stores -/

/-- Whether a far store covers an address. -/
def Far.covers (f : Far) (a : Nat) : Bool := f.addr ≤ a && a < f.addr + f.len

/-- The byte a far store writes at an address it covers. -/
def Far.byte (f : Far) (a : Nat) : Byte := BitVec.ofNat 8 (f.data.toNat >>> (8 * (a - f.addr)))

/-- Whether an agent sees a far store (R316). -/
def Far.seenBy (f : Far) (agent : Nat) : Bool := commonLevel f.core agent ≤ f.level

/-- The newest store of a coherence-ordered list that covers an address and meets a test. -/
def newest (p : Far → Bool) (a : Nat) : List Far → Option Far
  | [] => none
  | f :: t => match newest p a t with
    | some g => some g
    | none => if f.covers a && p f then some f else none

/-- The byte of an address that an agent reads: the coherence-latest store it sees, else memory (R316). -/
def Dev.seen (d : Dev) (agent a : Nat) : Byte :=
  match newest (fun f => f.seenBy agent) a d.far with
  | some f => f.byte a
  | none => Memory.byte d.mem a

/-- The byte of an address that an engine reads for a command: the coherence-latest store that the engine sees, or that
the command itself made (R316, R324). -/
def Dev.seenAs (d : Dev) (agent id a : Nat) : Byte :=
  match newest (fun f => f.seenBy agent || (id != 0 && f.id == id)) a d.far with
  | some f => f.byte a
  | none => Memory.byte d.mem a

/-- The coherence-latest byte at the memory port (R326). -/
def Dev.port (d : Dev) (a : Nat) : Byte :=
  match newest (fun _ => true) a d.far with
  | some f => f.byte a
  | none => Memory.byte d.mem a

/-- Consecutive bytes as an agent sees them. -/
def Dev.seenBytes (d : Dev) (agent a n : Nat) : List Byte := (upTo a n).map (d.seen agent)

/-- Consecutive bytes at the port. -/
def Dev.portBytes (d : Dev) (a n : Nat) : List Byte := (upTo a n).map d.port

/-- A little-endian number as an agent sees it. -/
def Dev.seenNat (d : Dev) (agent a n : Nat) : Nat := natOfBytes (d.seenBytes agent a n)

/-- A little-endian number at the port. -/
def Dev.portNat (d : Dev) (a n : Nat) : Nat := natOfBytes (d.portBytes a n)

/-- The bytes of a far store. -/
def Far.bytes (f : Far) : List Byte := bytesOfNat f.len f.data.toNat

/-- Stores at the head of the coherence order that every agent sees join memory. -/
def foldFar : List Host.Cell → List Far → List Host.Cell × List Far
  | m, [] => (m, [])
  | m, f :: t => if f.level ≥ 4 then foldFar (Memory.puts m f.addr f.bytes) t else (m, f :: t)

/-- The device with its oldest fully visible stores folded into memory. -/
def Dev.fold (d : Dev) : Dev :=
  let r := foldFar d.mem d.far
  { d with mem := r.1, far := r.2 }

/-- The pieces of a byte string that lie in one 32-byte sector each (R328). -/
def sectors (fuel a : Nat) (bs : List Byte) : List (Nat × List Byte) :=
  match fuel with
  | 0 => []
  | fuel + 1 =>
    match bs with
    | [] => []
    | bs => let n := 32 - a % 32
            (a, bs.take n) :: sectors fuel (a + n) (bs.drop n)

/-- A store of an agent takes its coherence position at every sector, visible at `level` (R321, R324). -/
def Dev.store (d : Dev) (id agent level a : Nat) (bs : List Byte) (lid rank plane : Nat := 0) : Dev :=
  if d.far = [] ∧ level ≥ 4 then { d with mem := Memory.puts d.mem a bs }
  else
    let new := (sectors (bs.length / 32 + 2) a bs).map fun p =>
      { id := id, core := agent, addr := p.1, len := p.2.length, data := BitVec.ofNat 256 (natOfBytes p.2), level := level,
        lid := lid, rank := rank, plane := plane }
    Dev.fold { d with far := d.far ++ new }

/-- Every store positioned at a location becomes visible at the slice domain (R326). -/
def Dev.raise (d : Dev) (a n : Nat) : Dev :=
  { d with far := d.far.map fun f =>
      if f.addr < a + n ∧ a < f.addr + f.len then { f with level := 4 } else f }

/-- An atomic write at the port: earlier stores there become visible everywhere, and so does this one (R326). -/
def Dev.atomic (d : Dev) (id agent a : Nat) (bs : List Byte) : Dev :=
  (d.raise a bs.length).store id agent 4 a bs

/-- Whether every far store with this number is visible at a level. -/
def Dev.visible (d : Dev) (id level : Nat) : Bool := d.far.all fun f => f.id ≠ id || level ≤ f.level

end Sys2Proof.Machine
end

