-- ==== Sys2Proof/Machine/Focus.lean ====
section
/-!
DEFINITION. Reaching cores, planes, launches and barriers of the focused state, and the numbered barriers, supersteps
and waits of the tasks (R221 to R232).
-/

namespace Sys2Proof.Machine

/-! ### Cores and planes -/

/-- A core with its lit plane. -/
def State.box (s : State) (c : Nat) : Option CoreBox :=
  if s.co.id = c then some ⟨s.pl, s.co⟩ else s.others.find? (fun b => b.co.id == c)

/-- The state with one core's box replaced. -/
def State.setBox (s : State) (b : CoreBox) : State :=
  if s.co.id = b.co.id then { s with pl := b.pl, co := b.co }
  else { s with others := s.others.map fun o => if o.co.id = b.co.id then b else o }

/-- A core, empty when there is none of that number. -/
def State.core (s : State) (c : Nat) : Core := ((s.box c).map (·.co)).getD (Core.reset c)

/-- The state with one core changed. -/
def State.modCore (s : State) (c : Nat) (f : Core → Core) : State :=
  match s.box c with
  | some b => s.setBox { b with co := { f b.co with id := c } }
  | none => s

/-- A physical plane of a core (R221). -/
def State.plane (s : State) (c p : Nat) : Plane :=
  match s.box c with
  | some b => if p = b.co.lit then b.pl else b.co.shadow
  | none => Plane.reset

/-- The state with one physical plane changed. -/
def State.modPlane (s : State) (c p : Nat) (f : Plane → Plane) : State :=
  match s.box c with
  | some b =>
    if p = b.co.lit then s.setBox { b with pl := f b.pl }
    else s.setBox { b with co := { b.co with shadow := f b.co.shadow } }
  | none => s

/-- The focus on another core (DESIGN CHOICE, log entry 4). -/
def State.focusOn (s : State) (c : Nat) : State :=
  if s.co.id = c then s
  else match s.others.find? (fun b => b.co.id == c) with
    | none => s
    | some b => { s with pl := b.pl, co := b.co,
                         others := s.others.map fun o => if o.co.id = c then ⟨s.pl, s.co⟩ else o }

/-- Every core of the device, the focused one first. -/
def State.boxes (s : State) : List CoreBox := ⟨s.pl, s.co⟩ :: s.others

/-- The state with every plane changed; the change sees the core and the physical plane. -/
def State.mapPlanes (s : State) (f : Nat → Nat → Plane → Plane) : State :=
  let g (b : CoreBox) : CoreBox :=
    ⟨f b.co.id b.co.lit b.pl, { b.co with shadow := f b.co.id (1 - b.co.lit) b.co.shadow }⟩
  let b := g ⟨s.pl, s.co⟩
  { s with pl := b.pl, co := b.co, others := s.others.map g }

/-- The state with every core changed. -/
def State.mapCores (s : State) (f : Core → Core) : State :=
  { s with co := f s.co, others := s.others.map fun b => { b with co := f b.co } }

/-- A fresh identifier. -/
def State.takeId (s : State) : Nat × State := (s.dv.nextId, { s with dv := { s.dv with nextId := s.dv.nextId + 1 } })

/-- The state with the device part changed. -/
def State.modDev (s : State) (f : Dev → Dev) : State := { s with dv := f s.dv }

/-- The state with the executing plane changed. -/
def State.modPl (s : State) (f : Plane → Plane) : State := { s with pl := f s.pl }

/-- Cycles of its core counted by a plane whose task has started (R101). -/
def Plane.tick (p : Plane) (n : Nat) : Plane :=
  match p.status with
  | .ready | .parked => { p with cycle := p.cycle + n }
  | .empty | .loaded | .ended => p

/-- Cycles pass in which no bundle of the core issues (R19, R101): the task of the lit plane counts them, and so does
one that waits in the shadow plane. -/
def State.pass (s : State) (n : Nat) : State :=
  { s with pl := { s.pl with cycle := s.pl.cycle + n }, co := { s.co with shadow := s.co.shadow.tick n } }

/-- A frozen sequencer spends cycles whose number the spec does not give (R19; DESIGN CHOICE, log entry 10). -/
def State.freeze (s : State) : State :=
  { s.pass (Config.freezeCycles s.fresh) with fresh := s.fresh + 1 }

/-! ### Launches (R219, R240) -/

/-- A field of a launch record: byte offset, low bit, width. -/
def recF (rc : BitVec 1024) (byte lo n : Nat) : Nat := bitsOf rc.toNat (8 * byte + lo) n

/-- A placed or saved launch. -/
def State.launch? (s : State) (lid : Nat) : Option Launch := s.dv.launches.find? fun l => l.lid == lid

/-- The state with one launch changed. -/
def State.modLaunch (s : State) (lid : Nat) (f : Launch → Launch) : State :=
  s.modDev fun d => { d with launches := d.launches.map fun l => if l.lid = lid then f l else l }

/-- Slice group of a launch (R223). -/
def Launch.sgroup (l : Launch) : Nat := recF l.rc 0x70 0 16
/-- Slice members of a launch's group. -/
def Launch.smembers (l : Launch) : Nat := recF l.rc 0x70 16 16

/-- Tasks per cluster of a launch. -/
def Launch.perCluster (l : Launch) : Nat := recF l.rc 0x08 8 2 + 1

/-- The core a task of a launch runs on. -/
def Launch.coreOf (l : Launch) (rank : Nat) : Nat := ((l.tasks.find? fun t => t.rank == rank).map (·.core)).getD 0

/-- Whether a task exists and has not ended. -/
def State.alive (s : State) (lid rank : Nat) : Bool :=
  match s.launch? lid with
  | some l => l.tasks.any fun t => t.rank == rank && !t.ended
  | none => false

/-- The domain instance of a core at a level (R223). -/
def instOf (level core : Nat) : Nat := if level = 1 then clusterOf core else if level = 2 then dieOf core else 0

/-! ### Numbered barriers (R229 to R231) -/

/-- The owner of a task's barriers at a level: its slice group at level 4 when it has one, else its launch (R229). -/
def State.barOwner (s : State) (lid level : Nat) : Bool × Nat :=
  match s.launch? lid with
  | some l => if level = 4 ∧ l.sgroup ≠ 0 then (true, l.sgroup) else (false, lid)
  | none => (false, lid)

/-- The domain instance of a task at a level. -/
def State.barInst (s : State) (lid rank level : Nat) : Nat :=
  match s.launch? lid with
  | some l => instOf level (l.coreOf rank)
  | none => 0

/-- Whether a barrier has this key. -/
def Bar.is (b : Bar) (o : Bool × Nat) (level inst num : Nat) : Bool :=
  b.grp == o.1 && b.own == o.2 && b.level == level && b.inst == inst && b.num == num

/-- A barrier; at zero when nothing has moved it (R229). -/
def State.bar (s : State) (o : Bool × Nat) (level inst num : Nat) : Bar :=
  (s.dv.bars.find? fun b => b.is o level inst num).getD ⟨o.1, o.2, level, inst, num, 0, []⟩

/-- The state with one barrier replaced. -/
def State.setBar (s : State) (b : Bar) : State :=
  s.modDev fun d => { d with bars := b :: d.bars.filter fun x => !x.is (b.grp, b.own) b.level b.inst b.num }

/-- A member's counts. -/
def Bar.counts (b : Bar) (lid rank : Nat) : BarCnt :=
  (b.cnt.find? fun c => c.lid == lid && c.rank == rank).getD ⟨lid, rank, 0, 0⟩

/-- A barrier with one member's counts replaced. -/
def Bar.put (b : Bar) (c : BarCnt) : Bar :=
  { b with cnt := c :: b.cnt.filter fun x => !(x.lid == c.lid && x.rank == c.rank) }

/-- The members of a barrier or superstep: the tasks, ended or not, of its launches in its instance, those of completed
launches of a slice group among them (R224, R229). -/
def State.members (s : State) (grp : Bool) (own level inst : Nat) : List (Nat × Nat × Bool) :=
  (s.dv.launches ++ s.dv.gone).flatMap fun l =>
    if (if grp then l.sgroup = own else l.lid = own) then
      (l.tasks.filter fun t => instOf level t.core == inst).map fun t => (l.lid, t.rank, !t.ended)
    else []

/-- Whether every member of a slice group is on this device; always so for a launch's own barrier (DESIGN CHOICE, log entry 16). -/
def State.complete (s : State) (grp : Bool) (own n : Nat) : Bool :=
  !grp || s.dv.launches.all fun l => !(l.sgroup == own) || l.smembers ≤ n

/-- The phase rises while every live member has delivered past it (R229, R224). -/
def State.barAdvance (s : State) (b : Bar) : Bar :=
  let ms := s.members b.grp b.own b.level b.inst
  let live := ms.filter (·.2.2)
  match live.map fun m => (b.counts m.1 m.2.1).d with
  | [] => b
  | d :: ds => if s.complete b.grp b.own ms.length then { b with phase := max b.phase (ds.foldl min d) } else b

/-- Every barrier re-examined, after a member has ended (R224). -/
def State.barsAdvance (s : State) : State :=
  s.modDev fun d => { d with bars := d.bars.map s.barAdvance }

/-- An operation's issue counts at its barrier: I rises by 1 (R230). -/
def State.issueArrival (s : State) (o : Owed) : State :=
  let b := s.bar (s.barOwner o.lid o.level) o.level (s.barInst o.lid o.rank o.level) o.num
  let c := b.counts o.lid o.rank
  s.setBar (b.put { c with i := c.i + 1 })

/-- The arrival a task's AR selector owes: none when 0 or unbound (R230). -/
def Plane.owes (p : Plane) (ar : BitVec 2) : Option Owed :=
  if ar = 0#2 then none
  else
    let b := (vget p.ab (ar.toNat - 1) 0#8).toNat
    if b / 32 = 0 then none else some ⟨p.lid, p.rank, b / 32, b % 32, ar.toNat⟩

/-- Issue with an AR selector: counts I and gives the arrival owed. -/
def State.owe (s : State) (ar : BitVec 2) : Option Owed × State :=
  match s.pl.owes ar with
  | none => (none, s)
  | some o => (some o, s.issueArrival o)

/-- An operation at its retire point: its arrival waits for delivery, once the named stores are visible at a level. -/
def State.arrive (s : State) (o : Option Owed) (stores : List Nat) (level : Nat) : State :=
  match o with
  | none => s
  | some o => s.modDev fun d => { d with arrQ := d.arrQ ++ [⟨o, stores, level⟩] }

/-! ### Supersteps (R232) -/

/-- Whether a superstep barrier has this key. -/
def SStep.is (x : SStep) (o : Bool × Nat) (level inst : Nat) : Bool :=
  x.grp == o.1 && x.own == o.2 && x.level == level && x.inst == inst

/-- A superstep barrier; at zero when nothing has moved it. -/
def State.sstep (s : State) (o : Bool × Nat) (level inst : Nat) : SStep :=
  (s.dv.steps.find? fun x => x.is o level inst).getD ⟨o.1, o.2, level, inst, 0, []⟩

/-- The state with one superstep barrier replaced. -/
def State.setSStep (s : State) (x : SStep) : State :=
  s.modDev fun d => { d with steps := x :: d.steps.filter fun y => !y.is (x.grp, x.own) x.level x.inst }

/-! ### Waits (R226, R227) -/

/-- Whether a wait's condition holds for a plane (R231, R232, R237). -/
def State.waitHolds (s : State) (p : Plane) : Wait → Bool
  | .bar level num target =>
    target ≤ (s.bar (s.barOwner p.lid level) level (s.barInst p.lid p.rank level) num).phase
  | .sstep level count =>
    count < (s.sstep (s.barOwner p.lid level) level (s.barInst p.lid p.rank level)).count
  | .jcb pa => (s.dv.portNat (pa + 0xC) 1) % 2 = 1
  | .jcbBit done => done
  | .eclipse => false
  | .yield _ => false
  | .halt => false
  | .save => false

/-- Parked tasks whose condition holds become ready (R227). -/
def State.wake (s : State) : State :=
  s.mapPlanes fun _ _ p =>
    match p.status, p.wait with
    | .parked, some w => if s.waitHolds p w then { p with status := .ready, wait := none } else p
    | _, _ => p

/-! ### Drain points (R24, R194) -/

/-- A drain point: nothing in the landing buffer, no result in flight, no M-slot instruction unretired. -/
def Plane.drained (p : Plane) : Bool := p.flight.isEmpty && p.m.isEmpty

end Sys2Proof.Machine
end

