-- ==== Sys2Proof/Machine/SumWords.lean ====
section
/-!
DEFINITION. Sum words, row and column sums, sidecars and their deltas (R291, R292, R294), and a write at the memory port
that keeps the sums of the frame it touches.
-/

namespace Sys2Proof.Machine

/-- Row sum `r` and column sum `c` of a sidecar (R292). -/
def sideRow (x : BitVec 16384) (r : Nat) : Nat := bitsOf x.toNat (32 * r) 24
def sideCol (x : BitVec 16384) (c : Nat) : Nat := bitsOf x.toNat (8192 + 32 * c) 24

/-- A sidecar from its row and column sums. -/
def mkSide (rows cols : List Nat) : BitVec 16384 :=
  BitVec.ofNat 16384 (packs 32 (rows.map (· % 2 ^ 24)) + (packs 32 (cols.map (· % 2 ^ 24))) <<< 8192)

/-- Width of a sum word of a format: halves for 16-bit and 32-bit formats, else bytes (R291). -/
def sumBits (fmt : Nat) : Nat := if laneBits fmt ≥ 16 then 16 else 8

/-- The sum words of a row. -/
def sumWords (fmt : Nat) (r : Row) : List Nat := elems (sumBits fmt) (2048 / sumBits fmt) r.toNat

/-- The row sum of a row (R291). -/
def rowSum (fmt : Nat) (r : Row) : Nat := sumN (sumWords fmt r) % 2 ^ 24

/-- The column sums of 256 rows. -/
def colSums (fmt : Nat) (rows : List Row) : List Nat :=
  (rows.map (sumWords fmt)).foldl (fun acc w => List.zipWith (fun a b => (a + b) % 2 ^ 24) acc w)
    (List.replicate (2048 / sumBits fmt) 0)

/-- The sums of a tile computed from its rows; unused column words are 0 (R292). -/
def tileSums (fmt : Nat) (rows : List Row) : BitVec 16384 := mkSide (rows.map (rowSum fmt)) (colSums fmt rows)

/-- A sidecar after one row changes: deltas modulo 2^24 on the row's sum and on each column's (R294). -/
def deltaSide (fmt : Nat) (x : BitVec 16384) (r : Nat) (old new : Row) : BitVec 16384 :=
  let d := List.zipWith (fun (o n : Nat) => (n : Int) - o) (sumWords fmt old) (sumWords fmt new)
  let rows := (elems 32 256 x.toNat)
  let cols := (elems 32 256 (x.toNat >>> 8192))
  let rows' := updAt (fun v => wrap 24 ((v : Int) + d.foldl (· + ·) 0)) rows r
  let cols' := List.zipWith (fun (v : Nat) (e : Int) => wrap 24 ((v : Int) + e)) cols (d ++ List.replicate (256 - d.length) 0)
  mkSide rows' cols'

/-- A sidecar with one row sum recomputed from data (R299). -/
def resumRow (fmt : Nat) (x : BitVec 16384) (r : Nat) (new : Row) : BitVec 16384 :=
  mkSide (updAt (fun _ => rowSum fmt new) (elems 32 256 x.toNat) r) (elems 32 256 (x.toNat >>> 8192))

/-! ### A write at the port that keeps the sums (R294) -/

/-- A row's sums moved by the delta of a write. -/
def Dev.moveSums (d : Dev) (fmt row : Nat) (old new : Row) : Dev :=
  let f := row / 256
  { d with fside := SMap.set 0#16384 d.fside f (deltaSide fmt (SMap.get 0#16384 d.fside f) (row % 256) old new) }

/-- A write at the port that moves the sums of a device-memory frame; `fmt` is 15 for plain memory (R291, R294). -/
def Dev.keepSums (d : Dev) (fmt a n : Nat) (f : Dev → Dev) : Dev :=
  let d1 := f d
  let row (x : Dev) (r : Nat) : Row := BitVec.ofNat 2048 (x.portNat (256 * r) 256)
  if a < 2 ^ 40 then
    (upTo (a / 256) ((a + n + 255) / 256 - a / 256)).foldl (fun x r => x.moveSums fmt r (row d r) (row d1 r)) d1
  else d1

/-- An atomic write at the port, visible everywhere, with its sums (R294). DEDUCED: log entry 84. -/
def Dev.patch (d : Dev) (fmt agent a : Nat) (bs : List Byte) : Dev :=
  d.keepSums fmt a bs.length fun d => d.atomic 0 agent a bs

end Sys2Proof.Machine
end

