-- ==== Sys2Proof/Machine/Xlat.lean ====
section
/-!
DEFINITION. The physical map (R249 to R253), access tables (R265, R266), virtual addresses and translation (R254 to
R258), and what the fabric can reach (R383 to R385).
-/

namespace Sys2Proof.Machine

/-! ### The physical map (R249) -/

/-- What a physical address names. -/
inductive Region where
  /-- Device memory: stack, channel, and the address itself. -/
  | dev (stack chan : Nat)
  /-- Device memory of another device, by index. -/
  | remote (d : Nat)
  /-- An on-chip window: core and offset. -/
  | window (c off : Nat)
  /-- Host memory. -/
  | host
  /-- Nothing: the refusal's reason (R126, R336). -/
  | hole (reason : Nat)
  deriving DecidableEq, Repr

/-- First address of the fabric range, the windows and host memory. -/
def fabricBase : Nat := 0x4_0000_0000_0000
def windowBase : Nat := 0x8_0000_0000_0000
def hostBase : Nat := 0xC_0000_0000_0000

/-- The device's own coordinate and the slice's extents along dimension `k` (R383, R391). -/
def Mgmt.coord (m : Mgmt) (k : Nat) : Nat := bitsOf m.torus.toNat (3 * k) 3
def Mgmt.extent (m : Mgmt) (k : Nat) : Nat := bitsOf m.torus.toNat (9 + 3 * k) 3 + 1

/-- The device's own index. -/
def Mgmt.index (m : Mgmt) : Nat := m.coord 0 + 8 * m.coord 1 + 64 * m.coord 2

/-- Coordinate of a device index along a dimension. -/
def coordOf (d k : Nat) : Nat := bitsOf d (3 * k) 3

/-- Whether direction `k` (0 to 5) has a usable port (R384, R385). -/
def Mgmt.dirUp (m : Mgmt) (k : Nat) : Bool :=
  (upTo (3 * k) 3).any fun p => m.ports.getLsbD p && !m.portsFailed.getLsbD p

/-- The dimension in which traffic to a device leaves: the first of x, y, z in which it lies elsewhere (R385). -/
def Mgmt.firstDim (m : Mgmt) (d : Nat) : Option Nat := (upTo 0 3).find? fun k => coordOf d k != m.coord k

/-- Whether a device index lies in the slice and can be reached (R383, R385): by either way of the dimension in which its
traffic leaves this device. The later hops use the ports of other devices. -/
def Mgmt.reaches (m : Mgmt) (d : Nat) : Bool :=
  ((upTo 0 3).all fun k => coordOf d k < m.extent k) &&
  match m.firstDim d with
  | none => true
  | some k => m.dirUp (2 * k) || m.dirUp (2 * k + 1)

/-- The die that holds a device-memory address (R250). -/
def homeDie (pa : Nat) : Nat := bitsOf pa 39 1

/-- Whether a window offset lies in a listed region (R252). -/
def windowListed (off : Nat) : Bool :=
  off < 0x180_0000 || (0x200_0000 ≤ off && off < 0x202_0000) || (0x300_0000 ≤ off && off < 0x300_1800) ||
  (0x400_0000 ≤ off && off < 0x408_0000)

/-- Where an address of the device's own memory leads (R250): its stack and channel, or nothing beyond the stack's
present capacity. -/
def Mgmt.ownRegion (m : Mgmt) (a : Nat) : Region :=
  let st := bitsOf a 37 3
  if a % 2 ^ 37 < (vget m.cap st 0#8).toNat * 2 ^ 30 then
    let present := (upTo 0 32).filter fun i => (vget m.chan st 0#32).getLsbD i
    .dev st (present.getD ((a / 2048) % present.length) 0)
  else .hole 1

/-- Where a physical address leads (R249 to R252). -/
def Mgmt.region (m : Mgmt) (pa : Nat) : Region :=
  if pa < 0x100_0000_0000 then m.ownRegion pa
  else if fabricBase ≤ pa ∧ pa < fabricBase + 512 * 2 ^ 40 then
    let d := (pa - fabricBase) / 2 ^ 40
    if d = m.index then m.ownRegion ((pa - fabricBase) % 2 ^ 40)
    else if m.reaches d then .remote d else .hole 5
  else if windowBase ≤ pa ∧ pa < windowBase + 48 * 2 ^ 30 then
    let c := (pa - windowBase) / 2 ^ 30
    let off := (pa - windowBase) % 2 ^ 30
    if m.cores.getLsbD c && windowListed off then .window c off else .hole 1
  else if hostBase ≤ pa ∧ pa < 2 ^ 52 then .host
  else .hole 1

/-- A fabric address of the device itself names its own memory (R251). -/
def Mgmt.local (m : Mgmt) (pa : Nat) : Nat :=
  if fabricBase ≤ pa ∧ pa < fabricBase + 512 * 2 ^ 40 ∧ (pa - fabricBase) / 2 ^ 40 = m.index
  then (pa - fabricBase) % 2 ^ 40 else pa

/-! ### Access tables (R265, R266) -/

/-- Master classes (R265). -/
def clsCore : Nat := 0
def clsCopy : Nat := 1
def clsDecoder : Nat := 2
def clsNear : Nat := 3
def clsHost : Nat := 4
def clsPeer : Nat := 5
def clsWalker : Nat := 6
def clsInfra : Nat := 7

/-- Entry 0 of a table at reset: the whole target, classes 4 and 7, every space, both directions (R265). -/
def atabReset : BitVec 128 :=
  BitVec.ofNat 128 ((2 ^ 36 - 1) <<< 64 + 0xFFFF <<< 48 + 0x90 <<< 40 + 7 <<< 37)

/-- Entry `i` of a target's table: channels 0 to 255, windows 256 to 303, the host endpoint 304, ports 305 to 322. -/
def Dev.atabEntry (d : Dev) (target i : Nat) : Nat :=
  match d.atab.find? fun p => p.1 == target * 64 + i with
  | some p => p.2.toNat
  | none => if i = 0 then atabReset.toNat else 0

/-- Whether one entry covers frames `lo` to `hi` and allows a class, a space and a direction. -/
def entryAllows (e cls sp : Nat) (write : Bool) (lo hi : Nat) : Bool :=
  bitsOf e 37 1 = 1 && bitsOf e 0 36 ≤ lo && hi ≤ bitsOf e 64 36 && (bitsOf e 40 8).testBit cls &&
  (bitsOf e 48 16).testBit sp && (if write then bitsOf e 39 1 = 1 else bitsOf e 38 1 = 1)

/-- Whether some entry of a target's table covers every frame of an access and allows it (R266). -/
def Dev.allowed (d : Dev) (target cls sp : Nat) (write : Bool) (lo hi : Nat) : Bool :=
  (upTo 0 64).any fun i => entryAllows (d.atabEntry target i) cls sp write lo hi

/-- The port on which the 32-byte sector at an address travels to another device: among the usable ones of the direction in
which its traffic leaves, the one a hash of the address picks (R384, R385; the hash is the model's free value: DESIGN
CHOICE, log entry 17). -/
def Mgmt.portFor (m : Mgmt) (d pa : Nat) : Nat :=
  match m.firstDim d with
  | none => 0
  | some k =>
    let fwd := (coordOf d k + m.extent k - m.coord k) % m.extent k
    let pos := decide (2 * fwd ≤ m.extent k)
    let dir := if (pos && m.dirUp (2 * k)) || !m.dirUp (2 * k + 1) then 2 * k else 2 * k + 1
    let usable := (upTo (3 * dir) 3).filter fun p => m.ports.getLsbD p && !m.portsFailed.getLsbD p
    match usable with
    | [p] => p
    | l => l.getD (Config.portHash (pa / 32) % l.length) (3 * dir)

/-- The table a physical address is checked against. -/
def Mgmt.target (m : Mgmt) (pa : Nat) : Nat :=
  match m.region pa with
  | .dev st ch => 32 * st + ch
  | .window c _ => 256 + c
  | .host => 304
  | .remote d => 305 + m.portFor d pa
  | .hole _ => 0

/-- Whether a window region allows a direction (R252, R253). -/
def windowDir (off : Nat) (write : Bool) : Bool :=
  if 0x200_0000 ≤ off ∧ off < 0x202_0000 then write else if off ≥ 0x300_0000 then !write else true

/-- The check of the address `pa` of an access to bytes `lo` to `hi`: none, or the refusal's reason (R249, R266,
R126). -/
def Dev.checkAt (d : Dev) (cls sp : Nat) (write : Bool) (lo hi pa : Nat) : Option Nat :=
  let ok := d.allowed (d.mg.target pa) cls sp write (d.mg.local lo / 65536) (d.mg.local hi / 65536)
  match d.mg.region pa with
  | .hole r => some r
  | .window _ off => if !windowDir off write then some 2 else if ok then none else some 0
  | _ => if ok then none else some 0

/-- Whether an address belongs to another device of the slice, whose sectors travel by a hashed port (R385). -/
def Mgmt.isRemote (m : Mgmt) (pa : Nat) : Bool := match m.region pa with | .remote _ => true | _ => false

/-- The check of an access of `n` bytes, block by block of 2 KiB, the unit of a memory channel, or sector by sector
towards another device: the first refusal's reason and address. -/
def Dev.check (d : Dev) (cls sp : Nat) (write : Bool) (pa n : Nat) : Option (Nat × Nat) :=
  let u := if d.mg.isRemote pa then 32 else 2048
  let blocks := pa :: (upTo 1 (n / u + 1)).map (fun i => (pa / u + i) * u) |>.filter (· < pa + n)
  blocks.findSome? fun a => (d.checkAt cls sp write pa (pa + n - 1) a).map fun r => (r, a)

/-- The detail word of a refusal: reason, direction, fetch, address (R126, R336). -/
def deniedDetail (reason : Nat) (write fetch : Bool) (pa : Nat) : Word :=
  BitVec.ofNat 64 (reason <<< 60 + b2n write <<< 57 + b2n fetch <<< 56 + pa % 2 ^ 52)

/-! ### Translation (R254 to R258) -/

/-- The detail word of a translation fault (R256). -/
def xlatDetail (reason level : Nat) (write fetch : Bool) (va : Nat) : Word :=
  BitVec.ofNat 64 (reason <<< 60 + level <<< 58 + b2n write <<< 57 + b2n fetch <<< 56 + va % 2 ^ 55)

/-- The cause of a failing translation check (R256): reasons 0 to 3 are PAGE_FAULT, the others TRANSLATION_ERROR. -/
def xlatCause (reason level : Nat) (write fetch : Bool) (va : Nat) : Cause :=
  ⟨if reason ≤ 3 then 0x13#8 else 0x14#8, xlatDetail reason level write fetch va⟩

/-- Index of a virtual address at a level, and the low bit of that index (R254). -/
def lvlShift (level : Nat) : Nat := if level = 1 then 42 else if level = 2 then 29 else 16

/-- Permission checks on a leaf (R256, reasons 1 to 3). -/
def leafPerm (e : Nat) (level : Nat) (write fetch : Bool) (va : Nat) : Option Cause :=
  if write && bitsOf e 3 1 = 0 then some (xlatCause 1 level write fetch va)
  else if !write && !fetch && bitsOf e 2 1 = 0 then some (xlatCause 2 level write fetch va)
  else if fetch && bitsOf e 4 1 = 0 then some (xlatCause 3 level write fetch va)
  else none

/-- What a walk finds: the leaf, its level and its entry's address. -/
structure Leaf where
  entry : Nat
  level : Nat
  at_ : Nat
  deriving DecidableEq, Repr

/-- A walk from level `level` on (R256), each check in its order; entries are read as the infrastructure sees them (R316). -/
def Dev.walkFrom (d : Dev) (sp : Nat) (write fetch : Bool) (va : Nat) : Nat → Nat → Nat → Except Cause Leaf
  | 0, _, level => .error (xlatCause 8 level write fetch va)
  | fuel + 1, table, level =>
    let a := table + 8 * (va >>> lvlShift level % 8192)
    let isDev := match d.mg.region a with | .dev _ _ => true | _ => false
    if !isDev || (d.checkAt clsWalker sp false a (a + 7) a).isSome then .error (xlatCause 7 level write fetch va)
    else
      let e := d.seenNat agentInfra (d.mg.local a) 8
      if bitsOf e 0 1 = 0 then .error (xlatCause 0 level write fetch va)
      else if bitsOf e 52 12 ≠ 0 ∨ bitsOf e 8 8 ≠ 0 ∨ bitsOf e 5 1 ≠ 0 then .error (xlatCause 5 level write fetch va)
      else if bitsOf e 1 1 = 0 then
        if level = 3 then .error (xlatCause 8 level write fetch va)
        else d.walkFrom sp write fetch va fuel (bitsOf e 16 36 <<< 16) (level + 1)
      else
        let base := bitsOf e 16 36 <<< 16
        let size := 2 ^ lvlShift level
        if base % size ≠ 0 then .error (xlatCause 6 level write fetch va)
        else if base < windowBase + 48 * 2 ^ 30 ∧ windowBase < base + size then .error (xlatCause 9 level write fetch va)
        else match leafPerm e level write fetch va with
          | some c => .error c
          | none => .ok ⟨e, level, d.mg.local a⟩

/-- A walk (R256). -/
def Dev.walk (d : Dev) (sp : Nat) (write fetch : Bool) (va : Nat) : Except Cause Leaf :=
  if va ≥ 2 ^ 55 then .error (xlatCause 4 1 write fetch va)
  else if !d.rootEn.getLsbD sp then .error (xlatCause 10 1 write fetch va)
  else d.walkFrom sp write fetch va 3 (bitsOf (SMap.get 0#64 d.roots sp).toNat 16 36 <<< 16) 1

/-- Who holds cached translations (R257): the cache of a die, or the TLB of a copy channel. -/
def dieHolder (die : Nat) : Nat := die
def tlbHolder (core ch : Nat) : Nat := 2 + 8 * core + ch

/-- The cached translation of an address at a holder (R257). -/
def Dev.cached (d : Dev) (holder sp va : Nat) : Option TEntry :=
  d.tcache.find? fun t => t.holder == holder && t.space == sp && t.va ≤ va && va < t.va + t.size

/-- A holder's capacity (R257). -/
def holderCap (holder : Nat) : Nat := if holder < 2 then Config.tcacheCap else Config.tlbCap

/-- The device with a translation cached at a holder (R257): what the holder has of the address goes, and a full holder
gives up the entry a free value picks. The spec gives sizes and no policy: an entry leaves by an invalidation or to make
room, never by itself (DESIGN CHOICE, log entry 107). -/
def Dev.cache (d : Dev) (t : TEntry) : Dev :=
  let rest := d.tcache.filter fun u => !(u.holder == t.holder && u.space == t.space && u.va ≤ t.va && t.va < u.va + u.size)
  let mine := rest.filter fun u => u.holder == t.holder
  let kept :=
    if mine.length < holderCap t.holder then rest
    else match mine[Config.tlbVictim d.nextId mine.length % mine.length]? with
      | some v => rest.filter fun u => u != v
      | none => rest
  { d with tcache := t :: kept }

/-- The entry that caches a leaf for an address. -/
def leafEntry (holder sp va level : Nat) (e : Nat) : TEntry :=
  let size := 2 ^ lvlShift level
  ⟨holder, sp, va / size * size, size, BitVec.ofNat 64 e⟩

/-- A leaf entry once an access has used it: A set, D too for a write (R256). -/
def Leaf.used (lf : Leaf) (write : Bool) : Nat := lf.entry ||| 0x40 ||| (if write then 0x80 else 0)

/-- The device with a used leaf's bits set at its home port (R256). -/
def Dev.setUsed (d : Dev) (agent : Nat) (lf : Leaf) (write : Bool) : Dev :=
  if lf.used write = lf.entry then d else d.patch 15 agent lf.at_ (bytesOfNat 8 (lf.used write))

/-- The device once its infrastructure has used the translation of an address, if there is one (R256, R268). -/
def Dev.markUsed (d : Dev) (sp : Nat) (write : Bool) (va : Nat) : Dev :=
  match d.walk sp false false va with
  | .ok lf => d.setUsed agentInfra lf write
  | .error _ => d

/-- A walk's leaf is used: A set, D too for a write, and the translation cached where it was missed (R256, R257). The
model's own choice of when an entry goes is log entry 107's. -/
def Dev.useLeaf (d : Dev) (die : Nat) (tlb : Option Nat) (sp : Nat) (write : Bool) (va : Nat) (lf : Leaf) :
    Except Cause Nat × Dev :=
  let e := lf.used write
  let d1 := d.setUsed (agentDie die) lf write
  let d2 := d1.cache (leafEntry (dieHolder die) sp va lf.level e)
  let d3 := match tlb with | none => d2 | some h => d2.cache (leafEntry h sp va lf.level e)
  (.ok (bitsOf e 16 36 <<< 16 + va % 2 ^ lvlShift lf.level), d3)

/-- The level of a cached translation. -/
def TEntry.level (t : TEntry) : Nat := if t.size = 2 ^ 42 then 1 else if t.size = 2 ^ 29 then 2 else 3

/-- The translation that serves an address: the channel's TLB's, else the die's cache's (R257). -/
def Dev.serving (d : Dev) (die : Nat) (tlb : Option Nat) (sp va : Nat) : Option TEntry :=
  (tlb.bind fun h => d.cached h sp va).or (d.cached (dieHolder die) sp va)

/-- The translation of an address and the device after it: A and D set, the caches filled (R254, R256, R257). `tlb` names
the TLB of a copy channel, none for the other requesters. A cached translation serves unless a write meets one without
D; a space that is not enabled has none. -/
def Dev.xlate (d : Dev) (die : Nat) (tlb : Option Nat) (sp : Nat) (write fetch : Bool) (va : Nat) : Except Cause Nat × Dev :=
  if va ≥ 2 ^ 55 then (.error (xlatCause 4 1 write fetch va), d)
  else if !d.rootEn.getLsbD sp then (.error (xlatCause 10 1 write fetch va), d)
  else
    let walked : Except Cause Nat × Dev := match d.walk sp write fetch va with
      | .error c => (.error c, d)
      | .ok lf => d.useLeaf die tlb sp write va lf
    match d.serving die tlb sp va with
    | some t =>
      let e := t.leaf.toNat
      match leafPerm e t.level write fetch va with
      | some c => (.error c, d)
      | none =>
        if write && bitsOf e 7 1 = 0 then walked
        else
          let d1 := match tlb with
            | some h => if (d.cached h sp va).isNone then d.cache { t with holder := h } else d
            | none => d
          (.ok (bitsOf e 16 36 <<< 16 + (va - t.va)), d1)
    | none => walked

/-- Whether a translation needs a walk, for which the requester waits (R126, R256). -/
def Dev.needsWalk (d : Dev) (die : Nat) (tlb : Option Nat) (sp : Nat) (write : Bool) (va : Nat) : Bool :=
  match d.serving die tlb sp va with
  | some t => write && bitsOf t.leaf.toNat 7 1 = 0
  | none => true

end Sys2Proof.Machine
end

