-- ==== Sys2Proof/Machine/Tiles.lean ====
section
/-!
DEFINITION. Scratchpad rows and their views (R111, R116, R117, R319), tile references, descriptors, entries and their
resolution (R267 to R276), and the rows that symbolic tiles stand for (R273).
-/

namespace Sys2Proof.Machine

/-! ### Slots and rows of a core -/

/-- A free slot: a ZERO entry, nothing bound (R260, R272). -/
def slotReset : Slot :=
  { w0 := 0x4000000000000000#64, w1 := 0#64, st := .free, gen := 0#16, trank := 0#8, plane := 0, core := 0, lid := 0,
    rank := 0, hidden := false, takeable := false, arr := none, lux := none, since := 0 }

/-- Slot `k` of a core. -/
def Core.slot (c : Core) (k : Nat) : Slot := SMap.get slotReset c.slots k

/-- A core with one slot replaced. -/
def Core.setSlot (c : Core) (k : Nat) (x : Slot) : Core := { c with slots := SMap.set slotReset c.slots k x }

/-- The physical row of a row address in a view (R116). -/
def physRow (swz : Bool) (a : Nat) : Nat := if swz then (a >>> 7) * 128 + ((a ^^^ (a >>> 7)) % 128) else a

/-- A physical row as it stands at the port: the latest write. -/
def Core.portRow (c : Core) (p : Nat) : Row := SMap.get 0#2048 c.spad p

/-- A row whose views are current has no record. -/
def viewReset : RowView := ⟨[], 0, 0⟩

/-- A physical row as a view returns it (R319). -/
def Core.viewRow (c : Core) (swz : Bool) (p : Nat) : Row :=
  let v := SMap.get viewReset c.views p
  match v.hist[if swz then v.swz else v.lin]? with
  | some r => r
  | none => c.portRow p

/-- A view record once its oldest write is seen by both views and the rest is the latest: nothing to keep. -/
def RowView.trim (v : RowView) : RowView :=
  if v.lin + 1 = v.hist.length ∧ v.swz + 1 = v.hist.length then viewReset else v

/-- A row write through a view (R319): appended to the row's writes, seen by that view. -/
def Core.writeRow (c : Core) (swz : Bool) (p : Nat) (r : Row) : Core :=
  let v := SMap.get viewReset c.views p
  let h := (if v.hist = [] then [c.portRow p] else v.hist) ++ [r]
  let k := h.length - 1
  let v' : RowView := ⟨h, if swz then v.lin else k, if swz then k else v.swz⟩
  { c with spad := SMap.set 0#2048 c.spad p r, views := SMap.set viewReset c.views p v'.trim }

/-- A row replaced for both views at once: promotion and the matrix engine's own tiles (DESIGN CHOICE, log entry 18). -/
def Core.setRow (c : Core) (p : Nat) (r : Row) : Core :=
  { c with spad := SMap.set 0#2048 c.spad p r, views := SMap.set viewReset c.views p viewReset }

/-- A view's index raised to a value up to the number of writes, never lowered (R319). -/
def Core.raiseView (c : Core) (swz : Bool) (p idx : Nat) : Core :=
  let v := SMap.get viewReset c.views p
  if idx + 1 ≤ v.hist.length then
    let v' : RowView := ⟨v.hist, if swz then v.lin else max v.lin idx, if swz then max v.swz idx else v.swz⟩
    { c with views := SMap.set viewReset c.views p v'.trim }
  else c

/-- VJOIN on one row: the target view sees every write performed (R319). -/
def Core.joinRow (c : Core) (swz : Bool) (p : Nat) : Core :=
  let v := SMap.get viewReset c.views p
  if v.hist = [] then c else c.raiseView swz p (v.hist.length - 1)

/-! ### Entries (R272, R273) -/

def kUNMAPPED : Nat := 0
def kSTORED : Nat := 1
def kZERO : Nat := 2
def kCONST : Nat := 3
def kRAMP : Nat := 4
def kREPEAT : Nat := 5

/-- Fields of word 0 of a tile entry. -/
def entKind (w0 : Word) : Nat := bitsOf w0.toNat 61 3
def entNF (w0 : Word) : Bool := w0.getLsbD 60
def entPromoted (w0 : Word) : Bool := w0.getLsbD 59
def entPgen (w0 : Word) : Nat := bitsOf w0.toNat 48 8
def entDirty (w0 : Word) : Bool := w0.getLsbD 47
def entFmt (w0 : Word) : Nat := bitsOf w0.toNat 40 4
def entFrame (w0 : Word) : Nat := bitsOf w0.toNat 0 36

/-- Word 0 of an entry with its fields; enc is 0. -/
def mkEnt (kind : Nat) (nf promoted : Bool) (pgen : Nat) (dirty : Bool) (fmt frame : Nat) : Word :=
  BitVec.ofNat 64 (kind <<< 61 + b2n nf <<< 60 + b2n promoted <<< 59 + (pgen % 256) <<< 48 + b2n dirty <<< 47 +
    (fmt % 16) <<< 40 + frame % 2 ^ 36)

/-- Word 0 with some bits replaced. -/
def entPut (w0 : Word) (lo n v : Nat) : Word := BitVec.ofNat 64 (bitsPut w0.toNat lo n v)

/-! ### References (R267) -/

/-- The scratchpad's descriptor index. -/
def descSlots : Nat := 0xFFFFFF

/-- A slot's reference. -/
def slotRef (c k : Nat) : Word := BitVec.ofNat 64 ((c * 256 + k) <<< 40 + descSlots <<< 16)

/-- A tensor tile's reference. -/
def tileRef (desc t : Nat) : Word := BitVec.ofNat 64 (t <<< 40 + desc <<< 16)

def refTile (r : Word) : Nat := bitsOf r.toNat 40 24
def refDesc (r : Word) : Nat := bitsOf r.toNat 16 24

/-! ### Descriptors (R268, R275) -/

/-- A field of a tensor descriptor: byte offset, low bit, width. -/
def descF (d byte lo n : Nat) : Nat := bitsOf d (8 * byte + lo) n

/-- Tile columns of a tensor. -/
def descG (d : Nat) : Nat := ceilDiv (descF d 0x14 0 32) 2048

/-- Tiles of a tensor (R268). -/
def descTiles (d : Nat) : Nat := ceilDiv (descF d 0x08 32 32 * descG d) 256

/-- Whether a descriptor is active and keeps the rules of R275. -/
def descOk (d : Nat) : Bool :=
  let base := descF d 0 0 64
  let mp := descF d 0x18 0 64
  mp ≠ 0 && mp < 2 ^ 55 && mp % 16 = 0 && base < 2 ^ 55 && base % 65536 = 0 &&
  1 ≤ descF d 0x08 0 32 && 1 ≤ descF d 0x08 32 32 && descF d 0x10 4 28 = 0 &&
  descF d 0x08 0 32 * elemBits (descF d 0x10 0 4) ≤ descF d 0x14 0 32 &&
  descF d 0x20 17 15 = 0 && descF d 0x24 0 32 = 0 && descF d 0x30 24 7 = 0 && descF d 0x34 0 32 = 0 &&
  descF d 0x40 0 512 = 0

/-- The physical address of descriptor `i` of a space, read through translation (R268; DESIGN CHOICE, log entry 19). -/
def Dev.descPa (d : Dev) (sp i : Nat) : Option Nat :=
  let t := SMap.get (0, 0) d.descs sp
  if i < t.2 then
    let va := t.1 + 128 * i
    match d.walk sp false false va with
    | .ok lf => some (d.mg.local (bitsOf lf.entry 16 36 <<< 16 + va % 2 ^ lvlShift lf.level))
    | .error _ => none
  else none

/-- Descriptor `i` of a space, when active (R268), as the infrastructure sees it (R316). -/
def Dev.desc (d : Dev) (sp i : Nat) : Option Nat :=
  match d.descPa sp i with
  | some pa => let x := d.seenNat agentInfra pa 128; if descOk x then some x else none
  | none => none

/-- Descriptors of a space that name a tile map and break a rule of R275: treated as inactive, and recorded. -/
def Dev.brokenDescs (d : Dev) (sp : Nat) : List Nat :=
  (upTo 0 (SMap.get (0, 0) d.descs sp).2).filter fun i =>
    match d.descPa sp i with
    | some pa => let x := d.seenNat agentInfra pa 128; descF x 0x18 0 55 ≠ 0 && !descOk x
    | none => false

/-- A die's fault queue records, once each, the broken descriptors that an access meets (R275; the record's cause field is the
model's choice: log entry 109). -/
def Dev.noteBroken (d : Dev) (die sp : Nat) : Dev :=
  let new := (d.brokenDescs sp).filter fun i => !d.faultQ.any fun f => f.kind == 3 && f.a == sp && f.b == i
  { d with faultQ := d.faultQ ++ new.map fun i => ⟨die, 3, sp, i, ⟨0#8, 0#64⟩⟩ }

/-- The active tensor that covers an address: the lowest descriptor index (R268). -/
def Dev.covering (d : Dev) (sp va : Nat) : Option (Nat × Nat) :=
  (upTo 0 (SMap.get (0, 0) d.descs sp).2).findSome? fun i =>
    match d.desc sp i with
    | some x =>
      let base := descF x 0 0 55
      if base ≤ va ∧ va < base + 65536 * descTiles x then some (i, x) else none
    | none => none

/-! ### Tile locations -/

/-- Why a reference names no tile. -/
inductive RefErr where
  | malformed
  | cause (c : Cause)
  deriving DecidableEq, Repr

/-- The entry of tile `t` of a tensor: its physical address, through translation. -/
def Dev.entPa (d : Dev) (sp x t : Nat) : Except Cause Nat :=
  let va := descF x 0x18 0 55 + 16 * t
  match d.walk sp false false va with
  | .ok lf => .ok (d.mg.local (bitsOf lf.entry 16 36 <<< 16 + va % 2 ^ lvlShift lf.level))
  | .error c => .error c

/-- The location of tile `t` of descriptor `i`, whose content is `x`. -/
def Dev.tensorLoc (d : Dev) (sp i x t : Nat) : Except RefErr TLoc :=
  match d.entPa sp x t with
  | .error c => .error (.cause c)
  | .ok a => .ok { sp := sp, ref := tileRef i t, isSlot := false, c := 0, k := 0, desc := i, ent := a,
                   fmt := descF x 0x10 0 4,
                   lux := if descF x 0x20 16 1 = 1 then some (BitVec.ofNat 16 (descF x 0x20 0 16)) else none }

/-- The location of a slot. -/
def State.slotLoc (s : State) (sp c k : Nat) : TLoc :=
  let x := (s.core c).slot k
  { sp := sp, ref := slotRef c k, isSlot := true, c := c, k := k, desc := descSlots, ent := 0, fmt := entFmt x.w0,
    lux := x.lux }

/-- The tile a reference names in a space (R267). -/
def State.refLoc (s : State) (sp : Nat) (r : Word) : Except RefErr TLoc :=
  if bitsOf r.toNat 0 16 ≠ 0 then .error .malformed
  else if refDesc r = descSlots then
    if refTile r < 48 * 256 then .ok (s.slotLoc sp (refTile r / 256) (refTile r % 256)) else .error .malformed
  else match s.dv.desc sp (refDesc r) with
    | none => .error .malformed
    | some x => if refTile r < descTiles x then s.dv.tensorLoc sp (refDesc r) x (refTile r) else .error .malformed

/-- The entry of a tile as it stands (R276). -/
def State.entry (s : State) (l : TLoc) : Word × Word :=
  if l.isSlot then let x := (s.core l.c).slot l.k; (x.w0, x.w1)
  else (BitVec.ofNat 64 (s.dv.portNat l.ent 8), BitVec.ofNat 64 (s.dv.portNat (l.ent + 8) 8))

/-- The device once descriptors `0` to `n − 1` of a space have been read: A set on the leaves of their pages (R256, R268). -/
def Dev.markDescs (d : Dev) (sp n : Nat) : Dev :=
  let t := SMap.get (0, 0) d.descs sp
  let k := min n t.2
  if k = 0 then d
  else (upTo (t.1 / 65536) ((t.1 + 128 * k - 1) / 65536 + 1 - t.1 / 65536)).foldl (fun d p => d.markUsed sp false (65536 * p)) d

/-- The device once the entry of a tensor's tile has been read, or written: A, and D, set on its leaf (R256, R268). -/
def Dev.markEntry (d : Dev) (l : TLoc) (write : Bool) : Dev :=
  if l.isSlot then d
  else match d.desc l.sp l.desc with
    | some x => d.markUsed l.sp write (descF x 0x18 0 55 + 16 * refTile l.ref)
    | none => d

/-- The state with a tile's entry replaced in one atomic update, visible everywhere (R271, R327). -/
def State.setEntry (s : State) (l : TLoc) (w0 w1 : Word) : State :=
  if l.isSlot then
    s.modCore l.c fun c => c.setSlot l.k { c.slot l.k with w0 := w0, w1 := w1 }
  else s.modDev fun d => (d.markEntry l true).patch 15 agentInfra l.ent (bytesOfNat 8 w0.toNat ++ bytesOfNat 8 w1.toNat)

/-- The die whose list and pool serve a tile (R277, R284). -/
def TLoc.die (l : TLoc) : Nat := if l.isSlot then dieOf l.c else homeDie l.ent

/-- The tensor tile that holds a frame of device memory, if any. -/
def Dev.frameTile (d : Dev) (f : Nat) : Option TLoc :=
  (upTo 0 16).findSome? fun sp => (upTo 0 (SMap.get (0, 0) d.descs sp).2).findSome? fun i =>
    match d.desc sp i with
    | none => none
    | some x => (upTo 0 (descTiles x)).findSome? fun t =>
      match d.tensorLoc sp i x t with
      | .ok l =>
        let w0 := BitVec.ofNat 64 (d.portNat l.ent 8)
        if entKind w0 = 1 && entFrame w0 = f then some l else none
      | .error _ => none

/-- The format of the STORED tile that a frame holds, 15 for plain memory (R291). -/
def Dev.frameFmt (d : Dev) (f : Nat) : Nat := ((d.frameTile f).map (·.fmt)).getD 15

/-- A slot's window frame (R270). -/
def slotFrame (c k : Nat) : Nat := (windowBase + c * 2 ^ 30 + k * 65536) >>> 16

/-! ### Resolution (R274, R276) -/

/-- Whether a source is legal for a REPEAT at a location (R274). -/
def legalSource (l src : TLoc) : Bool :=
  l.isSlot == src.isSlot && (!l.isSlot || (l.c == src.c && !(l.k == src.k))) && l.fmt == src.fmt

/-- An entry that is no REPEAT; `depth` says whether a link has been followed. -/
def endTerm (l : TLoc) (w0 w1 : Word) (depth : Bool) : Term :=
  match entKind w0 with
  | 0 => .bad (if depth then 3 else 0)
  | 1 => .stored l.isSlot l.c l.k (entFrame w0) (entNF w0)
  | 2 => .sym w0 w1 l.fmt
  | 3 => .sym w0 w1 l.fmt
  | 4 => .sym w0 w1 l.fmt
  | _ => .bad 1

/-- Resolution along a chain of at most `fuel` more links. -/
def State.chain (s : State) : Nat → TLoc → Word → Word → Bool → Term
  | 0, l, w0, w1, depth => if entKind w0 = 5 then .bad 2 else endTerm l w0 w1 depth
  | fuel + 1, l, w0, w1, depth =>
    if entKind w0 = 5 then
      match s.refLoc l.sp w1 with
      | .error _ => .bad 4
      | .ok src =>
        if legalSource l src then let e := s.entry src; s.chain fuel src e.1 e.2 true else .bad 4
    else endTerm l w0 w1 depth

/-- What a tile's entry resolves to, with at most 4 links (R274). -/
def State.resolve (s : State) (l : TLoc) : Term :=
  let e := s.entry l
  s.chain 4 l e.1 e.2 false

/-- The detail word of a tile fault (R276). -/
def tileDetail (ref : Word) (reason : Nat) : Word := BitVec.ofNat 64 (bitsOf ref.toNat 16 48 <<< 16 + reason <<< 12)

/-- TILE_UNMAPPED of a tile (R276). -/
def unmapped (ref : Word) (reason : Nat) : Cause := ⟨0x15#8, tileDetail ref reason⟩

/-- Elements per row of a tile in a format (R273). -/
def rowElems (fmt : Nat) : Nat := 2048 / elemBits fmt

/-- Row `i` of the tile a symbol stands for (R273). -/
def symRow (w0 w1 : Word) (fmt i : Nat) : Row :=
  match entKind w0 with
  | 3 =>
    if fmt = 9 then BitVec.ofNat 2048 (packs 6 (List.replicate 341 (w1.toNat % 64)))
    else BitVec.ofNat 2048 (packs 64 (List.replicate 32 w1.toNat))
  | 4 =>
    let w := elemBits fmt
    let base := (bitsOf w1.toNat 32 32 : Int)
    let rs := sgn 16 (bitsOf w1.toNat 16 16)
    let cs := sgn 16 (bitsOf w1.toNat 0 16)
    BitVec.ofNat 2048 (packs w ((upTo 0 (2048 / w)).map fun (j : Nat) => wrap w (base + i * rs + j * cs)))
  | _ => 0#2048

/-- The state once an access has read a tile's descriptor and entry, and those of the sources its chain names: A set on the
leaves (R256, R268). -/
def State.markChain (s : State) : Nat → TLoc → State
  | 0, _ => s
  | fuel + 1, l =>
    if l.isSlot then s
    else
      let s1 := s.modDev fun d => (d.markUsed l.sp false ((SMap.get (0, 0) d.descs l.sp).1 + 128 * l.desc)).markEntry l false
      let e := s1.entry l
      if entKind e.1 = 5 then
        match s1.refLoc l.sp e.2 with
        | .ok src => s1.markChain fuel src
        | .error _ => s1
      else s1

/-- The cause of an access that names a tensor's tile by reference, if the translation of the tile's own address fails,
and the state after the walk (R256, R270). -/
def State.tileWalk (s : State) (die : Nat) (tlb : Option Nat) (write : Bool) (l : TLoc) : Option Cause × State :=
  if l.isSlot then (none, s)
  else match s.dv.desc l.sp l.desc with
    | none => (none, s)
    | some x =>
      let r := s.dv.xlate die tlb l.sp write false (descF x 0 0 55 + 65536 * refTile l.ref)
      (match r.1 with | .error c => some c | .ok _ => none, { s with dv := r.2 })

/-- Row `i` of what an entry resolves to: of a slot at its port, of a frame as the infrastructure sees it (R316). -/
def State.termRow (s : State) (t : Term) (i : Nat) : Row :=
  match t with
  | .stored true c k _ _ => (s.core c).portRow (256 * k + i)
  | .stored false _ _ f _ => BitVec.ofNat 2048 (s.dv.seenNat agentInfra (f * 65536 + 256 * i) 256)
  | .sym w0 w1 fmt => symRow w0 w1 fmt i
  | .bad _ => 0#2048

/-- The 256 rows of what an entry resolves to. -/
def State.termRows (s : State) (t : Term) : List Row := (upTo 0 256).map (s.termRow t)

/-- The elements of a row in a format, as codes. -/
def rowCodes (fmt : Nat) (r : Row) : List Nat := elems (elemBits fmt) (rowElems fmt) r.toNat

/-- Whether a row holds a NaN or an infinity in a format (R283). -/
def rowNF (fmt : Nat) (r : Row) : Bool :=
  !isIntFmt fmt && (rowCodes fmt r).any fun c => (decodeN fmt c).nonFinite

/-- NF of what an entry resolves to: a REPEAT takes its source's (R273, R278). -/
def Term.nf : Term → Bool
  | .stored _ _ _ _ nf => nf
  | .sym w0 _ _ => entNF w0
  | .bad _ => false

end Sys2Proof.Machine
end

