-- ==== Sys2Proof/Machine/Spans.lean ====
section
/-!
DEFINITION. The operands of channel commands (R252, R334, R335, R341, R345, R352): the window regions, the fields of the
blocks whose extents depend on them, and the scratchpad slots a command may touch (R263).
-/

namespace Sys2Proof.Machine

/-- First offsets of a window's regions. -/
def wAcc : Nat := 0x1000000
def wPush : Nat := 0x2000000
def wEnt : Nat := 0x3000000
def wOwn : Nat := 0x3001000
def wSide : Nat := 0x4000000

/-- A field of a command block: byte offset, low bit, width. -/
def bF (b : BitVec 512) (byte lo n : Nat) : Nat := bitsOf b.toNat (8 * byte + lo) n

/-! ### Copy operand addresses (R334) -/

/-- Whether an operand is a window address. -/
def opWin (a : Nat) : Bool := a.testBit 63

/-- The physical address of a window operand. -/
def opPa (a : Nat) : Nat := a % 2 ^ 52

/-- The scratchpad slots that `n` bytes of a window operand name: core and first and last slot. -/
def opSlots (a n : Nat) : Option (Nat × Nat × Nat) :=
  if opWin a && windowBase ≤ opPa a && opPa a < windowBase + 48 * 2 ^ 30 && 0 < n then
    let off := (opPa a - windowBase) % 2 ^ 30
    if off < wAcc then some ((opPa a - windowBase) / 2 ^ 30, off / 65536, min ((off + n - 1) / 65536) 255) else none
  else none

/-- Fields of a shaped copy's block (R341). -/
structure Shape where
  dst : Nat
  src : Nat
  rows : Nat
  cols : Nat
  sp : Nat
  dp : Nat
  fmt : Nat
  mode : Nat
  pat : BitVec 1
  s0 : Nat
  d0 : Nat
  aux : Nat
  deriving DecidableEq, Repr

/-- A shaped copy read from its block. -/
def shapeOf (b : BitVec 512) : Shape :=
  ⟨bF b 0x10 0 64, bF b 0x18 0 64, bF b 0x20 0 32, bF b 0x20 32 32, bF b 0x28 0 32, bF b 0x28 32 32, bF b 0x30 0 4,
   bF b 0x30 4 2, BitVec.ofNat 1 (bF b 0x30 6 1), bF b 0x30 32 16, bF b 0x30 48 16, bF b 0x38 0 64⟩

/-- Rows and columns of what a shaped copy writes, before a transpose and after it. -/
def Shape.outRows (h : Shape) : Nat := if h.mode ≥ 2 then 2 * h.rows else h.rows
def Shape.outDims (h : Shape) : Nat × Nat := if h.mode % 2 = 1 then (h.cols, h.outRows) else (h.outRows, h.cols)

/-- Fields of a gather's or scatter's block (R345): destination, source, indices, rows, row bytes, pitch. -/
structure Gather where
  dst : Nat
  src : Nat
  idx : Nat
  n : Nat
  row : Nat
  pitch : Nat
  deriving DecidableEq, Repr

/-- A gather or scatter read from its block. -/
def gatherOf (b : BitVec 512) : Gather :=
  ⟨bF b 0x10 0 64, bF b 0x18 0 64, bF b 0x20 0 64, bF b 0x28 0 32, bF b 0x28 32 32, bF b 0x30 0 32⟩

/-- Fields of a collective's block (R352). -/
structure Coll where
  src : Nat
  dst : Nat
  n : Nat
  fmt : Nat
  kind : Nat
  combine : Nat
  level : Nat
  order : Nat
  id : Nat
  deriving DecidableEq, Repr

/-- A collective read from its block. -/
def collOf (b : BitVec 512) : Coll :=
  ⟨bF b 0x10 0 64, bF b 0x18 0 64, bF b 0x20 0 32, bF b 0x20 32 4, bF b 0x20 36 2, bF b 0x20 38 2, bF b 0x20 40 3,
   bF b 0x20 43 2, bF b 0x20 48 16⟩

/-- Bytes of an element of a collective. -/
def Coll.bytes (c : Coll) : Nat := if c.fmt = 10 then 2 else 4

/-! ### What a command may touch (R260, R263) -/

/-- Operands of a command with the bytes it may touch at each; a region whose extent its data decide is taken whole. -/
def Cmd.spans (c : Cmd) : List (Nat × Nat) :=
  let b := c.blk
  match c.ins with
  | .xcopy _ => [(c.x.toNat, c.z.toNat), (c.y.toNat, c.z.toNat)]
  | .xcopyt _ =>
    let h := shapeOf b
    [(h.dst, (h.d0 + h.outDims.1 * h.dp + 7) / 8), (h.src, (h.s0 + h.rows * h.sp + 7) / 8),
     (h.aux, if h.mode ≥ 2 then 256 * h.rows else 0)]
  | .xpair _ => [(bF b 0x10 0 64, 65536 * bF b 0x20 0 32)]
  | .xgath _ => let g := gatherOf b; [(g.dst, g.n * g.row), (g.src, 0x1000000), (g.idx, 4 * g.n)]
  | .xscat _ => let g := gatherOf b; [(g.dst, 0x1000000), (g.src, g.n * g.row), (g.idx, 4 * g.n)]
  | .xsend _ => [(bF b 0x10 0 64, bF b 0x18 0 40)]
  | .xpost _ => [(bF b 0x10 0 64, bF b 0x18 0 40)]
  | .xcoll _ => let k := collOf b; [(k.src, k.n * k.bytes), (k.dst, 0x1000000)]
  | .xmedia _ => [(bF b 0x10 0 64, bF b 0x18 0 40), (bF b 0x20 0 64, 0x1000000), (bF b 0x28 0 64, 0x1000000)]
  | _ => []

/-- Whether a command may still touch slot `k` of core `c`: one refused at its issue will not (R261). -/
def Cmd.touches (x : Cmd) (c k : Nat) : Bool :=
  !(x.st == .queued && x.result.isSome) &&
  ((x.spans.any fun p => match opSlots p.1 p.2 with | some (c', lo, hi) => c' == c && lo ≤ k && k ≤ hi | none => false) ||
   match x.ins with
   | .xfill _ => refDesc x.x == descSlots && refTile x.x / 256 == c && refTile x.x % 256 ≤ k && k < refTile x.x % 256 + x.y.toNat
   | _ => false)

/-- Whether a command of a task still on its way may touch slot `k` of core `c` (R100, R260, R263). -/
def State.cmdTouches (s : State) (lid rank c k : Nat) : Bool :=
  s.boxes.any fun b => b.co.ch.toList.any fun l => l.any fun m => m.lid == lid && m.rank == rank && m.touches c k

end Sys2Proof.Machine
end

