-- ==== Sys2Proof/Machine/Sums.lean ====
section
/-!
DEFINITION. Tile sums and their checks (R291 to R300), and Lux record sections: what a merge contributes and how
sections combine, seal and clear (R303 to R308).
-/

namespace Sys2Proof.Machine

/-! ### Storage of a tile -/

/-- Where a tile's bytes and sums stand: a slot, or a frame of device memory. -/
inductive Store where
  | slot (c k : Nat)
  | frame (f : Nat)
  deriving DecidableEq, Repr

/-- The die whose error log serves a store (R297). -/
def Store.die : Store → Nat
  | .slot c _ => dieOf c
  | .frame f => homeDie (f * 65536)

/-- Row `r` of a store at its port. -/
def State.storeRow (s : State) (st : Store) (r : Nat) : Row :=
  match st with
  | .slot c k => (s.core c).portRow (256 * k + r)
  | .frame f => BitVec.ofNat 2048 (s.dv.portNat (f * 65536 + 256 * r) 256)

/-- All rows of a store. -/
def State.storeRows (s : State) (st : Store) : List Row := (upTo 0 256).map (s.storeRow st)

/-- The sidecar of a store (R292, R293). -/
def State.side (s : State) (st : Store) : BitVec 16384 :=
  match st with
  | .slot c k => SMap.get 0#16384 (s.core c).ssum k
  | .frame f => SMap.get 0#16384 s.dv.fside f

/-- The state with a sidecar replaced. -/
def State.setSide (s : State) (st : Store) (x : BitVec 16384) : State :=
  match st with
  | .slot c k => s.modCore c fun co => { co with ssum := SMap.set 0#16384 co.ssum k x }
  | .frame f => s.modDev fun d => { d with fside := SMap.set 0#16384 d.fside f x }

/-! ### The whole-tile check (R297) -/

/-- The outcome of a whole-tile check: 0 clean, 1 corrected word, 2 rewritten sum, 3 uncorrectable; with the row and
column it names, and the corrected row. -/
structure Chk where
  kind : Nat
  row : Nat
  col : Nat
  fix : Option (Nat × Row)
  deriving DecidableEq, Repr

/-- Positions at which two lists differ. -/
def diffAt : Nat → List Nat → List Nat → List Nat
  | i, a :: t, b :: u => if a = b then diffAt (i + 1) t u else i :: diffAt (i + 1) t u
  | _, _, _ => []

/-- Classification of a tile against its sidecar (R297). -/
def classify (fmt : Nat) (rows : List Row) (x : BitVec 16384) : Chk :=
  let t := tileSums fmt rows
  let dr := diffAt 0 (elems 32 256 t.toNat) (elems 32 256 x.toNat)
  let dc := diffAt 0 (elems 32 256 (t.toNat >>> 8192)) (elems 32 256 (x.toNat >>> 8192))
  match dr, dc with
  | [], [] => ⟨0, 0, 0, none⟩
  | [r], [c] =>
    let er := wrap 24 ((sideRow t r : Int) - sideRow x r)
    let ec := wrap 24 ((sideCol t c : Int) - sideCol x c)
    let b := sumBits fmt
    if er = ec ∧ c < 2048 / b then
      let row := (rows[r]?).getD 0#2048
      let w := bitsOf row.toNat (b * c) b
      ⟨1, r, c, some (r, BitVec.ofNat 2048 (bitsPut row.toNat (b * c) b (wrap b ((w : Int) - er))))⟩
    else ⟨3, r, c, none⟩
  | [r], [] => ⟨2, r, 0, none⟩
  | [], [c] => ⟨2, 0, c, none⟩
  | r, c => ⟨3, r.headD 0, c.headD 0, none⟩

/-- The error log of a die with one event counted, and the reference of the last of its kind kept (R297). -/
def State.logErr (s : State) (die kind : Nat) (ref : Word) : State :=
  s.modDev fun d =>
    let e := vget d.errs die ⟨0, 0, 0, 0, 0#64, 0#64, 0#64⟩
    let e' : ErrLog :=
      match kind with
      | 1 => { e with words := e.words + 1, lastWord := ref }
      | 2 => { e with sums := e.sums + 1, lastSum := ref }
      | 3 => { e with unc := e.unc + 1, lastUnc := ref }
      | _ => { e with mem := e.mem + 1 }
    { d with errs := vput d.errs die e' }

/-- Sectors with a correctable error that an access reads are corrected, written back and counted (R371). -/
def State.scrub (s : State) (pa n : Nat) : State :=
  let hit (x : Nat) : Bool := 32 * x < pa + n && pa < 32 * x + 32
  let l := s.dv.weakSect.filter hit
  if l = [] ∨ 2 ^ 40 ≤ pa then s
  else (l.foldl (fun s x => s.logErr (homeDie (32 * x)) 4 0#64) s).modDev fun d =>
    { d with weakSect := d.weakSect.filter fun x => !hit x }

/-- A row of a store replaced at its port, for every view (R297). -/
def State.putRow (s : State) (st : Store) (r : Nat) (x : Row) : State :=
  match st with
  | .slot c k => s.modCore c fun co => co.setRow (256 * k + r) x
  | .frame f => s.modDev fun d => d.atomic 0 agentInfra (f * 65536 + 256 * r) (bytesOfNat 256 x.toNat)

/-- A whole-tile check with its effects: the corrected word or the rewritten sums, and the log (R297). -/
def State.checkTile (s : State) (st : Store) (fmt : Nat) (ref : Word) : Chk × State :=
  let rows := s.storeRows st
  let x := s.side st
  let k := classify fmt rows x
  let s1 :=
    match k.kind, k.fix with
    | 1, some (r, row) => s.putRow st r row
    | 2, _ => s.setSide st (tileSums fmt rows)
    | _, _ => s
  (k, if k.kind = 0 then s1 else s1.logErr st.die k.kind ref)

/-- Whether a row's stored sum disagrees with its data (R296). -/
def State.rowBad (s : State) (st : Store) (fmt r : Nat) : Bool :=
  rowSum fmt (s.storeRow st r) ≠ sideRow (s.side st) r

/-- A row check: escalates to the whole tile when the row's sum disagrees (R296, R298). Gives the row as delivered and,
for an uncorrectable tile, its first mismatching row. -/
def State.checkRow (s : State) (st : Store) (fmt r : Nat) (ref : Word) : Row × Option Nat × State :=
  if s.rowBad st fmt r then
    let q := s.checkTile st fmt ref
    (q.2.storeRow st r, if q.1.kind = 3 then some q.1.row else none, q.2)
  else (s.storeRow st r, none, s)

/-- The check of a row whose store has been checked before (R299): an uncorrectable tile is not logged again. -/
def State.checkAgain (s : State) (st : Store) (fmt r : Nat) (ref : Word) : Row × Option Nat × State :=
  let k := classify fmt (s.storeRows st) (s.side st)
  if s.rowBad st fmt r ∧ k.kind = 3 then (s.storeRow st r, some k.row, s) else s.checkRow st fmt r ref

/-- The detail word of TILE_SUM_UNCORRECTABLE (R300): a reference, or a frame for plain memory. -/
def sumDetail (ref : Option Word) (frame row reason : Nat) : Word :=
  match ref with
  | some r => BitVec.ofNat 64 (bitsOf r.toNat 16 48 <<< 16 + (row % 256) <<< 8 + reason <<< 4)
  | none => BitVec.ofNat 64 ((frame % 2 ^ 36) <<< 16 + (row % 256) <<< 8 + reason <<< 4 + 8)

/-- TILE_SUM_UNCORRECTABLE. -/
def sumCause (ref : Option Word) (frame row reason : Nat) : Cause := ⟨0x20#8, sumDetail ref frame row reason⟩

/-! ### Lux sections (R303, R306, R308) -/

/-- A section at reset (R303). -/
def luxReset : BitVec 2048 := BitVec.ofNat 2048 (0x7F800000 <<< 32)

/-- A record at reset. -/
def luxRec0 : Lux := ⟨luxReset, luxReset⟩

/-- A field of a section: byte offset, width. -/
def luxF (x : BitVec 2048) (byte n : Nat) : Nat := bitsOf x.toNat (8 * byte) n

/-- 32-bit saturation (R306). -/
def sat32 (x : Nat) : Nat := if x > 2 ^ 32 - 1 then 2 ^ 32 - 1 else x

/-- A section from its fields. -/
def mkLux (mx mn cnt zeros nans infs : Nat) (hist : List Nat) (tag flags : Nat) : BitVec 2048 :=
  BitVec.ofNat 2048 (mx + mn <<< 32 + (cnt % 2 ^ 64) <<< 64 + (zeros % 2 ^ 64) <<< 128 + nans <<< 192 + infs <<< 224 +
    (packs 32 hist) <<< 256 + (tag % 2 ^ 64) <<< 1792 + flags <<< 1856)

/-- What one element adds to a partial section (R306). -/
def luxAdd (p : BitVec 2048) (x : Num) : BitVec 2048 :=
  let mx := luxF p 0 32
  let mn := luxF p 4 32
  let cnt := luxF p 8 64 + 1
  let zeros := luxF p 16 64
  let nans := luxF p 24 32
  let infs := luxF p 28 32
  let hist := elems 32 48 (p.toNat >>> 256)
  let fl := luxF p 0xE8 16 ||| 1
  match x with
  | .nan _ => mkLux mx mn cnt zeros (sat32 (nans + 1)) infs hist 0 (fl ||| 4 ||| (if nans = 2 ^ 32 - 1 then 2 else 0))
  | .inf _ => mkLux mx mn cnt zeros nans (sat32 (infs + 1)) hist 0 (fl ||| 4 ||| (if infs = 2 ^ 32 - 1 then 2 else 0))
  | .fin _ m e =>
    if m = 0 then mkLux mx mn cnt (zeros + 1) nans infs hist 0 fl
    else
      let c := (arithMag fp32 false m e false).1
      let b : Int := (Nat.log2 m : Int) + e + 32
      let b := if b < 0 then 0 else if b > 47 then 47 else b.toNat
      let ovf := (hist[b]?).getD 0 = 2 ^ 32 - 1
      mkLux (max mx c) (min mn c) cnt zeros nans infs (updAt (fun v => sat32 (v + 1)) hist b) 0
        (fl ||| (if ovf then 2 else 0))

/-- The partial section of a list of elements in a format. -/
def luxPartial (fmt : Nat) (codes : List Nat) : BitVec 2048 :=
  (codes.map (decodeN fmt)).foldl luxAdd luxReset

/-- A partial section merged into a live section, field by field (R306). -/
def luxMerge (live p : BitVec 2048) : BitVec 2048 :=
  let nans := luxF live 24 32 + luxF p 24 32
  let infs := luxF live 28 32 + luxF p 28 32
  let hist := List.zipWith (· + ·) (elems 32 48 (live.toNat >>> 256)) (elems 32 48 (p.toNat >>> 256))
  let ovf := decide (nans > 2 ^ 32 - 1) || decide (infs > 2 ^ 32 - 1) || hist.any (fun v => v > 2 ^ 32 - 1)
  mkLux (max (luxF live 0 32) (luxF p 0 32)) (min (luxF live 4 32) (luxF p 4 32)) (luxF live 8 64 + luxF p 8 64)
    (luxF live 16 64 + luxF p 16 64) (sat32 nans) (sat32 infs) (hist.map sat32) (luxF live 0xE0 64)
    (luxF live 0xE8 16 ||| luxF p 0xE8 16 ||| (if ovf then 2 else 0))

/-- A section cleared, keeping its cos bit (R314). -/
def luxClear (x : BitVec 2048) : BitVec 2048 := BitVec.ofNat 2048 (luxReset.toNat + (luxF x 0xE8 16 &&& 0x100) <<< 1856)

/-- A seal (R308): the live section copied with cos 0 and the tag written; the live section cleared when cos is 1. -/
def luxSeal (r : Lux) (level count : Nat) : Lux :=
  let body := bitsPut (bitsPut r.live.toNat 1864 1 0) 1792 64 (level <<< 61 + count % 2 ^ 48)
  ⟨if bitsOf r.live.toNat 1864 1 = 1 then luxClear r.live else r.live, BitVec.ofNat 2048 body⟩

/-- A record of the device. -/
def Dev.luxRec (d : Dev) (i : Nat) : Lux := SMap.get luxRec0 d.lux i

/-- The device with a record replaced. -/
def Dev.setLux (d : Dev) (i : Nat) (r : Lux) : Dev := { d with lux := SMap.set luxRec0 d.lux i r }

/-- A write's merge sent to a bound record's home (R305, R306), with the number of the store that makes it, 0 for none. -/
def State.sendMerge (s : State) (lux : Option (BitVec 16)) (lid rank fmt : Nat) (codes : List Nat) (store : Nat := 0) : State :=
  match lux with
  | none => s
  | some i =>
    if codes = [] then s
    else s.modDev fun d => { d with luxQ := d.luxQ ++ [⟨i, lid, rank, .merge (luxPartial fmt codes), none, [], store⟩] }

end Sys2Proof.Machine
end

