-- ==== Sys2Proof/Machine/Umbra.lean ====
section
/-!
DEFINITION. The Umbra table at work: frame pools and release (R277 to R280), the dirty lists and settling (R281 to
R284), promotion, pairs (R343, R344), residency (R355, R356), and the one path by which bytes of a tile are written
(R281, R283, R294, R299, R305).
-/

namespace Sys2Proof.Machine

/-- Who writes: the agent and its coherence level and number for far stores, the view for scratchpad rows, the task,
and whether the write is XPAIR's own (R344). -/
structure Wr where
  agent : Nat
  level : Nat
  id : Nat
  swz : Bool
  lid : Nat
  rank : Nat
  pair : Bool
  deriving DecidableEq, Repr

/-! ### Frames (R277, R280) -/

/-- A frame leaves a tile: it waits for every access that sampled it (R280). -/
def State.releaseFrame (s : State) (f : Nat) : State :=
  s.modDev fun d => { d with release := d.release ++ [(homeDie (f * 65536), f)] }

/-- A tile's frame released when its entry was STORED; a slot keeps its bytes. -/
def State.dropFrame (s : State) (l : TLoc) (w0 : Word) : State :=
  if !l.isSlot && entKind w0 = 1 then s.releaseFrame (entFrame w0) else s

/-- A tile taken off its die's dirty list (R284). -/
def State.undirty (s : State) (l : TLoc) : State :=
  s.modDev fun d =>
    let keep := (vget d.dirty l.die []).filter fun x => !(x.ref == l.ref && (l.isSlot || x.sp == l.sp))
    { d with dirty := vput d.dirty l.die keep }

/-! ### Settling (R281, R282) -/

/-- The common difference of a list of codes modulo 2^w, when they form a progression. -/
def stepOf (w : Nat) : List Nat → Option Nat
  | a :: b :: t =>
    let d := wrap w ((b : Int) - a)
    let rec go : Nat → List Nat → Bool
      | _, [] => true
      | p, x :: u => wrap w ((x : Int) - p) = d && go x u
    if go b t then some d else none
  | _ => some 0

/-- The one element of a list of equal elements. -/
def allSame : List Nat → Option Nat
  | [] => none
  | a :: t => if t.all (· == a) then some a else none

/-- The symbol that rules 1 to 3 of R281 give a stored tile's rows: kind and word 1. -/
def settleSym (fmt : Nat) (rows : List Row) : Option (Nat × Word) :=
  if rows.all (· == 0#2048) then some (2, 0#64)
  else
    let w := elemBits fmt
    let codes := rows.map (rowCodes fmt)
    let tailZero := fmt ≠ 9 || rows.all fun r => bitsOf r.toNat 2046 2 = 0
    match (if tailZero then allSame codes.flatten else none) with
    | some c => some (3, BitVec.ofNat 64 (if fmt = 9 then packs 8 (List.replicate 8 c) else packs w (List.replicate (64 / w) c)))
    | none =>
      if isIntFmt fmt && fmt ≠ 15 then
        let steps := codes.map (stepOf w)
        match steps.headD none, stepOf w (codes.map (·.headD 0)) with
        | some s, some r =>
          let s' := sgn w s
          let r' := sgn w r
          let b := sgn w ((codes.headD []).headD 0)
          if steps.all (· == some s) && decide (-32768 ≤ s' ∧ s' ≤ 32767 ∧ -32768 ≤ r' ∧ r' ≤ 32767) then
            some (4, BitVec.ofNat 64 (wrap 32 b <<< 32 + wrap 16 r' <<< 16 + wrap 16 s'))
          else none
        | _, _ => none
      else none

/-- Whether the tile a hint names resolves without passing through `l` (R281, rule 4). -/
def State.avoids (s : State) (l : TLoc) : Nat → TLoc → Bool
  | 0, _ => false
  | fuel + 1, x =>
    if x.ref = l.ref then false
    else
      let e := s.entry x
      if entKind e.1 = 5 then
        match s.refLoc x.sp e.2 with
        | .ok y => s.avoids l fuel y
        | .error _ => false
      else true

/-- Rule 4 of R281: the hint's tile, when the tile may return to REPEAT of it. The new entry adds a link to the hint's
chain, which must still resolve then, since a settle changes no element. DEDUCED: log entry 20. -/
def State.hintHolds (s : State) (l : TLoc) (w0 w1 : Word) (rows : List Row) : Bool :=
  if !entPromoted w0 then false
  else match s.refLoc l.sp w1 with
    | .error _ => false
    | .ok h =>
      if h.ref = l.ref || !legalSource l h || !s.avoids l 5 h then false
      else match s.chain 3 h (s.entry h).1 (s.entry h).2 false with
        | .bad _ => false
        | .stored false _ _ f _ => s.storeRows (.frame f) == rows
        | t => s.termRows t == rows

/-- The store of a STORED tile. -/
def storeOf (l : TLoc) (w0 : Word) : Store := if l.isSlot then .slot l.c l.k else .frame (entFrame w0)

/-- A STORED tile settled (R281); any other only leaves the dirty list (R284). The answer says whether its kind changed. -/
def State.settle (s : State) (l : TLoc) : Bool × State :=
  let e := s.entry l
  if entKind e.1 ≠ 1 then (false, s.undirty l)
  else
    let rows := s.storeRows (storeOf l e.1)
    let nf := rows.any (rowNF l.fmt)
    let s1 := s.undirty l
    match settleSym l.fmt rows with
    | some (k, w1) =>
      let w0 := mkEnt k (k = 3 && nf) false (entPgen e.1) false (entFmt e.1) 0
      (true, (s1.setEntry l w0 w1).dropFrame l e.1)
    | none =>
      if s.hintHolds l e.1 e.2 rows then
        (true, (s1.setEntry l (mkEnt 5 nf false (entPgen e.1) false (entFmt e.1) 0) e.2).dropFrame l e.1)
      else
        (false, s1.setEntry l (mkEnt 1 nf (entPromoted e.1) (entPgen e.1) false (entFmt e.1) (entFrame e.1)) e.2)

/-- A listed tile settled, if it still names one. -/
def State.settleRef (s : State) (sp : Nat) (ref : Word) : State :=
  match s.refLoc sp ref with
  | .ok l => (s.settle l).2
  | .error _ => s

/-- A tile put on its die's dirty list with the task whose write set DIRTY; a list that reaches its capacity settles its
oldest tile at once (R284). -/
def State.listDirty (s : State) (l : TLoc) (lid rank : Nat) : State :=
  let s1 := (s.undirty l).modDev fun d =>
    { d with dirty := vput d.dirty l.die (vget d.dirty l.die [] ++ [⟨l.sp, l.ref, [(lid, rank)]⟩]) }
  match vget s1.dv.dirty l.die [] with
  | [] => s1
  | x :: t =>
    if t.length + 1 < Config.dirtyCap then s1
    else (s1.modDev fun d => { d with dirty := vput d.dirty l.die t }).settleRef x.sp x.ref

/-- A write by another task to a listed tile: the first phase of either task's domain settles it (R284). -/
def State.tagDirty (s : State) (l : TLoc) (lid rank : Nat) : State :=
  let tag (x : Dirty) : Dirty :=
    if x.ref == l.ref && (l.isSlot || x.sp == l.sp) && !x.tags.contains (lid, rank) then { x with tags := x.tags ++ [(lid, rank)] }
    else x
  s.modDev fun d => { d with dirty := vput d.dirty l.die ((vget d.dirty l.die []).map tag) }

/-- A write that sets DIRTY lists its tile; one that finds it set tags the list's entry (R284). -/
def State.noteDirty (s : State) (l : TLoc) (lid rank : Nat) (was : Bool) : State :=
  if was then s.tagDirty l lid rank else s.listDirty l lid rank

/-! ### Residency (R355, R356) -/

/-- The residency field of a descriptor. -/
def resState (x : Nat) : Nat := descF x 0x38 62 2
def resBusy (x : Nat) : Bool := descF x 0x38 61 1 = 1

/-- A residency field. -/
def mkRes (state : Nat) (busy : Bool) (nbr frame : Nat) : Nat :=
  state <<< 62 + b2n busy <<< 61 + (nbr % 512) <<< 52 + frame % 2 ^ 36

/-- The device with some bytes of a descriptor replaced (R312, R358). -/
def Dev.putDesc (d : Dev) (sp i byte n v : Nat) : Dev :=
  match d.descPa sp i with
  | some pa => (d.markUsed sp true ((SMap.get (0, 0) d.descs sp).1 + 128 * i)).patch 15 agentInfra (pa + byte) (bytesOfNat n v)
  | none => d

/-- The device with a tensor's residency field replaced. -/
def Dev.setRes (d : Dev) (sp i v : Nat) : Dev := d.putDesc sp i 0x38 8 v

/-- The STORED tiles of a tensor. -/
def State.storedTiles (s : State) (sp i x : Nat) : List Nat :=
  (upTo 0 (descTiles x)).filter fun t =>
    match s.dv.tensorLoc sp i x t with
    | .ok l => entKind (s.entry l).1 = 1
    | .error _ => false

/-- Tiles of a tensor set to UNMAPPED, their frames released (R356). -/
def State.unmapTiles (s : State) (sp i x : Nat) (ts : List Nat) : State :=
  ts.foldl (fun s t =>
    match s.dv.tensorLoc sp i x t with
    | .ok l =>
      let e := s.entry l
      ((s.setEntry l (mkEnt 0 false false (entPgen e.1) false (entFmt e.1) 0) 0#64).dropFrame l e.1).undirty l
    | .error _ => s) s

/-- One tensor evicted: dropped when recomputing it is cheap, else an offload begins (R356; DESIGN CHOICE, log entry 13). -/
def State.evict (s : State) (sp i x : Nat) : State :=
  let all := upTo 0 (descTiles x)
  let bytes := 65536 * descTiles x
  if 64 * descF x 0x28 0 48 < bytes then
    (s.unmapTiles sp i x all).modDev fun d => d.setRes sp i (mkRes 3 false 0 0)
  else
    let ts := s.storedTiles sp i x
    let g := Config.neighbourGrant s.fresh none ts.length
    let mv : Move :=
      match g with
      | some (n, f) => ⟨sp, i, false, 1, n, f, ts, none⟩
      | none => ⟨sp, i, false, 2, 0, (hostBase + s.dv.hostArea) >>> 16, ts, none⟩
    let s1 := s.modDev fun d =>
      { d.setRes sp i (mkRes 0 true 0 0) with
        moves := d.moves ++ [mv], hostArea := d.hostArea + (if g.isNone then 65536 * ts.length else 0) }
    { s1 with fresh := s.fresh + 1 }

/-- Tensors the residency unit of a die may move: resident, not busy, next use at least 2 supersteps away (R356). -/
def State.movable (s : State) (die : Nat) : List (Nat × Nat × Nat) :=
  (upTo 0 16).flatMap fun sp =>
    (upTo 0 (SMap.get (0, 0) s.dv.descs sp).2).filterMap fun i =>
      match s.dv.desc sp i, s.dv.descPa sp i with
      | some x, some pa =>
        if homeDie pa = die && resState x = 0 && !resBusy x && descF x 0x28 48 16 ≥ 2 then some (sp, i, x) else none
      | _, _ => none

/-- The order in which the unit takes tensors: descending next use, then bytes, then ascending index. -/
def evictBefore (a b : Nat × Nat × Nat) : Bool :=
  let na := descF a.2.2 0x28 48 16
  let nb := descF b.2.2 0x28 48 16
  if na ≠ nb then nb < na
  else if descTiles a.2.2 ≠ descTiles b.2.2 then descTiles b.2.2 < descTiles a.2.2
  else a.2.1 ≤ b.2.1

/-- The tiles of a move whose frames return to the pool of a die. -/
def State.movingFrom (s : State) (die : Nat) (m : Move) : Nat :=
  if m.back then 0
  else match s.dv.desc m.sp m.desc with
    | none => 0
    | some x => (m.tiles.filter fun t =>
        match s.dv.tensorLoc m.sp m.desc x t with | .ok l => l.die == die | .error _ => false).length

/-- Frames of a die free or on their way back to its pool. -/
def State.framesDue (s : State) (die : Nat) : Nat :=
  (vget s.dv.pool die []).length + (s.dv.release.filter fun r => r.1 == die).length +
    sumN (s.dv.moves.map (s.movingFrom die))

/-- The residency unit's reaction to a pool below its watermark (R356). -/
def State.residency (s : State) (die : Nat) : State :=
  if s.framesDue die < vget s.dv.resWm die 0 then
    ((s.movable die).insertionSort fun a b => evictBefore a b).foldl (fun s c =>
      if s.framesDue die < vget s.dv.resWm die 0 then s.evict c.1 c.2.1 c.2.2 else s) s
  else s

/-- A write that reaches a tile of a tensor being offloaded cancels the offload (R356). -/
def State.cancelOffload (s : State) (l : TLoc) : State :=
  if !l.isSlot && s.dv.moves.any (fun m => m.sp == l.sp && m.desc == l.desc && !m.back) then
    s.modDev fun d =>
      { d.setRes l.sp l.desc (mkRes 0 false 0 0) with
        moves := d.moves.filter fun m => !(m.sp == l.sp && m.desc == l.desc && !m.back) }
  else s

/-- A frame out of a die's pool, with the events the pool's level raises (R277, R356). -/
def State.claimFrame (s : State) (die f : Nat) : State :=
  let t := (vget s.dv.pool die []).erase f
  let s1 := s.modDev fun d =>
    { d with pool := vput d.pool die t,
             mg := if t.length < vget d.poolWm die 0 ∧ vget d.poolWm die 0 ≤ t.length + 1
                   then { d.mg with events := d.mg.events ++ [.poolLow die] } else d.mg }
  s1.residency die

/-- A frame taken from a die's pool. -/
def State.takeFrame (s : State) (die : Nat) : Option (Nat × State) :=
  match vget s.dv.pool die [] with
  | [] => none
  | f :: _ => some (f, s.claimFrame die f)

/-- A frame that was taken and is not used goes back to its pool. -/
def State.giveBack (s : State) (frame : Option Nat) : State :=
  match frame with
  | none => s
  | some f => s.modDev fun d =>
      let die := homeDie (f * 65536)
      { d with pool := vput d.pool die (vget d.pool die [] ++ [f]) }

/-! ### Promotion (R278, R279) -/

/-- FRAME_POOL_EMPTY of a tile. -/
def poolEmpty (ref : Word) : Cause := ⟨0x16#8, tileDetail ref 0⟩

/-- A symbolic tile promoted (R278): its synthesised bytes in a frame or in the slot itself, its sums computed, its
entry STORED with DIRTY set. `frame` is the frame taken for it before, if one was (R126). -/
def State.promoteInto (s : State) (l : TLoc) (lid rank : Nat) (frame : Option Nat) : Except Cause (Store × State) :=
  let e := s.entry l
  match s.resolve l with
  | .bad r => .error (unmapped l.ref r)
  | t =>
    let rows := s.termRows t
    let rep := entKind e.1 = 5
    let w0 (frame : Nat) := mkEnt 1 (if rep then t.nf else entNF e.1) rep (entPgen e.1) true (entFmt e.1) frame
    let w1 := if rep then e.2 else 0#64
    if l.isSlot then
      let st := Store.slot l.c l.k
      let s1 := s.modCore l.c fun c =>
        ((upTo 0 256).zip rows).foldl (fun c p => c.setRow (256 * l.k + p.1) p.2) c
      .ok (st, ((s1.setSide st (tileSums l.fmt rows)).setEntry l (w0 (slotFrame l.c l.k)) w1).listDirty l lid rank)
    else match (match frame with | some f => some (f, s) | none => s.takeFrame l.die) with
      | none => .error (poolEmpty l.ref)
      | some (f, s1) =>
        let st := Store.frame f
        let s2 := s1.modDev fun d =>
          d.atomic 0 agentInfra (f * 65536) (rows.flatMap fun r => bytesOfNat 256 r.toNat)
        .ok (st, ((s2.setSide st (tileSums l.fmt rows)).setEntry l (w0 f) w1).listDirty l lid rank)

/-- A symbolic tile promoted into a frame of its pool (R278). -/
def State.promote (s : State) (l : TLoc) (lid rank : Nat) : Except Cause (Store × State) := s.promoteInto l lid rank none

/-! ### Pairs (R343, R344) -/

/-- The pair of a tensor tile: whether the tile is the plain one, and the other tile. -/
def State.pairOf (s : State) (l : TLoc) : Option (Bool × TLoc) :=
  if l.isSlot then none
  else match s.dv.desc l.sp l.desc with
    | none => none
    | some x =>
      if descF x 0x30 31 1 = 0 then none
      else
        let j := descF x 0x30 0 24
        match s.dv.desc l.sp j with
        | none => none
        | some y =>
          if descF y 0x30 31 1 = 1 ∧ descF y 0x30 0 24 = l.desc ∧ j ≠ l.desc ∧ elemBits l.fmt = 8 ∧ elemBits (descF y 0x10 0 4) = 8 then
            let g := descG x
            let t := refTile l.ref
            match s.dv.tensorLoc l.sp j y (t % g * descG y + t / g) with
            | .ok o => some (decide (l.desc < j), o)
            | .error _ => none
          else none

/-- PAIR_STALE when a partner tile's generation differs from its plain tile's (R344). -/
def State.stale (s : State) (l : TLoc) : Option Cause :=
  match s.pairOf l with
  | some (false, p) =>
    if entPgen (s.entry l).1 ≠ entPgen (s.entry p).1 then some ⟨0x17#8, tileDetail l.ref 0⟩ else none
  | _ => none

/-- The generation after a write by a path other than XPAIR (R344). -/
def State.bumpPair (s : State) (l : TLoc) : State :=
  match s.pairOf l with
  | none => s
  | some (true, _) =>
    let e := s.entry l
    s.setEntry l (entPut e.1 48 8 ((entPgen e.1 + 1) % 256)) e.2
  | some (false, p) =>
    let e := s.entry l
    s.setEntry l (entPut e.1 48 8 (entPgen (s.entry p).1 ^^^ 0x80)) e.2

/-- The device with a finished write forgotten. -/
def Dev.forgetGens (d : Dev) (id : Nat) : Dev := { d with gens := d.gens.filter fun g => g.1 != id }

/-- The device with a tile open to every write again: its pair's generations are equal (R343). -/
def Dev.equalGens (d : Dev) (l : TLoc) : Dev := { d with gens := d.gens.filter fun g => !(g.2.1 == l.sp && g.2.2 == l.ref) }

/-- The generation moved by a numbered write, a command's or a far store's: once for each tile, however many pieces the
write comes in, until an XPAIR makes the generations equal again (R344). DESIGN CHOICE: log entry 118. -/
def State.bumpOnce (s : State) (l : TLoc) (id : Nat) : State :=
  if id = 0 then s.bumpPair l
  else if l.isSlot || s.dv.gens.contains (id, l.sp, l.ref) || (s.pairOf l).isNone then s
  else (s.bumpPair l).modDev fun d => { d with gens := d.gens ++ [(id, l.sp, l.ref)] }

/-! ### Sampling a tile for an access (R276) -/

/-- Whether a read of a tile fails (R276, R344). -/
def State.readFault (s : State) (l : TLoc) : Option Cause :=
  match s.resolve l with
  | .bad r => some (unmapped l.ref r)
  | _ => s.stale l

/-- Whether a tile does not resolve (R276). -/
def State.mapFault (s : State) (l : TLoc) : Option Cause :=
  match s.resolve l with
  | .bad r => some (unmapped l.ref r)
  | _ => none

/-- Whether a write of a tile fails before it is applied (R276, R278). -/
def State.writeFault (s : State) (l : TLoc) : Option Cause :=
  let e := s.entry l
  if entKind e.1 = 1 then none
  else match s.resolve l with
    | .bad r => some (unmapped l.ref r)
    | _ => if !l.isSlot && (vget s.dv.pool l.die []).isEmpty then some (poolEmpty l.ref) else none

/-- A tile readied for a write: an offload of its tensor cancelled, a symbol promoted into the frame taken for it, or into
one of the pool; a frame that is not needed after all goes back (R126, R276, R356). -/
def State.readyWith (s : State) (l : TLoc) (lid rank : Nat) (frame : Option Nat) : Except Cause (Store × State) :=
  let s := s.cancelOffload l
  let e := s.entry l
  if entKind e.1 = 1 then .ok (storeOf l e.1, s.giveBack frame) else s.promoteInto l lid rank frame

/-- A tile readied for a write with a frame of its pool. -/
def State.readyWrite (s : State) (l : TLoc) (lid rank : Nat) : Except Cause (Store × State) := s.readyWith l lid rank none

/-! ### Writing bytes of a tile -/

/-- The bits of bytes `lo` to `hi − 1` of a row. -/
def spanMask (lo hi : Nat) : Nat := (2 ^ (8 * (hi - lo)) - 1) <<< (8 * lo)

/-- Codes of the elements of a row of which a write stores some bits, given as a mask (R305). -/
def codesIn (fmt : Nat) (r : Row) (mask : Nat) : List Nat :=
  let w := elemBits fmt
  (upTo 0 (rowElems fmt)).filterMap fun i => if bitsOf mask (w * i) w = 0 then none else some (bitsOf r.toNat (w * i) w)

/-- Cached tiles of views made from a base tile invalidated (R342). DEDUCED: log entry 44. -/
def State.dropViews (s : State) (l : TLoc) : State :=
  s.modDev fun d =>
    let keep := d.vcache.filter fun v =>
      match d.views.find? (fun x => x.1 == v.die * 64 + v.view) with
      | some (_, x) => !(x.sp == l.sp && x.base == l.desc && !l.isSlot)
      | none => true
    { d with vcache := keep }

/-- NF and DIRTY set, the tile listed, the pair's generation moved, views dropped and the merge sent, after the bits of a
mask of a row were written; an offload of its tensor is cancelled (R281, R283, R284, R305, R344, R356). -/
def State.noteWrite (s : State) (l : TLoc) (w : Wr) (new : Row) (mask : Nat) : State :=
  let s := s.cancelOffload l
  let e := s.entry l
  let codes := codesIn l.fmt new mask
  let nf := entNF e.1 || (!isIntFmt l.fmt && codes.any fun c => (decodeN l.fmt c).nonFinite)
  let w0 := entPut (entPut e.1 60 1 (b2n nf)) 47 1 1
  let s1 := if w0 = e.1 then s else s.setEntry l w0 e.2
  let s2 := s1.noteDirty l w.lid w.rank (entDirty e.1)
  let s3 := if w.pair then s2 else s2.bumpOnce l w.id
  (s3.dropViews l).sendMerge l.lux w.lid w.rank l.fmt codes w.id

/-- The reference that the error log takes for a store: its tile's, or the frame of plain memory. -/
def Store.logRef (st : Store) (ref : Option Word) : Word :=
  ref.getD (BitVec.ofNat 64 (match st with | .frame x => x <<< 16 | .slot c k => (slotRef c k).toNat))

/-- Bytes `lo` to `hi − 1` of row `r` of a STORED tile, or of a plain frame, replaced by those of `f old`, of which the write
stores the bits of `mask` (R294, R299): the old row is checked first, unless that was done at issue (`first`); sums move
by deltas; an uncorrectable tile takes the write, its row sum recomputed, and reports reason 1. -/
def State.writeBitsAt (s : State) (first : Bool) (l : Option TLoc) (st : Store) (w : Wr) (r lo hi mask : Nat) (f : Row → Row) :
    Option Cause × State :=
  let fmt := (l.map (·.fmt)).getD 15
  let ref := l.map (·.ref)
  let q := if first then s.checkRow st fmt r (st.logRef ref) else s.checkAgain st fmt r (st.logRef ref)
  let old := q.1
  let new := f old
  let s1 := q.2.2
  let s2 :=
    match st with
    | .slot c k => s1.modCore c fun co => co.writeRow w.swz (256 * k + r) new
    | .frame x => s1.modDev fun d =>
        d.store w.id w.agent w.level (x * 65536 + 256 * r + lo) (((bytesOfNat 256 new.toNat).drop lo).take (hi - lo))
  let side := s1.side st
  let s3 := s2.setSide st (if q.2.1.isSome then resumRow fmt side r new else deltaSide fmt side r old new)
  let s4 := match l with
    | some l => s3.noteWrite l w new mask
    | none => s3
  (q.2.1.map fun row => sumCause ref (match st with | .frame x => x | .slot _ _ => 0) row 1, s4)

/-- Whole bytes of a row replaced. -/
def State.writeRowAt (s : State) (l : Option TLoc) (st : Store) (w : Wr) (r lo hi : Nat) (f : Row → Row) :
    Option Cause × State :=
  s.writeBitsAt true l st w r lo hi (spanMask lo hi) f

/-- A symbol written into a tile (R287): the entry, its former frame, the dirty list and the merge. -/
def State.writeSym (s : State) (l : TLoc) (kind fmt : Nat) (w1 : Word) (lid rank : Nat) : State :=
  let e := s.entry l
  let nf := kind = 3 && (decodeN fmt (w1.toNat % 2 ^ (if fmt = 9 then 6 else elemBits fmt))).nonFinite && !isIntFmt fmt
  let w0 := mkEnt kind nf false (entPgen e.1) false fmt 0
  let s1 := (((s.cancelOffload l).setEntry l w0 w1).dropFrame l e.1).undirty l
  let l' := { l with fmt := fmt }
  let rows := s1.termRows (s1.resolve l')
  (s1.dropViews l).sendMerge l.lux lid rank fmt (if kind = 0 then [] else (rows.map (rowCodes fmt)).flatten)

end Sys2Proof.Machine
end

