-- ==== Sys2Proof/Machine/Ops.lean ====
section
/-!
DEFINITION. The named operations over registers, queues and results in flight (R12 to R32), ending a task (R100, R246,
R260), taking a trap (R96, R97, R367, R369) and returning from one (R99).
-/

namespace Sys2Proof.Machine

/-! ### Scalar registers and results in flight (R15, R25) -/

/-- A scalar register as the bundle reads it; s0 reads zero. -/
def Plane.rdS (p : Plane) (r : BitVec 5) : Word := if r = 0#5 then 0#64 else vget p.s r.toNat 0#64

/-- A scalar register written; a write to s0 is discarded. -/
def Plane.wrS (p : Plane) (r : BitVec 5) (v : Word) : Plane :=
  if r = 0#5 then p else { p with s := vput p.s r.toNat v }

/-- A scalar register of the executing plane. -/
def State.rdS (s : State) (r : BitVec 5) : Word := s.pl.rdS r

/-- The request identifier of an instruction issued now in a slot (R364). -/
def reqId (slot tcount : Nat) : Word := BitVec.ofNat 64 (slot <<< 61 + tcount % 2 ^ 48)

/-- A result of the instruction in `slot`, due `lat` bundles from now, of an engine with flags (R15). -/
def State.result (s : State) (slot lat : Nat) (dest : Dest) (val : Row) (tag : Sum24) (eng : Nat) (flags : BitVec 5)
    (arr : Option Owed) : State :=
  { s with
    pl := { s.pl with flight := s.pl.flight ++
      [{ id := s.dv.nextId, due := s.pl.bcount + lat, dest := dest, val := val, tag := tag, flags := flags, eng := eng,
         arr := arr, lb := false, known := true, arrived := true, raised := false, slot := slot,
         issued := s.pl.tcount, take := none, qfSet := none }] },
    dv := { s.dv with nextId := s.dv.nextId + 1 } }

/-- A scalar result (R25): no flags. -/
def State.resultS (s : State) (slot lat : Nat) (sd : BitVec 5) (v : Word) (arr : Option Owed) : State :=
  s.result slot lat (.sreg sd) (v.setWidth 2048) 0#24 7 0#5 arr

/-- A result whose data comes later: it holds a landing-buffer entry (R18, R21) unless `lb` is false. The answer is
the number by which the data finds it. -/
def State.await (s : State) (slot lat : Nat) (dest : Dest) (lb : Bool) (arr : Option Owed) : Nat × State :=
  (s.dv.nextId,
   { s with
     pl := { s.pl with flight := s.pl.flight ++
       [{ id := s.dv.nextId, due := s.pl.bcount + lat, dest := dest, val := 0#2048, tag := 0#24, flags := 0#5, eng := 7,
          arr := arr, lb := lb, known := false, arrived := false, raised := false, slot := slot,
          issued := s.pl.tcount, take := none, qfSet := none }] },
     dv := { s.dv with nextId := s.dv.nextId + 1 } })

/-- A result in flight or captured, found by its number, changed. -/
def Plane.modFlight (p : Plane) (id : Nat) (f : Flight → Flight) : Plane :=
  let g (x : Flight) : Flight := if x.id = id then f x else x
  { p with flight := p.flight.map g, pending := p.pending.map g }

/-- The data of an awaited result fixed, not yet back at the core. -/
def State.fixData (s : State) (c p id : Nat) (v : Row) : State :=
  s.modPlane c p fun pl => pl.modFlight id fun f => { f with val := v, tag := rowTag v, known := true }

/-- The data of an awaited result back at the core at once. -/
def State.fixNow (s : State) (c p id : Nat) (v : Row) : State :=
  s.modPlane c p fun pl => pl.modFlight id fun f => { f with val := v, tag := rowTag v, known := true, arrived := true }

/-- Landing-buffer entries in use: awaited results in flight or captured (R21). -/
def Plane.lbUsed (p : Plane) : Nat := (p.flight.filter (·.lb)).length + (p.pending.filter (·.lb)).length

/-- A deferred-precise cause due `lat` bundles from now; a handler's own is counted in bundles (R364, R366, R368). DEDUCED: log entry 38. -/
def Plane.deferAt (p : Plane) (lat : Nat) (c : Cause) (req : Word) : Plane :=
  if p.intrap then { p with hdefer := p.hdefer ++ [⟨c, p.bcount + lat, req⟩] }
  else { p with deferred := p.deferred ++ [⟨c, p.tcount + lat, req⟩] }

/-- A deferred-precise cause of the instruction issued now in a slot, `lat` bundles from now. -/
def State.defer (s : State) (slot lat : Nat) (c : Cause) : State :=
  s.modPl fun p => p.deferAt lat c (reqId slot p.tcount)

/-- A result lands: its destination is written, its arrival made, its flags noted for after this bundle's FLAGS
(R15, R17, R142, R144, R230). -/
def State.land (s : State) (f : Flight) : State :=
  let p := s.pl
  let p1 : Plane :=
    match f.dest with
    | .none => p
    | .sreg r => p.wrS r (f.val.setWidth 64)
    | .pred k => { p with pr := vput p.pr k (f.val.setWidth 256) }
    | .scale n => { p with ks := vput p.ks n ⟨f.val.setWidth 64, (f.val >>> 64).setWidth 32⟩ }
    | .vq k => { p with vq := vput p.vq k (vget p.vq k [] ++ [⟨f.val, f.tag⟩]) }
    | .mq => { p with mq := p.mq ++ [⟨f.val, f.tag⟩] }
  let p2 := if f.flags = 0#5 then p1
    else { p1 with newFlags := p1.newFlags ++ [(f.eng, f.flags, reqId f.slot f.issued, f.raised)] }
  let p3 := match f.qfSet with | some b => { p2 with qf := b } | none => p2
  let s1 := { s with pl := p3 }
  let s2 := match f.take with
    | some (c, k) => s1.modCore c fun co =>
        let x := co.slot k
        if x.lid = p.lid ∧ x.rank = p.rank then co.setSlot k { x with hidden := false } else co
    | none => s1
  s2.arrive f.arr [] 0

/-- Every result due at this bundle count lands, in issue order (R15, R17). -/
def State.landDue (s : State) : State :=
  let due := s.pl.flight.filter fun f => f.due ≤ s.pl.bcount
  due.foldl State.land (s.modPl fun p => { p with flight := p.flight.filter fun f => !(f.due ≤ p.bcount) })

/-- FP_EXCEPTION of an engine with the enabled flags raised (R143). -/
def fpCause (eng : Nat) (fl : BitVec 5) : Cause := ⟨0x29#8, BitVec.ofNat 64 (eng + fl.toNat <<< 8)⟩

/-- The enabled ones of an operation's flags, given the engine's flag word. -/
def enabledOf (w : BitVec 16) (fl : BitVec 5) : BitVec 5 := fl &&& (w >>> 8).setWidth 5

/-- Sticky flags of the results that landed in this bundle are set, after its FLAGS (R143, R144). DEDUCED: log entry 39. -/
def State.setFlags (s : State) : State :=
  let go (p : Plane) (x : Nat × BitVec 5 × Word × Bool) : Plane :=
    let w := vget p.flags x.1 0#16
    let en := enabledOf w x.2.1
    let p1 := { p with flags := vput p.flags x.1 (w ||| x.2.1.setWidth 16) }
    if en ≠ 0#5 ∧ !x.2.2.2 then p1.deferAt 0 (fpCause x.1 en) x.2.2.1 else p1
  s.modPl fun p => { p.newFlags.foldl go p with newFlags := [] }

/-! ### Queues (R27 to R32) -/

/-- The entries of a queue: vector queues 0 to 31, mq at 32. -/
def Plane.queue (p : Plane) (k : Nat) : List Entry := if k = 32 then p.mq else vget p.vq k []

/-- Capacity of a queue (R30). -/
def qCap (k : Nat) : Nat := if k = 32 then Config.mqCap else Config.vqCap

/-- Pushes a plane's M-slot drains still hold for mq (R217): vectors of MDRAIN not yet pushed. -/
def MEnt.mqHeld (m : MEnt) : Nat := match m.ins with | .mdrain _ => m.steps - m.pushed | _ => 0

/-- Pushes reserved for a queue (R30). -/
def Plane.reserved (p : Plane) (k : Nat) : Nat :=
  let d : Dest := if k = 32 then .mq else .vq k
  (p.flight.filter fun f => f.dest == d).length + (p.pending.filter fun f => f.dest == d).length +
    (if k = 32 then sumN (p.m.map MEnt.mqHeld) else 0)

/-- The detail word of a queue trap (R30). -/
def queueDetail (q pos op : Nat) : Word := BitVec.ofNat 64 ((if q = 32 then 0x20 else q) + pos <<< 9 + op <<< 12)

/-- A pop or peek of an empty queue (R30). -/
def Plane.popFault (p : Plane) (q : Nat) (peek : Bool) : Option Cause :=
  if (p.queue q).isEmpty then some ⟨0x04#8, queueDetail q p.grp (b2n peek)⟩ else none

/-- A push into a queue without room for `n` more entries; pops of the bundle free their entries first (R30). -/
def Plane.pushFault (p : Plane) (q n : Nat) (own : List Nat) : Option Cause :=
  let used := (p.queue q).length + p.reserved q - b2n (p.willPop.contains q || own.contains q || p.popped.contains q)
  if used + n > qCap q then some ⟨0x05#8, queueDetail q p.grp 2⟩ else none

/-- The head of a queue. -/
def Plane.headOf (p : Plane) (q : Nat) : Entry := (p.queue q).headD ⟨0#2048, 0#24⟩

/-- A pop noted for the end of the bundle (R29). -/
def Plane.popAtEnd (p : Plane) (q : Nat) : Plane := { p with popped := p.popped ++ [q] }

/-- The bundle's pops happen (R28, R29). -/
def State.doPops (s : State) : State :=
  let go (p : Plane) (q : Nat) : Plane :=
    if q = 32 then { p with mq := p.mq.tail } else { p with vq := vput p.vq q (vget p.vq q []).tail }
  s.modPl fun p => { p.popped.eraseDups.foldl go p with popped := [] }

/-! ### Ending a task (R100, R194, R225, R245, R246, R260) -/

/-- A table rebuilt with every value changed, in canonical form. -/
def SMap.mapV {α : Type} [DecidableEq α] (d : α) (f : Nat → α → α) (m : SMap α) : SMap α :=
  m.foldl (fun acc p => SMap.set d acc p.1 (f p.1 p.2)) []

/-- A slot freed: free, its entry ZERO, nothing bound, its generation one higher; the owner record keeps its other fields
(R260, R305). -/
def Slot.free (x : Slot) : Slot :=
  { x with w0 := slotReset.w0, w1 := slotReset.w1, st := .free, gen := x.gen + 1#16, hidden := false, takeable := false,
           arr := none, lux := none }

/-- References of a core's slots that meet a test. -/
def Core.slotRefs (c : Core) (t : Nat → Nat → Slot → Bool) : List Word :=
  (c.slots.filter fun x => t c.id x.1 x.2).map fun x => slotRef c.id x.1

/-- Every slot that meets a test, by core, number and record, freed; its tile leaves the dirty list (R284). -/
def State.freeSlots (s : State) (t : Nat → Nat → Slot → Bool) : State :=
  let refs := s.boxes.flatMap fun b => b.co.slotRefs t
  let s1 := s.mapCores fun c =>
    { c with slots := SMap.mapV slotReset (fun k x => if t c.id k x then x.free else x) c.slots,
             ssum := SMap.mapV 0#16384 (fun k x => if t c.id k (c.slot k) then 0#16384 else x) c.ssum }
  if refs = [] then s1
  else s1.modDev fun d => { d with dirty := d.dirty.map fun l => l.filter fun x => !refs.contains x.ref }

/-- The slots that a task owns freed, but for those that its commands still on their way may touch: they run to completion
independently, and the slots are freed with the last of them (R100, R260, R332). DEDUCED: log entry 120. -/
def State.freeOwned (s : State) (lid rank : Nat) : State :=
  s.freeSlots fun c k x => x.st == .owned && x.lid == lid && x.rank == rank && !s.cmdTouches lid rank c k

/-- Accumulator banks and bands of a plane released (R194). -/
def Core.freeBanks (c : Core) (p lid : Nat) : Core :=
  let mine (b : Nat) : Bool := SMap.get 0 c.bank b = p + 1
  { c with bank := SMap.mapV 0 (fun _ o => if o = p + 1 then 0 else o) c.bank,
           bands := c.bands.filter fun b => !(b.lid == lid && mine (b.row / 128)) }

/-- Whether a plane holds a live task. -/
def Plane.live (p : Plane) : Bool :=
  match p.status with
  | .loaded | .ready | .parked => true
  | .empty | .ended => false

/-- A plane whose task has ended: its state discarded, its far queues kept (R100, R225, R322). -/
def Plane.cleared (p : Plane) : Plane := { Plane.reset with lq := p.lq, sq := p.sq }

/-- The task of a plane ends (R100). Arrivals of its results in flight and of its unretired M-slot instructions are made
(R230) unless `quiet` (R380); an error is
recorded, the lowest rank standing, and ends the launch's other tasks (R246). DEDUCED: log entry 40. DEDUCED: log entry 80. -/
def State.endTask (s : State) (c p : Nat) (err : Option (Cause × Word)) (quiet : Bool) : State :=
  let pl := s.plane c p
  let owed := (pl.pending ++ pl.flight).map (·.arr) ++ pl.m.map (·.arr)
  let s1 := if quiet then s else owed.foldl (fun s o => s.arrive o [] 0) s
  let s2 := s1.modPlane c p Plane.cleared
  let s3 := (s2.modCore c fun co => co.freeBanks p pl.lid).freeOwned pl.lid pl.rank
  let s4 := s3.modLaunch pl.lid fun l =>
    { l with
      tasks := l.tasks.map fun t => if t.rank = pl.rank then { t with ended := true } else t,
      status := if err.isSome ∧ l.status = 0 then 2 else l.status,
      err := match err with
        | none => l.err
        | some (k, w) => match l.err with
          | some (r, k0, w0) => if r ≤ pl.rank then some (r, k0, w0) else some (pl.rank, k, w)
          | none => if l.status = 0 then some (pl.rank, k, w) else none }
  let s5 := if err.isSome then
      s4.mapPlanes fun _ _ q => if q.lid = pl.lid ∧ q.live then { q with endReq := true } else q
    else s4
  s5.barsAdvance.wake

/-! ### Traps (R96 to R99, R367, R369) -/

/-- A return-store address (R33). -/
def mkAddr (seg bun : Nat) : BitVec 44 := BitVec.ofNat 44 ((seg % 2 ^ 32) <<< 12 + bun % 4096)

/-- Loop levels a task or its handler sees (R97). -/
def Plane.liveLoops (p : Plane) : List Loop := p.loops.take (p.loops.length - p.loopFloor)

/-- Return entries a task or its handler sees (R97). -/
def Plane.liveRets (p : Plane) : List (BitVec 44) := p.rets.take (p.rets.length - p.retFloor)

/-- The results in flight captured with their remaining distances (R369): a result the next bundle would read first
has distance 1. -/
def Plane.capture (p : Plane) : List Flight := p.flight.map fun f => { f with due := f.due + 1 - p.bcount }

/-- The segment of a fall-through past a chain's end: no table holds it (R89). -/
def noSeg : Nat := 0xFFFFFFFF

/-- A trap of an unusable segment or fall-through (R39, R62): no slot word or bundle offends, and its slot and bundle bits are 0
(DESIGN CHOICE, log entry 111). -/
def badSegment : Cause := ⟨0x02#8, BitVec.ofNat 64 (7 <<< 16 + 0xFF <<< 8)⟩

/-- A segment in the executing half; the uncorrectable error of its fetch is deferred to the next bundle, its first when it is
entered, or ends a handler's task (R97, R371). DEDUCED: log entry 72. -/
def Plane.fetched (p : Plane) (b : SegBuf) : Plane :=
  match b.unc with
  | none => { p with cur := some b }
  | some a =>
    let c : Cause := ⟨0x22#8, BitVec.ofNat 64 (1 <<< 60 + a.toNat % 2 ^ 52)⟩
    if p.intrap then { p with cur := some { b with err := b.err.or (some c) } }
    else { p with cur := some b, deferred := p.deferred ++ [(⟨c, p.tcount, 0#64⟩ : Deferred)] }

/-- A segment becomes the executing one (R38). -/
def Plane.executing (p : Plane) (b : SegBuf) : Plane := { p.fetched b with enter := none }

/-- A segment that a fall-through does not find: entering it traps (R39, R65). -/
def lostSeg (i : Nat) : SegBuf := ⟨i, [], 0#64, 0, some badSegment, none, false⟩

/-- Control falls through past the end of a segment (R38, R39): to the next one when the loop buffer holds it, to a trap
when there is none or the table does not hold it; otherwise it waits for the fetcher. -/
def Plane.fallPast (p : Plane) (r : SegBuf) : Plane :=
  let q (i : Nat) : Plane := { p with seg := BitVec.ofNat 32 i, bun := 0#12, enter := none }
  if r.next = 0#64 then { q noSeg with enter := some ⟨noSeg, 0, .fall⟩ }
  else if r.broken then (q r.nidx).executing (lostSeg r.nidx)
  else match p.res.find? fun x => x.idx == r.nidx with
    | some x => (q r.nidx).executing x
    | none => { q r.nidx with enter := some ⟨r.nidx, 0, .fall⟩ }

/-- Control enters a segment that the loop buffer holds, at a bundle; BRKL past its last one falls through (R38, R94). -/
def Plane.enterHeld (p : Plane) (r : SegBuf) (bun : Nat) (via : Via) : Plane :=
  if via = .jump ∧ r.err.isNone ∧ bun = r.bundles.length then (p.executing r).fallPast r
  else { p.executing r with seg := BitVec.ofNat 32 r.idx, bun := BitVec.ofNat 12 bun }

/-- Control goes to a bundle of a segment (R38): at once in the executing segment, in a resident one, or in the
prefetched next one, whose fault is then met (R39); otherwise the core freezes until the fetcher has expanded the
target. -/
def Plane.goTo (p : Plane) (seg bun : Nat) (via : Via) : Plane :=
  let q := { p with seg := BitVec.ofNat 32 seg, bun := BitVec.ofNat 12 bun, enter := none }
  let wait := { q with enter := some ⟨seg, bun, via⟩ }
  match p.cur with
  | none => wait
  | some c =>
    if c.idx = seg ∧ via ≠ .fall ∧ c.err.isNone then q
    else if via = .fall ∧ c.nidx = seg ∧ c.broken then q.executing (lostSeg seg)
    else match p.res.find? fun r => r.idx == seg with
      | some r => p.enterHeld r bun via
      | none =>
        match p.nxt with
        | some n => if n.idx = seg ∧ c.nidx = seg then { p with nxt := none }.enterHeld n bun via else wait
        | none => wait

/-- The address after a bundle of the executing segment: the next one, or the fall-through target (R89). -/
def Plane.after (p : Plane) (b : Nat) : Nat × Nat :=
  match p.cur with
  | some c =>
    if b + 1 < c.bundles.length then (c.idx, b + 1) else if c.next = 0#64 then (noSeg, 0) else (c.nidx, 0)
  | none => (p.seg.toNat, b + 1)

/-- Control goes on to a bundle of the executing segment, or falls through past its last one (R38). -/
def Plane.flow (p : Plane) (bun : Nat) : Plane :=
  match p.cur with
  | some c =>
    if bun < c.bundles.length then p.goTo c.idx bun .jump
    else p.goTo (if c.next = 0#64 then noSeg else c.nidx) 0 .fall
  | none => p.goTo p.seg.toNat bun .jump

/-- A trap is taken (R96): epc, ecause, edetail, ereq and estatus are recorded, the results in flight captured, and
control enters the handler, or the task ends with an error completion when there is none. While intrap is 1 any trap
ends the task with a completion of the new trap (R97; DEDUCED, log entry 29). -/
def State.takeTrap (s : State) (c : Cause) (req : Word) (seg bun : Nat) : State :=
  let p := s.pl
  let epc : Word := (mkAddr seg bun).setWidth 64
  if p.intrap then s.endTask s.co.id s.co.lit (some (c, epc)) false
  else
    let p1 : Plane :=
      { p with epc := epc, ecause := c.code, edetail := c.detail, ereq := req, intrap := true,
               loopFloor := p.loops.length, retFloor := p.rets.length,
               captured := (p.pending ++ p.capture).length, pending := p.pending ++ p.capture, flight := [], grp := 0, popped := [],
               willPop := [], xfer := none, loopNew := none, skipTo := none, wait := none, safe := false }
    if p.tbase.getLsbD 63 then
      { s with pl := p1.goTo (bitsOf p.tbase.toNat 12 32) (bitsOf p.tbase.toNat 0 12) .trap }
    else { s with pl := p1 }.endTask s.co.id s.co.lit (some (c, epc)) false

/-- A precise trap of the group that stands at pc (R14, R365): ereq is 0. -/
def State.preciseTrap (s : State) (c : Cause) : State := s.takeTrap c 0#64 s.pl.seg.toNat s.pl.bun.toNat

/-- Whether an epc names no bundle of a segment, as far as the core knows before it has fetched the segment (R99). DEDUCED: log entry 35. -/
def Plane.epcBad (p : Plane) : Bool :=
  let seg := bitsOf p.epc.toNat 12 32
  let bun := bitsOf p.epc.toNat 0 12
  p.nseg ≤ seg ||
    (match (p.cur.toList ++ p.res ++ p.nxt.toList).find? fun r => r.idx == seg with
     | some r => r.err.isNone && r.bundles.length ≤ bun
     | none => false)

/-- ERET's effect (R99): levels and entries above the floors are discarded, intrap clears, captured results land at
their remaining distances from the next bundle on, and control resumes at epc; an epc that names no bundle counts as a
trap of the handler (R97), met at the bundle it names. DEDUCED: log entry 36. -/
def State.eretNow (s : State) : State :=
  let p := s.pl
  if p.epcBad then s.takeTrap badSegment 0#64 (bitsOf p.epc.toNat 12 32) (bitsOf p.epc.toNat 0 12)
  else
    let p1 : Plane :=
      { p with loops := p.loops.drop (p.loops.length - p.loopFloor), rets := p.rets.drop (p.rets.length - p.retFloor),
               intrap := false, loopFloor := 0, retFloor := 0, captured := 0, pending := [],
               flight := (p.pending.map fun f => { f with due := p.bcount + f.due - 1 }) ++ p.flight,
               deferred := p.deferred ++ p.hdefer.map (fun x => { x with due := p.tcount + x.due - p.bcount }), hdefer := [] }
    { s with pl := p1.goTo (bitsOf p.epc.toNat 12 32) (bitsOf p.epc.toNat 0 12) .eret }

/-! ### Precise checks (R14, R61; DESIGN CHOICE, log entry 9) -/

/-- The lowest code among causes, the first of its kind. -/
def lowest : List Cause → Option Cause
  | [] => none
  | c :: t => match lowest t with
    | some d => if d.code.toNat < c.code.toNat then some d else some c
    | none => some c

/-- A meaning behind its precise checks: the causes it meets, each where its check fails, and its effect. -/
def State.guarded (s : State) (slot : Nat) (causes : List (Option Cause)) (eff : State → State) :
    Host.Outcome State Fault Refusal :=
  match s.pl.mode with
  | .run => .next (eff s)
  | .direct =>
    match lowest (causes.filterMap id) with
    | some c => .next (s.preciseTrap c)
    | none => .next (eff s)
  | .check =>
    match causes.filterMap id with
    | [] => .next (eff s)
    | l => .next (s.modPl fun p => { p with found := p.found ++ l.map fun c => ⟨c, p.grp, slot⟩ })

/-- The detail word of a decode trap (R62). -/
def decodeDetail (word : Nat) (reason field slot pos : Nat) : Word :=
  BitVec.ofNat 64 (word <<< 32 + reason <<< 16 + (field % 256) <<< 8 + slot <<< 5 + pos <<< 2)

/-- ILLEGAL_ENCODING of an instruction at its own bundle, with reason and field (R62): no word for reasons 4, 6 and 7,
field 0xFF for reasons 4 to 9. -/
def State.illegal (s : State) (i : Instr) (reason field : Nat) : Cause :=
  ⟨0x02#8, decodeDetail (if reason = 4 ∨ reason = 6 ∨ reason = 7 then 0 else (encode i).toNat) reason
    (if 4 ≤ reason ∧ reason ≤ 9 then 0xFF else field) i.slot s.pl.grp⟩

/-- A check: the cause when it fails. -/
def need (ok : Bool) (c : Cause) : Option Cause := if ok then none else some c

/-- An error as a cause list's entry. -/
def errOf {α : Type} (r : Except Cause α) : Option Cause := match r with | .error c => some c | .ok _ => none

/-- RESULT_QUEUE with its detail bit (R21). -/
def resultQueue (bit : Nat) : Cause := ⟨0x0B#8, BitVec.ofNat 64 (2 ^ bit)⟩

/-- RESULT_QUEUE of a result that finds no landing-buffer entry (R21). -/
def State.lbFault (s : State) : Option Cause := need (s.pl.lbUsed < Config.lbCap) (resultQueue 8)

end Sys2Proof.Machine
end

