-- ==== Sys2Proof/Machine/Access.lean ====
section
/-!
DEFINITION. How an access by virtual address finds its data (R126, R236, R256, R270, R276): translation, the access
tables, the tile entry, and the views of R342. Scratchpad addresses of the L slot stand here too (R112 to R116).
-/

namespace Sys2Proof.Machine

/-! ### Views (R342) -/

/-- `n` bits of row `i` of a tensor from bit `b` of its stream (R269). -/
def State.tensorBits (s : State) (sp desc x i b n : Nat) : Nat :=
  let g := descG x
  let rowOf (c : Nat) : Nat :=
    match s.dv.tensorLoc sp desc x (i / 256 * g + c) with
    | .ok l => (s.termRow (s.resolve l) (i % 256)).toNat
    | .error _ => 0
  let c := b / 2048
  bitsOf (rowOf c + (if b % 2048 + n > 2048 then rowOf (c + 1) <<< 2048 else 0)) (b % 2048) n

/-- The tiles of a view's base from which tile `t` of the view is made. -/
def View.baseTiles (v : View) (x t : Nat) : List Nat :=
  if v.transposed then
    let rt := ceilDiv (descF x 0x08 32 32) 256
    [t % rt * descG x + t / rt]
  else
    let fw := laneBits v.fmt.toNat
    let per := 2048 / fw
    let g := ceilDiv (descF x 0x08 0 32 * fw) 2048
    let w := elemBits (descF x 0x10 0 4)
    let lo := t % g * per * w / 2048
    let hi := min ((t % g * per + per) * w - 1) (descF x 0x14 0 32 - 1) / 2048
    (upTo lo (hi + 1 - lo)).map fun c => t / g * descG x + c

/-- Why tile `t` of a view cannot be made (R276): its base names no active tensor, or a tile of the base does not resolve
or is a stale partner. Reason 0 for a base that is not active (DESIGN CHOICE, log entry 110). -/
def State.viewFault (s : State) (v : View) (t : Nat) : Option Cause :=
  match s.dv.desc v.sp v.base with
  | none => some (unmapped (tileRef v.base 0) 0)
  | some x => (v.baseTiles x t).findSome? fun i =>
      if descTiles x ≤ i then none
      else match s.dv.tensorLoc v.sp v.base x i with
        | .error (.cause c) => some c
        | .error .malformed => some (unmapped (tileRef v.base i) 4)
        | .ok l => s.readFault l

/-- Row `r` of tile `t` of a view, made from its base as it stands. -/
def State.viewRow (s : State) (v : View) (t r : Nat) : Row :=
  match s.dv.desc v.sp v.base with
  | none => 0#2048
  | some x =>
    let w := elemBits (descF x 0x10 0 4)
    if v.transposed then
      let rt := ceilDiv (descF x 0x08 32 32) 256
      let a := t / rt
      let b := t % rt
      BitVec.ofNat 2048 (packs 8 ((upTo 0 256).map fun j => s.tensorBits v.sp v.base x (256 * b + j) ((256 * a + r) * 8) 8))
    else
      let fw := laneBits v.fmt.toNat
      let per := 2048 / fw
      let g := ceilDiv (descF x 0x08 0 32 * fw) 2048
      let sc := decodeF fp32 v.scale.toNat
      BitVec.ofNat 2048 (packs fw ((upTo 0 per).map fun j =>
        let e := t % g * per + j
        let c := s.tensorBits v.sp v.base x (256 * (t / g) + r) (e * w) w
        (cvt (nmul (decodeN (descF x 0x10 0 4) c) sc).1 v.fmt.toNat).1))

/-- The view of a die that covers an address: its number, and the view. -/
def Dev.viewAt (d : Dev) (die sp va : Nat) : Option (Nat × View) :=
  (d.views.find? fun p => p.1 / 64 == die && p.2.sp == sp && p.2.va ≤ va && va < p.2.va + p.2.size).map fun p =>
    (p.1 % 64, p.2)

/-- A row read through a view: from the die's cache, or made now (R342). -/
def State.viewRead (s : State) (die n : Nat) (v : View) (off : Nat) : Row :=
  let t := off / 65536
  let r := off % 65536 / 256
  match s.dv.vcache.find? fun c => c.die == die && c.view == n && c.tile == t with
  | some c => (c.rows[r]?).getD 0#2048
  | none => s.viewRow v t r

/-- A miss fills the tile from its base as it stands (R342). -/
def State.viewFill (s : State) (die n : Nat) (v : View) (t : Nat) : State :=
  if s.dv.vcache.any fun c => c.die == die && c.view == n && c.tile == t then s
  else
    let rows := (upTo 0 256).map (s.viewRow v t)
    s.modDev fun d => { d with vcache := d.vcache ++ [⟨die, n, t, rows⟩] }

/-! ### Finding the data of a virtual access -/

/-- The refusal of an access of `n` bytes at a physical address, if any (R126). -/
def State.refusal (s : State) (cls sp : Nat) (write : Bool) (pa n : Nat) : Option Cause :=
  (s.dv.check cls sp write pa n).map fun r => ⟨0x12#8, deniedDetail r.1 write false r.2⟩

/-- What an access of `n` bytes of one 64 KiB piece finds (R126, R256, R270, R275, R276), translated in space `sp` through
a channel's TLB or the die's cache, and checked as space `asp` (R265), and the state after translation. A view has no
physical address: the detail of a write to it holds 0 there (R336), and a cached tile of it is read with no look at its
base (R342). A write with `frame` false may leave a symbolic tile symbolic, and asks for no frame of the pool (R276). -/
def State.lookIn (s : State) (die : Nat) (tlb : Option Nat) (sp asp cls : Nat) (write : Bool) (va n : Nat)
    (frame : Bool := true) : Except Cause Look × State :=
  match s.dv.viewAt die sp va with
  | some (i, v) =>
    if write then (.error ⟨0x12#8, deniedDetail 2 true false 0⟩, s)
    else
      let t := (va - v.va) / 65536
      if s.dv.vcache.any fun c => c.die == die && c.view == i && c.tile == t then (.ok (.view i v), s)
      else match s.viewFault v t with
        | some c => (.error c, s)
        | none => (.ok (.view i v), s)
  | none =>
    let x := s.dv.xlate die tlb sp write false va
    let s0 := { s with dv := x.2.noteBroken die sp }
    match x.1 with
    | .error c => (.error c, s0)
    | .ok pa0 =>
      let pa := s0.dv.mg.local pa0
      match s0.dv.covering sp va with
      | none =>
        let s1 := s0.modDev fun d => d.markDescs sp (SMap.get (0, 0) d.descs sp).2
        match s1.refusal cls asp write pa0 n with
        | some c => (.error c, s1)
        | none => (.ok (.mem pa none), s1)
      | some (i, dx) =>
        let s2 := s0.modDev fun d => d.markDescs sp (i + 1)
        match s2.dv.tensorLoc sp i dx ((va - descF dx 0 0 55) / 65536) with
        | .error (.cause c) => (.error c, s2)
        | .error .malformed => (.error (unmapped (tileRef i 0) 4), s2)
        | .ok l =>
          let s1 := s2.markChain 5 l
          let e := s1.entry l
          match (if write && frame then s1.writeFault l else if write then s1.mapFault l else s1.readFault l) with
          | some c => (.error c, s1)
          | none =>
            if entKind e.1 = 1 then
              let a := entFrame e.1 * 65536 + va % 65536
              match s1.refusal cls asp write a n with
              | some c => (.error c, s1)
              | none => (.ok (.mem a (some l)), s1)
            else if write && frame then
              let f := (vget s1.dv.pool l.die []).headD 0
              match s1.refusal cls asp write (f * 65536 + va % 65536) n with
              | some c => (.error c, s1)
              | none => (.ok (.sym l (s1.resolve l)), s1)
            else (.ok (.sym l (s1.resolve l)), s1)

/-- What an access of a task finds: translated through its die's cache and checked in its own space. -/
def State.look (s : State) (die sp cls : Nat) (write : Bool) (va n : Nat) : Except Cause Look × State :=
  s.lookIn die none sp sp cls write va n

/-- The row of 256 bytes that a lookup gives an agent, for an aligned row access. -/
def State.lookRow (s : State) (agent die : Nat) (va : Nat) : Look → Row
  | .mem pa _ => BitVec.ofNat 2048 (s.dv.seenNat agent pa 256)
  | .sym _ t =>
    match t with
    | .stored false _ _ f _ => BitVec.ofNat 2048 (s.dv.seenNat agent (f * 65536 + va % 65536 / 256 * 256) 256)
    | _ => s.termRow t (va % 65536 / 256)
  | .view n v => s.viewRead die n v (va - v.va)

/-- Where the block of a JCB instruction or of WAITJ stands: at a physical address, or, of a symbolic tile or a view, the
64 bytes sampled. -/
inductive Block where
  | at_ (pa : Nat)
  | row (b : BitVec 512)
  deriving DecidableEq, Repr

/-- The 64-byte block at `va` of a row. -/
def blockOf (r : Row) (va : Nat) : BitVec 512 := (r >>> (8 * (va % 256))).setWidth 512

/-- A precise block access (R126, R236, R237): the 64-byte block at `a`, low six bits ignored, translated like LDF with
LDF's faults. An update of a symbolic tile takes a frame for it (R276, R278), and one of a view is refused. DEDUCED: log
entry 119. -/
def State.blockPa (s : State) (write : Bool) (a : Word) : Except Cause Block × State :=
  let va := a.toNat / 64 * 64
  match s.look (dieOf s.co.id) s.pl.space clsCore false va 64 with
  | (.error c, s1) => (.error c, s1)
  | (.ok (.mem pa _), s1) =>
    (.ok (.at_ pa), if write then { s1 with dv := (s1.dv.xlate (dieOf s.co.id) none s.pl.space true false va).2 } else s1)
  | (.ok (.sym l t), s1) =>
    if write then
      match s1.readyWrite l s.pl.lid s.pl.rank with
      | .ok (.frame f, s2) => (.ok (.at_ (f * 65536 + va % 65536)), s2)
      | .ok (.slot _ _, s2) => (.error (unmapped l.ref 0), s2)
      | .error c => (.error c, s1)
    else match t with
      | .stored false _ _ f _ => (.ok (.at_ (f * 65536 + va % 65536)), s1)
      | t => (.ok (.row (blockOf (s1.termRow t (va % 65536 / 256)) va)), s1)
  | (.ok (.view n v), s1) =>
    if write then (.error ⟨0x12#8, deniedDetail 2 true false 0⟩, s1)
    else (.ok (.row (blockOf (s1.viewRead (dieOf s.co.id) n v (va - v.va)) va)),
      s1.viewFill (dieOf s.co.id) n v ((va - v.va) / 65536))

/-! ### Scratchpad addresses (R112, R114) -/

/-- Whether the executing task owns slot `k` of core `c` and sees it as its own (R261, R264). -/
def State.ownsSlot (s : State) (c k : Nat) : Bool :=
  let x := (s.core c).slot k
  x.st == .owned && x.lid == s.pl.lid && x.rank == s.pl.rank && !x.hidden && x.core == s.co.id && x.plane == s.co.lit

/-- HANDLE_VIOLATION of a slot (R114). -/
def handleCause (k : Nat) : Cause := ⟨0x11#8, BitVec.ofNat 64 k⟩

/-- The checks of one row of an L-slot access: bounds, ownership, tile entry (R112, R114). -/
def State.rowFault (s : State) (ea : Nat) : Option Cause :=
  if ea ≥ 0x1000000 then some ⟨0x10#8, BitVec.ofNat 64 ea⟩
  else
    let k := ea / 65536
    if !s.ownsSlot s.co.id k then some (handleCause k)
    else
      let l := s.slotLoc s.pl.space s.co.id k
      match s.resolve l with
      | .bad r => some (unmapped l.ref r)
      | _ => none

/-- The row at a row address in a view, as the executing core's L slot reads it: a symbolic slot gives its symbol's
row, a REPEAT of a stored slot that slot's row (R114, R276). DEDUCED: log entry 41. -/
def State.readRow (s : State) (swz : Bool) (a : Nat) : Row :=
  let p := physRow swz a
  let l := s.slotLoc s.pl.space s.co.id (p / 256)
  match s.resolve l with
  | .stored true c k _ _ => (s.core c).viewRow swz (256 * k + p % 256)
  | t => s.termRow t (p % 256)

/-- The writer record of an L-slot store. -/
def State.lWr (s : State) (swz : Bool) : Wr := ⟨s.co.id, 0, 0, swz, s.pl.lid, s.pl.rank, false⟩

/-- A row access's store: a symbolic slot promoted first, then the bytes replaced, of which the store writes the bits of
`mask`; the cause of an uncorrectable old row (R114, R294, R299). -/
def State.writeRowL (s : State) (swz : Bool) (a lo hi mask : Nat) (f : Row → Row) : Option Cause × State :=
  let p := physRow swz a
  let l := s.slotLoc s.pl.space s.co.id (p / 256)
  match s.readyWrite l s.pl.lid s.pl.rank with
  | .error c => (some c, s)
  | .ok (st, s1) =>
    let l1 := s1.slotLoc s.pl.space s.co.id (p / 256)
    s1.writeBitsAt true (some l1) st (s.lWr swz) (p % 256) lo hi mask f

/-- The row check of a scratchpad read (R296, R298): the delivered row, and the cause of an uncorrectable tile. A slot whose
own entry is symbolic passes, a REPEAT too. A corrected word is delivered corrected; in every other case the row lands
as the read's view returns it. The answer's last part says whether the check escalated. -/
def State.checkedRow (s : State) (l : TLoc) (r : Nat) (read : State → Row) : Row × Option Cause × State × Bool :=
  if l.isSlot && entKind (s.entry l).1 = 1 && s.rowBad (.slot l.c l.k) l.fmt r then
    let q := s.checkTile (.slot l.c l.k) l.fmt l.ref
    (if q.1.kind = 1 then q.2.storeRow (.slot l.c l.k) r else read q.2,
     if q.1.kind = 3 then some (sumCause (some l.ref) 0 q.1.row 0) else none, q.2, true)
  else (read s, none, s, false)

/-- An L-slot read (R296, R298): a check that escalates freezes the core until the classification ends (R19). -/
def State.loadRowL (s : State) (swz : Bool) (a : Nat) : Row × Option Cause × State :=
  let p := physRow swz a
  let q := s.checkedRow (s.slotLoc s.pl.space s.co.id (p / 256)) (p % 256) fun s => s.readRow swz a
  (q.1, q.2.1, if q.2.2.2 then q.2.2.1.freeze else q.2.2.1)

end Sys2Proof.Machine
end

