-- ==== Sys2Proof/Machine/Transc.lean ====
section
/-!
DEFINITION. The six transcendentals (R151, R152): their exact cases, and for every other input a free value held within
the bound that R151 gives. The exact value of 2^x, log2 x, tanh x and 1 / (1 + e^-x) is enclosed between two fractions of
192 and more bits (DESIGN CHOICE, log entry 7).
-/

namespace Sys2Proof.Machine

/-! ### Enclosures -/

/-- Bits after the point of a fixed-point fraction. -/
def fxBits : Nat := 192

/-- ln 2 and log2 e, rounded down to fixed point; one unit more lies above them. -/
def fxLn2 : Nat := 4350955369971217654477563090224794165364344896676135745069
def fxLog2e : Nat := 9055943544797870567083544809312461607371518589544137143473

/-- A × b / c, rounded down, or up to the next unit. -/
def mulDiv (up : Bool) (a b c : Nat) : Nat := (a * b) / c + b2n up

/-- The terms of e^t from the k-th on, t below 1 in fixed point, each rounded one way; the upper sum closes with a bound
on the terms left out. -/
def expTerms (up : Bool) (t : Nat) : Nat → Nat → Nat → Nat
  | 0, _, term => if up then 2 * term else 0
  | n + 1, k, term => term + expTerms up t n (k + 1) (mulDiv up term t (k * 2 ^ fxBits))

/-- A positive number below or above an exact value: m × 2^e. -/
abbrev Mag := Nat × Int

/-- 2^y, rounded one way, of a signed fixed-point y. -/
def exp2Mag (up : Bool) (y : Int) : Mag :=
  let i := y / 2 ^ fxBits
  let t := mulDiv up (y - i * 2 ^ fxBits).toNat (fxLn2 + b2n up) (2 ^ fxBits)
  (expTerms up t 60 1 (2 ^ fxBits), i - fxBits)

/-- A dyadic ± m × 2^e with e ≥ −192 in fixed point. -/
def fxOf (neg : Bool) (m : Nat) (e : Int) : Int :=
  let v : Int := (m <<< (e + fxBits).toNat : Nat)
  if neg then -v else v

/-- e^y, rounded one way, of a signed fixed-point y. -/
def expMag (up : Bool) (y : Int) : Mag :=
  let c : Int := (fxLog2e + b2n (up != decide (y < 0)) : Nat)
  exp2Mag up (y * c / 2 ^ fxBits + (b2n up : Nat))

/-- num / den, rounded one way. -/
def divMag (up : Bool) (num den : Nat) : Mag :=
  let k := Nat.log2 den + 256
  ((num <<< k) / den + b2n up, -(k : Int))

/-- 1 / (1 + u), rounded one way, of u = m × 2^e. -/
def recip1 (up : Bool) (u : Mag) : Mag :=
  let one := 1 <<< (-u.2).toNat
  divMag up one (one + u.1 <<< u.2.toNat)

/-- (1 − v) / (1 + v), rounded one way, of v = m × 2^e below 1. -/
def tanhOf (up : Bool) (v : Mag) : Mag :=
  let one := 1 <<< (-v.2).toNat
  divMag up (one - v.1) (one + v.1)

/-- An argument so large that e^-|x| is negligible. -/
def isHuge (m : Nat) (e : Int) : Bool := leP2 1 9 m e

/-- e^-|x| rounded one way. -/
def expNeg (up : Bool) (m : Nat) (e : Int) : Mag :=
  if isHuge m e then (b2n up, -512) else expMag up (fxOf true m e)

/-- The terms of log2 (1 + z) = 2 log2 e × (s + s³/3 + s⁵/5 + …), s = z / (2 + z) ≤ 1/3 in fixed point: `p` is the current
power of s. -/
def logTerms (up : Bool) (s2 : Nat) : Nat → Nat → Nat → Nat
  | 0, _, p => if up then 2 * p else 0
  | n + 1, k, p => mulDiv up p 1 k + logTerms up s2 n (k + 2) (mulDiv up p s2 (2 ^ fxBits))

/-- log2 of m × 2^e in signed fixed point, rounded one way. -/
def log2Fx (up : Bool) (m : Nat) (e : Int) : Int :=
  let l := Nat.log2 m
  let s := mulDiv up (m - 2 ^ l) (2 ^ fxBits) (m + 2 ^ l)
  let t := logTerms up (mulDiv up s s (2 ^ fxBits)) 80 1 s
  ((l : Int) + e) * 2 ^ fxBits + (mulDiv up (2 * t) (fxLog2e + b2n up) (2 ^ fxBits) : Nat)

/-- The upper side of the enclosure of a value that lies below 1, kept below 1 with it: R151's ulp, and the FP32 values
within the bound, are those of the exact value. -/
def belowOne (h : Mag) : Mag := if leP2 1 0 h.1 h.2 then (2 ^ 1024 - 1, -1024) else h

/-! ### A value within a bound -/

/-- Position of an FP32 code in the order of the finite values. -/
def fp32Idx (c : Nat) : Int := if c < 2 ^ 31 then (c : Int) else -((c - 2 ^ 31 : Nat) : Int)

/-- The code at a position. -/
def fp32At (i : Int) : Nat := if i < 0 then 2 ^ 31 + i.natAbs else i.natAbs

/-- The position of the largest FP32 value not above a magnitude, or with `up` of the smallest not below it; the largest
finite value bounds both. -/
def gridMag (up : Bool) (m : Nat) (e : Int) : Int :=
  if m = 0 then 0
  else
    let q := max ((Nat.log2 m : Int) + e - 23) (-149)
    let lo := if q ≤ e then m <<< (e - q).toNat else m >>> (q - e).toNat
    let more := decide (e < q) && m % 2 ^ (q - e).toNat != 0
    if overF fp32 lo q then 0x7F7FFFFF
    else min 0x7F7FFFFF ((packF fp32 false lo q : Int) + b2n (up && more))

/-- The same for a signed number x × 2^e. -/
def gridAt (up : Bool) (x : Int) (e : Int) : Int :=
  if x < 0 then -(gridMag (!up) x.natAbs e) else gridMag up x.natAbs e

/-- The free value of a transcendental, held within its bound (R151): `lo` × 2^g ≤ exact ≤ `hi` × 2^g; the distance is at
most 2 ulp, for VLOG2 at least 2^-23. -/
def boundedTo (op x : Nat) (lo hi : Int) (g : Int) : Nat :=
  let u := max (max ((Nat.log2 (max lo.natAbs hi.natAbs) : Int) + g - 23) (-149) + 1) (if op = 0x2B then -23 else -200)
  let h := min g u
  let scale (v : Int) : Int := v * 2 ^ (g - h).toNat
  let d : Int := 2 ^ (u - h).toNat
  let a := gridAt true (scale lo - d) h
  let b := gridAt false (scale hi + d) h
  let c := fp32Idx (Config.transcendental op (BitVec.ofNat 32 x)).toNat
  fp32At (if c < a then a else if b < c then b else c)

/-- The free value between two magnitudes of one sign. -/
def boundedMag (op x : Nat) (neg : Bool) (lo hi : Mag) : Nat :=
  let g := min lo.2 hi.2
  let a : Int := (lo.1 <<< (lo.2 - g).toNat : Nat)
  let b : Int := (hi.1 <<< (hi.2 - g).toNat : Nat)
  if neg then boundedTo op x (-b) (-a) g else boundedTo op x a b g

/-! ### Transcendentals (R151, R152) -/

/-- An FP32 result of a transcendental: code and flags. -/
abbrev TRes := Nat × Nat

/-- Whether a magnitude is a power of two, and which. -/
def pow2? (m : Nat) (e : Int) : Option Int := if m ≠ 0 ∧ m = 2 ^ Nat.log2 m then some ((Nat.log2 m : Int) + e) else none

/-- FP32 of ± 2^j, when in range. -/
def p2code (neg : Bool) (j : Int) : Option Nat := if -149 ≤ j ∧ j ≤ 127 then some (packF fp32 neg 1 j) else none

/-- An inexact value between two FP32 neighbours: either of them (R151). Beyond the FP32 range, which only the reciprocal of
a subnormal input reaches, infinity with INX as R152 says of VEXP2 (DESIGN CHOICE, log entry 115). -/
def neighbour (op : Nat) (x : Nat) (neg : Bool) (m : Nat) (e : Int) : TRes :=
  let q := max ((Nat.log2 m : Int) + e - 23) (-149)
  let lo := if q ≤ e then m <<< (e - q).toNat else m >>> (q - e).toNat
  let r := lo + b2n (Config.roundsUp op (BitVec.ofNat 32 x))
  if overF fp32 r q then (fp32.infCode neg, fINX) else (packF fp32 neg r q, fINX)

/-- The FP32 result of transcendental `op` (0x28 to 0x2D) on the exact value `a`; `x` is `a` as FP32 bits. The exact
cases and invalid inputs are R152's; every other result of VRCP and VRSQ is one of the two FP32 neighbours, and of the
others a free value within R151's bound (DESIGN CHOICE, log entry 7). DEDUCED: log entry 49. -/
def transc (op : Nat) (a : Num) (x : Nat) : TRes :=
  let free (neg : Bool) (lo hi : Mag) : TRes := (boundedMag op x neg lo hi, fINX)
  match a with
  | .nan s => (fp32.nan, if s then fNAN ||| fINV else fNAN)
  | .inf neg =>
    match op with
    | 0x28 => (packF fp32 neg 0 0, 0)
    | 0x29 => if neg then (fp32.nan, fINV ||| fNAN) else (0, 0)
    | 0x2A => if neg then (0, 0) else (fp32.infCode false, 0)
    | 0x2B => if neg then (fp32.nan, fINV ||| fNAN) else (fp32.infCode false, 0)
    | 0x2C => (packF fp32 neg 1 0, 0)
    | _ => if neg then (0, 0) else (packF fp32 false 1 0, 0)
  | .fin neg m e =>
    match op with
    | 0x28 =>
      if m = 0 then (fp32.infCode neg, 0)
      else match (pow2? m e).bind (fun j => p2code neg (-j)) with
        | some c => (c, 0)
        | none => let q := quot 1 m (-e); neighbour op x neg q.1 q.2.1
    | 0x29 =>
      if m = 0 then (fp32.infCode neg, 0)
      else if neg then (fp32.nan, fINV ||| fNAN)
      else match (pow2? m e).bind (fun j => if j % 2 = 0 then p2code false (-(j / 2)) else none) with
        | some c => (c, 0)
        | none =>
          let s := root (2 ^ 256 / m) (-e - 256)
          neighbour op x false s.1 s.2.1
    | 0x2A =>
      if m = 0 then (packF fp32 false 1 0, 0)
      else if !neg && leP2 1 7 m e then (fp32.infCode false, fINX)
      else
        let r := rneAt m e false 0
        match (if r.inx then none else p2code false (if neg then -(r.m : Int) else r.m)) with
        | some c => (c, 0)
        | none =>
          if isHuge m e then free false (0, -512) (1, -512)
          else free false (exp2Mag false (fxOf neg m e)) (exp2Mag true (fxOf neg m e))
    | 0x2B =>
      if m = 0 then (fp32.infCode true, 0)
      else if neg then (fp32.nan, fINV ||| fNAN)
      else match pow2? m e with
        | some j => ((arithRound fp32 (Num.ofInt j)).1, 0)
        | none => (boundedTo op x (log2Fx false m e) (log2Fx true m e) (-fxBits), fINX)
    | 0x2C =>
      if m = 0 then (packF fp32 neg 0 0, 0)
      else if ltP2 m e 1 (-12) then (x, fINX)
      else free neg (tanhOf false (expNeg true m (e + 1))) (belowOne (tanhOf true (expNeg false m (e + 1))))
    | _ =>
      if m = 0 then (packF fp32 false 1 (-1), 0)
      else if neg then
        if isHuge m e then free false (0, -512) (1, -512)
        else free false (recip1 false (expMag true (fxOf false m e))) (recip1 true (expMag false (fxOf false m e)))
      else free false (recip1 false (expNeg true m e)) (belowOne (recip1 true (expNeg false m e)))

end Sys2Proof.Machine
end

