-- ==== Sys2Proof/Machine/Flags.lean ====
section
/-!
DEFINITION. Element operations of the vector formats with the sticky flags they raise (R140 to R142, R146, R164 to R168,
R180): each gives a result code and its flags.
-/

namespace Sys2Proof.Machine

/-- A result code and its flags. -/
abbrev Elem := Nat × Nat

/-- The float format of codes 10 to 12 (R54). -/
def fltOf (fmt : Nat) : FFmt := if fmt = 10 then bf16 else if fmt = 11 then fp16 else fp32

/-! ### Integers (R164) -/

/-- The integer an element's code stands for. -/
def intVal (fmt c : Nat) : Int := if isSigned fmt then sgn (intBits fmt) c else ((c % 2 ^ intBits fmt : Nat) : Int)

/-- An integer result modulo 2^w, with no flag. -/
def iWrap (fmt : Nat) (x : Int) : Elem := (wrap (intBits fmt) x, 0)

/-- sat_to of an integer (R138): SAT when it saturates. -/
def iSat (fmt : Nat) (x : Int) : Elem :=
  let rg := intRange (isSigned fmt) (intBits fmt)
  if x > rg.2 then (wrap (intBits fmt) rg.2, fSAT)
  else if x < rg.1 then (wrap (intBits fmt) rg.1, fSAT)
  else (wrap (intBits fmt) x, 0)

/-- A shift of an element by the whole element `b` modulo w, read unsigned: left, right, or right with bit w − 1 in. -/
def iShift (kind fmt a b : Nat) : Elem :=
  let w := intBits fmt
  let n := b % 2 ^ w % w
  match kind with
  | 0 => ((a % 2 ^ w) <<< n % 2 ^ w, 0)
  | 1 => ((a % 2 ^ w) >>> n, 0)
  | _ => (wrap w (sgn w a >>> n), 0)

/-! ### Floating point (R141, R165 to R167) -/

/-- The exact value of a float element. -/
def fVal (fmt c : Nat) : Num := decodeF (fltOf fmt) c

/-- A value rounded once into the format, with the flags its operation has raised. -/
def fRound (fmt : Nat) (x : Num × Nat) : Elem :=
  let r := arithRound (fltOf fmt) x.1
  (r.1, r.2 ||| x.2)

def fAdd (fmt a b : Nat) : Elem := fRound fmt (nadd (fVal fmt a) (fVal fmt b))
def fSub (fmt a b : Nat) : Elem := fRound fmt (nadd (fVal fmt a) (fVal fmt b).neg)
def fMul (fmt a b : Nat) : Elem := fRound fmt (nmul (fVal fmt a) (fVal fmt b))

/-- a × b + d with one rounding. -/
def fFma (fmt a b d : Nat) : Elem :=
  let p := nmul (fVal fmt a) (fVal fmt b)
  let q := nadd p.1 (fVal fmt d)
  fRound fmt (q.1, p.2 ||| q.2)

/-- fmin and fmax of R166. -/
def fMinMax (mx : Bool) (fmt a b : Nat) : Elem :=
  let x := fVal fmt a
  let y := fVal fmt b
  let fl := nanFlags x ||| nanFlags y
  match (if mx then fmaxN x y else fminN x y) with
  | some z => ((arithRound (fltOf fmt) z).1, fl)
  | none => ((fltOf fmt).nan, fl)

/-- VFABS and VFNEG (R166). -/
def fSign (neg : Bool) (fmt a : Nat) : Elem :=
  let x := fVal fmt a
  if x.isNaN then ((fltOf fmt).nan, nanFlags x)
  else ((arithRound (fltOf fmt) (if neg then x.neg else x.abs)).1, 0)

/-- VFRND (R166). -/
def fRnd (fmt a : Nat) : Elem :=
  match fVal fmt a with
  | .nan sg => ((fltOf fmt).nan, nanFlags (.nan sg))
  | .inf _ => (a, 0)
  | .fin neg m e =>
    if e ≥ 0 then (a, 0)
    else
      let r := rneAt m e false 0
      ((arithRound (fltOf fmt) (.fin neg r.m 0)).1, if r.inx then fINX else 0)

/-- A comparison: 0 EQ, 1 NE, 2 LT, 3 LE (R52). -/
def cmpInt (cond : Nat) (a b : Int) : Bool :=
  match cond with
  | 0 => a = b
  | 1 => a ≠ b
  | 2 => a < b
  | _ => a ≤ b

/-- VFCMP of two elements (R167): the bit and the flags. -/
def fCmp (cond fmt a b : Nat) : Bool × Nat :=
  let x := fVal fmt a
  let y := fVal fmt b
  let fl := nanFlags x ||| nanFlags y
  if x.isNaN || y.isNaN then (cond = 1, fl)
  else
    (match cond with
     | 0 => neqv x y
     | 1 => !neqv x y
     | 2 => nlt x y
     | _ => nlt x y || neqv x y, 0)

/-- Whether a code of a float format is a nonzero subnormal. -/
def isSub (f : FFmt) (c : Nat) : Bool := bitsOf c f.fb f.eb = 0 && c % 2 ^ f.fb ≠ 0

/-- A transcendental of an element (R151, R152, R168): computed in FP32, then rounded once into a narrower format. A
tiny result that is not exact sets UNF, which R168 does not name (DESIGN CHOICE, log entry 111). -/
def fTrans (op fmt a : Nat) : Elem :=
  let x := fVal fmt a
  let r := transc op x (arithRound fp32 x).1
  let q : Elem := if fmt = 12 then (r.1, 0) else arithRound (fltOf fmt) (decodeF fp32 r.1)
  let fl := r.2 ||| q.2
  (q.1, if fl &&& fINX ≠ 0 ∧ isSub (fltOf fmt) q.1 then fl ||| fUNF else fl)

/-! ### Conversion and quantisation (R140, R146, R171, R172) -/

/-- A conversion of an element between formats. -/
def cvtElem (sfmt fmt c : Nat) : Elem := cvt (decodeN sfmt c) fmt

/-- Whether a format is a float or tapered one, so that it has a NaN. -/
def hasNaN (fmt : Nat) : Bool := !isIntFmt fmt

/-- maxfinite of a format as m × 2^e (R138). -/
def maxFin (fmt : Nat) : Nat × Int :=
  match fmtKind fmt with
  | .flt f => f.maxFin
  | .tap n => (1, 2 * ((n : Int) - 1))
  | .int sg w => ((intRange sg w).2.toNat, 0)

/-- Whether a scale is a positive, finite, normal FP32 value (R146). -/
def validScale (x : Nat) : Bool := x < 2 ^ 31 && 0 < bitsOf x 23 8 && bitsOf x 23 8 < 255

/-- quantise (R146): the element, and whether RESCALE is raised. -/
def quantise (fmt tgt scale rcp hr : Nat) (trap : Bool) (c : Nat) : Elem × Bool :=
  if !validScale scale then
    ((canonNaN tgt, fINV ||| (if hasNaN tgt then fNAN else 0)), false)
  else
    let x := decodeN fmt c
    let y := nmul x (decodeF fp32 rcp)
    let big := match y.1 with
      | .nan _ => false
      | .inf _ => true
      | .fin _ m e => ltP2 (maxFin tgt).1 ((maxFin tgt).2 + hr) m e
    let r := cvt y.1 tgt
    ((r.1, r.2 ||| y.2), trap && !x.isNaN && big)

/-- dequantise (R146). -/
def dequantise (tgt fmt scale c : Nat) : Elem :=
  if !validScale scale then (canonNaN fmt, fINV ||| fNAN)
  else
    let y := nmul (decodeN tgt c) (decodeF fp32 scale)
    let r := cvt y.1 fmt
    (r.1, r.2 ||| y.2)

/-! ### Value and index pairs (R180) -/

/-- better(p, q) of R180. -/
def better (fmt p q : Nat) : Bool :=
  let x := decodeN fmt (p / 65536)
  let y := decodeN fmt (q / 65536)
  if x.isNaN && y.isNaN then p % 65536 ≤ q % 65536
  else if y.isNaN then true
  else if x.isNaN then false
  else if nlt y x then true
  else if nlt x y then false
  else p % 65536 ≤ q % 65536

/-- VCSW, or VCSWX, of two pairs. -/
def cswap (loser : Bool) (fmt a b : Nat) : Elem :=
  let x := decodeN fmt (a / 65536)
  let y := decodeN fmt (b / 65536)
  let r := if better fmt a b != loser then a else b
  (if (decodeN fmt (r / 65536)).isNaN then canonNaN fmt * 65536 + r % 65536 else r, nanFlags x ||| nanFlags y)

/-! ### Scale registers (R145) -/

/-- rcp of a scale: round_rne(1 / scale, FP32); 0 divides to infinity. -/
def scaleRcp (x : Nat) : Nat :=
  match decodeF fp32 x with
  | .nan _ => fp32.nan
  | .inf neg => packF fp32 neg 0 0
  | .fin neg m e =>
    if m = 0 then fp32.infCode neg
    else let q := quot 1 m (-e); (arithMag fp32 neg q.1 q.2.1 q.2.2).1

end Sys2Proof.Machine
end

