-- ==== Sys2Proof/Machine/Operands.lean ====
section
/-!
DEFINITION. Every operand form of a vector word: lanes and formats (R131, R153), source operand codes and peeks (R28 to
R32, R49, R154), predicates and active elements (R51, R156, R161), and the frame that every vector instruction shares
(R155).
-/

namespace Sys2Proof.Machine

/-! ### Lanes (R131, R153) -/

/-- Lane count of a format. -/
def laneCount (fmt : Nat) : Nat := 2048 / laneBits fmt

/-- The lanes of an entry, each whole. -/
def lanes (fmt : Nat) (r : Row) : List Nat := elems (laneBits fmt) (laneCount fmt) r.toNat

/-- An entry from its lanes. -/
def ofLanes (fmt : Nat) (l : List Nat) : Row := BitVec.ofNat 2048 (packs (laneBits fmt) l)

/-- The code in a lane: a read ignores the upper bits of a 4-bit or 6-bit element's lane. DEDUCED: log entry 47. -/
def laneCode (fmt x : Nat) : Nat := x % 2 ^ elemBits fmt

/-- The codes of an entry's elements. -/
def codes (fmt : Nat) (r : Row) : List Nat := (lanes fmt r).map (laneCode fmt)

/-- The lane ramp (R154): l modulo 2^w, or the value l in FP32, BF16 and FP16. DEDUCED: log entry 48. Of .i4, .ui4 and .t6, w is the
format's own width, 4 or 6, and the 8-bit lane takes its sign or zero fill (DESIGN CHOICE, log entry 111). -/
def lidRow (fmt : Nat) : Row :=
  ofLanes fmt ((upTo 0 (laneCount fmt)).map fun (l : Nat) =>
    if fmt = 10 ∨ fmt = 11 ∨ fmt = 12 then (arithRound (fltOf fmt) (Num.ofInt l)).1
    else toLane fmt (l % 2 ^ elemBits fmt))

/-! ### Source operands (R28, R32, R49, R154) -/

/-- The queue an operand code names: vector queues 0 to 31, mq 32. -/
def srcQueue (cl code : Nat) : Option Nat :=
  if code < 16 then some (16 * cl + code)
  else if code < 24 then some (16 * (1 - cl) + (code - 16))
  else if code = 24 then some 32
  else none

/-- A source operand as the instruction reads it: a queue's head, or a constant with its computed tag. -/
def Plane.operand (p : Plane) (cl code fmt : Nat) : Entry :=
  match srcQueue cl code with
  | some q => p.headOf q
  | none =>
    let r := if code = 25 then lidRow fmt else if code = 27 then vget p.bl cl 0#2048 else 0#2048
    ⟨r, rowTag r⟩

/-- One bundle more for an operand of the other cluster (R32). -/
def crossLat (code : Nat) : Nat := if 16 ≤ code ∧ code < 24 then 1 else 0

/-- A source operand of a vector instruction: its code, and whether it peeks. -/
structure Src where
  code : Nat
  peek : Bool
  deriving DecidableEq, Repr

/-- A source from its fields. -/
def src (code : BitVec 5) (peek : BitVec 1) : Src := ⟨code.toNat, peek == 1#1⟩

/-- The queues an instruction's sources pop. -/
def popsOf (cl : Nat) (l : List Src) : List Nat :=
  l.filterMap fun x => if x.peek then none else srcQueue cl x.code

/-! ### Predicates (R51, R161) -/

/-- A predicate as instructions read it: number 0 reads all ones (R161). -/
def Plane.pred (p : Plane) (cl n : Nat) : Pred := if n = 0 then BitVec.allOnes 256 else vget p.pr (cl * 4 + n) 0#256

/-- The lane mask a pred field selects. -/
def Plane.mask (p : Plane) (cl : Nat) (pred : BitVec 3) : Pred :=
  let q := p.pred cl (pred.toNat % 4)
  if pred.getLsbD 2 then ~~~q else q

/-- Active elements of a mask at a width in bytes, the first `n`. -/
def activeAt (bytes n : Nat) (q : Pred) : List Bool := (upTo 0 n).map fun e => q.getLsbD (e * bytes)

/-- Active elements of a mask in a format. -/
def active (fmt : Nat) (q : Pred) : List Bool := activeAt (laneBits fmt / 8) (laneCount fmt) q

/-- A predicate from one bit per element of a width in bytes: each bit in all of its element's bytes. -/
def predOf (bytes : Nat) (l : List Bool) : Pred :=
  BitVec.ofNat 256 (packs bytes (l.map fun b => if b then 2 ^ bytes - 1 else 0))

/-! ### Element maps (R156) -/

/-- Results where active, the kept lanes elsewhere; the flags of the active ones. -/
def pick : List Bool → List Nat → List Elem → List Nat × Nat
  | b :: on, k :: keep, r :: res =>
    let t := pick on keep res
    if b then (r.1 :: t.1, r.2 ||| t.2) else (k :: t.1, t.2)
  | _, _, _ => ([], 0)

/-- What a vector instruction computes: its entry, a tag it keeps from a source, its flags, and a deferred cause. -/
structure VRes where
  row : Row
  tag : Option Sum24
  fl : Nat
  cause : Option Cause
  deriving DecidableEq, Repr

/-- A result with a computed tag. -/
def VRes.of (fmt : Nat) (x : List Nat × Nat) : VRes := ⟨ofLanes fmt x.1, none, x.2, none⟩

/-- A two-operand element operation: an inactive element keeps the lane of `keep`. -/
def map2 (fmt : Nat) (on : List Bool) (keep a b : Row) (f : Nat → Nat → Elem) : VRes :=
  .of fmt (pick on (lanes fmt keep)
    (List.zipWith (fun x y => let r := f x y; (toLane fmt r.1, r.2)) (codes fmt a) (codes fmt b)))

/-- A one-operand element operation. -/
def map1 (fmt : Nat) (on : List Bool) (a : Row) (f : Nat → Elem) : VRes :=
  .of fmt (pick on (lanes fmt a) ((codes fmt a).map fun x => let r := f x; (toLane fmt r.1, r.2)))

/-- A three-operand element operation, the addend kept where inactive. -/
def map3 (fmt : Nat) (on : List Bool) (a b d : Row) (f : Nat → Nat → Nat → Elem) : VRes :=
  .of fmt (pick on (lanes fmt d)
    (List.zipWith (fun (x : Nat × Nat) z => let r := f x.1 x.2 z; (toLane fmt r.1, r.2))
      ((codes fmt a).zip (codes fmt b)) (codes fmt d)))

/-- Elements moved, whole lanes, without arithmetic (R173 to R175). -/
def moveLanes (fmt : Nat) (on : List Bool) (keep : Row) (res : List Nat) : VRes :=
  .of fmt (pick on (lanes fmt keep) (res.map fun x => (x, 0)))

/-- A conversion under the width rule of R170; a lane outside it, and an inactive one when the widths differ, is 0. -/
def convLanes (sfmt fmt : Nat) (on : List Bool) (a : Row) (f : Nat → Elem) : VRes :=
  let n := min (laneCount sfmt) (laneCount fmt)
  let fill := List.replicate (laneCount fmt - n) 0
  let keep := if laneBits sfmt = laneBits fmt then lanes fmt a else List.replicate (laneCount fmt) 0
  .of fmt (pick on keep
    ((((codes sfmt a).take n).map fun x => let r := f x; (toLane fmt r.1, r.2)) ++ fill.map fun x => (x, 0)))

/-- A comparison's predicate, an inactive element 0, with the flags of the active ones. -/
def cmpLanes (fmt : Nat) (on : List Bool) (a b : Row) (f : Nat → Nat → Bool × Nat) : VRes :=
  let r := List.zipWith f (codes fmt a) (codes fmt b)
  let x := pick on (on.map fun _ => 0) (r.map fun y => (b2n y.1, y.2))
  ⟨(predOf (laneBits fmt / 8) (x.1.map (· == 1))).setWidth 2048, none, x.2, none⟩

/-! ### The frame of a vector instruction (R155) -/

/-- A vector instruction at issue: the queue checks of R30, the operands read and popped, the result due `lat` bundles
from now, with one more when an operand is the other cluster's; `own` is the addend queue of VFMA and VMAD. When two queue
operations fail with one code, the addend is named, then va, then vb (DESIGN CHOICE, log entry 111). -/
def State.vector (s : State) (slot : Nat) (ar : BitVec 2) (srcs : List Src) (own : Option Nat) (dest : Dest)
    (lat : Nat) (f : Plane → VRes) : Host.Outcome State Fault Refusal :=
  let cl := slot - 2
  let pops := own.toList ++ popsOf cl srcs
  let n := lat + (srcs.map fun x => crossLat x.code).foldl max 0
  s.guarded slot
    ((own.map fun q => s.pl.popFault q false).toList ++
     (srcs.map fun x => match srcQueue cl x.code with
        | some q => s.pl.popFault q x.peek
        | none => none) ++
     [match dest with | .vq q => s.pl.pushFault q 1 pops | _ => none])
    fun s =>
      let r := f s.pl
      let o := s.owe ar
      let s1 := (o.2.modPl fun p => { p with popped := p.popped ++ pops }).result slot n dest r.row
        (r.tag.getD (rowTag r.row)) cl (BitVec.ofNat 5 r.fl) o.1
      match r.cause with
      | some c => s1.defer slot n c
      | none => s1

/-- A vector instruction with two source operands, pushing to its own cluster's queue. -/
def State.vec3 (s : State) (f : V3) (lat : Nat) (g : List Bool → Entry → Entry → VRes) :
    Host.Outcome State Fault Refusal :=
  let cl := f.cl.toNat
  let fmt := f.fmt.toNat
  s.vector (cl + 2) f.ar [src f.va f.pa, src f.vb f.pb] none (.vq (16 * cl + f.vd.toNat)) lat fun p =>
    g (active fmt (p.mask cl f.pred)) (p.operand cl f.va.toNat fmt) (p.operand cl f.vb.toNat fmt)

/-- A vector instruction with one source operand. -/
def State.vec2 (s : State) (f : V2) (lat : Nat) (g : List Bool → Entry → VRes) : Host.Outcome State Fault Refusal :=
  let cl := f.cl.toNat
  let fmt := f.fmt.toNat
  s.vector (cl + 2) f.ar [src f.va f.pa] none (.vq (16 * cl + f.vd.toNat)) lat fun p =>
    g (active fmt (p.mask cl f.pred)) (p.operand cl f.va.toNat fmt)

/-- VFMA and VMAD: the addend popped from the destination queue (R28). -/
def State.vecAcc (s : State) (f : V3) (lat : Nat) (g : List Bool → Entry → Entry → Entry → VRes) :
    Host.Outcome State Fault Refusal :=
  let cl := f.cl.toNat
  let fmt := f.fmt.toNat
  let q := 16 * cl + f.vd.toNat
  s.vector (cl + 2) f.ar [src f.va f.pa, src f.vb f.pb] (some q) (.vq q) lat fun p =>
    g (active fmt (p.mask cl f.pred)) (p.operand cl f.va.toNat fmt) (p.operand cl f.vb.toNat fmt) (p.headOf q)

end Sys2Proof.Machine
end

