-- ==== Sys2Proof/Machine/Control.lean ====
section
/-!
DEFINITION. The C slot (R84 to R103, R226 to R237, R373): transfers, loops, traps, barriers, waits, and the system
registers. A transfer is noted in `xfer` and happens at the end of its bundle (R13).
-/

namespace Sys2Proof.Machine

/-- Length of the executing segment in bundles. -/
def Plane.len (p : Plane) : Nat := (p.cur.map (·.bundles.length)).getD 0

/-- The state with the bundle's transfer chosen. -/
def State.xferTo (s : State) (x : Xfer) : State := s.modPl fun p => { p with xfer := some x }

/-- Segment and bundle of the executing instruction, the detail word of R93. -/
def Plane.here (p : Plane) : Word := (mkAddr p.seg.toNat p.bun.toNat).setWidth 64

/-- A taken transfer in the end bundle of the innermost live level (R93). -/
def Plane.endFault (p : Plane) : Option Cause :=
  match p.liveLoops with
  | l :: _ => if l.seg = p.seg ∧ l.stop = p.bun then some ⟨0x0A#8, p.here⟩ else none
  | [] => none

/-- The bundle a relative offset names, when it lies in the executing segment (R85). -/
def Plane.target (p : Plane) (off : Int) : Option Nat :=
  let t := (p.bun.toNat : Int) + off
  if 0 ≤ t ∧ t < p.len then some t.toNat else none

/-- The bundle a register names, when it lies in the executing segment (R88). -/
def Plane.index (p : Plane) (v : Word) : Option Nat := if v.toNat < p.len then some v.toNat else none

/-- A jump to a bundle, none meaning outside the segment: the checks of R40 and R93, then the transfer and `f`. -/
def State.jumpTo (s : State) (i : Instr) (t : Option Nat) (more : List (Option Cause)) (f : State → State) :
    Host.Outcome State Fault Refusal :=
  s.guarded 0 (need t.isSome (s.illegal i 6 0xFF) :: s.pl.endFault :: more)
    fun s => f (s.xferTo (.bundle (t.getD 0)))

/-- The return entry of a call: the bundle after it, or the fall-through target at a segment's end (R89). -/
def Plane.retEntry (p : Plane) : BitVec 44 := let a := p.after p.bun.toNat; mkAddr a.1 a.2

/-- CALL_DEPTH (R35). -/
def State.callFault (s : State) : Option Cause := need (s.pl.rets.length < Config.retMax) ⟨0x07#8, s.pl.here⟩

/-- A return entry pushed. -/
def State.pushRet (s : State) : State := s.modPl fun p => { p with rets := p.retEntry :: p.rets }

/-- NOP (R44): G acts in the sequencer. -/
def execNop (_f : CN) (s : State) : Host.Outcome State Fault Refusal := s.guarded 0 [] id

/-- JMP (R85). -/
def execJmp (f : CJ) (s : State) : Host.Outcome State Fault Refusal :=
  s.jumpTo (.jmp f) (s.pl.target f.off.toInt) [] id

/-- Whether BR is taken (R86). -/
def brTaken (cond : BitVec 2) (v : Word) : Bool :=
  match cond.toNat with
  | 0 => v = 0#64
  | 1 => v ≠ 0#64
  | 2 => v.toInt < 0
  | _ => v.toInt ≥ 0

/-- BR (R86). The target is checked whether or not the branch is taken (R85). -/
def execBr (f : CBr) (s : State) : Host.Outcome State Fault Refusal :=
  let t := s.pl.target f.off.toInt
  let tk := brTaken f.cond (s.rdS f.s)
  s.guarded 0 [need t.isSome (s.illegal (.br f) 6 0xFF), if tk then s.pl.endFault else none]
    fun s => if tk then s.xferTo (.bundle (t.getD 0)) else s

/-- Set elements of a predicate at a width of `bytes` bytes (R87). -/
def predSet (q : Pred) (bytes : Nat) : Nat := ((upTo 0 (256 / bytes)).filter fun e => q.getLsbD (e * bytes)).length

/-- BRP (R87). -/
def execBrp (f : CBrp) (s : State) : Host.Outcome State Fault Refusal :=
  let t := s.pl.target f.off.toInt
  let bytes := 2 ^ f.w.toNat
  let set := predSet (s.pl.pred f.cl.toNat f.pn.toNat) bytes
  let mixed := decide (0 < set ∧ set < 256 / bytes)
  let tk := (set = 256 / bytes && f.sense = 0#1) || (set = 0 && f.sense = 1#1)
  let d := BitVec.ofNat 64 (set + f.cl.toNat <<< 9 + f.pn.toNat <<< 10 + f.w.toNat <<< 12)
  s.guarded 0 [need t.isSome (s.illegal (.brp f) 6 0xFF), need (!mixed) ⟨0x06#8, d⟩, if tk then s.pl.endFault else none]
    fun s => if tk then s.xferTo (.bundle (t.getD 0)) else s

/-- JMPI (R88). -/
def execJmpi (f : CS) (s : State) : Host.Outcome State Fault Refusal :=
  s.jumpTo (.jmpi f) (s.pl.index (s.rdS f.s)) [] id

/-- CALL (R85, R88). -/
def execCall (f : CJ) (s : State) : Host.Outcome State Fault Refusal :=
  s.jumpTo (.call f) (s.pl.target f.off.toInt) [s.callFault] State.pushRet

/-- CALLI (R88). -/
def execCalli (f : CS) (s : State) : Host.Outcome State Fault Refusal :=
  s.jumpTo (.calli f) (s.pl.index (s.rdS f.s)) [s.callFault] State.pushRet

/-- RET (R89): an empty store, or one at the handler's floor, traps; the entry of a call at a segment chain's end names
no segment and fails as the fall-through would (DEDUCED, log entry 30). -/
def execRet (_f : CN) (s : State) : Host.Outcome State Fault Refusal :=
  let e := (s.pl.liveRets.headD 0#44).toNat
  s.guarded 0 [need (!s.pl.liveRets.isEmpty) ⟨0x08#8, s.pl.here⟩, s.pl.endFault]
    fun s => (s.modPl fun p => { p with rets := p.rets.tail }).xferTo (.segment (bitsOf e 12 32) (bitsOf e 0 12))

/-- The innermost live level of the executing segment. -/
def Plane.levelHere (p : Plane) : Option Loop := p.liveLoops.find? fun l => l.seg == p.seg

/-- LOOP and LOOPI (R91): the end's checks and the depth's; then a level pushed, or, with count 0, control past the
end when the group ends. -/
def State.openLoop (s : State) (i : Instr) (count : BitVec 32) (dist : Nat) (pre : Bool) :
    Host.Outcome State Fault Refusal :=
  let p := s.pl
  let stop := p.bun.toNat + dist
  let first := p.bun.toNat - p.grp + p.gEnd
  let inner := match p.levelHere with | some l => decide (stop ≤ l.stop.toNat) | none => true
  s.guarded 0
    [need (decide (first ≤ stop) && decide (stop < p.len) && inner) (s.illegal i 3 0),
     need (p.loops.length < Config.loopMax) ⟨0x09#8, p.here⟩]
    fun s => s.modPl fun p =>
      if count = 0#32 then { p with skipTo := some (stop + 1) }
      else { p with loopNew := some ⟨count, 0#32, p.seg, BitVec.ofNat 12 first, BitVec.ofNat 12 stop, pre⟩ }

/-- LOOP (R91): the count is s[31:0]; the word holds the end distance less 1 (R47). -/
def execLoop (f : CLp) (s : State) : Host.Outcome State Fault Refusal :=
  s.openLoop (.loop f) ((s.rdS f.s).setWidth 32) (f.dist.toNat + 1) (f.pre == 1#1)

/-- LOOPI (R91). -/
def execLoopi (f : CLpi) (s : State) : Host.Outcome State Fault Refusal :=
  s.openLoop (.loopi f) (f.n.setWidth 32) (f.dist.toNat + 1) (f.pre == 1#1)

/-- A level opened with P whose end bundle has issued with a transfer makes a safe point (R372). -/
def Plane.endSafe (p : Plane) : Bool :=
  match p.liveLoops with
  | l :: _ => l.seg = p.seg && l.stop = p.bun && l.pre && !p.intrap
  | [] => false

/-- BRKL (R94): the innermost levels are left; end processing follows at the outermost one's end. In the end bundle of a level opened
with P it makes a safe point (R372). -/
def execBrkl (f : CK) (s : State) : Host.Outcome State Fault Refusal :=
  let k := f.k.toNat + 1
  let out := (s.pl.liveLoops[k - 1]?)
  s.guarded 0 [need (k ≤ s.pl.liveLoops.length) ⟨0x09#8, s.pl.here⟩]
    fun s => (s.modPl fun p => { p with loops := p.loops.drop k, safe := p.safe || p.endSafe }).xferTo
      (match out with | some l => .after l.seg.toNat l.stop.toNat | none => .after s.pl.seg.toNat s.pl.bun.toNat)

/-- SEGJ (R90). -/
def execSegj (f : CSeg) (s : State) : Host.Outcome State Fault Refusal :=
  let i := (f.idx.setWidth 64 + s.rdS f.s).toNat
  s.guarded 0 [need (i < s.pl.nseg) (s.illegal (.segj f) 3 0), s.pl.endFault] fun s => s.xferTo (.segment i 0)

/-- SAFE (R373): a safe point; nothing while intrap is 1. -/
def execSafe (_f : CN) (s : State) : Host.Outcome State Fault Refusal :=
  s.guarded 0 [] fun s => s.modPl fun p => { p with safe := p.safe || !p.intrap }

/-- TRAP (R98): after its group, SOFTWARE_TRAP. -/
def execTrap (f : CCode) (s : State) : Host.Outcome State Fault Refusal :=
  s.guarded 0 [] fun s => s.xferTo (.software ⟨0x30#8, f.code.setWidth 64⟩ false)

/-- BRKPT (R98): after its group, BREAKPOINT. -/
def execBrkpt (f : CCode) (s : State) : Host.Outcome State Fault Refusal :=
  s.guarded 0 [] fun s => s.xferTo (.software ⟨0x31#8, f.code.setWidth 64⟩ true)

/-- ERET (R99). -/
def execEret (f : CN) (s : State) : Host.Outcome State Fault Refusal :=
  s.guarded 0 [need s.pl.intrap (s.illegal (.eret f) 3 23), s.pl.endFault] fun s => s.xferTo .eret

/-- HALT (R100). -/
def execHalt (_f : CN) (s : State) : Host.Outcome State Fault Refusal := s.guarded 0 [] fun s => s.xferTo .halt

/-! ### Barriers and waits (R226 to R237) -/

/-- The state with a wait noted, unless its condition holds already (R226). -/
def State.waitFor (s : State) (w : Wait) : State :=
  if s.waitHolds s.pl w then s else s.modPl fun p => { p with wait := some w }

/-- The far stores of a task not yet visible everywhere, in its SQ or on their way outward. -/
def State.taskStores (s : State) (p : Plane) : List Nat :=
  (p.sq.filterMap fun q => match q.kind with
    | .stf _ _ _ _ _ => if q.lid = p.lid ∧ q.rank = p.rank then some q.id else none
    | _ => none) ++
  ((s.dv.far.filter fun f => f.lid == p.lid && f.rank == p.rank && !(f.lid == 0) && f.plane != 2).map (·.id)).eraseDups

/-- Far stores of the executing plane not yet visible everywhere, whichever task made them (R325). -/
def State.planeStores (s : State) : List Nat :=
  (s.pl.sq.filterMap fun q => match q.kind with
    | .stf _ _ _ _ _ => some q.id
    | _ => none) ++
  ((s.dv.far.filter fun f => f.core == s.co.id && f.plane == s.co.lit && !(f.lid == 0)).map (·.id)).eraseDups

/-- An ARRIVE of the executing task (R231): I rises; D waits for the task's earlier stores at the level. -/
def State.arriveAt (s : State) (level num : Nat) : State :=
  let o : Owed := ⟨s.pl.lid, s.pl.rank, level, num, 0⟩
  (s.issueArrival o).arrive (some o) (s.taskStores s.pl) level

/-- A WAITB of the executing task (R231): until the phase reaches its issued count. -/
def State.waitAt (s : State) (level num : Nat) : State :=
  let b := s.bar (s.barOwner s.pl.lid level) level (s.barInst s.pl.lid s.pl.rank level) num
  s.waitFor (.bar level num (b.counts s.pl.lid s.pl.rank).i)

/-- WAITB (R231). -/
def execWaitb (f : CBar) (s : State) : Host.Outcome State Fault Refusal :=
  s.guarded 0 [] fun s => s.waitAt f.lvl.toNat f.num.toNat

/-- ARRIVE (R231). -/
def execArrive (f : CBar) (s : State) : Host.Outcome State Fault Refusal :=
  s.guarded 0 [] fun s => s.arriveAt f.lvl.toNat f.num.toNat

/-- ARWAIT (R231). -/
def execArwait (f : CBar) (s : State) : Host.Outcome State Fault Refusal :=
  s.guarded 0 [] fun s => (s.arriveAt f.lvl.toNat f.num.toNat).waitAt f.lvl.toNat f.num.toNat

/-- SSTEP (R232, R372): the task's mark, and the wait for the communication phase; a safe point. -/
def execSstep (f : CLvl) (s : State) : Host.Outcome State Fault Refusal :=
  s.guarded 0 [] fun s =>
    let p := s.pl
    let lv := f.lvl.toNat
    let x := s.sstep (s.barOwner p.lid lv) lv (s.barInst p.lid p.rank lv)
    let x' := { x with marks := (p.lid, p.rank) :: x.marks.filter fun m => !(m == (p.lid, p.rank)) }
    ((s.setSStep x').modPl fun p => { p with safe := p.safe || !p.intrap }).waitFor (.sstep lv x.count)

/-- ECLIPSE (R228). -/
def execEclipse (_f : CN) (s : State) : Host.Outcome State Fault Refusal :=
  s.guarded 0 [] fun s => s.modPl fun p => { p with wait := some .eclipse }

/-- YIELD (R228). -/
def execYield (_f : CN) (s : State) : Host.Outcome State Fault Refusal :=
  s.guarded 0 [] fun s => s.modPl fun p => { p with wait := some (.yield false) }

/-- WAITJ (R237). -/
def execWaitj (f : CS) (s : State) : Host.Outcome State Fault Refusal :=
  let r := s.blockPa false (s.rdS f.s)
  s.guarded 0 [errOf r.1] fun s =>
    match s.blockPa false (s.rdS f.s) with
    | (.ok (.at_ pa), s1) => s1.waitFor (.jcb pa)
    | (.ok (.row b), s1) => s1.waitFor (.jcbBit (b.getLsbD 96))
    | (.error _, s1) => s1

/-! ### System registers (R101, R102) -/

/-- coreid (R101). -/
def coreIdWord (c : Nat) : Word := BitVec.ofNat 64 (dieOf c <<< 16 + clusterOf c <<< 8 + c)

/-- estatus (R101). -/
def Plane.estatus (p : Plane) : Word :=
  BitVec.ofNat 64 (b2n p.intrap + p.loopFloor <<< 1 + p.retFloor <<< 4 + p.captured <<< 9)

/-- The value MFSR reads (R101, R102). In a handler seqdepth counts the levels and entries below the floors too (DESIGN CHOICE, log
entry 111). -/
def State.sysRead (s : State) (n : Nat) : Word :=
  let p := s.pl
  match n with
  | 0x000 => p.here
  | 0x001 => BitVec.ofNat 64 (p.loops.length + p.rets.length <<< 8)
  | 0x002 => BitVec.ofNat 64 (b2n p.qf)
  | 0x008 => p.tbase
  | 0x009 => p.epc
  | 0x00A => p.ecause.setWidth 64
  | 0x00B => p.edetail
  | 0x00C => p.ereq
  | 0x00D => p.estatus
  | 0x010 => BitVec.ofNat 64 p.cycle
  | 0x011 => BitVec.ofNat 64 p.bcount
  | 0x018 => coreIdWord s.co.id
  | 0x020 => vget p.dmr 0 0#64
  | 0x021 => vget p.dmr 1 0#64
  | 0x022 => vget p.dmr 2 0#64
  | 0x023 => vget p.dmr 3 0#64
  | 0x024 => vget p.dmr 4 0#64
  | 0x030 => s.dv.jnl.jm
  | _ => 0#64

/-- The plane after MTSR; bits R101 does not list are ignored. -/
def Plane.sysWrite (p : Plane) (n : Nat) (v : Word) : Plane :=
  match n with
  | 0x002 => { p with qf := v.getLsbD 0 }
  | 0x008 => { p with tbase := v &&& 0x80000FFFFFFFFFFF#64 }
  | 0x009 => { p with epc := v &&& 0xFFFFFFFFFFF#64 }
  | _ => p

/-- MFSR (R102). -/
def execMfsr (f : CMf) (s : State) : Host.Outcome State Fault Refusal :=
  s.guarded 0 [] fun s => s.resultS 0 1 f.sd (s.sysRead f.reg.toNat) none

/-- MTSR (R102). -/
def execMtsr (f : CMt) (s : State) : Host.Outcome State Fault Refusal :=
  s.guarded 0 [] fun s => s.modPl fun p => p.sysWrite f.reg.toNat (p.rdS f.sa)

end Sys2Proof.Machine
end

