-- ==== Sys2Proof/Machine/Port.lean ====
section
/-!
DEFINITION. Reading and writing physical addresses as agents do: memory, the page of the launch queue registers (R238,
R389), and the on-chip windows of the cores with the regions of R252 (R199, R253, R260, R320).
-/

namespace Sys2Proof.Machine

/-! ### Launch queue registers (R238, R239, R389) -/

/-- A queue. -/
def Dev.queue (d : Dev) (q : Nat) : LQueue := vget d.queues q LQueue.reset

/-- The device with a queue changed. -/
def Dev.modQueue (d : Dev) (q : Nat) (f : LQueue → LQueue) : Dev := { d with queues := vput d.queues q (f (d.queue q)) }

/-- Whether ST runs more than 2^s ahead of DH (R239). -/
def LQueue.overrun (x : LQueue) : Bool := decide (x.dh + 2 ^ x.size.toNat < x.st)

/-- A queue whose ST overruns it is disabled (R239). -/
def LQueue.guard (x : LQueue) : LQueue := { x with en := x.en && !x.overrun }

/-- A sequence error: a number written below its current value (R389). -/
def State.seqError (s : State) : State := s.modDev fun d => { d with mg := { d.mg with seqErrors := d.mg.seqErrors + 1 } }

/-- ST written (R239, R389). -/
def State.writeSt (s : State) (q v : Nat) : State :=
  if 16 ≤ q then s
  else if v < (s.dv.queue q).st then s.seqError
  else s.modDev fun d => d.modQueue q fun x => LQueue.guard { x with st := v }

/-- HC written (R239, R389): records that waited for room are written when the step ends. DEDUCED: log entry 103. -/
def State.writeHc (s : State) (q v : Nat) : State :=
  if 16 ≤ q then s
  else if v < (s.dv.queue q).hc then s.seqError
  else s.modDev fun d => d.modQueue q fun x => { x with hc := v }

/-- A write to a launch queue block (R389); none when it is refused. -/
def State.queueWrite (s : State) (q off v : Nat) : Option State :=
  let x := s.dv.queue q
  match off with
  | 0x00 => if x.en then none else some (s.modDev fun d => d.modQueue q fun x => { x with lring := BitVec.ofNat 55 v })
  | 0x08 => if x.en then none else some (s.modDev fun d => d.modQueue q fun x => { x with cring := BitVec.ofNat 55 v })
  | 0x10 =>
    let size := bitsOf v 0 5
    let en := v.testBit 8
    if size < 4 ∨ 16 < size ∨ (x.en ∧ size ≠ x.size.toNat) ∨ (en ∧ (s.dv.mg.bootStage ≠ 0 ∨ s.dv.mg.power = .low)) then none
    else
      let start := en && !x.en
      let set (x : LQueue) : LQueue :=
        LQueue.guard { x with size := BitVec.ofNat 5 size, en := en, head := if start then none else x.head,
                              raised := if start then 0 else x.raised }
      some (s.modDev fun d =>
        let d1 := d.modQueue q set
        { d1 with chosen := if start && (d.chosen.map (·.1)) == some q then none else d.chosen })
  | 0x20 => some (s.writeSt q v)
  | 0x38 => some (s.writeHc q v)
  | _ => none

/-- The 256 bytes of a launch queue block (R389). -/
def LQueue.block (x : LQueue) : Row :=
  BitVec.ofNat 2048 (packs 64 ([x.lring.toNat, x.cring.toNat, x.size.toNat + b2n x.en <<< 8, 0, x.st, x.dh, x.chead, x.hc].map (· % 2 ^ 64)))

/-- Whether an address lies in the page of the queue registers (R238, R389; its place is the model's choice: log entry 108). -/
def inQueuePage (pa : Nat) : Bool := Config.queuePage ≤ pa && pa < Config.queuePage + 4096

/-- The queue whose block stands at an address of the page. -/
def pageQueue (pa : Nat) : Nat := (pa - Config.queuePage) / 256 % 16

/-- A write to the page: every register of which bytes `lo` to `hi − 1` of the block hold a byte takes its new value, in the
order of their offsets; a refused write changes nothing (R389). -/
def State.pageWrite (s : State) (pa lo hi : Nat) (new : Row) : State :=
  (upTo 0 8).foldl (fun s j =>
    if 8 * j < hi ∧ lo < 8 * j + 8 then (s.queueWrite (pageQueue pa) (8 * j) (bitsOf new.toNat (64 * j) 64)).getD s else s) s

/-! ### Window regions (R252) -/

/-- An accumulator row; zero until written (R195). -/
def accReset : AccRow := ⟨0#8192, false, 0#32, 0#32, 0, 0#256⟩

/-- Row `r` of accumulator memory. -/
def Core.accRow (c : Core) (r : Nat) : AccRow := SMap.get accReset c.acc r

/-- A core with an accumulator row replaced. -/
def Core.setAcc (c : Core) (r : Nat) (x : AccRow) : Core := { c with acc := SMap.set accReset c.acc r x }

/-- Column state after a full reset (R202). -/
def colReset : ColState := ⟨false, 0#8192, 0#8192, 0#8192⟩

/-- Column state of a bank. -/
def Core.colState (c : Core) (b : Nat) : ColState := SMap.get colReset c.cols b

/-- A core with a bank's column state replaced. -/
def Core.setCol (c : Core) (b : Nat) (x : ColState) : Core := { c with cols := SMap.set colReset c.cols b x }

/-- The plane a bank is allocated to (R196). -/
def Core.bankOf (c : Core) (b : Nat) : Option Nat :=
  match SMap.get 0 c.bank b with
  | 0 => none
  | p + 1 => some p

/-- Word 1 of an entry as the window shows it: the owner record's state bits of a STORED entry (R260). -/
def Slot.winW1 (x : Slot) : Word :=
  if entKind x.w0 = 1 then
    entPut x.w1 8 8 (match x.st with | .free => 0 | .owned => 1 | .offered => 2)
  else x.w1

/-- An owner record (R260). -/
def Slot.record (x : Slot) : Nat := x.gen.toNat <<< 48 + x.trank.toNat <<< 8 + x.plane <<< 6 + x.core

/-- A slot's sidecar as a reader gets it: of a symbolic slot, the sums of its synthesised data (R293). -/
def State.sideOf (s : State) (c k : Nat) : BitVec 16384 :=
  let l := s.slotLoc 0 c k
  if 2 ≤ entKind (s.entry l).1 then tileSums l.fmt (s.termRows (s.resolve l)) else s.side (.slot c k)

/-- The core an MDRAIN names. -/
def MEnt.drainCore (e : MEnt) (c : Nat) : Nat := clusterOf c * 4 + bitsOf e.x.toNat 14 2

/-- Whether an instruction of core `own` is a clearing drain of core `c`'s rows (R217). -/
def MEnt.clears (e : MEnt) (own c : Nat) : Bool :=
  match e.ins with
  | .mdrain f => f.clr = 1#1 && e.drainCore own == c
  | _ => false

/-- An accumulator row as of its most recent retired writer (R199): one that an unretired drain has cleared, and that
nothing has written since, reads as it stood before. -/
def State.accShown (s : State) (c r : Nat) : AccRow :=
  let x := (s.core c).accRow r
  if x ≠ accReset then x
  else (s.boxes.findSome? fun b => b.pl.m.findSome? fun e =>
    if e.clears b.co.id c then (e.old.find? fun o => o.1 == r).map (·.2) else none).getD x

/-- 256 bytes of a window at row `r` of its offsets (R252). -/
def State.winRow (s : State) (c r : Nat) : Row :=
  let co := s.core c
  let off := 256 * r
  if off < wAcc then
    match s.resolve (s.slotLoc 0 c (r / 256)) with
    | .stored true _ k _ _ => co.viewRow false (256 * k + r % 256)
    | t => s.termRow t (r % 256)
  else if off < 0x1800000 then
    ((s.accShown c ((off - wAcc) / 1024)).data >>> (2048 * (r % 4))).setWidth 2048
  else if wEnt ≤ off ∧ off < wOwn then
    BitVec.ofNat 2048 (packs 128 ((upTo ((off - wEnt) / 16) 16).map fun k =>
      let x := co.slot k; x.w0.toNat + x.winW1.toNat <<< 64))
  else if wOwn ≤ off ∧ off < wOwn + 0x800 then
    BitVec.ofNat 2048 (packs 64 ((upTo ((off - wOwn) / 8) 32).map fun k => (co.slot k).record))
  else if wSide ≤ off ∧ off < wSide + 0x80000 then ((s.sideOf c ((off - wSide) / 2048)) >>> (2048 * (r % 8))).setWidth 2048
  else 0#2048

/-- The aligned 256 bytes at a physical address, as an agent reads them for a command, 0 for none. -/
def State.paRowAs (s : State) (agent id pa : Nat) : Row :=
  if windowBase ≤ pa ∧ pa < hostBase then s.winRow ((pa - windowBase) / 2 ^ 30) ((pa - windowBase) % 2 ^ 30 / 256)
  else if inQueuePage pa then (s.dv.queue (pageQueue pa)).block
  else BitVec.ofNat 2048 (natOfBytes ((upTo (pa / 256 * 256) 256).map (s.dv.seenAs agent id)))

/-- The aligned 256 bytes at a physical address, as an agent reads them. -/
def State.paRow (s : State) (agent pa : Nat) : Row := s.paRowAs agent 0 pa

/-- Consecutive bytes at a physical address, as an agent reads them. -/
def State.paBytes (s : State) (agent pa n : Nat) : List Byte :=
  if (windowBase ≤ pa ∧ pa < hostBase) ∨ inQueuePage pa then
    let a := pa / 256
    let rows := (upTo a ((pa + n + 255) / 256 - a)).map fun r => s.paRow agent (256 * r)
    (((rows.flatMap fun r => bytesOfNat 256 r.toNat).drop (pa % 256)).take n)
  else s.dv.seenBytes agent pa n

/-- Whether a slot is owned by a task (R261). -/
def State.taskOwns (s : State) (c k lid rank : Nat) : Bool :=
  let x := (s.core c).slot k
  x.st == .owned && x.lid == lid && x.rank == rank && !x.hidden

/-- What a task's access to a window address meets beyond the access table (R199, R253, R261). -/
def State.winFault (s : State) (lid rank : Nat) (write : Bool) (pa n : Nat) : Option Cause :=
  match s.dv.mg.region pa with
  | .window c off =>
    let denied : Cause := ⟨0x12#8, deniedDetail 0 write false pa⟩
    if off < wAcc then
      if s.taskOwns c (off / 65536) lid rank then none else some (handleCause (off / 65536))
    else if off < 0x1800000 then
      if ((s.core c).bankOf ((off - wAcc) / 131072)).isSome then none else some denied
    else if wPush ≤ off ∧ off < wPush + 0x20000 then
      let p := s.plane c ((off - wPush) / 0x10000)
      if off % 256 = 0 ∧ n = 256 ∧ (off - wPush) % 0x10000 < 0x2000 ∧ p.live ∧ p.lid = lid
      then none else some denied
    else none
  | _ => none

/-- A window write to accumulator bytes (R199, R201, R202): kind float, checksums from the written data, the bank's
column state invalid. DEDUCED: log entry 37. -/
def Core.accWrite (c : Core) (row lo hi : Nat) (v : Nat) : Core :=
  let o := c.accRow row
  let d := bitsPut o.data.toNat (8 * lo) (8 * (hi - lo)) v
  let vals := (elems 32 256 d).map (decodeF fp32)
  let sum (l : List Num) : Nat := (arithRound fp32 (l.foldl (fun a x => (nadd a x).1) (.fin false 0 0))).1
  let x : AccRow :=
    { data := BitVec.ofNat 8192 d, isInt := false, c := BitVec.ofNat 32 (sum vals),
      mag := BitVec.ofNat 32 (sum (vals.map Num.abs)), nb := 0,
      marks := o.marks &&& BitVec.ofNat 256 (2 ^ 256 - 1 - (packs 1 ((upTo 0 256).map fun j =>
        b2n (decide (4 * j < hi ∧ lo < 4 * j + 4)))))
    }
  (c.setAcc row x).setCol (row / 128) { c.colState (row / 128) with invalid := true }

/-- Bytes `lo` to `hi − 1` of the aligned 256 bytes at `pa`, replaced by those of `f` of what stands there, of which the
write stores the bits of `mask`: memory with its sums (R294), a queue register, or a window region. `first` says that no
check of the old row was made at issue (R299). -/
def State.putBits (s : State) (first : Bool) (w : Wr) (pa : Nat) (l : Option TLoc) (lo hi mask : Nat) (f : Row → Row) :
    Option Cause × State :=
  if inQueuePage pa then (none, s.pageWrite pa lo hi (f (s.paRow w.agent pa)))
  else if windowBase ≤ pa ∧ pa < hostBase then
    let c := (pa - windowBase) / 2 ^ 30
    let off := (pa - windowBase) % 2 ^ 30
    let r := off / 256
    if off < wAcc then
      match s.readyWrite (s.slotLoc 0 c (r / 256)) w.lid w.rank with
      | .error e => (some e, s)
      | .ok (st, s1) => s1.writeBitsAt first (some (s1.slotLoc 0 c (r / 256))) st w (r % 256) lo hi mask f
    else if off < 0x1800000 then
      let row := (off - wAcc) / 1024
      let base := 256 * (r % 4)
      let new := f (s.winRow c r)
      (none, s.modCore c fun co => co.accWrite row (base + lo) (base + hi) (bitsOf new.toNat (8 * lo) (8 * (hi - lo))))
    else if wPush ≤ off ∧ off < wPush + 0x20000 then
      let p := (off - wPush) / 0x10000
      let q := off / 0x1000 % 2 * 16 + off / 0x100 % 16
      (none, s.modPlane c p fun pl => { pl with pushes := pl.pushes ++ [⟨q, f 0#2048, w.id⟩] })
    else (none, s)
  else if pa < 2 ^ 40 then (s.scrub pa 256).writeBitsAt first l (.frame (pa / 65536)) w (pa % 65536 / 256) lo hi mask f
  else
    let new := f (BitVec.ofNat 2048 (s.dv.portNat pa 256))
    (none, s.modDev fun d => d.store w.id w.agent w.level (pa + lo)
      (((bytesOfNat 256 new.toNat).drop lo).take (hi - lo)))

/-- Whole bytes at a physical address replaced. -/
def State.putPiece (s : State) (w : Wr) (pa : Nat) (l : Option TLoc) (lo hi : Nat) (f : Row → Row) : Option Cause × State :=
  s.putBits true w pa l lo hi (spanMask lo hi) f

/-! ### Engine traffic at a bank (R320) -/

/-- The command of an engine access, changed. -/
def State.modCmd (s : State) (c ch seq : Nat) (f : Cmd → Cmd) : State :=
  s.modCore c fun co =>
    { co with ch := vput co.ch ch ((vget co.ch ch []).map fun x => if x.seq = seq then f x else x) }

/-- Whether a command's task may touch a slot: it owns it, or has offered it since the command's issue (R261, R263). -/
def State.mayUse (s : State) (lid rank seq c k : Nat) : Bool :=
  let x := (s.core c).slot k
  !(x.st == .free) && x.lid == lid && x.rank == rank && (x.st == .owned || decide (seq < x.since))

/-- The row that an accepted engine read returns, its entry having been sampled before, with the row check of a slot whose
own entry is STORED (R276, R296, R319). -/
def State.engRead (s : State) (c : Nat) (e : EngAcc) (t : Term) : Row × Option Cause × State :=
  let k := e.row / 256
  let r := e.row % 256
  match t with
  | .stored true _ x _ _ =>
    let read (s : State) : Row := (s.core c).viewRow e.swz (256 * x + r)
    if x = k then let q := s.checkedRow (s.slotLoc 0 c k) r read; (q.1, q.2.1, q.2.2.1) else (read s, none, s)
  | t => (s.termRow t r, none, s)

/-- An accepted engine access performs at a core's port (R317, R320): a read gives its row to its command; a write finds the
slot promoted by its piece (R276), and an uncorrectable old row is reported in its command's record (R299). A slot whose
entry has become a symbol since then takes the bytes alone, and one that the task may no longer touch takes nothing
(R260). -/
def State.engPerform (s : State) (c : Nat) (e : EngAcc) : State :=
  let k := e.row / 256
  let may := s.mayUse e.lid e.rank e.seq c k
  match e.src with
  | some t =>
    let q := if may then s.engRead c e t else (0#2048, some (handleCause k), s)
    q.2.2.modCmd e.core e.ch e.seq fun x => { x with reads := x.reads ++ [⟨e.pa, e.swz, q.1, q.2.1⟩] }
  | none =>
    let l := s.slotLoc 0 c k
    if !may then s
    else if entKind (s.entry l).1 ≠ 1 then s.modCore c fun co => co.writeRow e.swz e.row e.data
    else
      let r := s.writeRowAt (some l) (.slot c k) ⟨c, 0, 0, e.swz, e.lid, e.rank, false⟩ (e.row % 256) 0 256 fun _ => e.data
      match r.1 with
      | some k => r.2.modCmd e.core e.ch e.seq fun x => { x with err := x.err.or (some k) }
      | none => r.2

/-- With ma set, every accepted engine access to the bank of a row performs first (R320). DEDUCED: log entry 45. -/
def State.drainBank (s : State) (ma : BitVec 1) (p : Nat) : State :=
  if ma = 0#1 then s
  else
    let mine := s.co.engQ.filter fun e => e.row % 128 == p % 128
    if mine = [] then s
    else
      let s1 := { s with co := { s.co with engQ := s.co.engQ.filter fun e => !(e.row % 128 == p % 128) } }
      (mine.foldl (fun s e => s.engPerform s.co.id e) s1).freeze

end Sys2Proof.Machine
end

