-- ==== Sys2Proof/Machine/LoadStore.lean ====
section
/-!
DEFINITION. The L slot (R111 to R130, R321 to R323): scratchpad rows, elements and bit fields, far loads and stores,
marks and fences, VJOIN, and operand rings.
-/

namespace Sys2Proof.Machine

/-- Queue of an L-slot word: cluster × 16 + number. -/
def lq (cl : BitVec 1) (q : BitVec 4) : Nat := 16 * cl.toNat + q.toNat

/-- A deferred cause noted when there is one. -/
def State.deferIf (s : State) (slot lat : Nat) (c : Option Cause) : State :=
  match c with
  | some c => s.defer slot lat c
  | none => s

/-- An operation without a result that retires at issue + 1: its arrival is made (R230). DEDUCED: log entry 46. -/
def State.retireNow (s : State) (ar : BitVec 2) : State :=
  let o := s.owe ar
  o.2.arrive o.1 [] 0

/-- The causes of a store's source queue. -/
def State.srcFault (s : State) (q : Nat) (pk : BitVec 1) : Option Cause := s.pl.popFault q (pk == 1#1)

/-- A store's source entry popped unless peeked. -/
def State.popSrc (s : State) (q : Nat) (pk : BitVec 1) : State :=
  if pk = 1#1 then s else s.modPl fun p => p.popAtEnd q

/-- A row store of an entry, which writes the bits of `mask`: nothing is written when the entry's sum differs from its tag
(R301). -/
def State.storeEntry (s : State) (swz : Bool) (a : Nat) (e : Entry) (lo hi mask : Nat) (f : Row → Row) : State :=
  let p := physRow swz a
  if rowTag e.data = e.tag then
    let r := s.writeRowL swz a lo hi mask f
    r.2.deferIf 5 1 r.1
  else s.defer 5 1 (sumCause (some (slotRef s.co.id (p / 256))) 0 (p % 256) 2)

/-! ### Rows and elements (R119, R120) -/

/-- LDV (R119): the row as it stands at issue, 6 bundles. -/
def execLdv (f : LLd) (s : State) : Host.Outcome State Fault Refusal :=
  let ea := (s.rdS f.sx + s.rdS f.sy).toNat
  let q := lq f.cl f.q
  let swz := f.view == 1#1
  s.guarded 5 [s.rowFault ea, s.pl.pushFault q 1 []] fun s =>
    let r := (s.drainBank f.ma (physRow swz (ea / 256))).loadRowL swz (ea / 256)
    let o := r.2.2.owe f.ar
    (o.2.result 5 6 (.vq q) r.1 (rowTag r.1) 7 0#5 o.1).deferIf 5 6 r.2.1

/-- STV (R119): visible to the next bundle's L-slot access. -/
def execStv (f : LSt) (s : State) : Host.Outcome State Fault Refusal :=
  let ea := (s.rdS f.sx + s.rdS f.sy).toNat
  let q := lq f.cl f.q
  let swz := f.view == 1#1
  s.guarded 5 [s.rowFault ea, s.srcFault q f.pk] fun s =>
    let e := s.pl.headOf q
    (((s.drainBank f.ma (physRow swz (ea / 256))).popSrc q f.pk).storeEntry swz (ea / 256) e 0 256 (spanMask 0 256) fun _ =>
      e.data).retireNow f.ar

/-- Byte offset of an element within its row: misalignment is ignored (R120). -/
def elemOff (ea : Nat) (size : BitVec 2) : Nat := ea % 256 / 2 ^ size.toNat * 2 ^ size.toNat

/-- LDS (R120): 6 bundles. -/
def execLds (f : LEl) (s : State) : Host.Outcome State Fault Refusal :=
  let ea := (s.rdS f.sx).toNat
  let swz := f.view == 1#1
  let n := 8 * 2 ^ f.size.toNat
  s.guarded 5 [s.rowFault ea] fun s =>
    let r := (s.drainBank f.ma (physRow swz (ea / 256))).loadRowL swz (ea / 256)
    let v := bitsOf r.1.toNat (8 * elemOff ea f.size) n
    let x : Word := if f.sgn = 1#1 then BitVec.ofInt 64 (sgn n v) else BitVec.ofNat 64 v
    let o := r.2.2.owe f.ar
    (o.2.resultS 5 6 f.sy x o.1).deferIf 5 6 r.2.1

/-- STS (R120): read, merged and written as one access. -/
def execSts (f : LEs) (s : State) : Host.Outcome State Fault Refusal :=
  let ea := (s.rdS f.sx).toNat
  let swz := f.view == 1#1
  let n := 2 ^ f.size.toNat
  let off := elemOff ea f.size
  s.guarded 5 [s.rowFault ea] fun s =>
    let v := (s.rdS f.sy).toNat
    let r := (s.drainBank f.ma (physRow swz (ea / 256))).writeRowL swz (ea / 256) off (off + n) (spanMask off (off + n)) fun old =>
      BitVec.ofNat 2048 (bitsPut old.toNat (8 * off) (8 * n) v)
    (r.2.deferIf 5 1 r.1).retireNow f.ar

/-! ### Bit fields (R121 to R124) -/

/-- Fields of a pattern register (R121). -/
def patP (x : BitVec 128) : Nat := bitsOf x.toNat 0 7 + 1
def patW (x : BitVec 128) : Nat := bitsOf x.toNat 7 5 + 1
def patC (x : BitVec 128) : Nat := bitsOf x.toNat 12 4 + 1
def patOff (x : BitVec 128) (j : Nat) : Nat := bitsOf x.toNat (16 + 7 * j) 7

/-- Position of lane `l` in the window (R123). -/
def lanePos (x : BitVec 128) (b l : Nat) : Nat := b + l / patC x * patP x + patOff x (l % patC x)

/-- The lanes' positions. -/
def lanePoss (x : BitVec 128) (b fmt : Nat) : List Nat := (upTo 0 (laneCount fmt)).map (lanePos x b)

/-- Whether some lane within the window ends in its second row. -/
def needsTwo (x : BitVec 128) (b fmt : Nat) : Bool :=
  (lanePoss x b fmt).any fun p => p + patW x ≤ 4096 && 2048 < p + patW x

/-- The checks of LDX and STX (R112, R114, R123). When only the second row lies out of range, SCRATCH_BOUNDS names that row's
base, `(ea / 256 + 1) × 256`: the spec says no address there (DESIGN CHOICE, log entry 111). -/
def State.fieldFaults (s : State) (ea : Nat) (two : Bool) : List (Option Cause) :=
  [s.rowFault ea, if two then s.rowFault ((ea / 256 + 1) * 256) else none]

/-- LDX (R123): 8 bundles. -/
def execLdx (f : LXl) (s : State) : Host.Outcome State Fault Refusal :=
  let ea := (s.rdS f.sx).toNat
  let b := (s.rdS f.sy).toNat % 128
  let x := vget s.pl.xp f.xp.toNat 0#128
  let m := f.fmt.toNat
  let two := needsTwo x b m
  let q := lq f.cl f.q
  s.guarded 5 (s.fieldFaults ea two ++ [s.pl.pushFault q 1 []]) fun s =>
    let a := ea / 256
    let s0 := s.drainBank f.ma a
    let s1 := if two then s0.drainBank f.ma (a + 1) else s0
    let r0 := s1.loadRowL false a
    let r1 := if two then r0.2.2.loadRowL false (a + 1) else (0#2048, none, r0.2.2)
    let w := r0.1.toNat + r1.1.toNat <<< 2048
    let lane (p : Nat) : Nat :=
      if p + patW x > 4096 then 0
      else
        let v := bitsOf w p (patW x)
        if isSigned m then wrap (laneBits m) (sgn (patW x) v) else v % 2 ^ laneBits m
    let row := ofLanes m ((lanePoss x b m).map lane)
    let o := r1.2.2.owe f.ar
    (o.2.result 5 8 (.vq q) row (rowTag row) 7 0#5 o.1).deferIf 5 8 (r0.2.1.or r1.2.1)

/-- Fields written into a 4,096-bit window, ascending, so that the higher lane's bits stand; with a mask of the bits
written (R124). -/
def packFields (x : BitVec 128) (b fmt : Nat) (data : Row) : Nat × Nat :=
  let w := patW x
  ((lanePoss x b fmt).zip (lanes fmt data)).foldl (fun acc pv =>
    if pv.1 + w > 4096 then acc
    else
      let v := wrap w (if isSigned fmt then sgn (laneBits fmt) pv.2 else (pv.2 : Int))
      (bitsPut acc.1 pv.1 w v, acc.2 ||| ((2 ^ w - 1) <<< pv.1))) (0, 0)

/-- First byte and end of the bits set in a row's mask. -/
def maskBytes (m : Nat) : Nat × Nat :=
  (((upTo 0 256).find? fun i => bitsOf m (8 * i) 8 ≠ 0).getD 0, Nat.log2 m / 8 + 1)

/-- One row of STX, written back whole when a field lies in it. -/
def State.storeFields (s : State) (a : Nat) (e : Entry) (v m : Nat) : State :=
  if m = 0 then s
  else s.storeEntry false a e (maskBytes m).1 (maskBytes m).2 m fun old =>
    BitVec.ofNat 2048 (old.toNat - (old.toNat &&& m) + v)

/-- STX (R124). -/
def execStx (f : LXs) (s : State) : Host.Outcome State Fault Refusal :=
  let ea := (s.rdS f.sx).toNat
  let b := (s.rdS f.sy).toNat % 128
  let x := vget s.pl.xp f.xp.toNat 0#128
  let m := f.fmt.toNat
  let two := needsTwo x b m
  let q := lq f.cl f.q
  s.guarded 5 (s.fieldFaults ea two ++ [s.srcFault q f.pk]) fun s =>
    let a := ea / 256
    let e := s.pl.headOf q
    let w := packFields x b m e.data
    let s0 := (s.drainBank f.ma a).popSrc q f.pk
    let s1 := if two then s0.drainBank f.ma (a + 1) else s0
    if rowTag e.data = e.tag then
      ((s1.storeFields a e (w.1 % 2 ^ 2048) (w.2 % 2 ^ 2048)).storeFields (a + 1) e (w.1 >>> 2048) (w.2 >>> 2048)).retireNow
        f.ar
    else (s1.storeEntry false a e 0 256 0 id).retireNow f.ar

/-! ### Far loads and stores (R125, R126, R321) -/

/-- What a far access of 256 bytes finds, with the window checks (R126, R261). -/
def State.farLook (s : State) (write : Bool) (va : Word) : Except Cause Look × State :=
  let a := va.toNat / 256 * 256
  let r := s.look (dieOf s.co.id) s.pl.space clsCore write a 256
  match r.1 with
  | .ok (.mem pa l) =>
    match s.winFault s.pl.lid s.pl.rank write pa 256 with
    | some c => (.error c, r.2)
    | none => (.ok (.mem pa l), r.2)
  | _ => r

/-- What LDF or STF found before its group issued (R126), with the frame taken for its promotion; outside a checked group,
what it finds now. -/
def State.farSample (s : State) (write : Bool) (va : Word) : Except Cause (Look × Option Nat) × State :=
  match (if s.pl.mode = .run then
      s.pl.looks.find? fun x => x.pos == s.pl.grp && x.write == write && x.va == va else none) with
  | some x => (.ok (x.look, x.frame), s)
  | none =>
    let r := s.farLook write va
    (match r.1 with | .error c => .error c | .ok k => .ok (k, none), r.2)

/-- LDF (R125, R321): its LQ entry, and the timed landing `dist` bundles from now. A view is read when the entry performs
(R342). -/
def execLdf (f : LFl) (s : State) : Host.Outcome State Fault Refusal :=
  let va := s.rdS f.sx
  let q := lq f.cl f.q
  s.guarded 5 [errOf (s.farSample false va).1, s.pl.pushFault q 1 [], s.lbFault] fun s =>
    let a := va.toNat / 256 * 256
    match s.farSample false va with
    | (.error _, s1) => s1
    | (.ok (k, _), s1) =>
      let o := s1.owe f.ar
      let w := o.2.await 5 f.dist.toNat (.vq q) true o.1
      let ent (pa : Nat) (sym : Option Row) (ref : Option (Nat × Word)) : LqEnt := ⟨w.1, false, w.1, pa, sym, none, ref⟩
      let e := match k with
        | .mem pa l => ent pa none (l.map fun l => (l.sp, l.ref))
        | .sym l t => match t with
          | .stored false _ _ fr _ => ent (fr * 65536 + a % 65536) none (some (l.sp, l.ref))
          | _ => ent 0 (some (s1.termRow t (a % 65536 / 256))) none
        | .view n v => { ent 0 none none with view := some (n, v, a - v.va) }
      w.2.modPl fun p => { p with lq := p.lq ++ [e] }

/-- The state with an SQ entry appended (R315, R321). -/
def State.pushSq (s : State) (kind : SqKind) (arr : Option Owed) : State :=
  let i := s.takeId
  i.2.modPl fun p => { p with sq := p.sq ++ [⟨i.1, kind, p.lid, p.rank, arr, p.tcount⟩] }

/-- Whether a far store to the row at a physical address waits in the executing plane's SQ. -/
def State.rowQueued (s : State) (pa : Nat) : Bool :=
  s.pl.sq.any fun e => match e.kind with
    | .stf x _ _ _ _ => x / 256 == pa / 256
    | .mark => false
    | .fence _ => false
    | .cmds _ => false

/-- The check of the row that a far store replaces, made once, at its issue (R299); an earlier store of the row that still
waits has made it. -/
def State.stfCheck (s : State) (pa : Nat) (l : Option TLoc) (queued : Bool) : State :=
  if queued ∨ 2 ^ 40 ≤ pa ∨ inQueuePage pa then s
  else
    let st := Store.frame (pa / 65536)
    let ref := l.map (·.ref)
    let k := s.checkRow st ((l.map (·.fmt)).getD 15) (pa % 65536 / 256) (st.logRef ref)
    k.2.2.deferIf 5 1 (k.2.1.map fun r => sumCause ref (pa / 65536) r 1)

/-- Where a far store of an aligned row goes: its physical address and the tile it samples; a symbolic tile is promoted,
into the frame taken for it (R126, R278). None when the tile no longer resolves. -/
def State.stfPlace (s : State) (a : Nat) (k : Look) (frame : Option Nat) : Option (Nat × Option TLoc × State) :=
  match k with
  | .mem pa l => some (pa, l, s.giveBack frame)
  | .sym l _ => match s.readyWith l s.pl.lid s.pl.rank frame with
    | .ok (.frame fr, s1) => some (fr * 65536 + a % 65536, some l, s1)
    | .ok (.slot _ _, _) => none
    | .error _ => none
  | .view _ _ => none

/-- The tile or frame and the row that a far store names, for its error records. -/
def Look.named (k : Look) (a : Nat) : Option Word × Nat × Nat :=
  match k with
  | .mem pa l => (l.map (·.ref), pa / 65536, pa % 65536 / 256)
  | .sym l _ => (some l.ref, 0, a % 65536 / 256)
  | .view _ _ => (none, 0, 0)

/-- STF (R125, R278, R299, R301, R312, R321): an entry whose sum differs from its tag stores nothing; else a symbolic tile is
promoted at issue, and the write leaves with its SQ entry, which holds the binding it samples. -/
def execStf (f : LFs) (s : State) : Host.Outcome State Fault Refusal :=
  let va := s.rdS f.sx
  let q := lq f.cl f.q
  s.guarded 5 [errOf (s.farSample true va).1, s.srcFault q f.pk] fun s =>
    let a := va.toNat / 256 * 256
    let e := s.pl.headOf q
    match s.farSample true va with
    | (.error _, s1) => s1
    | (.ok (k, frame), s1) =>
      let s2 := s1.popSrc q f.pk
      if rowTag e.data = e.tag then
        match s2.stfPlace a k frame with
        | none => (s2.giveBack frame).retireNow f.ar
        | some (pa, l, s3) =>
          let queued := s3.rowQueued pa
          let o := s3.owe f.ar
          (o.2.pushSq (.stf pa e.data s3.pl.space (l.map (·.ref)) (l.bind (·.lux))) o.1).stfCheck pa l queued
      else
        let n := k.named a
        ((s2.giveBack frame).defer 5 1 (sumCause n.1 n.2.1 n.2.2 2)).retireNow f.ar

/-! ### Ordering instructions (R323) -/

/-- MARK (R323): one entry in the LQ and one in the SQ, of the same number. -/
def execMark (f : R0) (s : State) : Host.Outcome State Fault Refusal :=
  s.guarded 5 [] fun s =>
    let o := s.owe f.ar
    let i := o.2.takeId
    i.2.modPl fun p =>
      { p with lq := p.lq ++ [⟨i.1, true, 0, 0, none, none, none⟩],
               sq := p.sq ++ [⟨i.1, .mark, p.lid, p.rank, o.1, p.tcount⟩] }

/-- SFENCE (R323). -/
def execSfence (f : LSf) (s : State) : Host.Outcome State Fault Refusal :=
  s.guarded 5 [] fun s => let o := s.owe f.ar; o.2.pushSq (.fence f.scope.toNat) o.1

/-- VJOIN (R319, R323): the target views of every covered row see every write performed. DEDUCED: log entry 52. -/
def execVjoin (f : LVj) (s : State) : Host.Outcome State Fault Refusal :=
  let first := (s.rdS f.sx).toNat
  let n := (s.rdS f.sy).toNat
  s.guarded 5
    [need (0 < n ∧ n ≤ 65536) (s.illegal (.vjoin f) 3 13),
     need (first < 0x1000000 ∧ first / 256 + n ≤ 65536) ⟨0x10#8, s.rdS f.sx⟩] fun s =>
    let lo := first / 256 / 128
    let hi := (first / 256 + n - 1) / 128
    let rows := (s.co.views.map (·.1)).filter fun p => lo ≤ p / 128 && p / 128 ≤ hi
    let join (c : Core) (p : Nat) : Core :=
      let c1 := if f.dir.getLsbD 0 then c.joinRow true p else c
      if f.dir.getLsbD 1 then c1.joinRow false p else c1
    ({ s with co := rows.foldl join s.co }).retireNow f.ar

/-! ### Operand rings (R127 to R129) -/

/-- Ring `n` of a plane. -/
def Plane.ring (p : Plane) (n : Nat) : Ring := vget p.rg n ⟨0#8, 0#9, 0#8, 0#9⟩

/-- RSET (R128). When the task does not own several slots of the range, HANDLE_VIOLATION names the lowest of them: the spec
does not say which (DESIGN CHOICE, log entry 111). -/
def execRset (f : LRs) (s : State) : Host.Outcome State Fault Refusal :=
  let x := (s.rdS f.sx).toNat
  let y := (s.rdS f.sy).toNat
  let base := x % 256
  let size := y % 512
  let bx := decide (x ≥ 256)
  let bs := decide (y ≥ 512) || decide (size = 0)
  let bo := decide (base + size > 256)
  let d := BitVec.ofNat 64 (1 <<< 8 + f.rg.toNat + b2n bx <<< 9 + b2n bs <<< 10 + b2n bo <<< 11)
  let foreign := (upTo base size).find? fun k => !s.ownsSlot s.co.id k
  s.guarded 5 [need (!bx && !bs && !bo) ⟨0x10#8, d⟩, foreign.map handleCause] fun s =>
    (s.modPl fun p => { p with rg := vput p.rg f.rg.toNat ⟨BitVec.ofNat 8 base, BitVec.ofNat 9 size, 0#8, 0#9⟩ }).retireNow
      f.ar

/-- RPUSH (R129). -/
def execRpush (f : LRp) (s : State) : Host.Outcome State Fault Refusal :=
  let n := f.n.toNat + 1
  let r := s.pl.ring f.rg.toNat
  s.guarded 5 [need (r.count.toNat + n ≤ r.size.toNat) ⟨0x05#8, BitVec.ofNat 64 (1 <<< 8 + f.rg.toNat)⟩] fun s =>
    (s.modPl fun p =>
      let r := p.ring f.rg.toNat
      { p with rg := vput p.rg f.rg.toNat { r with count := r.count + BitVec.ofNat 9 n } }).retireNow f.ar

end Sys2Proof.Machine
end

