-- ==== Sys2Proof/Machine/Place.lean ====
section
/-!
DEFINITION. How an engine finds, reads and writes the data of its operands (R259, R261, R266, R276, R296 to R299, R320,
R334, R336, R371): copy operand addresses, window addresses with their view, and virtual addresses piece by piece.
-/

namespace Sys2Proof.Machine

/-! ### Copy operand addresses (R334) -/

/-- The granularity a window operand must meet in its region; 1 where none is asked. -/
def opGran (a : Nat) : Nat :=
  if opWin a && windowBase ≤ opPa a && opPa a < windowBase + 48 * 2 ^ 30 then
    let off := (opPa a - windowBase) % 2 ^ 30
    if off < wAcc then 256 else if off < 0x1800000 then 1024 else if wPush ≤ off ∧ off < wPush + 0x20000 then 256 else 1
  else 1

/-- Whether an operand keeps the rules of R334 for itself and for the sizes and strides `ms`. -/
def opOk (a : Nat) (ms : List Nat) : Bool :=
  (!opWin a || bitsOf a 52 10 = 0) && opPa a % opGran a = 0 && ms.all fun m => m % opGran a = 0

/-- The ownership failure of a window operand at issue (R261): the first slot the task does not own. -/
def State.opForeign (s : State) (a n : Nat) : Option Cause :=
  match opSlots a n with
  | none => none
  | some (c, lo, hi) =>
    ((upTo lo (hi + 1 - lo)).find? fun k => !(s.taskOwns c k s.pl.lid s.pl.rank)).map handleCause

/-! ### Places -/

/-- ACCESS_DENIED as an engine's record carries it (R336). -/
def engDenied (reason pa : Nat) : Cause := ⟨0x12#8, BitVec.ofNat 64 (reason <<< 60 + pa % 2 ^ 52)⟩

/-- A cause as an engine's record carries it: a refusal without the direction bits of R126. -/
def Cause.engine (c : Cause) : Cause :=
  if c.code = 0x12#8 then ⟨c.code, c.detail &&& 0xF00FFFFFFFFFFFFF#64⟩ else c

/-- Whether a cause is a translation fault, which holds the channel (R259). -/
def Cause.holds (c : Cause) : Bool := c.code = 0x13#8 || c.code = 0x14#8

/-- Whether a cause leaves its piece unplaced and lets the other pieces go on (R298, R371). -/
def Cause.skips (c : Cause) : Bool := c.code = 0x20#8 || c.code = 0x22#8

/-- Who accesses: the agent whose view of memory it is, its die, master class, space and task, the channel whose command it
serves, and the number and first level of the stores it makes, which are visible first in the channel's core (R324). -/
structure Who where
  agent : Nat
  die : Nat
  cls : Nat
  space : Nat
  lid : Nat
  rank : Nat
  core : Nat
  ch : Nat
  id : Nat
  level : Nat
  deriving DecidableEq, Repr

/-- Whether a command may still touch a window's slot (R261, R263). -/
def State.mayTouch (s : State) (w : Who) (c k : Nat) : Bool := s.mayUse w.lid w.rank w.id c k

/-- The checks of `n` bytes of a window beyond the access table (R199, R253, R261, R276). -/
def State.winCheck (s : State) (w : Who) (write : Bool) (pa n : Nat) : Option Cause :=
  match s.dv.mg.region pa with
  | .window c off =>
    if off < wAcc then
      if !s.mayTouch w c (off / 65536) then some (handleCause (off / 65536))
      else match s.resolve (s.slotLoc w.space c (off / 65536)) with
        | .bad r => some (unmapped (slotRef c (off / 65536)) r)
        | _ => none
    else s.winFault w.lid w.rank write pa n
  | _ => none

/-- The place of `n` bytes at an operand address, within one 64 KiB frame (R259, R266, R276, R334), and the state after
translation; with `frame` clear a symbolic destination is written whole and needs no frame (R276, R340). -/
def State.place (s : State) (w : Who) (write : Bool) (a n : Nat) (frame : Bool := true) : Except Cause Place × State :=
  if opWin a then
    let pa := opPa a
    if pa < windowBase ∨ hostBase ≤ pa then (.error (engDenied 1 pa), s)
    else
      match s.dv.check w.cls w.space write pa n with
      | some r => (.error (engDenied r.1 r.2), s)
      | none =>
        match s.winCheck w write pa n with
        | some c => (.error c.engine, s)
        | none => (.ok (.win pa (a.testBit 62)), s)
  else
    let r := s.lookIn w.die (some (tlbHolder w.core w.ch)) w.space w.space w.cls write a n frame
    match r.1 with
    | .error c => (.error c.engine, r.2)
    | .ok (.mem pa l) =>
      match r.2.winCheck w write pa n with
      | some c => (.error c.engine, r.2)
      | none => (.ok (.virt a (.mem pa l)), r.2)
    | .ok (.view i v) => (.ok (.virt a (.view i v)), r.2.viewFill w.die i v ((a - v.va) / 65536))
    | .ok k => (.ok (.virt a k), r.2)

/-! ### Reading -/

/-- 256 bytes of a window as a view returns them (R252, R276, R296, R298, R319): the row, the cause when its tile is
uncorrectable or has none. -/
def State.windowRow (s : State) (sp pa : Nat) (swz : Bool) : Row × Option Cause × State :=
  let c := (pa - windowBase) / 2 ^ 30
  let off := (pa - windowBase) % 2 ^ 30
  if off < wAcc then
    let p := physRow swz (off / 256)
    let l := s.slotLoc sp c (p / 256)
    match s.resolve l with
    | .bad r => (0#2048, some (unmapped l.ref r), s)
    | _ =>
      let q := s.checkedRow l (p % 256) fun s =>
        match s.resolve l with
        | .stored true _ k _ _ => (s.core c).viewRow swz (256 * k + p % 256)
        | t => s.termRow t (p % 256)
      (q.1, q.2.1, q.2.2.1)
  else (s.winRow c (off / 256), none, s)

/-- The command that an engine acts for. -/
def State.cmdOf (s : State) (w : Who) : Option Cmd := (vget (s.core w.core).ch w.ch []).find? fun c => c.seq == w.id

/-- 256 bytes of a window read for a command (R317, R320): a scratchpad row that its piece has read through the bank's port;
one that it has not read yet is noted as needed, and the row as it stands serves the trial that finds the needed rows. -/
def State.readWin (s : State) (w : Who) (pa : Nat) (swz : Bool) : Row × Option Cause × State :=
  let off := (pa - windowBase) % 2 ^ 30
  let l := s.slotLoc w.space ((pa - windowBase) / 2 ^ 30) (physRow swz (off / 256) / 256)
  match (if off < wAcc then s.cmdOf w else none) with
  | none => s.windowRow w.space pa swz
  | some c => match c.reads.find? fun r => r.pa == pa && r.swz == swz with
    | some r => (r.row, r.bad, s)
    | none => match s.resolve l with
      | .bad r => (0#2048, some (unmapped l.ref r), s)
      | _ => ((s.windowRow w.space pa swz).1, none,
          s.modCmd w.core w.ch w.id fun c => { c with need := c.need ++ [(pa, swz)] })

/-- The window rows that a piece needs are asked for at the ports of their banks, each once, its slot's entry sampled now
(R276, R320). -/
def State.askWin (s : State) (core ch : Nat) (c : Cmd) (need : List (Nat × Bool)) : State :=
  let new := (need.filter fun x => !c.asked.contains x).eraseDups
  let ask (s : State) (x : Nat × Bool) : State :=
    let co := (x.1 - windowBase) / 2 ^ 30
    let row := physRow x.2 ((x.1 - windowBase) % 2 ^ 30 / 256)
    let t := s.resolve (s.slotLoc c.space co (row / 256))
    s.modCore co fun k => { k with engQ := k.engQ ++ [⟨core, ch, c.seq, row, x.2, 0#2048, c.lid, c.rank, some t, x.1⟩] }
  (new.foldl ask s).modCmd core ch c.seq fun k => { k with asked := k.asked ++ new }

/-- 256 bytes of memory of a STORED tile or of plain memory, of which bytes `lo` to `hi − 1` are read for a command (0: none) and
checked (R296, R371). `sums` says whether a row check applies: not to a symbolic tile that repeats the frame's. -/
def State.memRow (s0 : State) (agent id pa : Nat) (l : Option TLoc) (sums : Bool) (lo hi : Nat) : Row × Option Cause × State :=
  let a := pa / 256 * 256
  let s := s0.scrub a 256
  if a < 2 ^ 40 then
    match (upTo (lo / 32) ((hi + 31) / 32 - lo / 32)).find? fun i => s.dv.badSect.contains (a / 32 + i) with
    | some i =>
      (0#2048, some ⟨0x22#8, BitVec.ofNat 64 (a + 32 * i)⟩, s.logErr (homeDie a) 4 0#64)
    | none =>
      let fmt := (l.map (·.fmt)).getD 15
      let ref := l.map (·.ref)
      let st := Store.frame (a / 65536)
      if sums && !inQueuePage a && s.rowBad st fmt (a % 65536 / 256) then
        let q := s.checkRow st fmt (a % 65536 / 256) (st.logRef ref)
        (q.2.2.paRowAs agent id a, q.2.1.map (fun x => sumCause ref (a / 65536) x 0), q.2.2)
      else (s.paRowAs agent id a, none, s)
  else (s.paRowAs agent id a, none, s)

/-- First address of a place, for the positions of its rows. -/
def Place.start : Place → Nat
  | .win pa _ => pa
  | .virt va _ => va

/-- Row `i` of a place, counted in aligned 256-byte rows, of which bytes `lo` to `hi − 1` are read. -/
def State.placeRow (s : State) (w : Who) (p : Place) (i lo hi : Nat) : Row × Option Cause × State :=
  match p with
  | .win pa swz => s.readWin w (pa / 256 * 256 + 256 * i) swz
  | .virt _ (.mem pa l) =>
    let a := pa / 256 * 256 + 256 * i
    if windowBase ≤ a ∧ a < hostBase then s.windowRow w.space a false else s.memRow w.agent w.id a l true lo hi
  | .virt va (.sym l t) =>
    let r := va % 65536 / 256 + i
    match t with
    | .stored false _ _ f _ => s.memRow w.agent w.id (f * 65536 + 256 * r) (some l) false lo hi
    | t => (s.termRow t r, none, s)
  | .virt va (.view n v) => (s.viewRead w.die n v (va / 256 * 256 + 256 * i - v.va), none, s)

/-- `n` bytes of a place: the bytes, the first cause met, and the state after the checks. -/
def State.placeBytes (s : State) (w : Who) (p : Place) (n : Nat) : List Byte × Option Cause × State :=
  let lo := p.start % 256
  let r := (upTo 0 ((lo + n + 255) / 256)).foldl (fun (acc : List Byte × Option Cause × State) i =>
    let x := acc.2.2.placeRow w p i (if i = 0 then lo else 0) (min 256 (lo + n - 256 * i))
    (acc.1 ++ bytesOfNat 256 x.1.toNat, acc.2.1.or x.2.1, x.2.2)) ([], none, s)
  ((r.1.drop lo).take n, r.2.1, r.2.2)

/-- The places of `n` bytes at an operand address, one for each 64 KiB frame, all found before any is used. -/
def State.places (s : State) (w : Who) (write : Bool) (fuel a n : Nat) (frame : Bool := true) :
    Except Cause (List (Place × Nat)) × State :=
  match fuel with
  | 0 => (.ok [], s)
  | fuel + 1 =>
    if n = 0 then (.ok [], s)
    else
      let k := min n (65536 - a % 65536)
      let r := s.place w write a k frame
      match r.1 with
      | .error c => (.error c, r.2)
      | .ok p =>
        let t := r.2.places w write fuel (a + k) (n - k) frame
        match t.1 with
        | .error c => (.error c, t.2)
        | .ok ps => (.ok ((p, k) :: ps), t.2)

/-- `n` bytes at an operand address, or the first cause met (R276, R298). -/
def State.opRead (s : State) (w : Who) (a n : Nat) : Except Cause (List Byte) × State :=
  let r := s.places w false (n / 65536 + 2) a n
  match r.1 with
  | .error c => (.error c, r.2)
  | .ok ps =>
    let x := ps.foldl (fun (acc : List Byte × Option Cause × State) p =>
      let b := acc.2.2.placeBytes w p.1 p.2
      (acc.1 ++ b.1, acc.2.1.or b.2.1, b.2.2)) ([], none, r.2)
    match x.2.1 with
    | some c => (.error c, x.2.2)
    | none => (.ok x.1, x.2.2)

/-! ### Writing -/

/-- The writer record of an engine: its stores become visible first at its channel's core (R324). -/
def Who.wr (w : Who) (swz pair : Bool) : Wr := ⟨w.core, w.level, w.id, swz, w.lid, w.rank, pair⟩

/-- Sectors written over are good again: the sums of their tile, of a format, are recomputed from its data, and the event
is logged (R371). -/
def State.healAs (s : State) (pa n fmt : Nat) : State :=
  let hit (x : Nat) : Bool := 32 * x < pa + n && pa < 32 * x + 32
  if pa < 2 ^ 40 ∧ s.dv.badSect.any hit then
    let s1 := s.modDev fun d => { d with badSect := d.badSect.filter fun x => !hit x }
    let st := Store.frame (pa / 65536)
    (s1.setSide st (tileSums fmt (s1.storeRows st))).logErr (homeDie pa) 4 0#64
  else s

/-- Sectors of a tile, or of plain memory, written over. -/
def State.heal (s : State) (pa n : Nat) (l : Option TLoc) : State := s.healAs pa n ((l.map (·.fmt)).getD 15)

/-- The rows that `n` bits from bit `b` (within the first row) of a place cover: row, first bit and length in that
row, and the position of the piece in the value. -/
def rowSpans : Nat → Nat → Nat → Nat → Nat → List (Nat × Nat × Nat × Nat)
  | 0, _, _, _, _ => []
  | fuel + 1, i, b, n, off =>
    if n = 0 then []
    else
      let k := min n (2048 - b)
      (i, b, k, off) :: rowSpans fuel (i + 1) 0 (n - k) (off + k)

/-- One row's bits of a place replaced: bits `b` to `b + k − 1` of row `i` by those of `v`. -/
def State.placePut (s : State) (w : Who) (p : Place) (pair : Bool) (i b k v : Nat) : Option Cause × State :=
  let lo := b / 8
  let hi := (b + k + 7) / 8
  let mask := (2 ^ k - 1) <<< b
  let f (old : Row) : Row := BitVec.ofNat 2048 (bitsPut old.toNat b k v)
  let window (a : Nat) (swz : Bool) : Option (Option Cause × State) :=
    let off := (a - windowBase) % 2 ^ 30
    if windowBase ≤ a ∧ a < hostBase ∧ off < wAcc ∧ k = 2048 then
      let row := physRow swz (off / 256)
      let core := (a - windowBase) / 2 ^ 30
      match s.readyWrite (s.slotLoc w.space core (row / 256)) w.lid w.rank with
      | .error c => some (some c, s)
      | .ok (_, s1) =>
        let e : EngAcc := ⟨w.core, w.ch, w.id, row, swz, BitVec.ofNat 2048 v, w.lid, w.rank, none, a⟩
        some (none, s1.modCore core fun co => { co with engQ := co.engQ ++ [e] })
    else none
  match p with
  | .win pa swz =>
    let a := pa / 256 * 256 + 256 * i
    (window a swz).getD (s.putBits true (w.wr swz pair) a none lo hi mask f)
  | .virt _ (.mem pa l) =>
    let a := pa / 256 * 256 + 256 * i
    (window a false).getD
      (let r := s.putBits true (w.wr false pair) a l lo hi mask f
       (r.1, r.2.heal (a + lo) (hi - lo) l))
  | .virt va (.sym l _) =>
    match s.readyWrite l w.lid w.rank with
    | .error c => (some c, s)
    | .ok (st, s1) =>
      let r := s1.writeBitsAt true (some l) st (w.wr false pair) (va % 65536 / 256 + i) lo hi mask f
      match st with
      | .frame x => (r.1, r.2.heal (x * 65536 + va % 65536 / 256 * 256 + 256 * i + lo) (hi - lo) (some l))
      | .slot _ _ => r
  | .virt _ (.view _ _) => (some (engDenied 2 0), s)

/-- `n` bits from bit `b` of a place's first byte replaced by those of `v` (R276, R294, R299, R320): one write, which moves a
pair's generation once, at its first row, unless `pair` says that it was moved before (R344). -/
def State.placeBits (s : State) (w : Who) (p : Place) (pair : Bool) (b n v : Nat) : Option Cause × State :=
  (rowSpans (n / 2048 + 2) 0 (8 * (p.start % 256) + b) n 0).foldl (fun (acc : Option Cause × State) x =>
    let r := acc.2.placePut w p (pair || x.2.2.2 != 0) x.1 x.2.1 x.2.2.1 (bitsOf v x.2.2.2 x.2.2.1)
    (acc.1.or r.1, r.2)) (none, s)

/-- What a write at an operand address did: the bits it placed, the cause that stopped it, and a cause that did not. -/
structure Put where
  bits : Nat
  stop : Option Cause
  note : Option Cause
  deriving DecidableEq, Repr

/-- Bits from bit `b` of an operand address replaced, frame by frame: each place is found as the write reaches it, and what
stands before a failing one stays (R259). -/
def State.opPutBits (w : Who) : Nat → Nat → Nat → Nat → Nat → Put → State → Put × State
  | 0, _, _, _, _, x, s => (x, s)
  | fuel + 1, a, b, n, v, x, s =>
    if n = 0 then (x, s)
    else
      let k := min n (8 * (65536 - a % 65536) - b)
      let r := s.place w true a ((b + k + 7) / 8)
      match r.1 with
      | .error c => ({ x with stop := some c }, r.2)
      | .ok p =>
        let q := r.2.placeBits w p false b k (v % 2 ^ k)
        State.opPutBits w fuel (a + (b + k) / 8) ((b + k) % 8) (n - k) (v >>> k)
          { x with bits := x.bits + k, note := x.note.or q.1 } q.2

/-- `n` bits from bit `b` of an operand's first byte replaced by those of `v`. -/
def State.putAt (s : State) (w : Who) (a b n v : Nat) : Put × State :=
  State.opPutBits w (n / 524288 + 2) (a + b / 8) (b % 8) n v ⟨0, none, none⟩ s

/-- Bytes at an operand address replaced. -/
def State.opWrite (s : State) (w : Who) (a : Nat) (bs : List Byte) : Except Cause (Option Cause) × State :=
  let r := s.putAt w a 0 (8 * bs.length) (natOfBytes bs)
  match r.1.stop with
  | some c => (.error c, r.2)
  | none => (.ok r.1.note, r.2)

/-- Bytes at an operand address replaced, or, when some of them have no place, none. -/
def State.opWriteAll (s : State) (w : Who) (a : Nat) (bs : List Byte) : Except Cause (Option Cause) × State :=
  let r := s.places w true (bs.length / 65536 + 2) a bs.length
  match r.1 with
  | .error c => (.error c, r.2)
  | .ok _ => r.2.opWrite w a bs

/-! ### Whole tiles (R276, R278, R295) -/

/-- The tile that a piece is, when it covers one whole tile of a tensor. -/
def Place.tile (p : Place) : Option TLoc :=
  match p with
  | .virt va (.mem _ (some l)) => if va % 65536 = 0 ∧ !l.isSlot then some l else none
  | .virt va (.sym l _) => if va % 65536 = 0 ∧ !l.isSlot then some l else none
  | _ => none

/-- A tile written whole (R276, R278, R295): it has a frame, its sums come from the data, and PROMOTED is 0. A tile
that was symbolic takes a frame without expanding into it. -/
def State.putTile (s : State) (w : Who) (l : TLoc) (pair : Bool) (rows : List Row) : Option Cause × State :=
  let s := s.cancelOffload l
  let e := s.entry l
  let nf := rows.any (rowNF l.fmt)
  let was := entKind e.1 = 1
  match (if was then some (entFrame e.1, s) else s.takeFrame l.die) with
  | none => (some (poolEmpty l.ref), s)
  | some (f, s1) =>
    let st := Store.frame f
    let s2 := s1.modDev fun d =>
      d.store w.id w.core w.level (f * 65536) (rows.flatMap fun r => bytesOfNat 256 r.toNat)
    let s3 := (s2.setSide st (tileSums l.fmt rows)).modDev fun d =>
      { d with badSect := d.badSect.filter fun x => x / 2048 != f }
    let w0 := mkEnt 1 (nf || (was && entNF e.1)) false (entPgen e.1) true l.fmt f
    let s4 := s3.setEntry l w0 0#64
    let s5 := s4.noteDirty l w.lid w.rank (was && entDirty e.1)
    let s6 := if pair then s5 else s5.bumpOnce l w.id
    (none, (s6.dropViews l).sendMerge l.lux w.lid w.rank l.fmt (rows.flatMap (rowCodes l.fmt)) w.id)

/-- Whether a symbolic entry is legal at another tile (R273, R274, R276). -/
def State.entryFits (s : State) (src dst : TLoc) (w0 w1 : Word) : Bool :=
  match entKind w0 with
  | 2 => true
  | 3 => src.fmt == dst.fmt
  | 4 => src.fmt == dst.fmt
  | 5 =>
    match s.refLoc dst.sp w1 with
    | .ok x => legalSource dst x && src.fmt == dst.fmt && !(x.ref == dst.ref)
    | .error _ => false
  | _ => false

/-- Whether a copy of a whole tile to another copies its entry (R276). -/
def State.copiesEntry (s : State) (src dst : TLoc) : Bool :=
  let e := s.entry src
  entKind e.1 != 1 && s.entryFits src dst e.1 e.2

/-- A whole-tile write of a symbolic tile fails when its pool is empty or the frame it would take is refused (R266, R278). -/
def State.takeFault (s : State) (w : Who) (l : TLoc) : Option Cause :=
  if entKind (s.entry l).1 = 1 then none
  else (s.writeFault l).or
    ((s.refusal w.cls w.space true ((vget s.dv.pool l.die []).headD 0 * 65536) 65536).map Cause.engine)

/-- A symbolic entry copied to a tile (R276): no frame is written; a former frame returns to its pool. DEDUCED: log entry 59. -/
def State.copyEntry (s : State) (w : Who) (dst : TLoc) (w0 w1 : Word) : State :=
  let e := s.entry dst
  let s1 := (((s.cancelOffload dst).setEntry dst
    (mkEnt (entKind w0) (entNF w0) false (entPgen e.1) false dst.fmt 0) w1).dropFrame dst e.1).undirty dst
  let rows := s1.termRows (s1.resolve dst)
  ((s1.bumpOnce dst w.id).dropViews dst).sendMerge dst.lux w.lid w.rank dst.fmt (rows.flatMap (rowCodes dst.fmt)) w.id

/-- One whole tile copied (R276, R296, R316): its entry, or its checked bytes as the channel's core sees them. -/
def State.copyTile (s : State) (w : Who) (src dst : TLoc) : Option Cause × State :=
  let e := s.entry src
  if s.copiesEntry src dst then (none, s.copyEntry w dst e.1 e.2)
  else if (s.takeFault w dst).isSome then (s.takeFault w dst, s)
  else
    match s.resolve src with
    | .bad r => (some (unmapped src.ref r), s)
    | .stored false _ _ f _ =>
      match (upTo 0 2048).find? fun i => s.dv.badSect.contains (f * 2048 + i) with
      | some i => (some ⟨0x22#8, BitVec.ofNat 64 (f * 65536 + 32 * i)⟩, s.logErr (homeDie (f * 65536)) 4 0#64)
      | none =>
        let s0 := s.scrub (f * 65536) 65536
        let q := if entKind e.1 = 1 then s0.checkTile (.frame f) src.fmt src.ref else (⟨0, 0, 0, none⟩, s0)
        if q.1.kind = 3 then (some (sumCause (some src.ref) 0 q.1.row 0), q.2)
        else q.2.putTile w dst false ((upTo 0 256).map fun r => q.2.paRowAs w.agent w.id (f * 65536 + 256 * r))
    | t => s.putTile w dst false (s.termRows t)

end Sys2Proof.Machine
end

