-- ==== Sys2Proof/Machine/Symbols.lean ====
section
/-!
DEFINITION. Checking references for the K slot's tile instructions (R267, R285), and what a symbol written by TTSET or
XFILL must keep (R273, R287, R290).
-/

namespace Sys2Proof.Machine

/-- A reference checked for the K slot (R267, R285, R261, R126): the tile, and the cause when the reference is
malformed, a slot is not the task's, or the entry cannot be reached; `field` is where the register stands. -/
def State.tileRefK (s : State) (i : Instr) (field : Nat) (write : Bool) (r : Word) : Except Cause TLoc :=
  match s.refLoc s.pl.space r with
  | .error .malformed => .error (s.illegal i 3 field)
  | .error (.cause c) => .error c
  | .ok l =>
    if l.isSlot then
      if s.taskOwns l.c l.k s.pl.lid s.pl.rank then .ok l else .error (handleCause l.k)
    else
      match s.dv.desc s.pl.space l.desc with
      | none => .error (s.illegal i 3 field)
      | some x =>
        match s.dv.walk s.pl.space write false (descF x 0x18 0 55 + 16 * refTile l.ref) with
        | .error c => .error c
        | .ok _ => match s.refusal clsCore s.pl.space write l.ent 16 with
          | some c => .error c
          | none => .ok l

/-- Why a symbol is refused: an encoding reason and field, or a cause. -/
inductive SymErr where
  | enc (reason field : Nat)
  | cause (c : Cause)
  deriving DecidableEq, Repr

/-- A code replicated over 64 bits (R273). -/
def replicated (fmt : Nat) (w : Word) : Bool :=
  if fmt = 9 then w.toNat = packs 8 (List.replicate 8 (w.toNat % 64))
  else let b := elemBits fmt; w.toNat = packs b (List.replicate (64 / b) (w.toNat % 2 ^ b))

/-- Integer formats a RAMP may have (R273). -/
def rampFmt (fmt : Nat) : Bool := fmt ≤ 5 || fmt = 13 || fmt = 14

/-- A legal REPEAT source for a tile written with a format (R274, R287), and not the tile itself. -/
def repeatOk (l : TLoc) (fmt : Nat) (src : TLoc) : Bool := legalSource { l with fmt := fmt } src && !(src.ref == l.ref)

/-- The checks of TTSET on kind, format and word 1; a REPEAT of a REPEAT is flattened by one link (R287). The answer is
word 1 as written. -/
def State.symbol (s : State) (l : TLoc) (kind fmt : Nat) (w1 : Word) : Except SymErr Word :=
  if !(kind = 0 || (2 ≤ kind && kind ≤ 5)) then .error (.enc 3 0)
  else if !l.isSlot && fmt ≠ l.fmt then .error (.enc 10 4)
  else if kind = 4 && !rampFmt fmt then .error (.enc 10 4)
  else if kind = 3 && !replicated fmt w1 then .error (.enc 3 13)
  else if (kind = 2 || kind = 0) && w1 ≠ 0#64 then .error (.enc 3 13)
  else if kind = 5 then
    match s.refLoc l.sp w1 with
    | .error _ => .error (.enc 3 13)
    | .ok src =>
      if !repeatOk l fmt src then .error (.enc 3 13)
      else
        let e := s.entry src
        let w2 := if entKind e.1 = 5 then e.2 else w1
        match s.refLoc l.sp w2 with
        | .error _ => .error (.enc 3 13)
        | .ok src2 =>
          if !repeatOk l fmt src2 then .error (.enc 3 13)
          else if entKind (s.entry src2).1 = 0 then .error (.cause (unmapped l.ref 3))
          else .ok w2
  else .ok w1

end Sys2Proof.Machine
end

