-- ==== Sys2Proof/Machine/Copy.lean ====
section
/-!
DEFINITION. The X slot (R262 to R264, R290, R325, R332 to R357): what each instruction checks and does at issue. A
channel command is queued here; Machine/Engine.lean runs it.
-/

namespace Sys2Proof.Machine

/-! ### Command blocks (R339) -/

/-- The 64 bytes of a command block at a scratchpad address (R339). -/
def State.blockAt (s : State) (sx : Word) : BitVec 512 :=
  ((s.readRow false (sx.toNat / 256 % 65536)) >>> (512 * (sx.toNat / 64 % 4))).setWidth 512

/-- Whether the common header keeps its rules. -/
def headerOk (b : BitVec 512) : Bool := bF b 0 55 3 = 0 && bF b 0 0 6 = 0 && bF b 8 8 56 = 0

/-- Whether bytes `lo` to `hi − 1` of a block are zero. -/
def zeroed (b : BitVec 512) (lo hi : Nat) : Bool := bF b lo 0 (8 * (hi - lo)) = 0

/-- Whether an operand of XCOPY keeps R334 and is aligned to 32 bytes (R340). -/
def opAligned (a : Nat) (ms : List Nat) : Bool := opOk a ms && a % 32 = 0

/-! ### Queueing a command (R332, R335) -/

/-- A stream's control block; a stream nothing has written is at reset (R400). -/
def stream0 : Stream := ⟨0#2, false, false, 0, 0, 0, 0, 0, 0, 0, [], 0⟩

/-- A stream. -/
def Dev.stream (d : Dev) (i : Nat) : Stream := SMap.get stream0 d.jnl.streams i

/-- The device with a stream replaced. -/
def Dev.setStream (d : Dev) (i : Nat) (x : Stream) : Dev :=
  { d with jnl := { d.jnl with streams := SMap.set stream0 d.jnl.streams i x } }

/-- A command queued on its channel: what it reads at issue, and an ownership failure found then (R261, R332). DEDUCED: log entry 67. -/
def State.issueCmd (s : State) (i : Instr) (ar : BitVec 2) (ch : BitVec 3) (pb emit : BitVec 1) (x y z : Word)
    (blk : BitVec 512) (err : Option Cause) : State :=
  let o := s.owe ar
  let n := o.2.takeId
  let p := s.pl
  let c : Cmd :=
    { ins := i, x := x, y := y, z := z, blk := blk, seq := n.1, lid := p.lid, rank := p.rank, plane := s.co.lit,
      space := p.space, jact := p.jact, stream := p.stream, issued := p.tcount, arr := o.1, pb := pb == 1#1,
      emit := emit == 1#1 && p.jact, wm := none, replay := (s.dv.stream p.stream).mode == 1#2, st := .queued,
      err := none, result := err, pos := 0, done := 0, extra := none, fl := 0, peer := none, cur := [], sub := 0, bits := 0,
      unit := none, reads := [], asked := [], need := [],
      out := [] }
  { n.2 with co := { n.2.co with ch := vput n.2.co.ch ch.toNat (vget n.2.co.ch ch.toNat [] ++ [c]) } }

/-- A check of a register or block field (R335): field 18, 13, 8, or 23 for a block field. -/
def State.xLimit (s : State) (i : Instr) (field : Nat) (ok : Bool) : Option Cause := need ok (s.illegal i 3 field)

/-- A block-form command: its block's place, header and limits, and the ownership of the windows it names; of an operand
whose extent its data decide, the slot it starts in (R261, R334). -/
def State.blockForm (s : State) (i : Instr) (f : XBk) (emit : BitVec 1) (ok : BitVec 512 → Bool)
    (more : BitVec 512 → List (Option Cause)) (names : BitVec 512 → List (Nat × Nat)) :
    Host.Outcome State Fault Refusal :=
  let sx := s.rdS f.sx
  let b := s.blockAt sx
  s.guarded 6 (s.rowFault sx.toNat :: s.xLimit i 23 (headerOk b && ok b) :: more b) fun s =>
    let b := s.blockAt (s.rdS f.sx)
    s.issueCmd i f.ar f.ch f.pb emit sx 0#64 0#64 b ((names b).findSome? fun n => s.opForeign n.1 n.2)

/-! ### Copies (R340 to R345, R290) -/

/-- XCOPY (R340). -/
def execXcopy (f : XCp) (s : State) : Host.Outcome State Fault Refusal :=
  let d := (s.rdS f.sx).toNat
  let b := (s.rdS f.sy).toNat
  let n := (s.rdS f.sz).toNat
  s.guarded 6
    [s.xLimit (.xcopy f) 18 (opAligned d [n]), s.xLimit (.xcopy f) 13 (opAligned b [n]),
     s.xLimit (.xcopy f) 8 (0 < n && n % 32 = 0 && n < 2 ^ 40)] fun s =>
    s.issueCmd (.xcopy f) f.ar f.ch f.pb f.emit (s.rdS f.sx) (s.rdS f.sy) (s.rdS f.sz) 0#512
      ((s.opForeign d n).or (s.opForeign b n))

/-- The limits of a shaped copy (R335, R341); the rows of a window operand lie on its region's granularity (R334). -/
def Shape.ok (h : Shape) (b : BitVec 512) : Bool :=
  let w := elemBits h.fmt
  let g (a pitch start width rows : Nat) : Bool :=
    let u := 8 * opGran a
    opGran a = 1 || ((8 * opPa a + start) % u = 0 &&
      if rows = 1 || pitch = width then rows * width % u = 0 else width % u = 0 && pitch % u = 0)
  1 ≤ h.rows && 1 ≤ h.cols && h.fmt ≠ 15 && bF b 0x30 7 25 = 0 && (h.mode ≥ 2 || h.aux = 0) &&
  h.cols * w ≤ h.sp && (if h.mode % 2 = 1 then h.rows else h.cols) * w ≤ h.dp &&
  opOk h.dst [] && opOk h.src [] && (h.mode < 2 || opOk h.aux [256]) && g h.dst h.dp h.d0 (h.outDims.2 * w) h.outDims.1 &&
  g h.src h.sp h.s0 (h.cols * w) h.rows

/-- The scratchpad slots that the rows of a region of a window operand touch, each by its first address: `rows` rows of `len`
bits, `pitch` bits apart, from bit `start` on. A slot that lies in the gaps alone is not named (R261, R341). -/
def rowSlots (a start pitch rows len : Nat) : List (Nat × Nat) :=
  match opSlots a ((start + (rows - 1) * pitch + len + 7) / 8) with
  | none => []
  | some (_, lo, hi) =>
    let off := (opPa a - windowBase) % 2 ^ 30
    let base := 8 * off + start
    (upTo lo (hi + 1 - lo)).filterMap fun k =>
      let first := 524288 * k
      let i := if first < base + len then 0 else (first - base - len) / pitch + 1
      if i < rows && decide (base + i * pitch < first + 524288) then some (a + (65536 * k - off), 1) else none

/-- XCOPYT (R341). -/
def execXcopyt (f : XBk) (s : State) : Host.Outcome State Fault Refusal :=
  s.blockForm (.xcopyt f) f 0#1 (fun b => (shapeOf b).ok b) (fun _ => []) fun b =>
    let h := shapeOf b
    let w := elemBits h.fmt
    rowSlots h.dst h.d0 h.dp h.outDims.1 (h.outDims.2 * w) ++ rowSlots h.src h.s0 h.sp h.rows (h.cols * w) ++
      [(h.aux, if h.mode ≥ 2 then 256 * h.rows else 0)]

/-- The plain tile at which an XPAIR starts, when its reference names one and its count fits (R343). -/
def State.pairStart (s : State) (sp : Nat) (b : BitVec 512) : Option TLoc :=
  let n := bF b 0x20 0 32
  match s.refLoc sp (BitVec.ofNat 64 (bF b 0x18 0 64)) with
  | .error _ => none
  | .ok l =>
    match s.pairOf l, s.dv.desc sp l.desc with
    | some (true, _), some x => if refTile l.ref + n ≤ descTiles x then some l else none
    | _, _ => none

/-- XPAIR (R343). -/
def execXpair (f : XBk) (s : State) : Host.Outcome State Fault Refusal :=
  s.blockForm (.xpair f) f 0#1
    (fun b => 1 ≤ bF b 0x20 0 32 && bF b 0x20 0 32 ≤ 4096 && zeroed b 0x24 0x40 && opOk (bF b 0x10 0 64) [65536] &&
      (s.pairStart s.pl.space b).isSome)
    (fun _ => []) fun b => [(bF b 0x10 0 64, 65536 * bF b 0x20 0 32)]

/-- Kinds that TTSET and XFILL accept (R287, R290). -/
def kindOk (k : Nat) : Bool := k = 0 || (2 ≤ k && k ≤ 5)

/-- Whether a reference's own bits make it malformed (R267, R290). -/
def refBad (r : Word) : Bool := bitsOf r.toNat 0 16 ≠ 0 || (refDesc r = descSlots && refTile r ≥ 48 * 256)

/-- The first slot of a fill that the task does not own (R261). -/
def State.fillForeign (s : State) (r : Word) (n : Nat) : Option Cause :=
  if refDesc r = descSlots then
    let c := refTile r / 256
    let k := refTile r % 256
    ((upTo k (min n (256 - k))).find? fun j => !(s.taskOwns c j s.pl.lid s.pl.rank)).map handleCause
  else none

/-- XFILL (R290). -/
def execXfill (f : XFi) (s : State) : Host.Outcome State Fault Refusal :=
  let r := s.rdS f.sx
  let n := (s.rdS f.sy).toNat
  s.guarded 6
    [s.xLimit (.xfill f) 18 (!refBad r), s.xLimit (.xfill f) 13 (1 ≤ n && n ≤ 2 ^ 24),
     s.xLimit (.xfill f) 0 (kindOk f.kind.toNat)] fun s =>
    s.issueCmd (.xfill f) f.ar f.ch f.pb 0#1 (s.rdS f.sx) (s.rdS f.sy) (s.rdS f.sz) 0#512 (s.fillForeign r n)

/-- The limits of a gather or scatter (R335, R345). -/
def Gather.ok (g : Gather) (b : BitVec 512) : Bool :=
  1 ≤ g.n && g.n ≤ 2 ^ 24 && g.row % 32 = 0 && 32 ≤ g.row && g.row ≤ 2 ^ 20 && g.pitch % 32 = 0 && g.row ≤ g.pitch &&
  zeroed b 0x34 0x40 && opOk g.dst [g.row] && opOk g.src [g.row] && opOk g.idx [4 * g.n]

/-- XGATH (R345). -/
def execXgath (f : XBk) (s : State) : Host.Outcome State Fault Refusal :=
  s.blockForm (.xgath f) f 0#1 (fun b => let g := gatherOf b; g.ok b && opOk g.src [g.pitch]) (fun _ => []) fun b =>
    let g := gatherOf b; [(g.dst, g.n * g.row), (g.src, g.row), (g.idx, 4 * g.n)]

/-- XSCAT (R345). -/
def execXscat (f : XBk) (s : State) : Host.Outcome State Fault Refusal :=
  s.blockForm (.xscat f) f 0#1 (fun b => let g := gatherOf b; g.ok b && opOk g.dst [g.pitch]) (fun _ => []) fun b =>
    let g := gatherOf b; [(g.src, g.n * g.row), (g.dst, g.row), (g.idx, 4 * g.n)]

/-! ### Atomics and near-memory updates (R346 to R349) -/

/-- Whether an XACC op works on FP32 values (R346). -/
def accFloat (op : Nat) : Bool := op = 1 || op = 6 || op = 7

/-- XACC (R346). -/
def execXacc (f : XAc) (s : State) : Host.Outcome State Fault Refusal :=
  let z := (s.rdS f.sz).toNat
  s.guarded 6
    [s.xLimit (.xacc f) 18 ((s.rdS f.sx).toNat % (if z % 2 = 1 then 8 else 4) = 0),
     s.xLimit (.xacc f) 8 (z < 4 && !(z % 2 = 1 && accFloat f.op.toNat)), s.xLimit (.xacc f) 0 (f.op.toNat < 12)] fun s =>
    s.issueCmd (.xacc f) f.ar f.ch f.pb 0#1 (s.rdS f.sx) (s.rdS f.sy) (s.rdS f.sz) 0#512 none

/-- XCAS (R347). -/
def execXcas (f : XCa) (s : State) : Host.Outcome State Fault Refusal :=
  s.guarded 6 [s.xLimit (.xcas f) 18 ((s.rdS f.sx).toNat % (if f.w64 = 1#1 then 8 else 4) = 0)] fun s =>
    s.issueCmd (.xcas f) f.ar f.ch f.pb 0#1 (s.rdS f.sx) (s.rdS f.sy) (s.rdS f.sz) 0#512 none

/-- Fields of a near command's block (R348). -/
structure Near where
  alpha : Nat
  beta : Nat
  gamma : Nat
  delta : Nat
  kernel : Nat
  fmt : Nat
  n : Nat
  a : Nat
  b : Nat
  c : Nat
  deriving DecidableEq, Repr

/-- A near command read from its block. -/
def nearOf (b : BitVec 512) : Near :=
  ⟨bF b 0x10 0 32, bF b 0x14 0 32, bF b 0x18 0 32, bF b 0x1C 0 32, bF b 0x20 0 8, bF b 0x20 8 4, bF b 0x24 0 32,
   bF b 0x28 0 64, bF b 0x30 0 64, bF b 0x38 0 64⟩

/-- Bytes of an element of a near command's arrays, and of its C state (R348). -/
def Near.bytes (x : Near) : Nat := if x.fmt = 10 then 2 else 4
def Near.cBytes (x : Near) : Nat := if x.kernel = 5 then 8 else if x.kernel = 4 then 4 else 0

/-- The limits of a near command (R335, R348). -/
def Near.ok (x : Near) (b : BitVec 512) : Bool :=
  x.kernel ≤ 5 && (x.fmt = 10 || x.fmt = 12) && bF b 0x20 12 20 = 0 && 1 ≤ x.n && x.a % x.bytes = 0 &&
  (if x.kernel = 0 then x.b = 0 else x.b % x.bytes = 0) &&
  (if x.kernel ≤ 3 then x.c = 0 else x.c % x.cBytes = 0)

/-- XNEAR (R348). -/
def execXnear (f : XBk) (s : State) : Host.Outcome State Fault Refusal :=
  s.blockForm (.xnear f) f 0#1 (fun b => (nearOf b).ok b) (fun _ => []) fun _ => []

/-! ### Messages, collectives, media, residency (R350 to R357) -/

/-- XSEND (R351). -/
def execXsend (f : XSe) (s : State) : Host.Outcome State Fault Refusal :=
  s.blockForm (.xsend f) ⟨f.ar, f.sx, f.ch, f.pb⟩ f.emit
    (fun b => let n := bF b 0x18 0 40
      0 < n && n % 32 = 0 && bF b 0x18 49 15 = 0 && bF b 0x20 16 48 = 0 && zeroed b 0x28 0x40 &&
      opOk (bF b 0x10 0 64) [n])
    (fun _ => []) fun b => [(bF b 0x10 0 64, bF b 0x18 0 40)]

/-- XPOST (R350). -/
def execXpost (f : XBk) (s : State) : Host.Outcome State Fault Refusal :=
  s.blockForm (.xpost f) f 0#1
    (fun b => let n := bF b 0x18 0 40
      0 < n && n % 32 = 0 && bF b 0x18 40 24 = 0 && bF b 0x20 16 48 = 0 && zeroed b 0x28 0x40 &&
      opOk (bF b 0x10 0 64) [n])
    (fun _ => []) fun b => [(bF b 0x10 0 64, bF b 0x18 0 40)]

/-- Members of a task's domain at a level, from dmrL (R223). -/
def dmrCount (w : Word) : Nat := bitsOf w.toNat 16 16
def dmrRank (w : Word) : Nat := bitsOf w.toNat 0 16

/-- The limits of a collective (R352), for a domain of `m` members. -/
def Coll.ok (c : Coll) (b : BitVec 512) (m : Nat) : Bool :=
  1 ≤ c.n && (c.fmt = 4 || c.fmt = 10 || c.fmt = 12) && c.kind ≠ 3 && c.combine ≠ 3 && c.order ≠ 3 && 1 ≤ c.level &&
  c.level ≤ 4 && bF b 0x20 45 3 = 0 && zeroed b 0x28 0x40 && (c.kind ≠ 1 || c.n % m = 0)

/-- Bytes a member of `m` writes (R353). -/
def Coll.outBytes (c : Coll) (m : Nat) : Nat :=
  c.bytes * (if c.kind = 1 then c.n / m else if c.kind = 2 then m * c.n else c.n)

/-- Domain register of level `L` of a task (R223). -/
def Plane.dmrAt (p : Plane) (level : Nat) : Word := vget p.dmr level 0#64

/-- XCOLL (R352). -/
def execXcoll (f : XBk) (s : State) : Host.Outcome State Fault Refusal :=
  let m (b : BitVec 512) := dmrCount (s.pl.dmrAt (collOf b).level)
  s.blockForm (.xcoll f) f 0#1
    (fun b => let c := collOf b
      c.ok b (m b) && !(c.order = 2 && s.pl.jact) && opOk c.src [c.n * c.bytes] && opOk c.dst [c.outBytes (m b)])
    (fun _ => []) fun b =>
    let c := collOf b; [(c.src, c.n * c.bytes), (c.dst, c.outBytes (m b))]

/-- Bytes of a codec's context, as the capability registers report them (R354, R391, R417). -/
def Mgmt.ctxBytes (m : Mgmt) (codec : Nat) : Nat := 4096 * bitsOf m.ctx.toNat (12 * codec) 12

/-- XMEDIA (R354). -/
def execXmedia (f : XBk) (s : State) : Host.Outcome State Fault Refusal :=
  s.blockForm (.xmedia f) f 0#1
    (fun b => let fm := bF b 0x30 0 4
      bF b 0x18 40 4 ≤ 4 && bF b 0x18 44 20 = 0 && (fm = 1 || fm = 6 || fm = 8 || fm = 10) && bF b 0x30 4 12 = 0 &&
      opOk (bF b 0x10 0 64) [bF b 0x18 0 40] && opOk (bF b 0x20 0 64) [s.dv.mg.ctxBytes (bF b 0x18 40 4)] &&
      opOk (bF b 0x28 0 64) [])
    (fun _ => []) fun b =>
      [(bF b 0x10 0 64, bF b 0x18 0 40), (bF b 0x20 0 64, s.dv.mg.ctxBytes (bF b 0x18 40 4)), (bF b 0x28 0 64, 1)]

/-- XSPILL (R357). -/
def execXspill (f : XSp) (s : State) : Host.Outcome State Fault Refusal :=
  s.guarded 6
    [s.xLimit (.xspill f) 18 ((s.rdS f.sx).toNat < 2 ^ 24),
     s.xLimit (.xspill f) 0 (f.sel ≠ 0#2)] fun s =>
    s.issueCmd (.xspill f) f.ar f.ch f.pb 0#1 (s.rdS f.sx) (s.rdS f.sy) 0#64 0#512 none

/-- XRECALL (R357). -/
def execXrecall (f : XBk) (s : State) : Host.Outcome State Fault Refusal :=
  s.guarded 6 [s.xLimit (.xrecall f) 18 ((s.rdS f.sx).toNat < 2 ^ 24)] fun s =>
    s.issueCmd (.xrecall f) f.ar f.ch f.pb 0#1 (s.rdS f.sx) 0#64 0#64 0#512 none

/-! ### XFENCE (R325) -/

/-- Commands queued on the channels of a mask, by channel and number. -/
def Core.queuedOn (c : Core) (mask : Nat) : List (Nat × Nat) :=
  (upTo 0 8).flatMap fun k => if mask.testBit k then (vget c.ch k []).map fun x => (k, x.seq) else []

/-- Whether a command has completed: it has left its channel. -/
def Core.cmdDone (c : Core) (x : Nat × Nat) : Bool := (vget c.ch x.1 []).all fun y => y.seq != x.2

/-- Whether a far store has left every store queue of a core and is visible at a level. -/
def CoreBox.storeSeen (b : CoreBox) (d : Dev) (level id : Nat) : Bool :=
  (b.pl.sq ++ b.co.shadow.sq).all (fun q => q.id != id) && d.visible id level

/-- Whether a fence's waits are over (R325). -/
def Fence.over (f : Fence) (b : CoreBox) (d : Dev) : Bool :=
  f.cmds.all b.co.cmdDone && f.stores.all (b.storeSeen d 3)

/-- Fences whose waits are over arrive and go (R230, R325). -/
def State.fenceTick (s : State) (c : Nat) : State :=
  match s.box c with
  | none => s
  | some b =>
    let go := b.co.fences.filter fun f => f.over b s.dv
    let s1 := s.modCore c fun co => { co with fences := co.fences.filter fun f => !f.over b s.dv }
    go.foldl (fun s f => s.arrive f.arr [] 0) s1

/-- XFENCE (R325). -/
def execXfence (f : XFe) (s : State) : Host.Outcome State Fault Refusal :=
  let a := (s.rdS f.sx).toNat
  let h := bitsOf a 8 8
  s.guarded 6 [s.xLimit (.xfence f) 18 (a < 2 ^ 16 && !(h = 0 && (f.q = 0#1 || f.s = 1#1)))] fun s =>
    let o := s.owe f.ar
    let n := o.2.takeId
    let cmds := s.co.queuedOn (bitsOf a 0 8)
    let fn : Fence :=
      { held := BitVec.ofNat 8 h, cmds := cmds, stores := if f.s = 1#1 then s.planeStores else [], seq := n.1,
        arr := o.1, plane := s.co.lit }
    let s1 : State := { n.2 with co := { n.2.co with fences := n.2.co.fences ++ [fn] } }
    let s2 := if f.q = 1#1 then s1.modPl fun p =>
        { p with sq := p.sq ++ [⟨n.1, .cmds cmds, p.lid, p.rank, none, p.tcount⟩] } else s1
    s2.fenceTick s2.co.id

/-! ### Handing slots on (R262 to R264) -/

/-- A handle (R262). -/
def mkHandle (gen : BitVec 16) (core slot : Nat) : Word := BitVec.ofNat 64 (gen.toNat <<< 48 + core <<< 8 + slot)

/-- XHAND (R263). -/
def execXhand (f : R3) (s : State) : Host.Outcome State Fault Refusal :=
  let a := (s.rdS f.sy).toNat
  let t := (s.rdS f.sz).toNat
  let c := a / 256
  let k := a % 256
  let d3 := s.pl.dmrAt 3
  s.guarded 6
    [s.xLimit (.xhand f) 13 (a < 2 ^ 14), need (s.taskOwns c k s.pl.lid s.pl.rank) (handleCause k),
     s.xLimit (.xhand f) 8 (t < dmrCount d3 && t ≠ dmrRank d3)] fun s =>
    let x := (s.core c).slot k
    let o := s.owe f.ar
    let g := x.gen + 1#16
    let s1 := o.2.modCore c fun co => co.setSlot k
      { x with st := .offered, trank := BitVec.ofNat 8 t, gen := g, takeable := false, arr := o.1, since := s.dv.nextId }
    s1.resultS 6 1 f.sx (mkHandle g c k) none

/-- XTAKE (R264): the request leaves for the slot's core; the result lands 96 bundles from now. DEDUCED: log entry 68. -/
def execXtake (f : XTk) (s : State) : Host.Outcome State Fault Refusal :=
  let a := (s.rdS f.sy).toNat
  let c := bitsOf a 8 6
  let free := f.free == 1#1
  s.guarded 6
    [s.xLimit (.xtake f) 13 (if free then a < 2 ^ 14 else bitsOf a 14 34 = 0),
     need (free || s.dv.mg.cores.getLsbD c && decide (c < 48)) ⟨0x12#8, deniedDetail 1 false false 0⟩,
     s.lbFault] fun s =>
    let o := s.owe f.ar
    let w := o.2.await 6 96 (.sreg f.sx) true o.1
    w.2.modDev fun d =>
      { d with xtQ := d.xtQ ++
          [⟨c, a % 256, BitVec.ofNat 16 (a >>> 48), free, s.co.id, s.co.lit, s.pl.lid, s.pl.rank, w.1⟩] }

end Sys2Proof.Machine
end

