-- ==== Sys2Proof/Machine/VecFloat.lean ====
section
/-!
DEFINITION. Floating-point vector instructions (R165 to R167), transcendentals (R168), the generator (R169),
conversions and quantisation (R170 to R172).
-/

namespace Sys2Proof.Machine

/-! ### Floating point (R165): 4 bundles, VFMA 5 -/

/-- A two-operand floating-point instruction. -/
def State.vecFlt (s : State) (f : V3) (g : Nat → Nat → Nat → Elem) : Host.Outcome State Fault Refusal :=
  s.vec3 f 4 fun on a b => map2 f.fmt.toNat on a.data a.data b.data (g f.fmt.toNat)

/-- A one-operand floating-point instruction. -/
def State.vecFlt1 (s : State) (f : V2) (lat : Nat) (g : Nat → Nat → Elem) : Host.Outcome State Fault Refusal :=
  s.vec2 f lat fun on a => map1 f.fmt.toNat on a.data (g f.fmt.toNat)

/-- VFADD (R165). -/
def execVfadd (f : V3) (s : State) : Host.Outcome State Fault Refusal :=
  s.vecFlt f fAdd

/-- VFSUB (R165). -/
def execVfsub (f : V3) (s : State) : Host.Outcome State Fault Refusal :=
  s.vecFlt f fSub

/-- VFMUL (R165). -/
def execVfmul (f : V3) (s : State) : Host.Outcome State Fault Refusal :=
  s.vecFlt f fMul

/-- VFMIN (R165, R166). -/
def execVfmin (f : V3) (s : State) : Host.Outcome State Fault Refusal :=
  s.vecFlt f (fMinMax false)

/-- VFMAX (R165, R166). -/
def execVfmax (f : V3) (s : State) : Host.Outcome State Fault Refusal :=
  s.vecFlt f (fMinMax true)

/-- VFMA (R165): the addend is popped from the destination queue. -/
def execVfma (f : V3) (s : State) : Host.Outcome State Fault Refusal :=
  s.vecAcc f 5 fun on a b d => map3 f.fmt.toNat on a.data b.data d.data (fFma f.fmt.toNat)

/-- VFABS (R166). -/
def execVfabs (f : V2) (s : State) : Host.Outcome State Fault Refusal :=
  s.vecFlt1 f 4 (fSign false)

/-- VFNEG (R166). -/
def execVfneg (f : V2) (s : State) : Host.Outcome State Fault Refusal :=
  s.vecFlt1 f 4 (fSign true)

/-- VFRND (R166). -/
def execVfrnd (f : V2) (s : State) : Host.Outcome State Fault Refusal :=
  s.vecFlt1 f 4 fRnd

/-- VFCMP (R167). -/
def execVfcmp (f : VCm) (s : State) : Host.Outcome State Fault Refusal :=
  let cl := f.cl.toNat
  let m := f.fmt.toNat
  s.vector (cl + 2) f.ar [src f.va f.pa, src f.vb f.pb] none (.pred (4 * cl + f.vd.toNat)) 4 fun p =>
    cmpLanes m (active m (p.mask cl f.pred)) (p.operand cl f.va.toNat m).data (p.operand cl f.vb.toNat m).data
      (fCmp f.cond.toNat m)

/-! ### Transcendentals (R168): 8 bundles -/

/-- VRCP (R151, R152, R168). -/
def execVrcp (f : V2) (s : State) : Host.Outcome State Fault Refusal :=
  s.vecFlt1 f 8 (fTrans 0x28)

/-- VRSQ (R151, R152, R168). -/
def execVrsq (f : V2) (s : State) : Host.Outcome State Fault Refusal :=
  s.vecFlt1 f 8 (fTrans 0x29)

/-- VEXP2 (R151, R152, R168). -/
def execVexp2 (f : V2) (s : State) : Host.Outcome State Fault Refusal :=
  s.vecFlt1 f 8 (fTrans 0x2A)

/-- VLOG2 (R151, R152, R168). -/
def execVlog2 (f : V2) (s : State) : Host.Outcome State Fault Refusal :=
  s.vecFlt1 f 8 (fTrans 0x2B)

/-- VTANH (R151, R152, R168). -/
def execVtanh (f : V2) (s : State) : Host.Outcome State Fault Refusal :=
  s.vecFlt1 f 8 (fTrans 0x2C)

/-- VSIGM (R151, R152, R168). -/
def execVsigm (f : V2) (s : State) : Host.Outcome State Fault Refusal :=
  s.vecFlt1 f 8 (fTrans 0x2D)

/-! ### The generator (R169): 6 bundles -/

/-- One round of Philox4x32-10 on the counter words. -/
def philoxRound (c : Nat × Nat × Nat × Nat) (k0 k1 : Nat) : Nat × Nat × Nat × Nat :=
  let p := 0xD2511F53 * c.1
  let q := 0xCD9E8D57 * c.2.2.1
  (q / 2 ^ 32 ^^^ c.2.1 ^^^ k0, q % 2 ^ 32, p / 2 ^ 32 ^^^ c.2.2.2 ^^^ k1, p % 2 ^ 32)

/-- `n` rounds, the keys bumped before each but the first. -/
def philoxGo : Nat → Nat × Nat × Nat × Nat → Nat → Nat → Nat × Nat × Nat × Nat
  | 0, c, _, _ => c
  | n + 1, c, k0, k1 => philoxGo n (philoxRound c k0 k1) ((k0 + 0x9E3779B9) % 2 ^ 32) ((k1 + 0xBB67AE85) % 2 ^ 32)

/-- The four words of one block. -/
def philoxBlock (x k0 k1 : Nat) : List Nat :=
  let c := philoxGo 10 (bitsOf x 0 32, bitsOf x 32 32, bitsOf x 64 32, bitsOf x 96 32) k0 k1
  [c.1, c.2.1, c.2.2.1, c.2.2.2]

/-- The 64 words of VRNG from a latch. -/
def rngWords (bl : Row) : List Nat :=
  let b := bl.toNat
  (upTo 0 16).flatMap fun j => philoxBlock ((bitsOf b 64 128 + j) % 2 ^ 128) (bitsOf b 0 32) (bitsOf b 32 32)

/-- VRNG (R169), from blb. -/
def execVrng (f : VRn) (s : State) : Host.Outcome State Fault Refusal :=
  let m := f.fmt.toNat
  s.vector 3 f.ar [] none (.vq (16 + f.vd.toNat)) 6 fun p =>
    let w := rngWords (vget p.bl 1 0#2048)
    let r := if m = 12 then ofLanes 12 (w.map fun u => (arithRound fp32 (.fin false (u / 256) (-24))).1) else ofLanes 5 w
    moveLanes m (active m (p.mask 1 f.pred)) 0#2048 (lanes m r)

/-! ### Conversion and quantisation (R170 to R172): 4 bundles -/

/-- VCVT (R171). -/
def execVcvt (f : VCv) (s : State) : Host.Outcome State Fault Refusal :=
  let cl := f.cl.toNat
  let m := f.fmt.toNat
  let sm := f.sfmt.toNat
  s.vector (cl + 2) f.ar [src f.va f.pa] none (.vq (16 * cl + f.vd.toNat)) 4 fun p =>
    convLanes sm m (active m (p.mask cl f.pred)) (p.operand cl f.va.toNat sm).data (cvtElem sm m)

/-- Whether VQNT and VDQNT accept a register's tgt (R172). -/
def scaleTgtOk (t : Nat) : Bool :=
  t = 0 || t = 1 || t = 6 || t = 7 || t = 8 || t = 9 || t = 10 || t = 11 || t = 13 || t = 14

/-- The entry of a scale register whose tgt is not accepted (R172): all zero, INV when an element is active. -/
def unscaled (on : List Bool) : VRes := ⟨0#2048, none, if on.any id then fINV else 0, none⟩

/-- VQNT (R146, R172): activity at the width of the result format (R170), which is ks.tgt. -/
def execVqnt (f : VQn) (s : State) : Host.Outcome State Fault Refusal :=
  let cl := f.cl.toNat
  let m := f.fmt.toNat
  s.vector (cl + 2) f.ar [src f.va f.pa] none (.vq (16 * cl + f.vd.toNat)) 4 fun p =>
    let k := vget p.ks f.ks.toNat ⟨0#64, 0#32⟩
    let t := bitsOf k.w.toNat 32 4
    let q := p.mask cl f.pred
    if !scaleTgtOk t then unscaled (active m q)
    else
      let a := (p.operand cl f.va.toNat m).data
      let g := quantise m t (bitsOf k.w.toNat 0 32) k.rcp.toNat (bitsOf k.w.toNat 40 2) (f.chk == 1#1)
      let on := active t q
      let n := min (laneCount m) (laneCount t)
      let bad := ((on.zip (codes m a)).take n).findIdx? fun x => x.1 && (g x.2).2
      { convLanes m t on a (fun c => (g c).1) with
        cause := bad.map fun e => ⟨0x28#8, BitVec.ofNat 64 (e % 256 + f.ks.toNat <<< 8 + cl <<< 11)⟩ }

/-- VDQNT (R146, R172). -/
def execVdqnt (f : VDq) (s : State) : Host.Outcome State Fault Refusal :=
  let cl := f.cl.toNat
  let m := f.fmt.toNat
  s.vector (cl + 2) f.ar [src f.va f.pa] none (.vq (16 * cl + f.vd.toNat)) 4 fun p =>
    let k := vget p.ks f.ks.toNat ⟨0#64, 0#32⟩
    let t := bitsOf k.w.toNat 32 4
    let on := active m (p.mask cl f.pred)
    if !scaleTgtOk t then unscaled on
    else convLanes t m on (p.operand cl f.va.toNat t).data (dequantise t m (bitsOf k.w.toNat 0 32))

end Sys2Proof.Machine
end

