-- ==== Sys2Proof/Machine/Meta.lean ====
section
/-!
DEFINITION. The K slot: QPOP, latches and patterns, FLAGS, scale registers and Lux records (R309 to R314), CKSUM, the
tile instructions (R285 to R289), job control blocks (R236), the journal (R402, R409, R411), CTAG and RESQ (R358).
-/

namespace Sys2Proof.Machine

/-- A check of a register field (R311): field 18, 13 or 8. -/
def State.kLimit (s : State) (i : Instr) (field : Nat) (ok : Bool) : Option Cause := need ok (s.illegal i 3 field)

/-- A scalar result of the K slot one bundle on. -/
def State.resultK (s : State) (ar : BitVec 2) (sd : BitVec 5) (v : Word) : State :=
  let o := s.owe ar
  o.2.resultS 7 1 sd v o.1

/-! ### QPOP, latches, patterns (R338, R160, R122) -/

/-- Whether a command of the executing plane's task has not completed. -/
def State.outstanding (s : State) : Bool :=
  s.co.ch.toList.any fun q => q.any fun c => c.lid == s.pl.lid && c.rank == s.pl.rank && c.plane == s.co.lit

/-- QPOP (R338). With .w on an empty xq the sequencer freezes before the bundle until an entry arrives. -/
def execQpop (f : KQp) (s : State) : Host.Outcome State Fault Refusal :=
  if f.q = 1#1 then
    s.guarded 7 [s.pl.popFault 32 false] fun s =>
      (s.modPl fun p => p.popAtEnd 32).resultK f.ar f.sx ((s.pl.headOf 32).tag.setWidth 64)
  else
    s.guarded 7 [need (!(f.w == 1#1 && s.pl.xq.isEmpty && !s.outstanding)) (resultQueue 11)] fun s =>
      let o := s.owe f.ar
      let full := !s.pl.xq.isEmpty
      let r := o.2.resultS 7 1 f.sx (s.pl.xq.headD 0#64) o.1
      let note (x : Flight) : Flight := { x with qfSet := if f.w = 1#1 then none else some full }
      r.modPl fun p =>
        { p with flight := s.pl.flight ++ (p.flight.drop s.pl.flight.length).map note, xq := p.xq.tail }

/-- KBL (R160). -/
def execKbl (f : KBl) (s : State) : Host.Outcome State Fault Refusal :=
  s.guarded 7 [] fun s =>
    let v := (s.rdS f.sx).toNat
    let m := f.fmt.toNat
    let w := if m = 15 then 64 else laneBits m
    let row : Row := BitVec.ofNat 2048 (packs w (List.replicate (2048 / w) (if m = 15 then v else toLane m v)))
    (s.modPl fun p => { p with bl := vput p.bl f.cl.toNat row }).retireNow f.ar

/-- KBL.W (R160). -/
def execKblW (f : KBw) (s : State) : Host.Outcome State Fault Refusal :=
  s.guarded 7 [] fun s =>
    (s.modPl fun p =>
      let old := (vget p.bl f.cl.toNat 0#2048).toNat
      { p with bl := vput p.bl f.cl.toNat (BitVec.ofNat 2048 (bitsPut old (64 * f.i.toNat) 64 (p.rdS f.sx).toNat)) }).retireNow
      f.ar

/-- KXPAT (R122). -/
def execKxpat (f : KXp) (s : State) : Host.Outcome State Fault Refusal :=
  let x : BitVec 128 := s.rdS f.sy ++ s.rdS f.sx
  s.guarded 7
    [s.kLimit (.kxpat f) 0 ((upTo 0 (patC x)).all fun j => patOff x j + patW x ≤ patP x)] fun s =>
    (s.modPl fun p => { p with xp := vput p.xp f.xp.toNat (p.rdS f.sy ++ p.rdS f.sx) }).retireNow f.ar

/-! ### FLAGS (R144) -/

/-- FLAGS.RD. -/
def execFlagsRd (f : KF1) (s : State) : Host.Outcome State Fault Refusal :=
  s.guarded 7 [] fun s => s.resultK f.ar f.sx ((vget s.pl.flags f.eng.toNat 0#16).setWidth 64)

/-- FLAGS.CLR. -/
def execFlagsClr (f : KF2) (s : State) : Host.Outcome State Fault Refusal :=
  s.guarded 7 [] fun s =>
    let w := vget s.pl.flags f.eng.toNat 0#16
    (s.modPl fun p =>
      { p with flags := vput p.flags f.eng.toNat (w &&& ~~~((p.rdS f.sy).setWidth 16 &&& 0x1F#16)) }).resultK f.ar f.sx
      (w.setWidth 64)

/-- FLAGS.EN. -/
def execFlagsEn (f : KF2) (s : State) : Host.Outcome State Fault Refusal :=
  s.guarded 7 [] fun s =>
    let w := vget s.pl.flags f.eng.toNat 0#16
    (s.modPl fun p =>
      { p with flags := vput p.flags f.eng.toNat ((w &&& 0xE0FF#16) ||| (((p.rdS f.sy).setWidth 16 &&& 0x1F#16) <<< 8)) }).resultK
      f.ar f.sx (w.setWidth 64)

/-! ### Scale registers (R145, R309) -/

/-- Fields of a scale configuration (R311). -/
def cfgTgt (y : Word) : Nat := bitsOf y.toNat 0 4
def cfgExact (y : Word) : Bool := y.getLsbD 4
def cfgMg (y : Word) : Nat := bitsOf y.toNat 5 2
def cfgHr (y : Word) : Nat := bitsOf y.toNat 7 2

/-- A scale register's word (R145). -/
def scaleWord (hr mg mode tgt scale : Nat) : Nat := hr <<< 40 + mg <<< 38 + mode <<< 36 + tgt <<< 32 + scale % 2 ^ 32

/-- The smallest e with a × 2^p ≤ b × 2^(q + e), among `lo` to `lo + 3`. -/
def ceilLog (a : Nat) (p : Int) (b : Nat) (q lo : Int) : Int :=
  if leP2 a p b (q + lo) then lo else if leP2 a p b (q + lo + 1) then lo + 1
  else if leP2 a p b (q + lo + 2) then lo + 2 else lo + 3

/-- The scale KSCALE derives from an amax and its flags (R309). -/
def deriveScale (amax tgt : Nat) (exact : Bool) (mg : Nat) : Nat × Nat :=
  match decodeF fp32 amax with
  | .fin _ m e =>
    if m = 0 then (packF fp32 false 1 0, 0)
    else
      let mx := maxFin tgt
      if exact then
        let q := quot m mx.1 (e + mg - mx.2)
        let r := rneF fp32 q.1 q.2.1 q.2.2
        let fx := if r.inx then fINX else 0
        if overF fp32 r.m r.e then (fp32.maxCode false, fx ||| fSAT)
        else if ltP2 r.m r.e 1 (-126) then (packF fp32 false 1 (-126), fx ||| fSAT)
        else (packF fp32 false r.m r.e, fx)
      else
        let x := ceilLog m e mx.1 mx.2 ((Nat.log2 m : Int) + e - Nat.log2 mx.1 - mx.2 - 1) + mg
        if x < -126 then (packF fp32 false 1 (-126), fSAT)
        else if x > 127 then (packF fp32 false 1 127, fSAT)
        else (packF fp32 false 1 x, 0)
  | _ => (fp32.maxCode false, fSAT)

/-- A scale register's value in flight: its word, and rcp above it. -/
def scaleVal (w : Nat) : Row := BitVec.ofNat 2048 (w + (scaleRcp (w % 2 ^ 32)) <<< 64)

/-- The checks of KSCALE and KSCALEI (R311): `bits` the width of sa, `kLow` whether mode must be 0. -/
def State.scaleChecks (s : State) (i : Instr) (f : KSc) (bits : Nat) (kLow : Bool) : List (Option Cause) :=
  let y := s.rdS f.sy
  [s.kLimit i 18 ((s.rdS f.sx).toNat < 2 ^ bits), s.kLimit i 13 (y.toNat < 512 && !(kLow && cfgExact y)),
   need (scaleTgtOk (cfgTgt y)) (s.illegal i 10 13)]

/-- KSCALE (R309). -/
def execKscale (f : KSc) (s : State) : Host.Outcome State Fault Refusal :=
  s.guarded 7 (s.scaleChecks (.kscale f) f 16 false) fun s =>
    let y := s.rdS f.sy
    let r := (s.dv.luxRec (s.rdS f.sx).toNat).sealed
    let d := deriveScale (luxF r 0 32) (cfgTgt y) (cfgExact y) (cfgMg y)
    let fl := d.2 ||| (if luxF r 0x18 32 + luxF r 0x1C 32 ≠ 0 then fNAN else 0)
    let w := scaleWord (cfgHr y) (cfgMg y) (b2n (cfgExact y)) (cfgTgt y) d.1
    let o := s.freeze.owe f.ar
    o.2.result 7 3 (.scale f.ks.toNat) (scaleVal w) 0#24 4 (BitVec.ofNat 5 fl) o.1

/-- KSCALEI (R309). -/
def execKscalei (f : KSc) (s : State) : Host.Outcome State Fault Refusal :=
  s.guarded 7 (s.scaleChecks (.kscalei f) f 32 true) fun s =>
    let y := s.rdS f.sy
    let w := scaleWord (cfgHr y) (cfgMg y) 2 (cfgTgt y) (s.rdS f.sx).toNat
    let o := s.owe f.ar
    o.2.result 7 3 (.scale f.ks.toNat) (scaleVal w) 0#24 4 0#5 o.1

/-! ### Lux records (R305, R312 to R314) -/

/-- The cause of an access to a descriptor, if it cannot be reached (R126, R312, R358). -/
def State.descFault (s : State) (sp i : Nat) (write : Bool) : Option Cause :=
  let t := SMap.get (0, 0) s.dv.descs sp
  match s.dv.walk sp write false (t.1 + 128 * i) with
  | .error c => some c
  | .ok lf => s.refusal clsCore sp write (bitsOf lf.entry 16 36 <<< 16 + (t.1 + 128 * i) % 2 ^ lvlShift lf.level) 128

/-- KRBIND (R312). -/
def execKrbind (f : KRb) (s : State) : Host.Outcome State Fault Refusal :=
  let i : Instr := .krbind f
  let un := f.unbind == 1#1
  let t := s.tileRefK i 18 false (s.rdS f.sx)
  let shape : Option Cause := match t with
    | .ok l => if l.isSlot then none
        else if refTile l.ref = 0 then s.descFault l.sp l.desc true else some (s.illegal i 3 18)
    | .error _ => none
  s.guarded 7 [errOf t, shape, s.kLimit i 13 ((s.rdS f.sy).toNat < 2 ^ 16)] fun s =>
    let r := (s.rdS f.sy).toNat % 2 ^ 16
    let bind (s : State) : State :=
      match s.tileRefK i 18 false (s.rdS f.sx) with
      | .error _ => s
      | .ok l =>
        if l.isSlot then
          s.modCore l.c fun c => c.setSlot l.k
            { c.slot l.k with lux := if un then none else some (BitVec.ofNat 16 r) }
        else s.modDev fun d => d.putDesc l.sp l.desc 0x20 4 (if un then 0 else 2 ^ 16 + r)
    let cos (s : State) : State :=
      if un then s
      else s.modDev fun d =>
        let x := d.luxRec r
        d.setLux r { x with live := BitVec.ofNat 2048 (bitsPut x.live.toNat 1864 1 f.cos.toNat) }
    (cos (bind s)).freeze.retireNow f.ar

/-- The far stores of the executing task that wait in its SQ: their merges are still to be sent (R307). -/
def State.queuedStfs (s : State) : List Nat :=
  s.pl.sq.filterMap fun q => match q.kind with
    | .stf _ _ _ _ _ => if q.lid = s.pl.lid ∧ q.rank = s.pl.rank then some q.id else none
    | .mark => none
    | .fence _ => none
    | .cmds _ => none

/-- KREC (R313): the request leaves; the field lands 96 bundles from now. -/
def execKrec (f : KRc) (s : State) : Host.Outcome State Fault Refusal :=
  let i : Instr := .krec f
  let z := (s.rdS f.sz).toNat
  s.guarded 7
    [s.kLimit i 13 ((s.rdS f.sy).toNat < 2 ^ 16), s.kLimit i 8 (if f.fld = 8#4 then z < 48 else true), s.lbFault] fun s =>
    let o := s.owe f.ar
    let w := o.2.await 7 96 (.sreg f.sx) true o.1
    let op : LuxOp := .read (f.sealed == 1#1) f.fld.toNat (z % 48) s.co.id s.co.lit w.1
    w.2.modDev fun d =>
      { d with luxQ := d.luxQ ++ [⟨(s.rdS f.sy).setWidth 16, s.pl.lid, s.pl.rank, op, none, s.queuedStfs, 0⟩] }

/-- A request of the executing task sent to a record's home, behind the merges of its earlier writes (R307, R314). -/
def State.luxRequest (s : State) (ar : BitVec 2) (rec_ : Word) (op : LuxOp) : State :=
  let o := s.owe ar
  o.2.modDev fun d => { d with luxQ := d.luxQ ++ [⟨rec_.setWidth 16, s.pl.lid, s.pl.rank, op, o.1, s.queuedStfs, 0⟩] }

/-- KRCLR (R314). -/
def execKrclr (f : KRr) (s : State) : Host.Outcome State Fault Refusal :=
  s.guarded 7
    [s.kLimit (.krclr f) 18 ((s.rdS f.sx).toNat < 2 ^ 16), s.kLimit (.krclr f) 0 (f.sel ≠ 0#2)] fun s =>
    s.luxRequest f.ar (s.rdS f.sx) (.clear f.sel)

/-- KSEAL (R314). -/
def execKseal (f : R1) (s : State) : Host.Outcome State Fault Refusal :=
  s.guarded 7 [s.kLimit (.kseal f) 18 ((s.rdS f.sx).toNat < 2 ^ 16)] fun s =>
    s.luxRequest f.ar (s.rdS f.sx) .seal

/-! ### CKSUM and the tile instructions (R302, R285 to R289) -/

/-- TILE_UNMAPPED when a checked reference does not resolve (R276, R302). -/
def State.mapped (s : State) (t : Except Cause TLoc) : Option Cause :=
  match t with
  | .ok l => match s.resolve l with
    | .bad r => some (unmapped l.ref r)
    | _ => none
  | .error _ => none

/-- The walk of the tile's own address for a K-slot instruction that reads or writes the tile's data (R270). -/
def State.tileWalkK (s : State) (write : Bool) (l : TLoc) : Option Cause × State := s.tileWalk (dieOf s.co.id) none write l

/-- The state once a K-slot instruction has read a tile's entry, and, when it accesses the data, walked its address. -/
def State.tileTouch (s : State) (data : Option Bool) (l : TLoc) : State :=
  let s1 := s.markChain 5 l
  match data with
  | some w => (s1.tileWalkK w l).2
  | none => s1

/-- A K-slot instruction over one tile: its checks, then its effect with a frozen sequencer and a scalar result; `data`
says whether it reads or writes the tile's data. -/
def State.tileOp (s : State) (i : Instr) (ar : BitVec 2) (sd : BitVec 5) (field : Nat) (write : Bool) (r : Word)
    (data : TLoc → Option Bool) (more : List (Option Cause)) (eff : State → TLoc → Word × State) :
    Host.Outcome State Fault Refusal :=
  let t := s.tileRefK i field write r
  let walk : Option Cause := match t with
    | .ok l => (data l).bind fun w => (s.tileWalkK w l).1
    | .error _ => none
  s.guarded 7 (errOf t :: walk :: more) fun s =>
    match s.tileRefK i field write r with
    | .error _ => s
    | .ok l => let x := eff (s.tileTouch (data l) l) l; x.2.freeze.resultK ar sd x.1

/-- The outcome word of CKSUM (R302). -/
def chkWord (kind row col : Nat) (sym : Bool) : Word :=
  BitVec.ofNat 64 (kind + b2n sym <<< 2 + (row % 256) <<< 8 + (col % 256) <<< 16)

/-- CKSUM (R302). -/
def execCksum (f : R2) (s : State) : Host.Outcome State Fault Refusal :=
  let i : Instr := .cksum f
  let t := s.tileRefK i 13 false (s.rdS f.sy)
  s.tileOp i f.ar f.sx 13 false (s.rdS f.sy) (fun _ => some false) [s.mapped t] fun s l =>
    let e := s.entry l
    if entKind e.1 = 1 then
      let q := s.checkTile (storeOf l e.1) l.fmt l.ref
      (chkWord q.1.kind q.1.row q.1.col false, q.2)
    else (chkWord 0 0 0 true, s)

/-- TTQ (R286). -/
def execTtq (f : KTq) (s : State) : Host.Outcome State Fault Refusal :=
  s.tileOp (.ttq f) f.ar f.sx 13 false (s.rdS f.sy) (fun _ => none) [] fun s l =>
    let e := s.entry l
    let w1 := if l.isSlot then ((s.core l.c).slot l.k).winW1 else e.2
    (if f.w1 = 1#1 then w1 else e.1, s)

/-- A symbol error as a precise cause of an instruction. DEDUCED: log entry 57. -/
def State.symCause (s : State) (i : Instr) : SymErr → Cause
  | .enc r fld => s.illegal i r fld
  | .cause c => c

/-- TTSET (R287). -/
def execTtset (f : KTs) (s : State) : Host.Outcome State Fault Refusal :=
  let i : Instr := .ttset f
  let bad : Option Cause :=
    match s.refLoc s.pl.space (s.rdS f.sx) with
    | .ok l => match s.symbol l f.kind.toNat f.fmt.toNat (s.rdS f.sy) with
      | .error x => some (s.symCause i x)
      | .ok _ => none
    | .error _ => none
  s.guarded 7 [errOf (s.tileRefK i 18 true (s.rdS f.sx)), bad] fun s =>
    match s.tileRefK i 18 true (s.rdS f.sx) with
    | .error _ => s
    | .ok l =>
      match s.symbol l f.kind.toNat f.fmt.toNat (s.rdS f.sy) with
      | .error _ => s
      | .ok w1 => ((s.markChain 1 l).writeSym l f.kind.toNat f.fmt.toNat w1 s.pl.lid s.pl.rank).freeze.retireNow f.ar

/-- The reference `j` tiles after a reference; past the last tile a reference can name, one that names none. -/
def refPlus (r : Word) (j : Nat) : Word := if refTile r + j < 2 ^ 24 then r + BitVec.ofNat 64 (j <<< 40) else r ||| 0xFFFF#64

/-- Whether `n` tiles from a tile on lie within its tensor or its core's slots (R288, R290). -/
def State.runFits (s : State) (l : TLoc) (n : Nat) : Bool :=
  if l.isSlot then l.k + n ≤ 256
  else match s.dv.desc l.sp l.desc with
    | some x => refTile l.ref + n ≤ descTiles x
    | none => false

/-- TTSETTLE (R288). -/
def execTtsettle (f : R3) (s : State) : Host.Outcome State Fault Refusal :=
  let i : Instr := .ttsettle f
  let n := (s.rdS f.sz).toNat
  let r := s.rdS f.sy
  let t := s.tileRefK i 13 true r
  let fits := match s.refLoc s.pl.space r with
    | .ok l => s.runFits l n
    | .error _ => true
  s.guarded 7
    (s.kLimit i 8 (1 ≤ n && n ≤ 256 && fits) :: errOf t ::
      (upTo 1 ((if n ≤ 256 then n else 1) - 1)).map fun j => errOf (s.tileRefK i 13 true (refPlus r j))) fun s =>
    let q := (upTo 0 n).foldl (fun (acc : Nat × State) j =>
      match acc.2.tileRefK i 13 true (refPlus r j) with
      | .error _ => acc
      | .ok l => let x := (acc.2.markChain 1 l).settle l; (acc.1 + b2n x.1, x.2)) (0, s)
    q.2.freeze.resultK f.ar f.sx (BitVec.ofNat 64 q.1)

/-- TTPROMO (R289). -/
def execTtpromo (f : R2) (s : State) : Host.Outcome State Fault Refusal :=
  let i : Instr := .ttpromo f
  let t := s.tileRefK i 13 true (s.rdS f.sy)
  let pool : Option Cause := match t with
    | .ok l => if entKind (s.entry l).1 = 1 then none else s.writeFault l
    | .error _ => none
  s.tileOp i f.ar f.sx 13 true (s.rdS f.sy) (fun l => if entKind (s.entry l).1 = 1 then none else some true) [pool] fun s l =>
    let k := entKind (s.entry l).1
    let s1 := match s.readyWrite l s.pl.lid s.pl.rank with
      | .ok x => x.2
      | .error _ => s
    (BitVec.ofNat 64 k, s1)

/-! ### Job control blocks (R236) -/

/-- A request sent to a block's home; an update's block always has an address. -/
def State.jcbSend (s : State) (b : Block) (op : JOp) (stores : List Nat) (arr : Option Owed) : State :=
  let pa := match b with | .at_ pa => pa | .row _ => 0
  s.modDev fun d => { d with jcbQ := d.jcbQ ++ [⟨pa, s.pl.lid, s.pl.rank, op, stores, arr⟩] }

/-- A JCB instruction: the block's translation, then its request. -/
def State.jcbOp (s : State) (write : Bool) (a : Word) (more : List (Option Cause)) (eff : State → Block → State) :
    Host.Outcome State Fault Refusal :=
  s.guarded 7 (errOf (s.blockPa write a).1 :: more) fun s =>
    match s.blockPa write a with
    | (.error _, s1) => s1
    | (.ok pa, s1) => eff s1 pa

/-- JCBADD (R236). -/
def execJcbadd (f : KJa) (s : State) : Host.Outcome State Fault Refusal :=
  s.jcbOp true (s.rdS f.sx) [s.kLimit (.jcbadd f) 13 ((s.rdS f.sy).toNat < 2 ^ 32)] fun s pa =>
    let o := s.owe f.ar
    o.2.jcbSend pa (.add ((s.rdS f.sy).setWidth 32) f.slot.toNat) [] o.1

/-- JCBDONE (R236): it waits for the task's earlier far stores. -/
def execJcbdone (f : KJd) (s : State) : Host.Outcome State Fault Refusal :=
  s.jcbOp true (s.rdS f.sx) [] fun s pa =>
    let o := s.owe f.ar
    o.2.jcbSend pa (.done (some f.slot.toNat) (f.close == 1#1) (if f.err = 1#1 then some 0x30#8 else none))
      (s.taskStores s.pl) o.1

/-- JCBQ (R236). -/
def execJcbq (f : R2) (s : State) : Host.Outcome State Fault Refusal :=
  s.jcbOp false (s.rdS f.sy) [s.lbFault] fun s pa =>
    let o := s.owe f.ar
    let w := o.2.await 7 96 (.sreg f.sx) true o.1
    w.2.jcbSend pa (match pa with
      | .at_ _ => .query s.co.id s.co.lit w.1
      | .row b => .queryRow b s.co.id s.co.lit w.1) [] none

/-! ### The journal (R401 to R403, R409, R411) -/

/-- Fields of a journal entry (R401). -/
def jKind (e : BitVec 512) : Nat := bitsOf e.toNat 0 4
def jStream (e : BitVec 512) : Nat := bitsOf e.toNat 32 10
def jStep (e : BitVec 512) : Nat := bitsOf e.toNat 64 64
def jSeq (e : BitVec 512) : Nat := bitsOf e.toNat 128 64

/-- An entry's header (R401). -/
def jHeader (stream layer gfmt count kind : Nat) : Nat :=
  (stream % 1024) <<< 32 + (layer % 2 ^ 16) <<< 16 + gfmt <<< 12 + count <<< 4 + kind

/-- An entry, its sequence number 0 until it is numbered. -/
def mkJournal (header : Nat) (step : Word) (payload : Nat) : BitVec 512 :=
  BitVec.ofNat 512 (header + step.toNat <<< 64 + (payload % 2 ^ 320) <<< 192)

/-- The stream's lstep as the appends of the executing task still on their way will leave it (R400, R403). -/
def State.lstepNow (s : State) : Nat :=
  s.dv.jnl.reqs.foldl (fun a r =>
    match r.op with
    | .append e _ _ _ => if r.lid = s.pl.lid ∧ r.rank = s.pl.rank then jStep e else a
    | _ => a) (s.dv.stream s.pl.stream).lstep

/-- jact must be set (R403). -/
def State.jactFault (s : State) (i : Instr) : Option Cause := need s.pl.jact (s.illegal i 3 0)

/-- An append (R402, R403): its checks, the request to the controller, and sd awaited. -/
def State.append (s : State) (i : Instr) (f : R3) (more : List (Option Cause)) (entry : State → BitVec 512) :
    Host.Outcome State Fault Refusal :=
  s.guarded 7
    ([s.jactFault i, need (!s.pl.jact || decide (s.lstepNow ≤ (s.rdS f.sz).toNat)) (s.illegal i 3 8)] ++ more) fun s =>
    let o := s.owe f.ar
    let w := o.2.await 7 1 (.sreg f.sx) false o.1
    let r : JnlReq := ⟨s.pl.stream, s.pl.lid, s.pl.rank, s.pl.tcount, .append (entry s) s.co.id s.co.lit w.1, none⟩
    w.2.freeze.modDev fun d => { d with jnl := { d.jnl with reqs := d.jnl.reqs ++ [r] } }

/-- JEMIT (R402): a TOKEN entry. -/
def execJemit (f : KJe) (s : State) : Host.Outcome State Fault Refusal :=
  s.append (.jemit f) ⟨f.ar, f.sx, f.sy, f.sz⟩ [s.rowFault (s.rdS f.sy).toNat] fun s =>
    let n := f.n.toNat + 1
    mkJournal (jHeader s.pl.stream 0 0 n 0) (s.rdS f.sz) ((s.blockAt (s.rdS f.sy)).toNat % 2 ^ (32 * n))

/-- JEMIT.MARK (R402): a MARKER entry. -/
def execJemitMark (f : R3) (s : State) : Host.Outcome State Fault Refusal :=
  s.append (.jemitMark f) f [s.rowFault (s.rdS f.sy).toNat] fun s =>
    mkJournal (jHeader s.pl.stream 0 0 0 3) (s.rdS f.sz) ((s.blockAt (s.rdS f.sy)).toNat % 2 ^ 320)

/-- JROUTE (R402): a ROUTE entry. -/
def execJroute (f : KJr) (s : State) : Host.Outcome State Fault Refusal :=
  s.append (.jroute f) ⟨f.ar, f.sx, f.sy, f.sz⟩ [s.rowFault (s.rdS f.sy).toNat] fun s =>
    let n := f.n.toNat + 1
    let b := s.blockAt (s.rdS f.sy)
    mkJournal (jHeader s.pl.stream (bF b 32 0 16) (if f.gf = 1#1 then 8 else 6) n 1) (s.rdS f.sz)
      (b.toNat % 2 ^ (32 * n))

/-- JGEN (R402): a GEN entry. -/
def execJgen (f : R3) (s : State) : Host.Outcome State Fault Refusal :=
  s.append (.jgen f) f [need ((s.rdS f.sy).toNat < 2 ^ 32) (s.illegal (.jgen f) 2 13)] fun s =>
    let b := (vget s.pl.bl 1 0#2048).toNat
    let c := bitsOf b 64 128
    mkJournal (jHeader s.pl.stream 0 0 1 2) (s.rdS f.sz)
      (c + ((c + 16 * (s.rdS f.sy).toNat) % 2 ^ 128) <<< 128 + (bitsOf b 0 64) <<< 256)

/-- JRPL (R409): the request leaves; the entry lands 96 bundles from now. -/
def execJrpl (f : KJp) (s : State) : Host.Outcome State Fault Refusal :=
  let q := 16 * f.cl.toNat + f.q.toNat
  s.guarded 7 [s.jactFault (.jrpl f), s.pl.pushFault q 1 [], s.lbFault] fun s =>
    let o := s.owe f.ar
    let w := o.2.await 7 96 (.vq q) true o.1
    let r : JnlReq := ⟨s.pl.stream, s.pl.lid, s.pl.rank, s.pl.tcount, .read f.kind.toNat s.co.id s.co.lit w.1, none⟩
    w.2.modDev fun d => { d with jnl := { d.jnl with reqs := d.jnl.reqs ++ [r] } }

/-- JTRUNC (R411). -/
def execJtrunc (f : R1) (s : State) : Host.Outcome State Fault Refusal :=
  s.guarded 7 [s.jactFault (.jtrunc f)] fun s =>
    let o := s.owe f.ar
    let r : JnlReq := ⟨s.pl.stream, s.pl.lid, s.pl.rank, s.pl.tcount, .trunc (s.rdS f.sx).toNat, o.1⟩
    o.2.modDev fun d => { d with jnl := { d.jnl with reqs := d.jnl.reqs ++ [r] } }

/-! ### Residency (R358) -/

/-- TILE_UNMAPPED of a descriptor index that names no active descriptor (R358). -/
def State.descActive (s : State) (i : Nat) : Option Cause :=
  need (s.dv.desc s.pl.space i).isSome (unmapped (tileRef (i % 2 ^ 24) 0) 0)

/-- CTAG (R358). -/
def execCtag (f : R3) (s : State) : Host.Outcome State Fault Refusal :=
  let i : Instr := .ctag f
  let d := (s.rdS f.sx).toNat
  s.guarded 7
    [s.kLimit i 18 (d < 2 ^ 24), s.kLimit i 13 ((s.rdS f.sy).toNat < 2 ^ 48), s.kLimit i 8 ((s.rdS f.sz).toNat < 2 ^ 16),
     s.descActive d, if (s.descActive d).isNone then s.descFault s.pl.space d true else none] fun s =>
    ((s.modDev fun dv => dv.putDesc s.pl.space d 0x28 8 ((s.rdS f.sz).toNat <<< 48 + (s.rdS f.sy).toNat)).freeze).retireNow
      f.ar

/-- RESQ (R358). -/
def execResq (f : R2) (s : State) : Host.Outcome State Fault Refusal :=
  let d := (s.rdS f.sy).toNat
  s.guarded 7
    [s.kLimit (.resq f) 13 (d < 2 ^ 24), s.descActive d,
     if (s.descActive d).isNone then s.descFault s.pl.space d false else none] fun s =>
    let s1 := s.modDev fun dv => dv.markUsed s.pl.space false ((SMap.get (0, 0) dv.descs s.pl.space).1 + 128 * d)
    s1.freeze.resultK f.ar f.sx (BitVec.ofNat 64 (((s1.dv.desc s.pl.space d).map fun x => descF x 0x38 0 64).getD 0))

end Sys2Proof.Machine
end

