-- ==== Sys2Proof/Machine/Engine.lean ====
section
/-!
DEFINITION. Running channel commands (R276, R290, R324, R326, R340 to R354): what the next piece of each does to data, as
one step of the machine, and how its progress and its outcome are noted in the command.
-/

namespace Sys2Proof.Machine

/-- Who a command of a channel is (R265, R315): its own core acts for it. -/
def Cmd.who (c : Cmd) (core ch cls : Nat) : Who := ⟨core, dieOf core, cls, c.space, c.lid, c.rank, core, ch, c.seq, 0⟩

/-- A command that has failed. -/
def Cmd.fail (c : Cmd) (k : Cause) : Cmd := { c with st := .moved, result := some k }

/-- A command that has moved its data. -/
def Cmd.moved (c : Cmd) : Cmd := { c with st := .moved }

/-- A command that has finished a piece of `units` of its `total` positions, with `done` more to count: it runs on, or has
moved everything (R324). -/
def Cmd.go (c : Cmd) (units done total : Nat) : Cmd :=
  { c with st := if total ≤ c.pos + units then .moved else .running, pos := c.pos + units, done := c.done + done, sub := 0 }

/-- A failure noted for a piece that lets the others go on (R298, R371). -/
def Cmd.note (c : Cmd) (k : Option Cause) : Cmd := { c with err := c.err.or k }

/-! ### XCOPY (R340) -/

/-- Whether an operand is a push window, which takes every entry of a copy (R253, R340). DEDUCED: log entry 58. -/
def opPush (a : Nat) : Bool :=
  opWin a && windowBase ≤ opPa a && opPa a < windowBase + 48 * 2 ^ 30 &&
    (let off := (opPa a - windowBase) % 2 ^ 30; decide (wPush ≤ off) && decide (off < wPush + 0x20000))

/-- One piece of a copy: a whole tile on both sides, or bytes read whole and then written. The answer says whether it
was placed. -/
def State.copyPiece (s : State) (w : Who) (src dst : Place) (n : Nat) : Bool × Option Cause × State :=
  match (if n = 65536 then src.tile else none), (if n = 65536 then dst.tile else none) with
  | some a, some b =>
    let r := s.copyTile w a b
    (r.1.isNone, r.1, r.2)
  | _, _ =>
    let r := s.placeBytes w src n
    match r.2.1 with
    | some k => (false, some k, r.2.2)
    | none =>
      let x := r.2.2.placeBits w dst false 0 (8 * n) (natOfBytes r.1)
      (true, x.1, x.2)

/-- Bytes written at places one after another. -/
def State.putPlaces (w : Who) : List (Place × Nat) → Nat → State → Option Cause × State
  | [], _, s => (none, s)
  | (p, n) :: t, v, s =>
    let x := s.placeBits w p false 0 (8 * n) (v % 2 ^ (8 * n))
    let y := State.putPlaces w t (v >>> (8 * n)) x.2
    (x.1.or y.1, y.2)

/-- The first cause that reading places meets, their bytes, and the state after the checks. -/
def State.getPlaces (w : Who) (ps : List (Place × Nat)) (s : State) : List Byte × Option Cause × State :=
  ps.foldl (fun (acc : List Byte × Option Cause × State) p =>
    let b := acc.2.2.placeBytes w p.1 p.2
    (acc.1 ++ b.1, acc.2.1.or b.2.1, b.2.2)) ([], none, s)

/-- A piece of a copy whose operands may each lie in two frames: read whole and then written. -/
def State.copyBytes (s : State) (w : Who) (src dst : List (Place × Nat)) : Bool × Option Cause × State :=
  match src, dst with
  | [(a, n)], [(b, _)] => s.copyPiece w a b n
  | _, _ =>
    let r := State.getPlaces w src s
    match r.2.1 with
    | some k => (false, some k, r.2.2)
    | none => let x := State.putPlaces w dst (natOfBytes r.1) r.2.2; (true, x.1, x.2)

/-- Whether a piece is a whole tile whose entry is copied, so that its destination takes no frame (R276). -/
def State.symbolic (s : State) (src : List (Place × Nat)) : Bool :=
  match src with
  | [(p, n)] => n = 65536 && match p.tile with | some l => entKind (s.entry l).1 != 1 | none => false
  | _ => false

/-- XCOPY's next piece (R259, R340): an entry of a push window, which may take its bytes from two frames, or up to 64 KiB read
whole and then written. DEDUCED: log entry 99. -/
def State.runXcopy (s : State) (core ch : Nat) (c : Cmd) : Cmd × State :=
  let w := c.who core ch clsCopy
  let d := c.x.toNat
  let b := c.y.toNat + c.pos
  let n := c.z.toNat
  if opPush d then
    let k := min 256 (n - c.pos)
    let r := s.opRead w b k
    match r.1 with
    | .error e => if e.skips then ((c.note (some e)).go k 0 n, r.2) else (c.fail e, r.2)
    | .ok bs =>
      let x := r.2.opWrite w d bs
      match x.1 with
      | .error e => (c.fail e, x.2)
      | .ok e => ((c.note e).go k k n, x.2)
  else
    let k := min 65536 (n - c.pos)
    let r := s.places w false 3 b k
    match r.1 with
    | .error e => (c.fail e, r.2)
    | .ok src =>
      let whole := r.2.symbolic src && (d + c.pos) % 65536 = 0
      let t := r.2.places w true 3 (d + c.pos) k (!whole)
      match t.1 with
      | .error e => (c.fail e, t.2)
      | .ok dst =>
        let x := t.2.copyBytes w src dst
        match x.2.1 with
        | none => (c.go k k n, x.2.2)
        | some e => if e.skips then ((c.note (some e)).go k (if x.1 then k else 0) n, x.2.2) else (c.fail e, x.2.2)

/-! ### Shaped copies (R341) -/

/-- Row `i` of a region: `cols` elements of `w` bits at bit `start + i × pitch` of an operand. -/
def State.regionRow (s : State) (w : Who) (a start pitch bits cols i : Nat) : Except Cause (List Nat) × State :=
  let b := start + i * pitch
  let r := s.opRead w (a + b / 8) ((b % 8 + cols * bits + 7) / 8)
  match r.1 with
  | .error c => (.error c, r.2)
  | .ok bs => (.ok (elems bits cols (natOfBytes bs >>> (b % 8))), r.2)

/-- Rows of a region; a row that cannot be read for a cause that skips is none, with the cause noted. -/
def State.regionRows (s : State) (w : Who) (a start pitch bits cols : Nat) :
    List Nat → Except Cause (List (Option (List Nat)) × Option Cause) × State
  | [] => (.ok ([], none), s)
  | i :: t =>
    let r := s.regionRow w a start pitch bits cols i
    match r.1 with
    | .error c =>
      if c.skips then
        let q := State.regionRows r.2 w a start pitch bits cols t
        match q.1 with
        | .error e => (.error e, q.2)
        | .ok x => (.ok (none :: x.1, some (x.2.getD c)), q.2)
      else (.error c, r.2)
    | .ok v =>
      let q := State.regionRows r.2 w a start pitch bits cols t
      match q.1 with
      | .error e => (.error e, q.2)
      | .ok x => (.ok (some v :: x.1, x.2), q.2)

/-- The metadata position of a stored row of a group and a column; the group's row count for a row that is not there. -/
def groupPos (mt : List (Option (List Nat))) (size s j : Nat) : Nat := match mt[s]? with | some (some l) => (l[j]?).getD size | _ => size

/-- The first invalid position of a group, by stored row and column (R212, R341). -/
def groupBad (size first cols : Nat) (mt : List (Option (List Nat))) : Option (Nat × Nat) :=
  let pos := groupPos mt size
  let badAt (s j : Nat) : Bool := size ≤ pos s j || (upTo 0 s).any fun t => pos t j == pos s j
  (upTo 0 mt.length).findSome? fun s => ((upTo 0 cols).find? fun j => badAt s j).map fun j => (first + s, j)

/-- Element `j` of dense row `k` of a group: the stored element whose position is `k`, else 0 (R341). -/
def groupElem (size : Nat) (rows mt : List (Option (List Nat))) (k j : Nat) : Nat :=
  match (upTo 0 rows.length).find? fun s => groupPos mt size s j == k with
  | some s => (((rows[s]?).getD none).getD [])[j]?.getD 0
  | none => 0

/-- SPARSE_METADATA of a stored row and column (R212). -/
def sparseCause (row col : Nat) : Cause := ⟨0x18#8, BitVec.ofNat 64 (row % 512 + (col % 512) <<< 9)⟩

/-- Columns `lo` to `lo + cols − 1` of the dense rows `ks` of group `g` of an expanding copy, row after row: none of them stands
when a stored row or a metadata row cannot be read, or a position is invalid (R212, R341). -/
def State.groupRows (s : State) (w : Who) (h : Shape) (g lo cols : Nat) (ks : List Nat) :
    Except Cause (List (Option Nat) × Option Cause) × State :=
  let bits := elemBits h.fmt
  let size := if h.pat = 0#1 then 4 else 8
  let first := size / 2 * g
  let idx := upTo first (min (size / 2) (h.rows - first))
  let r := State.regionRows s w h.src (h.s0 + bits * lo) h.sp bits cols idx
  match r.1 with
  | .error e => (.error e, r.2)
  | .ok src =>
    let q := State.regionRows r.2 w h.aux 0 2048 4 h.cols idx
    match q.1 with
    | .error e => (.error e, q.2)
    | .ok mt =>
      let bad := if mt.1.any (·.isNone) then none else groupBad size first h.cols mt.1
      let here := mt.1.map fun m => m.map fun l => (l.drop lo).take cols
      let out := ks.flatMap fun k => (upTo 0 cols).map fun j =>
        if src.1.any (·.isNone) || mt.1.any (·.isNone) || bad.isSome then none else some (groupElem size src.1 here k j)
      (.ok (out, (src.2.or mt.2).or (bad.map fun x => sparseCause x.1 x.2)), q.2)

/-- Column `j` of an expanded block, group by group. -/
def State.groupCol (w : Who) (h : Shape) (j size : Nat) : List Nat → State → Except Cause (List (Option Nat) × Option Cause) × State
  | [], s => (.ok ([], none), s)
  | g :: t, s =>
    let r := s.groupRows w h g j 1 (upTo 0 (min size (h.outRows - size * g)))
    match r.1 with
    | .error e => (.error e, r.2)
    | .ok x =>
      let q := State.groupCol w h j size t r.2
      match q.1 with
      | .error e => (.error e, q.2)
      | .ok y => (.ok (x.1 ++ y.1, x.2.or y.2), q.2)

/-- The elements of row `k` of what a shaped copy writes (R341): none where nothing is written, with the cause. DESIGN CHOICE: log
entry 43. -/
def State.shapeRow (s : State) (w : Who) (h : Shape) (k : Nat) : Except Cause (List (Option Nat) × Option Cause) × State :=
  let bits := elemBits h.fmt
  let size := if h.pat = 0#1 then 4 else 8
  match h.mode with
  | 0 =>
    let r := State.regionRows s w h.src h.s0 h.sp bits h.cols [k]
    (r.1.map fun x => (x.1.flatMap fun l => (match l with | some v => v.map some | none => List.replicate h.cols none), x.2), r.2)
  | 1 =>
    let r := State.regionRows s w h.src (h.s0 + bits * k) h.sp bits 1 (upTo 0 h.rows)
    (r.1.map fun x => (x.1.map fun l => l.bind (·.head?), x.2), r.2)
  | 2 => s.groupRows w h (k / size) 0 h.cols [k % size]
  | _ => State.groupCol w h k size (upTo 0 (ceilDiv h.outRows size)) s

/-- The runs of bits that the elements of a row are: one when every element stands, else one for each that does. -/
def rowRuns (bits : Nat) (row : List (Option Nat)) : List (Nat × Nat × Nat) :=
  if row.all (·.isSome) then [(0, bits * row.length, packs bits (row.filterMap id))]
  else ((upTo 0 row.length).zip row).filterMap fun x => x.2.map fun v => (bits * x.1, bits, v)

/-- Runs of bits placed from bit `b` of an operand's first byte on, but for what stands of the row already (R259). -/
def State.putRuns (w : Who) (a b : Nat) : List (Nat × Nat × Nat) → Cmd → State → Cmd × State
  | [], c, s => (c, s)
  | (o, n, v) :: t, c, s =>
    if o + n ≤ c.sub then State.putRuns w a b t c s
    else
      let k := c.sub - o
      let r := s.putAt w a (b + o + k) (n - k) (v >>> k)
      let c1 := { c.note r.1.note with sub := o + k + r.1.bits, bits := c.bits + r.1.bits }
      match r.1.stop with
      | some e => (c1.fail e, r.2)
      | none => State.putRuns w a b t c1 r.2

/-- XCOPYT's next destination row (R341). -/
def State.runXcopyt (s : State) (core ch : Nat) (c : Cmd) : Cmd × State :=
  let w := c.who core ch clsCopy
  let h := shapeOf c.blk
  let r := s.shapeRow w h c.pos
  match r.1 with
  | .error e => (c.fail e, r.2)
  | .ok row =>
    let x := State.putRuns w h.dst (h.d0 + c.pos * h.dp) (rowRuns (elemBits h.fmt) row.1) (c.note row.2) r.2
    let c1 := { x.1 with done := (x.1.bits + 7) / 8 }
    (if c1.result.isSome then c1 else c1.go 1 0 h.outDims.1, x.2)

/-! ### XPAIR (R343) -/

/-- The transposed image of a tile of bytes. -/
def transposeTile (rows : List Row) : List Row :=
  (upTo 0 256).map fun j => BitVec.ofNat 2048 (packs 8 (rows.map fun r => bitsOf r.toNat (8 * j) 8))

/-- A tile of a pair written with its new generation, its own address translated for the write (R270, R343). -/
def State.putPair (s : State) (w : Who) (l : TLoc) (rows : List Row) (g : Nat) : Option Cause × State :=
  let t := s.tileWalk w.die (some (tlbHolder w.core w.ch)) true l
  match t.1.or (t.2.writeFault l) with
  | some c => (some c.engine, t.2)
  | none =>
    let f := if entKind (t.2.entry l).1 = 1 then entFrame (t.2.entry l).1 else (vget t.2.dv.pool l.die []).headD 0
    match t.2.refusal w.cls w.space true (f * 65536) 65536 with
    | some c => (some c.engine, t.2)
    | none =>
      let r := (t.2.markChain 1 l).putTile w l true rows
      match r.1 with
      | some c => (some c, r.2)
      | none => let e := r.2.entry l; (none, (r.2.setEntry l (entPut e.1 48 8 g) e.2).modDev fun d => d.equalGens l)

/-- XPAIR's next tile (R343). -/
def State.runXpair (s : State) (core ch : Nat) (c : Cmd) : Cmd × State :=
  let w := c.who core ch clsCopy
  let n := bF c.blk 0x20 0 32
  let t := refPlus (BitVec.ofNat 64 (bF c.blk 0x18 0 64)) c.pos
  match s.refLoc w.space t with
  | .error (.cause e) => (c.fail e, s)
  | .error .malformed => (c.fail (unmapped t 0), s)
  | .ok l =>
    match s.pairOf l with
    | none => (c.fail (unmapped l.ref 0), s)
    | some (_, p) =>
      let r := s.opRead w (bF c.blk 0x10 0 64 + 65536 * c.pos) 65536
      match r.1 with
      | .error e => if e.skips then ((c.note (some e)).go 1 0 n, r.2) else (c.fail e, r.2)
      | .ok bs =>
        let rows := (elems 2048 256 (natOfBytes bs)).map (BitVec.ofNat 2048)
        let g := (entPgen (r.2.entry l).1 + 1) % 256
        let a := r.2.putPair w l rows g
        match a.1 with
        | some e => (c.fail e, a.2)
        | none =>
          let b := a.2.putPair w p (transposeTile rows) g
          match b.1 with
          | some e => (c.fail e, b.2)
          | none => (c.go 1 1 n, b.2)

/-! ### XFILL (R290) -/

/-- ILLEGAL_ENCODING of a fill's record: reason 3 and a field, with word 0 (R290). -/
def fillCause (field : Nat) : Cause := ⟨0x02#8, decodeDetail 0 3 field 0 0⟩

/-- Whether XFILL may write a tile's entry, and the state after the walk: a slot its task may still touch (R261), or the entry's
own address for a write (R256, R268, R285). -/
def State.fillPlace (s : State) (w : Who) (l : TLoc) : Option Cause × State :=
  if l.isSlot then (if s.mayTouch w l.c l.k then none else some (handleCause l.k), s)
  else match s.dv.desc l.sp l.desc with
    | none => (none, s)
    | some x =>
      let r := s.dv.xlate w.die (some (tlbHolder w.core w.ch)) l.sp true false (descF x 0x18 0 55 + 16 * refTile l.ref)
      let s1 := { s with dv := r.2 }
      match r.1 with
      | .error c => (some c.engine, s1)
      | .ok _ => ((s1.refusal w.cls w.space true l.ent 16).map Cause.engine, s1.markChain 1 l)

/-- XFILL's next tile (R290). -/
def State.runXfill (s : State) (core ch : Nat) (f : XFi) (c : Cmd) : Cmd × State :=
  let w := c.who core ch clsCopy
  let kind := f.kind.toNat
  let past := refDesc c.x = descSlots && 256 ≤ refTile c.x % 256 + c.pos
  match (if past then .error .malformed else s.refLoc w.space (refPlus c.x c.pos)) with
  | .error (.cause e) => (c.fail e.engine, s)
  | .error .malformed => (c.fail (fillCause (if c.pos = 0 then 18 else 13)), s)
  | .ok l =>
    let r := s.fillPlace w l
    match r.1 with
    | some e => (c.fail e, r.2)
    | none =>
      match r.2.symbol l kind l.fmt c.z with
      | .error (.enc _ _) => (c.fail (fillCause 8), r.2)
      | .error (.cause e) => (c.fail e, r.2)
      | .ok v => (c.go 1 1 c.y.toNat, r.2.writeSym l kind l.fmt v w.lid w.rank)

/-! ### XGATH and XSCAT (R345) -/

/-- XGATH's or XSCAT's next row (R345). -/
def State.runRows (s : State) (core ch : Nat) (scat : Bool) (c : Cmd) : Cmd × State :=
  let g := gatherOf c.blk
  let w := c.who core ch clsCopy
  let r := s.opRead w (g.idx + 4 * c.pos) 4
  match r.1 with
  | .error e => if e.skips then ((c.note (some e)).go 1 0 g.n, r.2) else (c.fail e, r.2)
  | .ok ib =>
    let i := natOfBytes ib
    let none_ := i = 0xFFFFFFFF
    if scat && none_ then (c.go 1 0 g.n, r.2)
    else
      let q := if none_ then (Except.ok (List.replicate g.row 0#8), r.2)
        else r.2.opRead w (g.src + (if scat then c.pos * g.row else i * g.pitch)) g.row
      match q.1 with
      | .error e => if e.skips then ((c.note (some e)).go 1 0 g.n, q.2) else (c.fail e, q.2)
      | .ok bs =>
        let x := State.putRuns w (g.dst + (if scat then i * g.pitch else c.pos * g.row)) 0 [(0, 8 * g.row, natOfBytes bs)] c q.2
        (if x.1.result.isSome then x.1 else x.1.go 1 1 g.n, x.2)

/-! ### Atomics (R326, R346, R347) -/

/-- The new value of an XACC over `w` bits, and its flags (R346). -/
def accNew (op w old v : Nat) : Nat × Nat :=
  let a := sgn w old
  let b := sgn w v
  match op with
  | 0 => ((old + v) % 2 ^ w, 0)
  | 1 => fAdd 12 old v
  | 2 => (if a ≤ b then old else v, 0)
  | 3 => (if a ≤ b then v else old, 0)
  | 4 => (min old v, 0)
  | 5 => (max old v, 0)
  | 6 => fMinMax false 12 old v
  | 7 => fMinMax true 12 old v
  | 8 => (old &&& v, 0)
  | 9 => (old ||| v, 0)
  | 10 => (old ^^^ v, 0)
  | _ => (v, 0)

/-- An atomic step at the memory port of `n` bytes at a virtual address (R326): every store positioned there becomes
visible, the coherence-latest value is read, and `f` of it, when it gives one, is written. The old value, or the cause
that leaves the location unchanged; and the cause of an uncorrectable old row. -/
def State.atomicStep (s : State) (w : Who) (a n : Nat) (f : Nat → Option Nat) :
    Except Cause (Nat × Option Cause) × State :=
  if opWin a then (.error (engDenied 2 (opPa a)), s)
  else
    let r := s.place { w with level := 4 } true a n
    match r.1 with
    | .error e => (.error e, r.2)
    | .ok p =>
      let q : Except Cause (Nat × Option TLoc) × State := match p with
        | .virt _ (.mem pa l) =>
          if windowBase ≤ pa ∧ pa < hostBase then (.error (engDenied 2 pa), r.2) else (.ok (pa, l), r.2)
        | .virt va (.sym l _) => match r.2.readyWrite l w.lid w.rank with
          | .ok (.frame x, s1) => (.ok (x * 65536 + va % 65536, some l), s1)
          | .ok (.slot _ _, s1) => (.error (engDenied 2 0), s1)
          | .error e => (.error e, r.2)
        | _ => (.error (engDenied 2 0), r.2)
      match q.1 with
      | .error e => (.error e, q.2)
      | .ok (pa, l) =>
        if pa < 2 ^ 40 ∧ q.2.dv.badSect.contains (pa / 32) then
          (.error ⟨0x22#8, BitVec.ofNat 64 (pa / 32 * 32)⟩, q.2.logErr (homeDie pa) 4 0#64)
        else
          let s1 := if inQueuePage pa then q.2 else (q.2.scrub pa n).modDev fun d => Dev.fold (d.raise pa n)
          let old := if inQueuePage pa then natOfBytes (s1.paBytes w.agent pa n) else s1.dv.portNat pa n
          match f old with
          | none => (.ok (old, none), s1)
          | some v =>
            let o := pa % 256
            let x := s1.putPiece ({ w with level := 4 }.wr false false) (pa / 256 * 256) l o (o + n) fun row =>
              BitVec.ofNat 2048 (bitsPut row.toNat (8 * o) (8 * n) v)
            (.ok (old, x.1), x.2)

/-- XACC applied (R346). -/
def State.runXacc (s : State) (core ch : Nat) (f : XAc) (c : Cmd) : Cmd × State :=
  let n := if c.z.getLsbD 0 then 8 else 4
  let v := c.y.toNat % 2 ^ (8 * n)
  let r := s.atomicStep (c.who core ch clsCopy) c.x.toNat n fun old => some (accNew f.op.toNat (8 * n) old v).1
  match r.1 with
  | .error e => (c.fail e, r.2)
  | .ok (old, e) =>
    ({ c with st := .moved, done := 1, err := e, fl := (accNew f.op.toNat (8 * n) old v).2,
              extra := if c.z.getLsbD 1 then some (BitVec.ofNat 64 old) else none }, r.2)

/-- XCAS applied (R347). -/
def State.runXcas (s : State) (core ch : Nat) (f : XCa) (c : Cmd) : Cmd × State :=
  let n := if f.w64 = 1#1 then 8 else 4
  let m := 2 ^ (8 * n)
  let r := s.atomicStep (c.who core ch clsCopy) c.x.toNat n fun old =>
    if old = c.y.toNat % m then some (c.z.toNat % m) else none
  match r.1 with
  | .error e => (c.fail e, r.2)
  | .ok (old, e) => ({ c with st := .moved, done := 1, err := e, extra := some (BitVec.ofNat 64 old) }, r.2)

/-! ### Near-memory kernels (R348, R349) -/

/-- A value rounded once to FP32 with its flags, as the value it stands for. -/
def nearRound (x : Num × Nat) : Num × Nat :=
  let r := arithRound fp32 x.1
  (decodeF fp32 r.1, r.2 ||| x.2)

/-- a ± b × c terms with their flags combined. -/
def nAddF (a b : Num × Nat) : Num × Nat := let r := nadd a.1 b.1; (r.1, r.2 ||| a.2 ||| b.2)
def nMulF (a b : Num × Nat) : Num × Nat := let r := nmul a.1 b.1; (r.1, r.2 ||| a.2 ||| b.2)
def nNegF (a : Num × Nat) : Num × Nat := (a.1.neg, a.2)

/-- The FP32 code of an exact value that is representable. -/
def code32 (x : Num) : BitVec 32 := BitVec.ofNat 32 (arithRound fp32 x).1

/-- √v rounded once (R348); where the spec states no root, a free value (DESIGN CHOICE, log entry 21). -/
def nearRoot (v : Num × Nat) : Num × Nat :=
  match v.1 with
  | .nan sg => (.nan false, nanFlags (.nan sg) ||| v.2)
  | .fin false m e =>
    if m = 0 then v
    else
      let q := root m e
      let r := arithMag fp32 false q.1 q.2.1 q.2.2
      (decodeF fp32 r.1, r.2 ||| v.2)
  | x => (decodeF fp32 (Config.adamCorner 1 (code32 x) 0#32).toNat, v.2)

/-- a − p / d, computed exactly and rounded once (R348); where the spec states no quotient, a free value (DESIGN CHOICE, log entry
21). -/
def nearQuot (a p d : Num × Nat) : Num × Nat :=
  let fl := a.2 ||| p.2 ||| d.2
  match a.1, p.1, d.1 with
  | .nan x, y, z => (.nan false, fl ||| nanFlags (.nan x) ||| nanFlags y ||| nanFlags z)
  | x, .nan y, z => (.nan false, fl ||| nanFlags x ||| nanFlags (.nan y) ||| nanFlags z)
  | _, y, .nan z => (.nan false, fl ||| nanFlags y ||| nanFlags (.nan z))
  | x, .fin sp m e, .fin sd k g =>
    if k = 0 then
      nearRound (nadd x (decodeF fp32 (Config.adamCorner 0 (code32 (.fin sp m e)) (code32 (.fin sd k g))).toNat).neg)
    else
      match x with
      | .fin sa u i =>
        let t := (nadd (.fin (sa != sd) (u * k) (i + g)) (.fin (!sp) m e)).1
        match t with
        | .fin st y j =>
          if y = 0 then (.fin (decide (u = 0) && sa && sp == sd) 0 0, fl)
          else
            let q := quot y k (j - g)
            let r := arithMag fp32 (st != sd) q.1 q.2.1 q.2.2
            (decodeF fp32 r.1, r.2 ||| fl)
        | t => (t, fl)
      | x => (x, fl)
  | x, y, z => nearRound (nadd x (decodeF fp32 (Config.adamCorner 0 (code32 y) (code32 z)).toNat).neg)

/-- One element of a near kernel: r, its flags, and the new C state (R348). -/
def nearElem (x : Near) (a b : Num) (cs : List Nat) : (Num × Nat) × List Nat :=
  let al := (decodeF fp32 x.alpha, 0)
  let be := (decodeF fp32 x.beta, 0)
  let ga := (decodeF fp32 x.gamma, 0)
  let de := (decodeF fp32 x.delta, 0)
  let one : Num × Nat := (.fin false 1 0, 0)
  let a : Num × Nat := (a, 0)
  let b : Num × Nat := (b, 0)
  let c (i : Nat) : Num × Nat := (decodeF fp32 ((cs[i]?).getD 0), 0)
  match x.kernel with
  | 0 => (al, [])
  | 1 => (nearRound (nAddF (nMulF al b) a), [])
  | 2 => (nearRound (nAddF (nMulF al a) (nMulF be b)), [])
  | 3 => (nearRound (nAddF (nMulF (nAddF one (nNegF be)) a) (nNegF (nMulF al b))), [])
  | 4 =>
    let m := nearRound (nAddF (nMulF be (c 0)) b)
    let r := nearRound (nAddF a (nNegF (nMulF al (m.1, 0))))
    ((r.1, r.2 ||| m.2), [(code32 m.1).toNat])
  | _ =>
    let m := nearRound (nAddF (nMulF be (c 0)) (nMulF (nAddF one (nNegF be)) b))
    let v := nearRound (nAddF (nMulF ga (c 1)) (nMulF (nMulF (nAddF one (nNegF ga)) b) b))
    let d := nearRound (nAddF (nearRoot (v.1, 0)) de)
    let r := nearQuot a (nMulF al (m.1, 0)) (d.1, 0)
    ((r.1, r.2 ||| m.2 ||| v.2 ||| d.2), [(code32 m.1).toNat, (code32 v.1).toNat])

/-- The stack that holds a physical address, when it is the device's own memory. DESIGN CHOICE: log entry 66. -/
def Mgmt.stackOf (m : Mgmt) (pa : Nat) : Option Nat := match m.region pa with | .dev st _ => some st | _ => none

/-- Where a piece of a range of a near command lies (R348): none where its first element will find no frame (R349). -/
def State.nearPa (s : State) (write : Bool) (p : Place) : Option Nat :=
  match p with
  | .win pa _ => some pa
  | .virt _ (.mem pa _) => some pa
  | .virt _ (.sym l t) =>
    if write then (vget s.dv.pool l.die []).head?.map (65536 * ·)
    else match t with | .stored false _ _ f _ => some (f * 65536) | _ => none
  | .virt _ (.view _ _) => none

/-- The pieces of a range of a near command: their places and where they lie. A tile that finds no frame in its pool stops the
command only when it is reached (R349). -/
def State.nearPieces (s : State) (w : Who) (write : Bool) :
    Nat → Nat → Nat → Except Cause (List (Nat × Nat × Place) × List Nat) × State
  | 0, _, _ => (.ok ([], []), s)
  | fuel + 1, a, n =>
    if n = 0 then (.ok ([], []), s)
    else
      let k := min n (65536 - a % 65536)
      let r := s.place w write a k
      let here : Except Cause (List (Nat × Nat × Place) × List Nat) := match r.1 with
        | .error c => if c.code = 0x16#8 then .ok ([], []) else .error c
        | .ok p => .ok ([(a, k, p)], (r.2.nearPa write p).toList)
      match here with
      | .error c => (.error c, r.2)
      | .ok ps =>
        let t := r.2.nearPieces w write fuel (a + k) (n - k)
        match t.1 with
        | .error c => (.error c, t.2)
        | .ok qs => (.ok (ps.1 ++ qs.1, ps.2 ++ qs.2), t.2)

/-- Where a range of a near command leads (R348); a window address lies in no stack. -/
def State.nearRange (s : State) (w : Who) (write : Bool) (a n : Nat) :
    Except Cause (List (Nat × Nat × Place) × List Nat) × State :=
  if n = 0 then (.ok ([], []), s)
  else if opWin a then (.error (engDenied 3 (opPa a)), s) else s.nearPieces w write (n / 65536 + 2) a n

/-- The place of an element: memory outside tensors as it was translated at the start, a tile as its entry stands (R348, R349). -/
def State.nearPlace (s : State) (w : Who) (cur : List (Nat × Nat × Place)) (write : Bool) (a n : Nat) : Except Cause Place × State :=
  match cur.find? fun x => x.1 ≤ a && a + n ≤ x.1 + x.2.1 with
  | some (v, _, .virt _ (.mem pa none)) => (.ok (.virt a (.mem (pa + (a - v)) none)), s)
  | _ => s.place w write a n

/-- The bytes of an element's input; an uncorrectable memory error names its sector (R349). -/
def State.nearRead (s : State) (w : Who) (cur : List (Nat × Nat × Place)) (a n : Nat) : Except Cause (List Byte) × State :=
  if n = 0 then (.ok [], s)
  else
    let r := s.nearPlace w cur false a n
    match r.1 with
    | .error e => (.error e, r.2)
    | .ok p =>
      let x := r.2.placeBytes w p n
      match x.2.1 with
      | none => (.ok x.1, x.2.2)
      | some e => (.error (if e.code = 0x22#8 then ⟨0x23#8, e.detail⟩ else e), x.2.2)

/-- The place of an element that is written; a symbolic tile promotes first (R278, R349). -/
def State.nearReady (s : State) (w : Who) (cur : List (Nat × Nat × Place)) (a n : Nat) : Except Cause Place × State :=
  let r := s.nearPlace w cur true a n
  match r.1 with
  | .ok (.virt va (.sym l k)) =>
    match r.2.readyWrite l w.lid w.rank with
    | .error e => (.error e, r.2)
    | .ok (_, s1) => (.ok (.virt va (.sym l k)), s1)
  | x => (x, r.2)

/-- What a near command stores of an element, with the flags of its conversion (R140, R348); a NaN is the canonical one (R137). -/
def Near.store (x : Near) (r : Num) : Nat × Nat :=
  if x.fmt ≠ 12 then cvt r x.fmt
  else match r with
    | .nan _ => (fp32.nan, nanFlags r)
    | r => ((code32 r).toNat, 0)

/-- The next element of a near command (R348, R349): both places are ready before either is written. -/
def State.nearStep (s : State) (w : Who) (x : Near) (c : Cmd) : Cmd × State :=
  let eb := x.bytes
  let cb := x.cBytes
  let a := x.a + eb * c.pos
  let cA := x.c + cb * c.pos
  let ra := s.nearRead w c.cur a (if x.kernel = 0 then 0 else eb)
  match ra.1 with
  | .error e => (c.fail e, ra.2)
  | .ok ab =>
    let rb := ra.2.nearRead w c.cur (x.b + eb * c.pos) (if x.kernel = 0 then 0 else eb)
    match rb.1 with
    | .error e => (c.fail e, rb.2)
    | .ok bb =>
      let rc := rb.2.nearRead w c.cur cA cb
      match rc.1 with
      | .error e => (c.fail e, rc.2)
      | .ok cc =>
        let pa := rc.2.nearReady w c.cur a eb
        match pa.1 with
        | .error e => (c.fail e, pa.2)
        | .ok dst =>
          let r := nearElem x (decodeN x.fmt (natOfBytes ab)) (decodeN x.fmt (natOfBytes bb)) (elems 32 (cb / 4) (natOfBytes cc))
          let out := x.store r.1.1
          let put (c : Cmd) (s : State) : Cmd × State :=
            let y := s.placeBits w dst false 0 (8 * eb) out.1
            ({ (c.note y.1).go 1 1 x.n with fl := c.fl ||| r.1.2 ||| out.2 }, y.2)
          if cb = 0 then put c pa.2
          else
            let pc := pa.2.nearReady w c.cur cA cb
            match pc.1 with
            | .error e => (c.fail e, pc.2)
            | .ok st =>
              let y := pc.2.placeBits w st false 0 (8 * cb) (packs 32 r.2)
              put (c.note y.1) y.2

/-- XNEAR: all three ranges are translated first and must lie in one stack, a tile that will find no frame in none (R349); then its elements, one by one (R348). -/
def State.runXnear (s : State) (core ch : Nat) (c : Cmd) : Cmd × State :=
  let x := nearOf c.blk
  let w := { c.who core ch clsNear with agent := agentDie (dieOf core) }
  if c.pos ≠ 0 then s.nearStep { w with agent := agentDie (c.unit.getD 0) } x c
  else
    let ra := s.nearRange w true x.a (x.n * x.bytes)
    match ra.1 with
    | .error e => (c.fail e, ra.2)
    | .ok pa =>
      let rb := ra.2.nearRange w false x.b (if x.kernel = 0 then 0 else x.n * x.bytes)
      match rb.1 with
      | .error e => (c.fail e, rb.2)
      | .ok pb =>
        let rc := rb.2.nearRange w true x.c (x.n * x.cBytes)
        match rc.1 with
        | .error e => (c.fail e, rc.2)
        | .ok pc =>
          let all := pa.2 ++ pb.2 ++ pc.2
          let st := s.dv.mg.stackOf (all.headD 0)
          match all.find? fun p => (s.dv.mg.stackOf p).isNone || s.dv.mg.stackOf p != st with
          | some p => (c.fail (engDenied 3 p), rc.2)
          | none =>
            let die := homeDie (all.headD 0)
            rc.2.nearStep { w with agent := agentDie die } x { c with cur := pa.1 ++ pb.1 ++ pc.1, unit := some die }

/-! ### Fabric messages (R350, R351) -/

/-- The oldest buffer posted for a space and tag. -/
def Dev.postedFor (d : Dev) (sp tag : Nat) : Option Posted := d.posted.find? fun p => p.sp == sp && p.tag == tag

/-- The state with a posted buffer gone from its queue. -/
def State.unpost (s : State) (p : Posted) : State :=
  s.modDev fun d => { d with posted := d.posted.filter fun x => !(x.core == p.core && x.ch == p.ch && x.seq == p.seq) }

/-- A command by core, channel and number. -/
def State.cmd? (s : State) (core ch seq : Nat) : Option Cmd := (vget (s.core core).ch ch []).find? fun x => x.seq == seq

/-- A message placed into a posted buffer (R350, R351): the receiver completes with the sender's index. A buffer that
cannot be written completes with its own cause, and the message is not placed. DEDUCED: log entry 60. -/
def State.deliver (s : State) (p : Posted) (from_ : Nat) (data : List Byte) : Bool × State :=
  match s.cmd? p.core p.ch p.seq with
  | none => (false, s.unpost p)
  | some r =>
    let x := (s.unpost p).opWriteAll (r.who p.core p.ch clsCopy) (bF r.blk 0x10 0 64) data
    match x.1 with
    | .error e => (false, x.2.modCmd p.core p.ch p.seq fun c => c.fail e)
    | .ok e =>
      (true, x.2.modCmd p.core p.ch p.seq fun c =>
        { c with st := .moved, done := data.length, err := e, extra := some (BitVec.ofNat 64 (from_ % 512)) })

/-- XPOST: its buffer joins the queue of its space and tag (R350). -/
def State.runXpost (s : State) (core ch : Nat) (c : Cmd) : Cmd × State :=
  ({ c with st := .posted },
   s.modDev fun d => { d with posted := d.posted ++ [⟨c.space, bF c.blk 0x20 0 16, core, ch, c.seq⟩] })

/-- XSEND (R351): it takes the oldest matching buffer, or waits; a message longer than the buffer is not placed. What another
device answers is a free value (DESIGN CHOICE, log entry 23). -/
def State.runXsend (s : State) (core ch : Nat) (c : Cmd) : Cmd × State :=
  let n := bF c.blk 0x18 0 40
  let dev := bF c.blk 0x18 40 9
  let tag := bF c.blk 0x20 0 16
  let w := c.who core ch clsCopy
  let send (s : State) (k : List Byte → State → Cmd × State) : Cmd × State :=
    let r := s.opRead w (bF c.blk 0x10 0 64) n
    match r.1 with
    | .error e => (c.fail e, r.2)
    | .ok bs => k bs r.2
  if dev ≠ s.dv.mg.index then
    if !s.dv.mg.reaches dev then (c.fail (engDenied 5 0), s)
    else
      let s1 := { s with fresh := s.fresh + 1 }
      match Config.sendAnswer s.fresh with
      | 1 => send s1 fun bs s2 =>
          ({ c with st := .moved, done := n }, s2.modDev fun d => { d with sent := d.sent ++ [⟨dev, c.space, tag, bs⟩] })
      | 2 => (c.fail (engDenied 4 0), s1)
      | _ => ({ c with st := .posted }, s1)
  else
    match s.dv.postedFor c.space tag with
    | none => ({ c with st := .posted }, s)
    | some p =>
      let cap := ((s.cmd? p.core p.ch p.seq).map fun r => bF r.blk 0x18 0 40).getD 0
      if n > cap then (c.fail (engDenied 4 0), s)
      else send s fun bs s1 =>
        let x := s1.deliver p s.dv.mg.index bs
        if x.1 then ({ c with st := .moved, done := n, peer := some p.seq }, x.2) else ({ c with st := .posted }, x.2)

/-! ### Pieces known before they are placed (R259, R353, R354) -/

/-- The frames that `n` bytes from an address cover: the first byte of each part and its length. -/
def frameCuts (a : Nat) : Nat → Nat → Nat → List (Nat × Nat)
  | 0, _, _ => []
  | fuel + 1, off, n => if n ≤ off then [] else
      let k := min (n - off) (65536 - (a + off) % 65536)
      (off, k) :: frameCuts a fuel (off + k) n

/-- Values of `per` bytes each, with their flags, cut into the pieces that lie in one 64 KiB frame; `count` says whether the
record counts their bytes. -/
def chunksOf (a per : Nat) (count : Bool) (xs : List (List Byte × Nat)) : List Chunk :=
  let bs := xs.flatMap (·.1)
  (frameCuts a (bs.length / 65536 + 2) 0 bs.length).map fun p =>
    let i := p.1 / per
    ⟨a + p.1, (bs.drop p.1).take p.2, ((xs.drop i).take (ceilDiv (p.1 + p.2) per - i)).foldl (fun f x => f ||| x.2) 0,
     if count then p.2 else 0⟩

/-- The next piece of what a command has yet to place; a piece that finds no place stops it (R259). -/
def State.putNext (s : State) (w : Who) (c : Cmd) : Cmd × State :=
  match c.out with
  | [] => (c.moved, s)
  | k :: t =>
    let r := s.opWrite w k.at_ k.data
    match r.1 with
    | .error e => (c.fail e, r.2)
    | .ok e =>
      ({ c.note e with st := if t.isEmpty then .moved else .running, out := t, done := c.done + k.units, fl := c.fl ||| k.fl }, r.2)

/-! ### Media decode (R354) -/

/-- The rows of one plane with their flags, each row of samples padded to 256 bytes. DESIGN CHOICE: log entry 65. -/
def planeRows (fmt : Nat) (scale offset : Nat) (p : Nat × List Nat) : Nat × List (List Byte × Nat) :=
  let w := laneBits fmt
  let per := ceilDiv (p.1 * w) 2048 * 256
  let conv (x : Nat) : Nat × Nat :=
    let m := nmul (.fin false x 0) (decodeF bf16 scale)
    let a := nadd m.1 (decodeF bf16 offset)
    let r := cvt a.1 fmt
    (r.1, r.2 ||| m.2 ||| a.2)
  (per, (upTo 0 (if p.1 = 0 then 0 else ceilDiv p.2.length p.1)).map fun r =>
    let xs := ((p.2.drop (r * p.1)).take p.1).map conv
    (bytesOfNat per (packs w (xs.map (·.1))), xs.foldl (fun f x => f ||| x.2) 0))

/-- The pieces of decoded frames in order (R354): every plane starts at a multiple of 64 KiB of the output, and the last piece of a
frame counts it. -/
def mediaPieces (out fmt : Nat) (scales offs : List Nat) (frames : List (List (Nat × List Nat))) : List Chunk :=
  (frames.foldl (fun (acc : List Chunk × Nat) f =>
    let r := ((upTo 0 f.length).zip f).foldl (fun (acc : List Chunk × Nat) p =>
      let b := planeRows fmt ((scales[p.1]?).getD 0) ((offs[p.1]?).getD 0) p.2
      (acc.1 ++ chunksOf (out + acc.2) b.1 false b.2, acc.2 + ceilDiv (b.1 * b.2.length) 65536 * 65536)) ([], acc.2)
    (acc.1 ++ (match r.1.reverse with
      | [] => [⟨out, [], 0, 1⟩]
      | k :: t => ({ k with units := 1 } :: t).reverse), r.2)) ([], 0)).1

/-- The decoder that serves a core: its own number modulo 8 of its die, or the next present one, counting upward and wrapping
(R354, R392). -/
def Mgmt.decoderFor (m : Mgmt) (core : Nat) : Option Nat :=
  (upTo (core % 8) 8).findSome? fun i => if m.dec.toNat.testBit (8 * dieOf core + i % 8) then some (i % 8) else none

/-- XMEDIA (R354, R392): the frames are what the decoder gets out of the bitstream (DESIGN CHOICE, log entry 11), known when the command
starts, then placed piece by piece, the context last; a die without a present decoder refuses. After a hold it goes on at its first
unplaced piece (R259). -/
def State.runXmedia (s : State) (core ch : Nat) (c0 : Cmd) : Cmd × State :=
  let b := c0.blk
  let w := { c0.who core ch clsDecoder with agent := agentDie (dieOf core) }
  let codec := bF b 0x18 40 4
  if !c0.out.isEmpty then s.putNext w c0
  else match s.dv.mg.decoderFor core with
  | none => (c0.fail (engDenied 1 0), s)
  | some u =>
    let c := { c0 with unit := some u }
    let ctxA := bF b 0x20 0 64
    let size := s.dv.mg.ctxBytes codec
    let r := s.opRead w (bF b 0x10 0 64) (bF b 0x18 0 40)
    match r.1 with
    | .error e => (c.fail e, r.2)
    | .ok bits =>
      let q := r.2.opRead w ctxA size
      match q.1 with
      | .error e => (c.fail e, q.2)
      | .ok ctx =>
        let mx := bF b 0x38 48 16
        let o := Config.mediaDecode codec bits ctx mx
        let frames := if mx = 0 then o.frames else o.frames.take mx
        let pieces := mediaPieces (bF b 0x28 0 64) (bF b 0x30 0 4) (elems 16 3 (bF b 0x30 16 48)) (elems 16 3 (bF b 0x38 0 48)) frames
        let newCtx := chunksOf ctxA 1 false (((o.ctx ++ List.replicate size 0#8).take size).map fun x => ([x], 0))
        q.2.putNext w { c with out := pieces ++ newCtx,
                               extra := if o.concealed = 0 then none else some (BitVec.ofNat 64 o.concealed) }

end Sys2Proof.Machine
end

