-- ==== Sys2Proof/Machine/Infra.lean ====
section
/-!
DEFINITION. What the dispatcher and the loader share with the channels (R223, R240, R265, R377, R379): the infrastructure's accesses to
memory, launch records, domain registers, the places of task images, and stopping a launch.
-/

namespace Sys2Proof.Machine

/-! ### Accesses of the infrastructure (R265; DEDUCED, log entry 24) -/

/-- What an access of the dispatcher or the loader in a queue's space finds: class 7, checked as space 0 (R265). -/
def State.infraLook (s : State) (sp : Nat) (write : Bool) (va n : Nat) : Except Cause Look × State :=
  s.lookIn s.dv.mg.dispDie none sp 0 clsInfra write va n

/-- `n` bytes of what a lookup found, within one 64 KiB piece. -/
def State.lookBytes (s : State) (agent die va n : Nat) (k : Look) : List Byte :=
  match k with
  | .mem pa _ => s.paBytes agent pa n
  | k =>
    let a := va / 256
    let rows := (upTo a ((va + n + 255) / 256 - a)).map fun r => s.lookRow agent die (256 * r) k
    ((rows.flatMap fun r => bytesOfNat 256 r.toNat).drop (va % 256)).take n

/-- `n` bytes at an address of a queue's space, piece by piece. -/
def State.infraRead (s : State) (sp : Nat) : Nat → Nat → Nat → Except Cause (List Byte) × State
  | 0, _, _ => (.ok [], s)
  | fuel + 1, va, n =>
    if n = 0 then (.ok [], s)
    else
      let k := min n (65536 - va % 65536)
      let r := s.infraLook sp false va k
      match r.1 with
      | .error c => (.error c, r.2)
      | .ok l =>
        match State.infraRead r.2 sp fuel (va + k) (n - k) with
        | (.error c, s2) => (.error c, s2)
        | (.ok t, s2) => (.ok (r.2.lookBytes agentInfra s.dv.mg.dispDie va k l ++ t), s2)

/-- A little-endian number of at most a few bytes at an address of a queue's space. -/
def State.infraNat (s : State) (sp va n : Nat) : Except Cause Nat × State :=
  match s.infraRead sp 2 va n with
  | (.error c, s1) => (.error c, s1)
  | (.ok b, s1) => (.ok (natOfBytes b), s1)

/-- Whether `n` bytes at an address may be written: the first cause met, piece by piece. -/
def State.infraCheck (s : State) (sp : Nat) (write : Bool) : Nat → Nat → Nat → Option Cause × State
  | 0, _, _ => (none, s)
  | fuel + 1, va, n =>
    if n = 0 then (none, s)
    else
      let k := min n (65536 - va % 65536)
      let r := s.infraLook sp write va k
      match r.1 with
      | .error c => (some c, r.2)
      | .ok _ => State.infraCheck r.2 sp write fuel (va + k) (n - k)

/-- Who the infrastructure is to memory. -/
def State.infraWho (s : State) (sp : Nat) : Who := ⟨agentInfra, s.dv.mg.dispDie, clsInfra, sp, 0, 0, 0, 0, 0, 0⟩

/-- `n` bytes of the save area, piece by piece, or the first translation fault, refusal or uncorrectable error met (R379). -/
def State.areaRead (s : State) (sp : Nat) : Nat → Nat → Nat → Except Cause (List Byte) × State
  | 0, _, _ => (.ok [], s)
  | fuel + 1, va, n =>
    if n = 0 then (.ok [], s)
    else
      let k := min n (65536 - va % 65536)
      let r := s.infraLook sp false va k
      match r.1 with
      | .error c => (.error c, r.2)
      | .ok l =>
        let x := r.2.placeBytes (s.infraWho sp) (.virt va l) k
        match x.2.1 with
        | some c => (.error c, x.2.2)
        | none =>
          let t := State.areaRead x.2.2 sp fuel (va + k) (n - k)
          (t.1.map fun b => x.1 ++ b, t.2)

/-- Bytes of one aligned 256-byte row written at an address that may be written, visible at `level`, a bad old sector healed
(R371); the cause of an uncorrectable old row. -/
def State.infraPut (s : State) (sp level va : Nat) (bs : List Byte) : Option Cause × State :=
  let w : Wr := ⟨agentInfra, level, 0, false, 0, 0, false⟩
  let lo := va % 256
  let hi := lo + bs.length
  let f (old : Row) : Row := BitVec.ofNat 2048 (bitsPut old.toNat (8 * lo) (8 * bs.length) (natOfBytes bs))
  let r := s.infraLook sp true va bs.length
  match r.1 with
  | .ok (.mem pa l) => let x := r.2.putPiece w (pa / 256 * 256) l lo hi f; (x.1, x.2.heal pa bs.length l)
  | .ok (.sym l _) =>
    match r.2.readyWrite l 0 0 with
    | .ok (st, s1) =>
      let x := s1.writeRowAt (some l) st w (va % 65536 / 256) lo hi f
      (x.1, match st with | .frame y => x.2.heal (y * 65536 + va % 65536) bs.length (some l) | .slot _ _ => x.2)
    | .error c => (some c, r.2)
  | .ok (.view _ _) => (none, r.2)
  | .error c => (some c, r.2)

/-- Bytes written row by row; the first cause met. -/
def State.infraPuts (s : State) (sp level : Nat) : Nat → Nat → List Byte → Option Cause × State
  | 0, _, _ => (none, s)
  | fuel + 1, va, bs =>
    match bs with
    | [] => (none, s)
    | bs =>
      let k := 256 - va % 256
      let r := s.infraPut sp level va (bs.take k)
      let t := State.infraPuts r.2 sp level fuel (va + k) (bs.drop k)
      (r.1.or t.1, t.2)

/-- Bytes written at an address of a queue's space, all or nothing: the cause that stopped it, and the cause of an uncorrectable
old row, which did not. -/
def State.infraWrite (s : State) (sp level va : Nat) (bs : List Byte) : Option Cause × Option Cause × State :=
  let c := s.infraCheck sp true (bs.length / 65536 + 2) va bs.length
  match c.1 with
  | some k => (some k, none, c.2)
  | none => (none, c.2.infraPuts sp level (bs.length / 256 + 2) va bs)

/-! ### Launch records (R240) -/

/-- Task count, one-die flag, resident flag, priority, class, segment count and aging limit of a record. -/
def recT (rc : BitVec 1024) : Nat := recF rc 0x08 0 8
def recCpc (rc : BitVec 1024) : Nat := recF rc 0x08 8 2 + 1
def recOneDie (rc : BitVec 1024) : Bool := recF rc 0x08 10 1 = 1
def recResident (rc : BitVec 1024) : Bool := recF rc 0x08 11 1 = 1
def recPrio (rc : BitVec 1024) : Nat := recF rc 0x08 12 2
def recClass (rc : BitVec 1024) : Nat := recF rc 0x08 14 2
def recNseg (rc : BitVec 1024) : Nat := recF rc 0x08 16 16
def recAge (rc : BitVec 1024) : Nat := recF rc 0x08 32 16
def recSegtab (rc : BitVec 1024) : Nat := recF rc 0 0 64
def recDone (rc : BitVec 1024) : Nat := recF rc 0x18 0 64
def recDeps (rc : BitVec 1024) : List Nat := (upTo 0 4).map fun i => recF rc (0x20 + 8 * i) 0 64
def recRows (rc : BitVec 1024) : Nat := recF rc 0x40 0 64
def recThr (rc : BitVec 1024) (i : Nat) : Nat := recF rc (0x48 + 4 * i) 0 32
def recEntry (rc : BitVec 1024) (i : Nat) : Nat := recF rc (0x54 + 2 * i) 0 16
def recNvar (rc : BitVec 1024) : Nat := recF rc 0x5C 0 2
/-- The save address rounded down to 64 KiB (R377). DEDUCED: log entry 79. -/
def recSave (rc : BitVec 1024) : Nat := recF rc 0x60 0 64 / 65536 * 65536
def recStream (rc : BitVec 1024) : Nat := recF rc 0x68 0 32
def recJact (rc : BitVec 1024) : Bool := recF rc 0x68 32 1 = 1
def recSrank (rc : BitVec 1024) : Nat := recF rc 0x70 32 16
def recArr (rc : BitVec 1024) (i : Nat) : BitVec 8 := BitVec.ofNat 8 (recF rc (0x78 + i) 0 8)
def recTag (rc : BitVec 1024) : Nat := recF rc 0x7C 0 32

/-- Domain registers of task `t` of a launch on cluster run `base` (R223). -/
def domainRegs (m : Mgmt) (rc : BitVec 1024) (base t : Nat) : Vector Word 5 :=
  let n := recT rc
  let c := recCpc rc
  let cl (u : Nat) : Nat := base + u / c
  let die := cl t / 6
  let w (id count rank : Nat) : Word := BitVec.ofNat 64 (id <<< 32 + count <<< 16 + rank % 65536)
  let sg := recF rc 0x70 0 16
  #v[w (4 * cl t + t % c) 1 0,
     w (cl t) (min c (n - t / c * c)) (t % c),
     w die ((upTo 0 n).filter fun u => cl u / 6 == die).length ((upTo 0 t).filter fun u => cl u / 6 == die).length,
     w m.index n t,
     if sg = 0 then w 0 n t else w sg (recF rc 0x70 16 16) (recSrank rc + t)]

/-! ### Task images (R377, R379) -/

/-- Bytes between two task images. -/
def imageStride (cls : Nat) : Nat := if cls = 0 then 0x20000 else 0x2000000

/-- Address of a task's image. -/
def Launch.imageAt (l : Launch) (rank : Nat) : Nat := recSave l.rc + 0x10000 + rank * imageStride (recClass l.rc)

/-- Where a task image counts its xq entries: the seventh word of its first block (R377; DESIGN CHOICE, log entry 25). -/
def offXqCount : Nat := 48

/-- Parts written at offsets from an address; the first failure ends the writing (R379). -/
def State.putParts (s : State) (sp base : Nat) (l : List (Nat × List Byte)) : Option Cause × State :=
  l.foldl (fun acc x =>
    match acc.1 with
    | some c => (some c, acc.2)
    | none => let r := acc.2.infraWrite sp 3 (base + x.1) x.2; (r.1.or r.2.1, r.2.2)) (none, s)

/-! ### Faults of queues, ends of launches -/

/-- A fault of a queue recorded, with a management event (R239, R245). -/
def Dev.queueFault (d : Dev) (kind q seq : Nat) (c : Cause) (e : MEvent) : Dev :=
  { d with faultQ := d.faultQ ++ [⟨d.mg.dispDie, kind, q, seq, c⟩], mg := { d.mg with events := d.mg.events ++ [e] } }

/-- A launch's tasks asked to end with a status (R229, R246, R247). -/
def State.stopLaunch (s : State) (lid status : Nat) (err : Option (Nat × Cause × Word)) : State :=
  let s1 := s.modLaunch lid fun l => if l.status = 0 then { l with status := status, err := err } else l
  s1.mapPlanes fun _ _ p => if p.lid = lid ∧ p.live then { p with endReq := true } else p

/-- A launch that a failure of its save area ends: status 2 with the rank, and where 0 (R379). -/
def State.saveFailed (s : State) (lid rank : Nat) (c : Cause) : State :=
  s.stopLaunch lid 2 (some (rank, c, 0#64))

end Sys2Proof.Machine
end

