-- ==== Sys2Proof/Machine/Matrix.lean ====
section
/-!
DEFINITION. The matrix engine (R186 to R203): operand geometry, accumulation with its checksums, ring claims, and the
engine's schedule, advanced once per task bundle. Counts here are task counts: a handler's bundles do not count (R193).
-/

namespace Sys2Proof.Machine

/-! ### Operand geometry (R186) -/

/-- The form of a product: 1 codebook, 4 and 16 by element width, else 8. -/
def formOf (fmt : Nat) (cb : Bool) : Nat :=
  if cb then 1 else if fmt = 10 ∨ fmt = 11 then 16 else if fmt = 13 ∨ fmt = 14 then 4 else 8

/-- Kfull and Nfull of a form. -/
def kFull (form : Nat) : Nat := if form = 16 then 128 else if form = 4 then 512 else 256
def nFull (form : Nat) : Nat := if form = 1 then 512 else 256

/-- Element `k` of an A row of a form. -/
def aCode (form : Nat) (r : Row) (k : Nat) : Nat :=
  let w := if form = 16 then 16 else if form = 4 then 4 else 8
  bitsOf r.toNat (w * k) w

/-- The stored code, or index, of B[k][j]. -/
def bCode (form : Nat) (west : Bool) (rows : List Row) (k j : Nat) : Nat :=
  let at_ (r e w : Nat) : Nat := bitsOf ((rows[r]?).getD 0#2048).toNat (w * e) w
  match form with
  | 16 => if west then at_ j k 16 else at_ (2 * k + j / 128) (j % 128) 16
  | 4 => if west then at_ j k 4 else at_ (k % 256) (k / 256 * 256 + j) 4
  | 1 => if west then at_ (j % 256) (j / 256 * 256 + k) 4 else at_ k j 4
  | _ => if west then at_ j k 8 else at_ k j 8

/-- The value of B[k][j] for a product in a format; a codebook buffer gives the value its index names (R209, R214). -/
def WData.val (d : WData) (fmt k j : Nat) : Num :=
  if d.prop.cb then
    decodeN d.prop.fmt.toNat (bitsOf d.cb.toNat (8 * bCode 1 d.prop.west d.rows k j) 8)
  else decodeN fmt (bCode (formOf fmt false) d.prop.west d.rows k j)

/-! ### Accumulation (R147 to R149, R200, R202) -/

/-- The k of block `b` of an extent (R147). -/
def blockKs (kc b : Nat) : List Nat := upTo (16 * b) (min 16 (kc - 16 * b))

/-- The exact sum of terms; an exact zero is +0 (R147). -/
def sumTerms (l : List Num) : Num := l.foldl (fun a x => (nadd a x).1) (.fin false 0 0)

/-- The integer an exact integral value stands for. -/
def Num.toInt : Num → Int
  | .fin neg m e => (if neg then -1 else 1) * ((m <<< e.toNat : Nat) : Int)
  | _ => 0

/-- bs := arith_round(p); c := arith_round(c + bs): the new bits, and whether a rounding was inexact (R147, R148). A NaN
element becomes the canonical NaN, in a skipped instruction too: DESIGN CHOICE, log entry 117. -/
def fAccum (c : Nat) (p : Num) : Nat × Bool :=
  let bs := arithRound fp32 p
  let r := arithRound fp32 (nadd (decodeF fp32 c) (decodeF fp32 bs.1)).1
  (r.1, (bs.2 ||| r.2) &&& fINX ≠ 0)

/-- An accumulating instruction: kind, k extent, rows zeroed first, the rows it writes (row, columns, first B column, A
values by k, none where masked), and B. -/
structure Prod where
  isInt : Bool
  kc : Nat
  zero : List Nat
  outs : List (Nat × Nat × Nat × (Nat → Option Num))
  b : Nat → Nat → Option Num

/-- Products of the k that both operands hold. -/
def terms (ks : List Nat) (a b : Nat → Option Num) : List Num :=
  ks.filterMap fun k => match a k, b k with
    | some x, some y => some (nmul x y).1
    | _, _ => none

/-- One block accumulated into a row and its checksum state (R147, R149, R200). -/
def rowBlock (p : Prod) (n boff : Nat) (a : Nat → Option Num) (x : AccRow) (blk : Nat) : AccRow :=
  let ks := blockKs p.kc blk
  let vals := elems 32 256 x.data.toNat
  let rb (k : Nat) : Option Num := some (sumTerms ((upTo boff n).filterMap (p.b k)))
  let ra (k : Nat) : Option Num := some (sumTerms ((upTo boff n).filterMap fun j => (p.b k j).map Num.abs))
  if p.isInt then
    let new := (vals.zip (upTo 0 256)).map fun v =>
      if v.2 < n then wrap 32 ((v.1 : Int) + (sumTerms (terms ks a fun k => p.b k (boff + v.2))).toInt) else v.1
    { x with data := BitVec.ofNat 8192 (packs 32 new), isInt := true,
             c := BitVec.ofNat 32 (wrap 32 ((x.c.toNat : Int) + (sumTerms (terms ks a rb)).toInt)) }
  else
    let new := (vals.zip (upTo 0 256)).map fun v =>
      if v.2 < n then fAccum v.1 (sumTerms (terms ks a fun k => p.b k (boff + v.2))) else (v.1, false)
    { data := BitVec.ofNat 8192 (packs 32 (new.map (·.1))), isInt := false,
      c := BitVec.ofNat 32 (fAccum x.c.toNat (sumTerms (terms ks a rb))).1,
      mag := BitVec.ofNat 32 (fAccum x.mag.toNat (sumTerms (terms ks (fun k => (a k).map Num.abs) ra))).1,
      nb := x.nb + 1,
      marks := x.marks ||| BitVec.ofNat 256 (packs 1 (new.map fun v => b2n v.2)) }

/-- One block accumulated into a bank's column state (R202): the A rows of the bank added up, against each column. A k that
no row of the bank holds takes no part (R200). -/
def colBlock (p : Prod) (n boff : Nat) (as : List (Nat → Option Num)) (x : ColState) (blk : Nat) : ColState :=
  let ks := blockKs p.kc blk
  let sum (f : Num → Num) (k : Nat) : Option Num :=
    match as.filterMap fun a => a k with
    | [] => none
    | l => some (sumTerms (l.map f))
  let upd (f : Num → Num) (c : BitVec 8192) : BitVec 8192 :=
    let new := ((elems 32 256 c.toNat).zip (upTo 0 256)).map fun v =>
      if v.2 < n then
        let t := sumTerms (terms ks (sum f) fun k => (p.b k (boff + v.2)).map f)
        if p.isInt then wrap 32 ((v.1 : Int) + t.toInt) else (fAccum v.1 t).1
      else v.1
    BitVec.ofNat 8192 (packs 32 new)
  { x with c := upd id x.c, mag := if p.isInt then x.mag else upd Num.abs x.mag,
           nb := BitVec.ofNat 8192 (packs 32 (((elems 32 256 x.nb.toNat).zip (upTo 0 256)).map fun v =>
             if v.2 < n ∧ !p.isInt then v.1 + 1 else v.1)) }

/-- The 16-k blocks of a product (R147). -/
def Prod.blocks (p : Prod) : List Nat := upTo 0 (ceilDiv p.kc 16)

/-- The rows of an accumulating instruction that meet a test, in a core's accumulator memory (R195, R200, R210). -/
def Core.applyRows (c : Core) (p : Prod) (ok : Nat → Bool) : Core :=
  let c1 := (p.zero.filter ok).foldl (fun c r => c.setAcc r accReset) c
  (p.outs.filter fun o => ok o.1).foldl (fun c o =>
    c.setAcc o.1 (p.blocks.foldl (rowBlock p o.2.1 o.2.2.1 o.2.2.2) { c.accRow o.1 with isInt := p.isInt })) c1

/-- An accumulating instruction in the column states of the banks of its rows that meet a test (R202). -/
def Core.applyCols (c : Core) (p : Prod) (ok : Nat → Bool) : Core :=
  let zero := p.zero.filter ok
  let outs := p.outs.filter fun o => ok o.1
  let banks := ((zero ++ outs.map (·.1)).map (· / 128)).eraseDups
  banks.foldl (fun c bk =>
    if zero.any (fun r => r / 128 == bk) then c.setCol bk { c.colState bk with invalid := true }
    else [0, 256].foldl (fun c boff =>
      match outs.filter fun o => o.1 / 128 == bk && o.2.2.1 == boff with
      | [] => c
      | o :: t => c.setCol bk (p.blocks.foldl (colBlock p o.2.1 boff ((o :: t).map (·.2.2.2))) (c.colState bk))) c) c

/-- An accumulating instruction applied to a core's accumulator memory (R195, R200, R202, R210): to the rows, and to the
column states of the banks of the rows, that meet a test. -/
def Core.applyProd (c : Core) (p : Prod) (rows cols : Nat → Bool) : Core := (c.applyRows p rows).applyCols p cols

/-- Rows set to zero, kind float, checksums zero, and the banks' column state reset when whole, else invalid (R202,
R205, R208, R217). -/
def Core.zeroRows (c : Core) (lo n : Nat) : Core :=
  let c1 := (upTo lo n).foldl (fun c r => c.setAcc r accReset) c
  let banks := (upTo (lo / 128) ((lo + n + 127) / 128 - lo / 128))
  banks.foldl (fun c b =>
    c.setCol b (if lo ≤ 128 * b ∧ 128 * b + 128 ≤ lo + n then colReset else { c.colState b with invalid := true })) c1

/-- Whether a row of values agrees with an expected sum (R201). -/
def sumPasses (isInt : Bool) (vals : List Nat) (c mag nb : Nat) : Bool :=
  if isInt then sumN vals % 2 ^ 32 = c
  else
    let x := decodeF fp32 c
    let m := decodeF fp32 mag
    let l := vals.map (decodeF fp32)
    if x.nonFinite || m.nonFinite || l.any Num.nonFinite then true
    else
      let d := (nadd (sumTerms l) x.neg).1.abs
      let t := (nmul m (.fin false (nb + 2) (-23))).1
      !nlt t d

/-- Whether an accumulator row passes its check. -/
def AccRow.passes (x : AccRow) : Bool :=
  sumPasses x.isInt (elems 32 256 x.data.toNat) x.c.toNat x.mag.toNat x.nb

/-! ### Operand registers (R204) -/

def MEnt.row0 (e : MEnt) : Nat := bitsOf e.x.toNat 0 13
def MEnt.ow (e : MEnt) : Bool := e.x.getLsbD 13
def MEnt.wb (e : MEnt) : Nat := bitsOf e.x.toNat 14 1
def MEnt.mRows (e : MEnt) : Nat := bitsOf e.y.toNat 0 9
def MEnt.hop (e : MEnt) : Nat := bitsOf e.y.toNat 24 2 + 1

/-- The k extent of a pass whose full extent is `full`. -/
def MEnt.kc (e : MEnt) (full : Nat) : Nat := let k := bitsOf e.y.toNat 10 10; if k = 0 then full else k

/-- The column count of a pass. -/
def MEnt.cols (e : MEnt) (full : Nat) : Nat := let n := bitsOf e.z.toNat 0 10; if n = 0 then full else n

/-- Whether an instruction streams products, chains and condensing apart. -/
def MEnt.streams (e : MEnt) : Bool :=
  match e.ins with
  | .mmul _ | .mmulg _ | .mmuls _ | .mmulb _ | .mmulc _ | .mchain _ | .mchainRecv _ => true
  | _ => false

/-- The format of a product's A operand; a chain's receiver takes its source's, noted in `idx` (R216). -/
def MEnt.fmtA (e : MEnt) (w : Option WData) : Nat :=
  match e.ins with
  | .mmul f => f.fmt.toNat
  | .mmulg _ => ((w.map fun d => d.prop.fmt.toNat).getD 0)
  | .mmuls f => f.fmt.toNat
  | .mmulb f => f.fmt.toNat
  | .mmulc f => f.fmt.toNat
  | .mchain f => f.fmt.toNat
  | .mchainRecv _ => e.idx.toNat % 16
  | _ => 0

/-- Rows an instruction accumulates into: first row and count. -/
def MEnt.accRows (e : MEnt) : Nat × Nat :=
  match e.ins with
  | .mmulc _ => (e.row0, 2 * e.mRows)
  | _ => (e.row0, e.mRows)

/-- Rows that an instruction of core `own` writes on core `c` of its cluster (R189, R198, R199, R205). A receiver whose
chain has not formed writes as many rows as a source may stream: DESIGN CHOICE, log entry 105. -/
def MEnt.writesOn (e : MEnt) (own c : Nat) : Nat × Nat :=
  match e.ins with
  | .mdrain _ => if e.clears own c then (bitsOf e.x.toNat 0 13, e.y.toNat) else (0, 0)
  | i =>
    if own ≠ c then (0, 0)
    else match i with
      | .malloc _ => if e.x.toNat < 64 then (128 * e.x.toNat, 128 * e.y.toNat) else (0, 0)
      | .mzero _ => (e.x.toNat, e.y.toNat)
      | .mchainRecv _ => if e.formed then e.accRows else (e.row0, 256)
      | _ => if e.streams then e.accRows else (0, 0)

/-- Rows of its own core that an instruction writes. -/
def MEnt.writes (e : MEnt) (own : Nat) : Nat × Nat := e.writesOn own own

/-- Rows of its own core that an instruction drains, in either form (R189). -/
def MEnt.drains (e : MEnt) (own : Nat) : Nat × Nat :=
  match e.ins with
  | .mdrain _ => if e.drainCore own = own then (bitsOf e.x.toNat 0 13, e.y.toNat) else (0, 0)
  | _ => (0, 0)

/-- Whether two row ranges meet. -/
def meets (a b : Nat × Nat) : Bool := a.1 < b.1 + b.2 && b.1 < a.1 + a.2

/-- Vectors per row of a drain format (R217). -/
def drainV (fmt : Nat) : Nat := laneBits fmt / 8

/-! ### Ring claims (R130, R192) -/

/-- Whether an instruction counts as unretired: a condensing one that has retired stays listed until its bundle's end. -/
def MEnt.open_ (e : MEnt) : Bool :=
  match e.ins with
  | .mcond _ => e.pushed = 0
  | _ => true

/-- Tiles of a ring claimed by unretired instructions. -/
def Plane.claimed (p : Plane) (ring : Nat) : Nat :=
  sumN ((p.m.filter MEnt.open_).flatMap fun e => (e.pops.filter fun x => x.1 == ring).map (·.2))

/-- The slot of the tile at a position past the claims of a ring, when it is published. -/
def Plane.tileAt (p : Plane) (ring pos : Nat) : Option Nat :=
  let r := vget p.rg ring ⟨0#8, 0#9, 0#8, 0#9⟩
  let i := p.claimed ring + pos
  if i < r.count.toNat then some (r.base.toNat + (r.head.toNat + i) % r.size.toNat) else none

/-- NF of the tile that an MCOND retiring in the present bundle publishes in a slot: its entry counts as STORED from the
retirement on, although the tile is written at the end of the bundle (R215, R318). -/
def Plane.madeTile (p : Plane) (slot : Nat) : Option Bool :=
  ((p.m.filter fun e => !e.open_).flatMap (·.outs)).findSome? fun o => if o.1 = slot then some (o.2 == 1) else none

/-- A tile sampled at issue: what its entry resolves to. -/
def State.sampleTile (s : State) (slot : Nat) : TileRd :=
  let w := (s.co.slot slot).w0
  match s.pl.madeTile slot with
  | some nf => ⟨slot, 1, mkEnt 1 nf false 0 false (entFmt w) 0, slotRef s.co.id slot⟩
  | none =>
  match s.resolve (s.slotLoc s.pl.space s.co.id slot) with
  | .stored _ _ k _ nf => ⟨slot, entKind w, mkEnt 1 nf false 0 false (entFmt w) 0, slotRef s.co.id k⟩
  | .sym w0 w1 _ => ⟨slot, entKind w, entPut w0 40 4 (entFmt w), w1⟩
  | .bad _ => ⟨slot, entKind w, 0#64, 0#64⟩

/-- NF of a sampled tile. -/
def TileRd.nf (t : TileRd) : Bool := entNF t.w0

/-- Whether a sampled tile's own entry is ZERO: a REPEAT is expanded, whatever it ends at (R203, R209). -/
def TileRd.zero (t : TileRd) : Bool := t.kind = 2

/-- Whether a sampled tile's reads are checked: a symbolic tile always passes, a REPEAT of a stored one too (R296). -/
def TileRd.checked (t : TileRd) : Bool := t.kind = 1 && entKind t.w0 = 1

/-- The precise checks of a claimed tile (R192, R261). -/
def State.claimFault (s : State) (slot : Option Nat) : Option Cause :=
  match slot with
  | none => none
  | some k =>
    if !s.ownsSlot s.co.id k then some (handleCause k)
    else if (s.pl.madeTile k).isSome then none
    else
      let l := s.slotLoc s.pl.space s.co.id k
      match s.resolve l with
      | .bad r => some (unmapped l.ref r)
      | _ => none

/-- RING_UNDERFLOW (R130). -/
def ringEmpty (ring : Nat) : Cause := ⟨0x0C#8, BitVec.ofNat 64 (1 <<< 8 + ring)⟩

/-- Row `i` of a sampled tile as the feeder reads it, through the swizzled view, with the row check (R203, R296, R318):
the row, and the cause of an uncorrectable tile; a sum error or a clean recheck leaves the row as read (R298). -/
def State.feedRow (s : State) (t : TileRd) (i : Nat) : Row × Option Cause × State :=
  let p := physRow true (256 * t.slot + i) % 256
  if entKind t.w0 = 1 then
    let k := refTile t.w1 % 256
    let fmt := entFmt t.w0
    if t.checked && s.rowBad (.slot s.co.id k) fmt p then
      let q := s.checkTile (.slot s.co.id k) fmt t.w1
      (q.2.co.viewRow true (256 * k + p), if q.1.kind = 3 then some (sumCause (some t.w1) 0 q.1.row 0) else none, q.2)
    else (s.co.viewRow true (256 * k + p), none, s)
  else (symRow t.w0 t.w1 (entFmt t.w0) p, none, s)

/-- Rows of a tile read at once. -/
def State.feedRows (s : State) (t : TileRd) (n : Nat) : List Row × Option Cause × State :=
  (upTo 0 n).foldl (fun acc i =>
    let r := acc.2.2.feedRow t i
    (acc.1 ++ [r.1], acc.2.1.or r.2.1, r.2.2)) ([], none, s)

/-! ### The engine's list -/

/-- An unretired instruction replaced, found by its issue count. -/
def State.setM (s : State) (e : MEnt) : State :=
  s.modPl fun p => { p with m := p.m.map fun x => if x.issued = e.issued then e else x }

/-- An instruction taken off the list. -/
def State.dropM (s : State) (e : MEnt) : State :=
  s.modPl fun p => { p with m := p.m.filter fun x => x.issued ≠ e.issued }

/-- Whether an instruction is suppressed (R192, R212). -/
def MEnt.dead (e : MEnt) : Bool := e.supp.isSome || e.bad.isSome

/-- Bundles an instruction holds the stream port. -/
def MEnt.streamHold (e : MEnt) : Nat :=
  match e.ins with
  | .mcond _ => 256
  | _ => if e.streams then (if e.skip then 1 else e.steps) else 0

/-- The count an instruction retires at, from its start (R189). -/
def MEnt.retireAt (e : MEnt) (t : Nat) : Nat :=
  match e.ins with
  | .mldw _ => t + 256
  | .mcond _ => t + 264
  | .mdrain _ => t + 11 + e.steps + (if e.x.getLsbD 16 then 4 else 0)
  | .mchk f => if f.col = 1#1 then t + 128 else t
  | .mchainRecv _ => t + e.steps + 261 + 2 * e.hop
  | .mchain _ => t + e.steps + 261
  | _ => if e.streams then (if e.skip then t + 2 else t + e.steps + 261) else t

/-- Whether the port an instruction needs is free at a count, given the earlier instructions. -/
def Plane.portFree (p : Plane) (before : List MEnt) (e : MEnt) (t : Nat) : Bool :=
  let busy (hold : MEnt → Nat) : Bool :=
    before.any fun x => match x.start with | some b => t < b + hold x | none => false
  match e.ins with
  | .mldw _ => !busy fun x => match x.ins with | .mldw _ => 256 | _ => 0
  | .mzero _ => p.dport ≤ t
  | .mdrain _ => p.dport ≤ t
  | .mchk f => f.col = 0#1 || p.dport ≤ t
  | .mcond _ => !busy MEnt.streamHold
  | _ => !e.streams || !busy MEnt.streamHold

/-- Whether the operands of an instruction of core `own` are ready, given the earlier unretired ones (R189). -/
def MEnt.ready (e : MEnt) (own : Nat) (before : List MEnt) : Bool :=
  match e.ins with
  | .mfree _ => before.all fun x => !x.open_
  | .mchk _ => before.all fun x => !x.open_
  | .mzero _ => before.all fun x => !(meets (x.writes own) (e.writes own) || meets (x.drains own) (e.writes own))
  | .mldw f => before.all fun x => !(x.streams && x.wb == f.buf.toNat)
  | .mdrain _ => before.all fun x => !meets (x.writes own) (e.drains own)
  | .mcond _ => true
  | _ =>
    !e.streams ||
      ((match e.ins with | .mchain _ => e.formed | .mchainRecv _ => e.formed | _ => true) &&
       before.all fun x =>
        (match x.ins with | .mldw f => f.buf.toNat ≠ e.wb | _ => true) && !meets (x.drains own) e.accRows)

/-! ### Products -/

/-- A value of the A operand. -/
def aVal (form fmt : Nat) (r : Row) (k : Nat) : Option Num := some (decodeN fmt (aCode form r k))

/-- Position of a stored value of MMULS in its group (R212). -/
def metaPos (meta_ : List Row) (s j : Nat) : Nat := bitsOf ((meta_[s]?).getD 0#2048).toNat (4 * j) 4

/-- Kept values per group, and group size, of a pattern. -/
def patKeep (pat : BitVec 1) : Nat := if pat = 0#1 then 2 else 4
def patSize (pat : BitVec 1) : Nat := if pat = 0#1 then 4 else 8

/-- Whether a stored position is invalid (R212). -/
def metaBad (pat : BitVec 1) (meta_ : List Row) (s j : Nat) : Bool :=
  let k := patKeep pat
  let x := metaPos meta_ s j
  patSize pat ≤ x || (upTo (s / k * k) k).any fun u => u != s && metaPos meta_ u j == x

/-- SPARSE_METADATA of the first invalid value of a metadata tile, rows first (R212). DEDUCED: log entry 69. -/
def metaFault (pat : BitVec 1) (meta_ : List Row) (rows : Nat) : Option Cause :=
  (upTo 0 rows).findSome? fun s =>
    ((upTo 0 256).find? fun j => metaBad pat meta_ s j).map fun j => ⟨0x18#8, BitVec.ofNat 64 (s + j <<< 9)⟩

/-- B[k][j] of a compressed stationary: the stored value whose position is k (R212). A k kept by no column takes part in the
checksums with a sum of 0: DESIGN CHOICE, log entry 117. -/
def sparseVal (d : WData) (fmt : Nat) (pat : BitVec 1) (meta_ : List Row) (k j : Nat) : Option Num :=
  let n := patKeep pat
  let g := k / patSize pat
  ((upTo (g * n) n).find? fun s => metaPos meta_ s j == k % patSize pat).map fun s => d.val fmt s j

/-- Whether an A element of MMULB is present. -/
def bitmapBit (bits : List Row) (i k : Nat) : Bool := ((bits[i]?).getD 0#2048).getLsbD k

/-- Rows of MMULB with a present element below Kc (R213). -/
def presentRows (bits : List Row) (m kc : Nat) : List Nat :=
  (upTo 0 m).filter fun i => (upTo 0 kc).any fun k => bitmapBit bits i k

/-- What an instruction accumulates, from the rows it has read (R210 to R216). -/
def MEnt.prod (e : MEnt) (d0 : WData) : Prod :=
  let d : WData := match e.ins with
    | .mchain _ | .mchainRecv _ => { d0 with prop := { d0.prop with cb := false } }
    | _ => d0
  let fmt := e.fmtA (some d)
  let form := match e.ins with | .mmulc _ => 1 | _ => formOf fmt false
  let full := match e.ins with | .mmuls _ => 2 * kFull form | _ => kFull form
  let n := e.cols (nFull form)
  let kc := e.kc full
  let m := e.mRows
  let a (i : Nat) : Nat → Option Num :=
    if e.skip then fun _ => none else aVal form fmt ((e.cap[i]?).getD 0#2048)
  let b : Nat → Nat → Option Num := fun k j => some (d.val fmt k j)
  let isInt := form ≠ 1 && isIntFmt fmt
  let zero (k : Nat) : List Nat := if e.ow then upTo e.row0 k else []
  match e.ins with
  | .mmulc _ =>
    ⟨isInt, kc, zero (2 * m), (upTo 0 m).flatMap fun i =>
      [(e.row0 + 2 * i, min n 256, 0, a i), (e.row0 + 2 * i + 1, n - 256, 256, a i)], b⟩
  | .mmuls f =>
    let full1 := kFull form
    let a2 (i k : Nat) : Option Num :=
      aVal form fmt ((e.cap[2 * i + k / full1]?).getD 0#2048) (k % full1)
    ⟨isInt, kc, zero m, (upTo 0 m).map fun i => (e.row0 + i, n, 0, a2 i), sparseVal d fmt f.pat e.cap2⟩
  | .mmulb _ =>
    let rows := presentRows e.cap2 m kc
    ⟨isInt, kc, zero m, (rows.zip (upTo 0 rows.length)).map fun ri =>
      (e.row0 + ri.1, n, 0, fun k => if bitmapBit e.cap2 ri.1 k then a ri.2 k else none), b⟩
  | _ => ⟨isInt, kc, zero m, (upTo 0 m).map fun i => (e.row0 + i, n, 0, a i), b⟩

/-- Contents of a buffer that nothing has loaded. -/
def wReset : WData := ⟨⟨0#4, false, false, false, false, 0⟩, [], 0#128⟩

/-- Whether an instruction accumulates nothing: suppressed (R192), or a receiver of a source suppressed for an unpublished
tile (DESIGN CHOICE, log entry 105). -/
def MEnt.void (e : MEnt) : Bool :=
  e.dead || (e.skip && match e.ins with | .mchain _ => true | .mchainRecv _ => true | _ => false)

/-- What an instruction accumulates, with the buffer as it stands. -/
def State.prodOf (s : State) (e : MEnt) : Prod := e.prod ((vget s.co.w e.wb none).getD wReset)

/-- Earlier unretired products on rows that a retiring instruction writes, which it accumulates onto (R189): applied to
those rows alone, so that a window still reads every other row as of its most recent retired writer (R199). `outs` of a
product lists the rows that have been settled before its retirement. -/
def State.applyEarlier (s : State) (e : MEnt) : State :=
  let mine (r : Nat) : Bool := e.accRows.1 ≤ r && r < e.accRows.1 + e.accRows.2
  (s.pl.m.filter fun x => decide (x.issued < e.issued) && x.streams && x.start.isSome && !x.void &&
      meets x.accRows e.accRows).foldl (fun s x =>
    let todo (r : Nat) : Bool := mine r && !x.outs.any fun o => o.1 == r
    let s1 := { s with co := s.co.applyRows (s.prodOf x) todo }
    s1.setM { x with outs := x.outs ++ ((upTo x.accRows.1 x.accRows.2).filter todo).map fun r => (r, 0) }) s

/-- A product applied at its retirement (R189): the rows not settled before it, and the column states, apart from rows
outside the task's banks, marked 1 (R216). -/
def State.applyOwn (s : State) (e : MEnt) : State :=
  if e.void then s
  else { s with co := s.co.applyProd (s.prodOf e) (fun r => !e.outs.any fun o => o.1 == r)
                  (fun r => !e.outs.contains (r, 1)) }

/-! ### Condensing (R215) -/

/-- The columns of A and rows of B that survive, and the two condensed tiles, of an 8-bit or 16-bit form. -/
def condense (fmt : Nat) (ra rb : List Row) : List Nat × List Row × List Row :=
  let form := formOf fmt false
  let kf := kFull form
  let w := if form = 16 then 16 else 8
  let per := if form = 16 then 2 else 1
  let colA (k : Nat) : List Num := ra.map fun r => decodeN fmt (aCode form r k)
  let rowB (k : Nat) : List Row := (upTo (per * k) per).map fun i => (rb[i]?).getD 0#2048
  let valB (k : Nat) : List Num := (rowB k).flatMap fun r => (elems w (2048 / w) r.toNat).map (decodeN fmt)
  let nz (l : List Num) : Bool := l.any fun x => !x.isZero
  let nf (l : List Num) : Bool := l.any Num.nonFinite
  let keep := (upTo 0 kf).filter fun k => (nz (colA k) || nf (valB k)) && (nz (valB k) || nf (colA k))
  let outA := ra.map fun r => BitVec.ofNat 2048 (packs w (keep.map fun k => aCode form r k))
  let outB := keep.flatMap rowB
  (keep, outA, outB ++ List.replicate (256 - outB.length) 0#2048)

/-- A whole tile written by the engine into a slot: rows through the swizzled view, a STORED entry with fresh sums (R215)
in the format that the slot's entry had: DESIGN CHOICE, log entry 117. -/
def State.writeTile (s : State) (slot : Nat) (rows : List Row) (nf : Bool) : State :=
  let c := s.co.id
  let x := s.co.slot slot
  let fmt := entFmt x.w0
  let co := (rows.zip (upTo 0 256)).foldl (fun co ri => co.setRow (physRow true (256 * slot + ri.2)) ri.1) s.co
  let s1 := { s with co := co }
  let l := s1.slotLoc s1.pl.space c slot
  let st := Store.slot c slot
  let s2 := s1.setSide st (tileSums fmt (s1.storeRows st))
  let s3 := s2.setEntry l (mkEnt 1 nf false (entPgen x.w0) true fmt (slotFrame c slot)) 0#64
  (s3.noteDirty l s3.pl.lid s3.pl.rank (entDirty x.w0 && entKind x.w0 = 1)).sendMerge l.lux s3.pl.lid
    s3.pl.rank fmt ((s3.storeRows st).map (rowCodes fmt)).flatten

/-! ### MCHK (R218) -/

/-- A mismatch counted in a checksum status word: kind 1 row, 2 column; the fields describe the first mismatch of either
kind: DESIGN CHOICE, log entry 117. -/
def chkLog (w : Word) (kind row core col : Nat) : Word :=
  let n := bitsOf w.toNat 48 16
  let w1 := bitsPut w.toNat 48 16 (if n = 65535 then n else n + 1)
  BitVec.ofNat 64 (if bitsOf w.toNat 32 2 = 0 then
      bitsPut (bitsPut (bitsPut (bitsPut w1 32 2 kind) 16 13 row) 8 2 core) 0 8 col
    else w1)

/-- A bank's columns compared with its column state (R218): the status word after it. A bank with a row of the integer kind
is compared as integers: DESIGN CHOICE, log entry 117. -/
def Core.checkCols (c : Core) (bank : Nat) (w : Word) : Word :=
  let x := c.colState bank
  if x.invalid then BitVec.ofNat 64 (bitsPut w.toNat 34 1 1)
  else
    let rows := (upTo (128 * bank) 128).map c.accRow
    let isInt := rows.any (·.isInt)
    (upTo 0 256).foldl (fun w j =>
      let vals := rows.map fun r => bitsOf r.data.toNat (32 * j) 32
      if sumPasses isInt vals (bitsOf x.c.toNat (32 * j) 32) (bitsOf x.mag.toNat (32 * j) 32) (bitsOf x.nb.toNat (32 * j) 32)
      then w else chkLog w 2 (128 * bank) (c.id % 4) j) w

/-! ### Retiring -/

/-- A deferred cause of the engine, unless a boundary raised it before it fell due (R366). -/
def State.deferM (s : State) (d : Deferred) : State :=
  if s.pl.mseen.contains d then s else s.modPl fun p => { p with deferred := p.deferred ++ [d] }

/-- Tiles popped from a ring (R130); of a ring that an RSET of the instruction's own group has reset, the count stays at 0
(DESIGN CHOICE, log entry 104). -/
def Plane.popRing (p : Plane) (x : Nat × Nat) : Plane :=
  let r := vget p.rg x.1 ⟨0#8, 0#9, 0#8, 0#9⟩
  let q : Ring := { r with head := BitVec.ofNat 8 ((r.head.toNat + x.2) % r.size.toNat),
                           count := BitVec.ofNat 9 (r.count.toNat - x.2) }
  if r.size = 0#9 then p else { p with rg := vput p.rg x.1 q }

/-- The register of a retiring instruction written (R17, R189): of two results that land at one count, that of the
instruction issued later stands. -/
def Plane.wrM (p : Plane) (e : MEnt) (r : BitVec 5) (v : Word) : Plane :=
  let same (f : Flight) : Bool := f.due ≤ p.bcount && f.dest == .sreg r
  if p.flight.any fun f => same f && e.issued < f.issued then p
  else { p.wrS r v with flight := p.flight.map fun f => if same f then { f with dest := .none } else f }

/-- An M-slot instruction's retirement: its effect, its pops, its arrival and its deferred cause (R189, R192). -/
def State.mRetire (s : State) (e : MEnt) : State :=
  let s1 := if e.streams then
      let t := s.applyEarlier e
      t.applyOwn ((t.pl.m.find? fun x => x.issued == e.issued).getD e)
    else s
  let s2 :=
    if e.dead then s1
    else match e.ins with
      | .mldw f =>
        let p := (vget s1.co.wprop f.buf.toNat none).getD wReset.prop
        let d : WData := ⟨{ p with fmt := f.fmt, cb := f.cb == 1#1, west := f.west == 1#1 }, e.cap,
          (e.cap2.headD 0#2048).setWidth 128⟩
        { s1 with co := { s1.co with w := vput s1.co.w f.buf.toNat (some d) } }
      | .mcond f =>
        let k := condense f.fmt.toNat (e.cap.zip (upTo 0 512) |>.filterMap fun x => if x.2 % 2 = 0 then some x.1 else none)
          (e.cap.zip (upTo 0 512) |>.filterMap fun x => if x.2 % 2 = 1 then some x.1 else none)
        let publish (s : State) (ring : Nat) : Nat × State :=
          let r := vget s.pl.rg ring ⟨0#8, 0#9, 0#8, 0#9⟩
          (r.base.toNat + (r.head.toNat + r.count.toNat) % r.size.toNat,
           s.modPl fun p => { p with rg := vput p.rg ring { r with count := r.count + 1#9 } })
        let a := publish s1 (bitsOf e.y.toNat 16 3)
        let b := publish a.2 (bitsOf e.y.toNat 24 3)
        (b.2.modPl fun p => p.wrM e f.sx (BitVec.ofNat 64 k.1.length)).setM
          { e with pushed := 1, arr := none, cap := k.2.1, cap2 := k.2.2, outs := [(a.1, b2n ((e.reads[0]?.map TileRd.nf).getD false)),
            (b.1, b2n ((e.reads[1]?.map TileRd.nf).getD false))] }
      | .mchk f =>
        { s1 with pl := s1.pl.wrM e f.sx s1.co.chk, co := { s1.co with chk := 0#64 } }
      | _ => s1
  let s3 := if e.dead then s2 else s2.modPl fun p => e.pops.foldl Plane.popRing p
  let s4 := match e.supp.or e.bad with
    | some c => s3.deferM ⟨c, e.retire, reqId 4 e.issued⟩
    | none => s3
  let s5 := s4.arrive e.arr [] 0
  match e.ins, e.dead with
  | .mcond _, false => s5
  | _, _ => s5.dropM e

/-- Every started instruction whose retire count has come retires, in issue order. -/
def State.mRetires (s : State) : State :=
  (s.pl.m.filter fun e => e.start.isSome && e.retire ≤ s.pl.tcount && e.open_).foldl (fun s e =>
    s.mRetire ((s.pl.m.find? fun x => x.issued == e.issued).getD e)) s

/-- At the end of its retire bundle a condensing instruction's tiles are written (R318). -/
def State.mFinish (s : State) : State :=
  (s.pl.m.filter fun e => !e.open_).foldl (fun s e =>
    let w (s : State) (x : (Nat × Nat) × List Row) : State := s.writeTile x.1.1 x.2 (x.1.2 == 1)
    ((e.outs.zip [e.cap, e.cap2]).foldl w s).dropM e) s

/-! ### Starting -/

/-- What an instruction does at its start count. -/
def State.mBegin (s : State) (e0 : MEnt) : State :=
  let t := s.pl.tcount
  let go (s : State) (e : MEnt) : State := s.setM { e with start := some t, retire := e.retireAt t }
  let present (s : State) (rd : TileRd) : List Row × Option Cause × State × Nat :=
    let q := s.feedRows rd e0.mRows
    (q.1, q.2.1, q.2.2, max 1 (presentRows q.1 e0.mRows (e0.kc (kFull (formOf (e0.fmtA none) false)))).length)
  if e0.dead then
    match e0.ins, e0.reads[1]? with
    | .mmulb _, some rd => let q := present s rd; go q.2.2.1 { e0 with steps := q.2.2.2 }
    | _, _ => go s e0
  else match e0.ins with
    | .malloc _ =>
      go (if e0.x.toNat < 64 then { s with co := s.co.zeroRows (128 * e0.x.toNat) (128 * e0.y.toNat) } else s) e0
    | .mzero _ =>
      go { s with co := s.co.zeroRows e0.x.toNat e0.y.toNat, pl := { s.pl with dport := t + 1 } } e0
    | .mldw f =>
      let cbRow := if f.cb = 1#1 then [s.readRow true (bitsOf e0.x.toNat 8 16)] else []
      match e0.reads.head? with
      | some rd =>
        if rd.checked then
          let q := s.checkTile (.slot s.co.id (refTile rd.w1 % 256)) (entFmt rd.w0) rd.w1
          go q.2 { e0 with cap2 := cbRow, bad := if q.1.kind = 3 then some (sumCause (some rd.w1) 0 q.1.row 0) else none }
        else go s { e0 with cap2 := cbRow }
      | none => go s e0
    | .mmuls f =>
      match e0.reads[2]? with
      | some rd =>
        let q := s.feedRows rd 256
        go q.2.2 { e0 with cap2 := q.1, bad := q.2.1.or (metaFault f.pat q.1 (kFull (formOf f.fmt.toNat false))) }
      | none => go s e0
    | .mmulb _ =>
      match e0.reads[1]? with
      | some rd => let q := present s rd; go q.2.2.1 { e0 with cap2 := q.1, bad := q.2.1, steps := q.2.2.2 }
      | none => go s e0
    | .mdrain _ => go (s.modPl fun p => { p with dport := t + e0.steps }) e0
    | .mchk f =>
      if f.col = 1#1 then
        go { s with co := { s.co with chk := s.co.checkCols (e0.y.toNat % 64) s.co.chk }, pl := { s.pl with dport := t + 128 } } e0
      else go s e0
    | _ => go s e0

/-- Instructions start in issue order while they can; one that retires at its start does so at once (R189). -/
def State.mStartsGo : Nat → State → State
  | 0, s => s
  | n + 1, s =>
    match s.pl.m.find? fun e => e.start.isNone with
    | none => s
    | some e =>
      let before := s.pl.m.takeWhile fun x => x.issued ≠ e.issued
      if e.issued + 1 ≤ s.pl.tcount ∧ s.pl.portFree before e s.pl.tcount ∧ e.ready s.co.id before then
        State.mStartsGo n (s.mBegin e).mRetires
      else s

/-- The engine's starts at the present count. -/
def State.mStarts (s : State) : State := s.mStartsGo (s.pl.m.length)

/-! ### Streaming -/

/-- Positions past the claim point that MMULG reads: those it claims, and those its indices name (R211). -/
def gatherPos (aux m : Nat) (idx : Row) : List Nat :=
  (upTo 0 aux ++ (upTo 0 m).map fun j => bitsOf idx.toNat (16 * j) 16 / 256).eraseDups

/-- The A row index that step `j` of a stream reads, for each tile the step reads, by its place in `reads`. -/
def MEnt.stepReads (e : MEnt) (j : Nat) : List (Nat × Nat) :=
  match e.ins with
  | .mldw _ => [(0, j)]
  | .mcond _ => [(0, j), (1, j)]
  | .mmuls _ => [(0, j), (1, j)]
  | .mmulg _ =>
    let v := bitsOf e.idx.toNat (16 * j) 16
    [((gatherPos (bitsOf e.y.toNat 20 3) e.mRows e.idx).findIdx (· == v / 256), v % 256)]
  | .mmulb f => match (presentRows e.cap2 e.mRows (e.kc (kFull (formOf f.fmt.toNat false))))[j]? with
    | some i => [(0, i)]
    | none => []
  | .mmul _ => if e.skip then [] else [(0, j)]
  | .mmulc _ => if e.skip then [] else [(0, j)]
  | .mchain _ => [(0, j)]
  | _ => []

/-- A chain's source row passed to its receivers (R216). -/
def State.passRow (s : State) (e : MEnt) (r : Row) : State :=
  match e.ins with
  | .mchain _ =>
    let f := bitsOf e.y.toNat 24 2 + 1
    { s with others := s.others.map fun b =>
        if s.co.id < b.co.id ∧ b.co.id ≤ s.co.id + f ∧ b.pl.lid = s.pl.lid then
          { b with pl := { b.pl with m := b.pl.m.map fun x =>
              match x.ins with
              | .mchainRecv _ => if x.formed then { x with cap := x.cap ++ [r] } else x
              | _ => x } }
        else b }
  | _ => s

/-- One more step of an instruction's stream read (R318). `pushed` of a loading or condensing one stays 0. -/
def State.mReadStep (s : State) (e : MEnt) (j : Nat) : State :=
  (e.stepReads j).foldl (fun s x =>
    let e1 := (s.pl.m.find? fun y => y.issued == e.issued).getD e
    match e1.reads[x.1]? with
    | none => s
    | some rd =>
      let r := s.feedRow rd x.2
      (r.2.2.setM { e1 with cap := e1.cap ++ [r.1], bad := e1.bad.or r.2.1 }).passRow e1 r.1) s

/-- Steps of the stream due by a count. -/
def MEnt.stepsDue (e : MEnt) (t : Nat) : Nat :=
  match e.start with
  | some b => if b ≤ t then min e.steps (t + 1 - b) else 0
  | none => 0

/-- Rows a step reads. -/
def MEnt.perStep (e : MEnt) : Nat :=
  match e.ins with
  | .mcond _ | .mmuls _ => 2
  | _ => 1

/-- Whether an instruction reads its stream on: a chain's source that met an uncorrectable row still passes its rows to
the receivers (DESIGN CHOICE, log entry 105). -/
def MEnt.reading (e : MEnt) : Bool :=
  e.open_ && match e.ins with
    | .mchainRecv _ => false
    | .mdrain _ => false
    | .mchain _ => e.supp.isNone
    | _ => !e.dead

/-- Every stream's rows due by the present count are read. -/
def State.mStream (s : State) : State :=
  (s.pl.m.filter MEnt.reading).foldl (fun s e =>
    let have_ := e.cap.length / e.perStep
    (upTo have_ (e.stepsDue s.pl.tcount - have_)).foldl (fun s j => s.mReadStep e j) s) s

/-! ### Draining (R217) -/

/-- One element drained: its code and flags (R148, R217). -/
def drainElem (fmt : Nat) (isInt : Bool) (scale : Option (Nat × Nat)) (raw : Nat) (mark : Bool) : Elem :=
  let x := if isInt then Num.ofInt (sgn 32 raw) else decodeF fp32 raw
  let fl := (if x.isNaN then fNAN else 0) ||| (if mark then fINX else 0)
  match scale with
  | none =>
    if fmt = (if isInt then 4 else 12) then (raw, fl)
    else let r := cvt x fmt; (r.1, r.2 ||| fl)
  | some (sc, rcp) =>
    if !validScale sc then (canonNaN fmt, fl ||| fINV ||| (if hasNaN fmt then fNAN else 0))
    else
      let y := nmul x (decodeF fp32 rcp)
      let r := cvt y.1 fmt
      (r.1, r.2 ||| y.2 ||| fl)

/-- Whether an unretired instruction of the holding core writes a row (R198). -/
def State.rowBusy (s : State) (c row : Nat) : Bool :=
  match s.box c with
  | some b => b.pl.m.any fun x => meets (x.writes c) (row, 1)
  | none => false

/-- Whether an unretired instruction of any core writes a row of core `c`: the holding core's own, and a remote clearing
drain of another core of its cluster (R199). -/
def State.winBusy (s : State) (c row : Nat) : Bool :=
  s.boxes.any fun b => b.pl.m.any fun x => meets (x.writesOn b.co.id c) (row, 1)

/-- Row `i` of a drain read: checked, converted, cleared if asked, merged if asked; its vectors wait in `cap`, their
flags in `cap2`; `old` keeps a cleared row for the window until the drain retires (R199); `formed` notes that the drain's
first mismatch has been raised (R201, R217). -/
def State.drainRow (s : State) (e : MEnt) (f : MDr) (i due : Nat) : State :=
  let c := e.drainCore s.co.id
  let row := bitsOf e.x.toNat 0 13 + i
  let x := (s.core c).accRow row
  let fmt := f.fmt.toNat
  let scale : Option (Nat × Nat) := if f.q = 1#1 then some (bitsOf e.idx.toNat 0 32, bitsOf e.idx.toNat 64 32) else none
  let out := ((elems 32 256 x.data.toNat).zip (upTo 0 256)).map fun v =>
    drainElem fmt x.isInt scale v.1 (!x.isInt && x.marks.getLsbD v.2)
  let l := laneCount fmt
  let vec (k : Nat) : List Elem := (out.drop (k * l)).take l
  let rows := (upTo 0 (drainV fmt)).map fun k => ofLanes fmt ((vec k).map fun v => toLane fmt v.1)
  let fls := (upTo 0 (drainV fmt)).map fun k => BitVec.ofNat 2048 ((vec k).foldl (fun a v => a ||| v.2) 0)
  let s1 := s.setM { e with cap := e.cap ++ rows, cap2 := e.cap2 ++ fls,
                            old := if f.clr = 1#1 then e.old ++ [(row, x)] else e.old,
                            formed := e.formed || (!x.passes && f.log = 0#1) }
  let s2 :=
    if x.passes then s1
    else if f.log = 1#1 then { s1 with co := { s1.co with chk := chkLog s1.co.chk 1 row (c % 4) 0 } }
    else if e.formed then s1
    else s1.deferM ⟨⟨0x21#8, BitVec.ofNat 64 (row + (c % 4) <<< 13)⟩, due, reqId 4 e.issued⟩
  let s3 := if f.clr = 1#1 then s2.modCore c fun co => co.zeroRows row 1 else s2
  if f.lux = 1#1 then
    s3.sendMerge (some (BitVec.ofNat 16 e.z.toNat)) s3.pl.lid s3.pl.rank fmt (out.map (·.1))
  else s3

/-- Vector `v` of a drain lands in mq with its flags, which are set after the FLAGS of its bundle (R142, R144, R217);
noted as raised when a boundary has raised their exception. -/
def State.drainPush (s : State) (e : MEnt) (v : Nat) : State :=
  let r := (e.cap[v]?).getD 0#2048
  let fl : BitVec 5 := ((e.cap2[v]?).getD 0#2048).setWidth 5
  let req := reqId 4 e.issued
  let seen (p : Plane) : Bool := p.mseen.any fun d => d.cause.code == 0x29#8 && d.due == p.tcount && d.req == req
  (s.setM { e with pushed := v + 1 }).modPl fun p =>
    { p with mq := p.mq ++ [⟨r, rowTag r⟩],
             newFlags := if fl = 0#5 then p.newFlags else p.newFlags ++ [(2, fl, req, seen p)] }

/-- The count at which vector `v` of a drain is due. -/
def MEnt.vecDue (e : MEnt) (v : Nat) : Option Nat :=
  e.start.map fun b => b + 11 + v + (if e.x.getLsbD 16 then 4 else 0)

/-- Vectors of a drain due by the present count land, a row read at its first; a row of another core waits for its writer
(R198, R217), a row of the own core has none left when the drain starts (R189). -/
def State.mDrainGo : Nat → Nat → State → State
  | 0, _, s => s
  | n + 1, iss, s =>
    match s.pl.m.find? fun x => x.issued == iss with
    | none => s
    | some e =>
      match e.ins with
      | .mdrain f =>
        let v := e.pushed
        match e.vecDue v with
        | none => s
        | some due =>
          if v < e.steps ∧ due ≤ s.pl.tcount then
            let i := v / drainV f.fmt.toNat
            if v % drainV f.fmt.toNat = 0 ∧ e.cap.length = v then
              if e.drainCore s.co.id != s.co.id && s.rowBusy (e.drainCore s.co.id) (bitsOf e.x.toNat 0 13 + i) then s
              else
                let s1 := s.drainRow e f i due
                State.mDrainGo n iss (s1.drainPush ((s1.pl.m.find? fun x => x.issued == iss).getD e) v)
            else State.mDrainGo n iss (s.drainPush e v)
          else s
      | _ => s

/-- The engine's drains at the present count. -/
def State.mDrains (s : State) : State :=
  (s.pl.m.filter fun e => match e.ins with | .mdrain _ => true | _ => false).foldl (fun s e => s.mDrainGo 32 e.issued) s

/-- Whether the core is frozen by its matrix engine: a remote drain that waits for a writer (R198), a chain not formed,
or a receiver whose source has not sent the row due (R216). -/
def State.mHeld (s : State) : Bool :=
  s.pl.m.any fun e =>
    match e.ins with
    | .mdrain _ => match e.vecDue e.pushed with
      | some due => e.pushed < e.steps && due ≤ s.pl.tcount
      | none => false
    | .mchain _ => !e.formed
    | .mchainRecv _ => !e.formed || (!e.skip && e.cap.length < e.stepsDue s.pl.tcount)
    | _ => false

/-- The engine at the present task count: retirements, starts, rows read, vectors pushed. Nothing while a handler runs
(R193). What has happened at a count does not happen again. DEDUCED: log entry 50. -/
def State.mTick (s : State) : State :=
  if s.pl.intrap then s else s.mRetires.mStarts.mStream.mDrains

end Sys2Proof.Machine
end

