-- ==== Sys2Proof/Machine/MatrixOps.lean ====
section
/-!
DEFINITION. The M slot (R187, R190 to R192, R204 to R218): what each instruction checks and does at its issue.
-/

namespace Sys2Proof.Machine

/-! ### Issue -/

/-- An instruction entered into the engine's list. -/
def State.issueM (s : State) (e : MEnt) : State := s.modPl fun p => { p with m := p.m ++ [e] }

/-- An entry of the engine's list at issue. -/
def State.mEnt (s : State) (i : Instr) (arr : Option Owed) (steps : Nat) : MEnt :=
  { ins := i, x := 0#64, y := 0#64, z := 0#64, idx := 0#2048, issued := s.pl.tcount, arr := arr, supp := none,
    reads := [], pops := [], outs := [], skip := false, steps := steps, start := none, retire := 0, cap := [], cap2 := [],
    pushed := 0, formed := false, bad := none, old := [] }

/-- M-slot instructions that wait for their start, this one included, are at most 8 (R190). -/
def State.mQueueFault (s : State) : Option Cause :=
  need ((s.pl.m.filter fun e => e.start.isNone).length < Config.mWaitMax) (resultQueue 9)

/-- The frame of an M-slot instruction: R193, R190 and its own checks, then its effect. -/
def State.mGuarded (s : State) (i : Instr) (checks : List (Option Cause)) (eff : State → State) :
    Host.Outcome State Fault Refusal :=
  s.guarded 4 (need (!s.pl.intrap) (s.illegal i 3 23) :: s.mQueueFault :: checks) eff

/-- A value out of range (R191): reason 3 with the register field's lowest bit. -/
def State.mRange (s : State) (i : Instr) (field : Nat) (ok : Bool) : Option Cause := need ok (s.illegal i 3 field)

/-- ACC_UNALLOCATED of the lowest row of a range whose bank is not `p`'s; any plane's bank serves when `p` is none (R196,
R198); edetail takes the row modulo 8,192: DESIGN CHOICE, log entry 117. -/
def Core.accFault (c : Core) (p : Option Nat) (lo n : Nat) : Option Cause :=
  if n = 0 then none
  else
    let bad := (upTo (lo / 128) ((lo + n - 1) / 128 + 1 - lo / 128)).find? fun b =>
      64 ≤ b || match p with
        | some p => c.bankOf b ≠ some p
        | none => (c.bankOf b).isNone
    bad.map fun b => ⟨0x19#8, BitVec.ofNat 64 (max lo (128 * b) % 8192 + (c.id % 4) <<< 13)⟩

/-- Rows of the executing task's own banks. -/
def State.accFault (s : State) (lo n : Nat) : Option Cause := s.co.accFault (some s.co.lit) lo n

/-- The properties of a stationary buffer, none when no MLDW has loaded it since task start (R187). -/
def State.bufProp (s : State) (wb : Nat) : Option WProp :=
  match vget s.co.wprop wb none with
  | some p => if s.pl.born ≤ p.born then some p else none
  | none => none

/-! ### Allocation and bands (R205 to R208) -/

/-- The lowest run of `n` free banks (R205). -/
def Core.freeRun (c : Core) (n : Nat) : Option Nat :=
  (upTo 0 (65 - n)).find? fun b => (upTo b n).all fun i => (c.bankOf i).isNone

/-- MALLOC (R205). -/
def execMalloc (f : MBk) (s : State) : Host.Outcome State Fault Refusal :=
  s.mGuarded (.malloc f) [] fun s =>
    let n := f.n.toNat + 1
    let o := s.owe f.ar
    let run := s.co.freeRun n
    let v : Word := match run with | some b => BitVec.ofNat 64 b | none => BitVec.allOnes 64
    let co := match run with
      | some b => { s.co with bank := (upTo b n).foldl (fun m i => SMap.set 0 m i (s.co.lit + 1)) s.co.bank }
      | none => s.co
    ({ o.2 with co := co }.resultS 4 1 f.sx v none).issueM
      { s.mEnt (.malloc f) o.1 0 with x := v, y := BitVec.ofNat 64 n }

/-- MFREE (R206). -/
def execMfree (f : MBk) (s : State) : Host.Outcome State Fault Refusal :=
  let x := (s.rdS f.sx).toNat
  let n := f.n.toNat + 1
  s.mGuarded (.mfree f) [s.mRange (.mfree f) 18 (x < 64), s.accFault (128 * (x % 64)) (128 * n)] fun s =>
    let o := s.owe f.ar
    let co := { s.co with
      bank := (upTo x n).foldl (fun m i => SMap.set 0 m i 0) s.co.bank,
      bands := s.co.bands.filter fun b => !meets (b.row, b.count) (128 * x, 128 * n) }
    { o.2 with co := co }.issueM (s.mEnt (.mfree f) o.1 0)

/-- MBAND (R207). DEDUCED: log entry 53. -/
def execMband (f : MBd) (s : State) : Host.Outcome State Fault Refusal :=
  let x := (s.rdS f.sx).toNat
  let n := (s.rdS f.sy).toNat
  let rel := f.rel == 1#1
  let same := s.co.bands.any fun b => b.row == x && b.count == n
  let over_ := s.co.bands.any fun b => meets (b.row, b.count) (x, n)
  s.mGuarded (.mband f)
    [s.mRange (.mband f) 13 (1 ≤ n && n ≤ 8192), s.accFault x (min n 8192),
     s.mRange (.mband f) 18 (if rel then same else same || !over_),
     need (rel || same || s.co.bands.length < Config.bandMax) (resultQueue 10)] fun s =>
    let o := s.owe f.ar
    let rest := s.co.bands.filter fun b => !(b.row == x && b.count == n)
    let bands := if rel then rest else rest ++ [⟨x, n, s.pl.lid, f.pos.toNat⟩]
    { o.2 with co := { o.2.co with bands := bands } }.issueM (s.mEnt (.mband f) o.1 0)

/-- MZERO (R208): its rows become zero at its start. -/
def execMzero (f : R2) (s : State) : Host.Outcome State Fault Refusal :=
  let x := s.rdS f.sx
  let n := (s.rdS f.sy).toNat
  s.mGuarded (.mzero f) [s.mRange (.mzero f) 13 (1 ≤ n && n ≤ 8192), s.accFault x.toNat (min n 8192)] fun s =>
    let o := s.owe f.ar
    o.2.issueM { s.mEnt (.mzero f) o.1 0 with x := x, y := s.rdS f.sy }

/-! ### Loading the stationary (R209) -/

/-- MLDW (R209): the buffer's properties change at issue; those of a suppressed one stay: DESIGN CHOICE, log entry 117. -/
def execMldw (f : MLd) (s : State) : Host.Outcome State Fault Refusal :=
  let x := (s.rdS f.sx).toNat
  let ring := x % 8
  let t := s.pl.tileAt ring 0
  let legal := x % 256 < 8 && (if f.cb = 1#1 then decide (x < 0x1000000) else decide (x < 8))
  s.mGuarded (.mldw f) [s.mRange (.mldw f) 18 legal, s.claimFault t] fun s =>
    let o := s.owe f.ar
    let e := { s.mEnt (.mldw f) o.1 256 with x := s.rdS f.sx }
    match t with
    | none => o.2.issueM { e with supp := some (ringEmpty ring) }
    | some k =>
      let rd := s.sampleTile k
      let i := o.2.takeId
      let prop : WProp := ⟨f.fmt, f.cb == 1#1, f.west == 1#1, rd.nf, rd.zero, i.1⟩
      { i.2 with co := { i.2.co with wprop := vput i.2.co.wprop f.buf.toNat (some prop) } }.issueM
        { e with reads := [rd], pops := [(ring, 1)] }

/-! ### The streaming products (R210 to R214) -/

/-- The register ranges of a product (R204): accumulator descriptor, stream descriptor with its aux and chain fields
allowed or not, column count. -/
def State.prodRanges (s : State) (i : Instr) (x y z : Word) (maxM kf nf : Nat) (aux ch : Bool) : List (Option Cause) :=
  let yy := y.toNat
  [s.mRange i 18 (x.toNat < 2 ^ 15),
   s.mRange i 13 (yy < 2 ^ 26 && bitsOf yy 23 1 = 0 && bitsOf yy 9 1 = 0 && (aux || bitsOf yy 20 3 = 0) &&
     (ch || bitsOf yy 24 2 = 0) && 1 ≤ bitsOf yy 0 9 && bitsOf yy 0 9 ≤ maxM && bitsOf yy 10 10 ≤ kf),
   s.mRange i 8 (z.toNat < 2 ^ 10 && z.toNat ≤ nf)]

/-- The buffer check of a product: reason 10 when nothing is loaded or the format or form differs (R187, R204). -/
def State.bufFault (s : State) (i : Instr) (wb : Nat) (ok : WProp → Bool) : Option Cause :=
  need (match s.bufProp wb with | some p => ok p | none => false) (s.illegal i 10 0)

/-- A product's tiles: rings with positions past their claims, and whether they are claimed or only read. -/
structure Claim where
  ring : Nat
  pos : Nat
  deriving DecidableEq, Repr

/-- The slots of a list of claims. -/
def State.claimSlots (s : State) (l : List Claim) : List (Option Nat) := l.map fun c => s.pl.tileAt c.ring c.pos

/-- The first ring found without a published tile (R130). -/
def State.firstEmpty (s : State) (l : List Claim) : Option Cause :=
  (l.find? fun c => (s.pl.tileAt c.ring c.pos).isNone).map fun c => ringEmpty c.ring

/-- A product's issue: its tiles sampled, its claims made, or the instruction suppressed (R192). A suppressed MMULB whose
bitmap is published samples the bitmap, which gives its K_steps (R213); of one without a bitmap K_steps is taken as M
(DESIGN CHOICE, log entry 106). -/
def State.issueProd (s : State) (i : Instr) (ar : BitVec 2) (x y z : Word) (idx : Row) (l : List Claim)
    (pops : List (Nat × Nat)) (skip : List TileRd → Bool) : State :=
  let o := s.owe ar
  let e := { s.mEnt i o.1 (bitsOf y.toNat 0 9) with x := x, y := y, z := z, idx := idx }
  match s.firstEmpty l with
  | some c =>
    let bits : Option Nat := match i, l with
      | .mmulb _, [_, b] => s.pl.tileAt b.ring b.pos
      | _, _ => none
    o.2.issueM { e with supp := some c, reads := (bits.map fun k => List.replicate 2 (s.sampleTile k)).getD [] }
  | none =>
    let rds := (s.claimSlots l).filterMap fun k => k.map s.sampleTile
    o.2.issueM { e with reads := rds, pops := pops, skip := skip rds }

/-- Rows of an accumulator descriptor within the task's banks. -/
def State.prodRows (s : State) (x : Word) (n : Nat) : Option Cause := s.accFault (bitsOf x.toNat 0 13) n

/-- Whether a product is skipped (R203): a ZERO A tile with the buffer's NF clear, or a ZERO buffer with A's NF clear. -/
def skips (p : Option WProp) (l : List TileRd) : Bool :=
  match p, l with
  | some p, t :: _ => (t.zero && !p.nf) || (p.zero && !t.nf)
  | _, _ => false

/-- MMUL and MMULC, which share everything but the form (R203, R210, R214). -/
def State.mmulLike (s : State) (i : Instr) (f : MMu) (form rowsPer : Nat) (ok : WProp → Bool)
    (more : List (Option Cause)) : Host.Outcome State Fault Refusal :=
  let x := s.rdS f.sx
  let y := s.rdS f.sy
  let z := s.rdS f.sz
  let wb := bitsOf x.toNat 14 1
  let l : List Claim := [⟨f.rg.toNat, 0⟩]
  s.mGuarded i (s.prodRanges i x y z 256 (kFull form) (nFull form) false false ++
      s.bufFault i wb ok :: s.prodRows x (rowsPer * bitsOf y.toNat 0 9) :: (s.claimSlots l).map s.claimFault ++ more) fun s =>
    s.issueProd i f.ar x y z 0#2048 l (if f.keep = 1#1 then [] else [(f.rg.toNat, 1)]) (skips (s.bufProp wb))

/-- MMUL (R210). -/
def execMmul (f : MMu) (s : State) : Host.Outcome State Fault Refusal :=
  s.mmulLike (.mmul f) f (formOf f.fmt.toNat false) 1 (fun p => !p.cb && p.fmt == f.fmt) []

/-- MMULC (R214): two accumulator rows per output row, the first even. -/
def execMmulc (f : MMu) (s : State) : Host.Outcome State Fault Refusal :=
  s.mmulLike (.mmulc f) f 1 2 (fun p => p.cb) [s.mRange (.mmulc f) 18 ((s.rdS f.sx).toNat % 2 = 0)]

/-- MMULB (R213): a bitmap tile on ring aux. -/
def execMmulb (f : MMu) (s : State) : Host.Outcome State Fault Refusal :=
  let i := Instr.mmulb f
  let x := s.rdS f.sx
  let y := s.rdS f.sy
  let z := s.rdS f.sz
  let wb := bitsOf x.toNat 14 1
  let form := formOf f.fmt.toNat false
  let aux := bitsOf y.toNat 20 3
  let rg := f.rg.toNat
  let l : List Claim := [⟨rg, 0⟩, ⟨aux, if aux = rg then 1 else 0⟩]
  s.mGuarded i (s.prodRanges i x y z 256 (kFull form) (nFull form) true false ++
      s.bufFault i wb (fun p => !p.cb && p.fmt == f.fmt) :: s.prodRows x (bitsOf y.toNat 0 9) ::
      (s.claimSlots l).map s.claimFault) fun s =>
    s.issueProd i f.ar x y z 0#2048 l (if f.keep = 1#1 then [] else [(rg, 1), (aux, 1)]) (fun _ => false)

/-- MMULS (R212): two A tiles, and the metadata tile on ring aux; Kc ranges over the logical extent. -/
def execMmuls (f : MMs) (s : State) : Host.Outcome State Fault Refusal :=
  let i := Instr.mmuls f
  let x := s.rdS f.sx
  let y := s.rdS f.sy
  let z := s.rdS f.sz
  let wb := bitsOf x.toNat 14 1
  let form := formOf f.fmt.toNat false
  let aux := bitsOf y.toNat 20 3
  let rg := f.rg.toNat
  let l : List Claim := [⟨rg, 0⟩, ⟨rg, 1⟩, ⟨aux, if aux = rg then 2 else 0⟩]
  let west := match s.bufProp wb with | some p => p.west | none => false
  s.mGuarded i (s.prodRanges i x y z 256 (2 * kFull form) (nFull form) true false ++
      s.bufFault i wb (fun p => !p.cb && p.fmt == f.fmt) :: s.mRange i 18 (!west) ::
      s.prodRows x (bitsOf y.toNat 0 9) :: (s.claimSlots l).map s.claimFault) fun s =>
    s.issueProd i f.ar x y z 0#2048 l [(rg, 2), (aux, 1)] (fun _ => false)

/-- MMULG (R211): A rows gathered by the popped entry's .ui16 indices; aux tiles claimed. -/
def execMmulg (f : MMg) (s : State) : Host.Outcome State Fault Refusal :=
  let i := Instr.mmulg f
  let x := s.rdS f.sx
  let y := s.rdS f.sy
  let z := s.rdS f.sz
  let wb := bitsOf x.toNat 14 1
  let q := 16 * f.cl.toNat + f.q.toNat
  let rg := f.rg.toNat
  let aux := bitsOf y.toNat 20 3
  let idx := (s.pl.headOf q).data
  let m := bitsOf y.toNat 0 9
  let form := match s.bufProp wb with | some p => formOf p.fmt.toNat false | none => 8
  let l : List Claim := (gatherPos aux m idx).map fun p => ⟨rg, p⟩
  s.mGuarded i (s.prodRanges i x y z 128 (kFull form) (nFull form) true false ++
      s.bufFault i wb (fun p => !p.cb) :: s.prodRows x m :: s.pl.popFault q false ::
      (s.claimSlots l).map s.claimFault) fun s =>
    (s.issueProd i f.ar x y z idx l (if aux = 0 then [] else [(rg, aux)]) (fun _ => false)).modPl
      fun p => p.popAtEnd q

/-! ### Condensing and chaining (R215, R216) -/

/-- A ring's tiles that unretired MCONDs will publish. -/
def Plane.publishing (p : Plane) (ring : Nat) : Nat :=
  sumN (p.m.map fun e => match e.ins with
    | .mcond _ => if e.supp.isNone && e.pushed = 0 then
        b2n (bitsOf e.y.toNat 16 3 = ring) + b2n (bitsOf e.y.toNat 24 3 = ring) else 0
    | _ => 0)

/-- MCOND (R215). -/
def execMcond (f : MCo) (s : State) : Host.Outcome State Fault Refusal :=
  let i := Instr.mcond f
  let y := s.rdS f.sy
  let ra := bitsOf y.toNat 0 3
  let rb := bitsOf y.toNat 8 3
  let oa := bitsOf y.toNat 16 3
  let ob := bitsOf y.toNat 24 3
  let l : List Claim := [⟨ra, 0⟩, ⟨rb, if rb = ra then 1 else 0⟩]
  let room (ring n : Nat) : Option Cause :=
    let r := vget s.pl.rg ring ⟨0#8, 0#9, 0#8, 0#9⟩
    need (r.count.toNat + s.pl.publishing ring + n ≤ r.size.toNat) ⟨0x05#8, BitVec.ofNat 64 (1 <<< 8 + ring)⟩
  s.mGuarded i ([s.mRange i 13 (y.toNat &&& 0x07070707 = y.toNat), room oa 1, room ob (if oa = ob then 2 else 1)] ++
      (s.claimSlots l).map s.claimFault) fun s =>
    let o := s.owe f.ar
    let e := { s.mEnt i o.1 256 with y := y }
    match s.firstEmpty l with
    | some c => o.2.issueM { e with supp := some c }
    | none => o.2.issueM { e with reads := (s.claimSlots l).filterMap (fun k => k.map s.sampleTile),
                                  pops := if ra = rb then [(ra, 2)] else [(ra, 1), (rb, 1)] }

/-- Every earlier instruction of the core has retired, or RESULT_QUEUE (R216). -/
def State.mIdle (s : State) : Option Cause := need (s.pl.m.all fun e => !e.open_) (resultQueue 9)

/-- MCHAIN, source role (R216). -/
def execMchain (f : MCh) (s : State) : Host.Outcome State Fault Refusal :=
  let i := Instr.mchain f
  let x := s.rdS f.sx
  let y := s.rdS f.sy
  let z := s.rdS f.sz
  let wb := bitsOf x.toNat 14 1
  let form := formOf f.fmt.toNat false
  let l : List Claim := [⟨f.rg.toNat, 0⟩]
  let fol := bitsOf y.toNat 24 2 + 1
  s.mGuarded i (s.prodRanges i x y z 256 (kFull form) (nFull form) false true ++
      s.bufFault i wb (fun p => !p.cb && p.fmt == f.fmt) :: s.mIdle :: s.mRange i 13 (s.co.id % 4 + fol ≤ 3) ::
      s.prodRows x (bitsOf y.toNat 0 9) :: (s.claimSlots l).map s.claimFault) fun s =>
    s.issueProd i f.ar x y z 0#2048 l [(f.rg.toNat, 1)] (fun _ => false)

/-- A receiver's source, when it has issued already: the entry of the core `h` positions west (R216). -/
def State.chainSource (s : State) (h : Nat) : Option MEnt :=
  match s.others.find? fun b => b.co.id + h == s.co.id with
  | some b =>
    if b.pl.lid = s.pl.lid then b.pl.m.find? fun e => match e.ins with | .mchain _ => !e.formed | _ => false else none
  | none => none

/-- MCHAIN, receiver role (R216): its rows and its format come from its source when the chain forms. -/
def execMchainRecv (f : R3) (s : State) : Host.Outcome State Fault Refusal :=
  let i := Instr.mchainRecv f
  let x := s.rdS f.sx
  let y := s.rdS f.sy
  let z := s.rdS f.sz
  let h := bitsOf y.toNat 24 2 + 1
  let fits := match s.chainSource h with
    | some e => decide (h ≤ bitsOf e.y.toNat 24 2 + 1)
    | none => true
  let rows := match s.chainSource h with | some e => bitsOf e.y.toNat 0 9 | none => 1
  s.mGuarded i
    [s.mRange i 18 (x.toNat < 2 ^ 15),
     s.mRange i 13 (y.toNat % 2 ^ 24 = 0 && y.toNat < 2 ^ 26 && h ≤ s.co.id % 4 && h ≤ 3 && fits),
     s.mRange i 8 (z.toNat ≤ 256),
     s.bufFault i (bitsOf x.toNat 14 1) (fun _ => true), s.mIdle, s.prodRows x rows] fun s =>
    let o := s.owe f.ar
    o.2.issueM { s.mEnt i o.1 0 with x := x, y := y, z := z }

/-! ### Draining and checking (R217, R218) -/

/-- The task that may drain a row of a core is the executing one (R197, R198). -/
def State.drainOwner (s : State) (c row : Nat) : Bool :=
  let h := s.core c
  match h.bands.find? fun b => b.row ≤ row && row < b.row + b.count with
  | some b => b.lid == s.pl.lid && b.pos == s.co.id % 4 && clusterOf c == clusterOf s.co.id
  | none => c == s.co.id && h.bankOf (row / 128) == some s.co.lit

/-- ACC_BAND_OWNER of the first row of another owner (R198). -/
def State.ownerFault (s : State) (c lo n : Nat) : Option Cause :=
  ((upTo lo n).find? fun r => !s.drainOwner c r).map fun r => ⟨0x1A#8, BitVec.ofNat 64 (r % 8192 + (c % 4) <<< 13)⟩

/-- MDRAIN (R217): mq's entries are reserved at issue; the scale register is read at issue. -/
def execMdrain (f : MDr) (s : State) : Host.Outcome State Fault Refusal :=
  let i := Instr.mdrain f
  let x := s.rdS f.sx
  let y := s.rdS f.sy
  let z := s.rdS f.sz
  let remote := x.getLsbD 16
  let pos := bitsOf x.toNat 14 2
  let c := clusterOf s.co.id * 4 + pos
  let lo := bitsOf x.toNat 0 13
  let n := y.toNat
  let v := drainV f.fmt.toNat
  let zmask := (if f.lux = 1#1 then 0xFFFF else 0) + (if f.q = 1#1 then 0x70000 else 0)
  s.mGuarded i
    [s.mRange i 18 (x.toNat < 2 ^ 17 && bitsOf x.toNat 13 1 = 0 && (remote || pos = s.co.id % 4)),
     s.mRange i 13 (1 ≤ n && n ≤ 32 && n * v ≤ 32),
     s.mRange i 8 (z.toNat &&& zmask = z.toNat),
     (s.core c).accFault (if remote then none else some s.co.lit) lo (min n 32),
     s.ownerFault c lo (min n 32), s.pl.pushFault 32 (n * v) []] fun s =>
    let o := s.owe f.ar
    let k := vget s.pl.ks (bitsOf z.toNat 16 3) ⟨0#64, 0#32⟩
    let s1 := o.2.issueM { s.mEnt i o.1 (n * v) with
      x := x, y := y, z := z, idx := BitVec.ofNat 2048 (k.w.toNat + k.rcp.toNat <<< 64) }
    if remote then s1.pass 4 else s1

/-- MCHK (R218): in its turn, or at once while a handler runs. With .col a bit of sb above [5:0] is out of range: DESIGN
CHOICE, log entry 117. -/
def execMchk (f : MCk) (s : State) : Host.Outcome State Fault Refusal :=
  let i := Instr.mchk f
  let y := s.rdS f.sy
  let b := y.toNat % 64
  s.guarded 4
    [if s.pl.intrap then none else s.mQueueFault,
     s.mRange i 13 (f.col = 0#1 || y.toNat < 64),
     if f.col = 1#1 then s.accFault (128 * b) 128 else none] fun s =>
    let o := s.owe f.ar
    if s.pl.intrap then
      let w := if f.col = 1#1 then s.co.checkCols b s.co.chk else s.co.chk
      let s1 := { o.2 with co := { o.2.co with chk := 0#64 } }.resultS 4 1 f.sx w o.1
      if f.col = 1#1 then s1.pass 128 else s1
    else o.2.issueM { s.mEnt i o.1 0 with y := y }

/-- Rows of a receiver outside the banks of its task, which it does not write (R196; DESIGN CHOICE, log entry 105). -/
def Core.foreignRows (c : Core) (lo n : Nat) : List (Nat × Nat) :=
  ((upTo lo n).filter fun r => c.bankOf (r / 128) != some c.lit || decide (8192 ≤ r)).map fun r => (r, 1)

/-- A chain forms once its source and every receiver have issued (R216). -/
def State.formChain (s : State) : State :=
  match s.pl.m.find? fun e => match e.ins with | .mchain _ => !e.formed | _ => false with
  | none => s
  | some e =>
    let fol := bitsOf e.y.toNat 24 2 + 1
    let recvOf (b : CoreBox) : Option MEnt :=
      b.pl.m.find? fun x => match x.ins with | .mchainRecv _ => !x.formed | _ => false
    let member (h : Nat) : Bool :=
      s.others.any fun b => b.co.id == s.co.id + h && b.pl.lid == s.pl.lid && (match recvOf b with
        | some x => x.hop == h
        | none => false)
    if (upTo 1 fol).all member then
      let fmt := e.fmtA none
      let stream := e.y.toNat % 2 ^ 24
      let join (b : CoreBox) : CoreBox :=
        if s.co.id < b.co.id ∧ b.co.id ≤ s.co.id + fol then
          { b with pl := { b.pl with m := b.pl.m.map fun x => match x.ins with
              | .mchainRecv _ =>
                if x.formed then x
                else { x with formed := true, steps := e.steps, skip := e.supp.isSome, idx := BitVec.ofNat 2048 fmt,
                              outs := b.co.foreignRows x.row0 e.mRows,
                              y := BitVec.ofNat 64 (stream + (x.hop - 1) <<< 24) }
              | _ => x } }
        else b
      { s.setM { e with formed := true } with others := s.others.map join }
    else s

end Sys2Proof.Machine
end

