-- ==== Sys2Proof/Machine/Channel.lean ====
section
/-!
DEFINITION. The channels of a core at work: residency moves (R355 to R357), collectives (R352, R353), starting and
completing commands (R324, R336, R337, R405, R406), holds, replay and abort (R259).
-/

namespace Sys2Proof.Machine

/-! ### Residency moves (R355 to R357) -/

/-- First physical address of an offloaded image: at a neighbour, or in host memory. -/
def imageBase (state nbr frame : Nat) : Nat :=
  if state = 1 then fabricBase + nbr * 2 ^ 40 + (frame * 65536) % 2 ^ 40 else frame * 65536

/-- The entries of a tensor, by tile. -/
def State.entriesOf (s : State) (sp i x : Nat) : List (Word × Word) :=
  (upTo 0 (descTiles x)).map fun t =>
    match s.dv.tensorLoc sp i x t with
    | .ok l => s.entry l
    | .error _ => (0#64, 0#64)

/-- The state with a tensor's entries remembered, and the tiles whose bytes its image holds (R356). -/
def State.remember (s : State) (sp i : Nat) (es : List (Word × Word)) (ts : List Nat) : State :=
  s.modDev fun d => { d with images := ⟨sp, i, es, ts⟩ :: d.images.filter fun m => !(m.sp == sp && m.desc == i) }

/-- A tile's bytes copied by a residency move (R316, R324, R356): by the channel of the command that forces it, whose writes move
outward from its core's domain, else by the residency unit, for which the infrastructure acts. -/
def Dev.moveTile (d : Dev) (by_ : Option (Nat × Nat × Nat)) (src dst : Nat) : Dev :=
  match by_ with
  | some (core, _, seq) => d.store seq core 0 dst ((upTo src 65536).map (d.seenAs core seq))
  | none => d.atomic 0 agentInfra dst (d.seenBytes agentInfra src 65536)

/-- An offload done (R356): the bytes of every tile still STORED are at the target, in its place among the tiles the move began
with, and every tile is UNMAPPED. The number says how many tiles it moved (R357). DESIGN CHOICE: log entry 63. -/
def State.offloadDone (s : State) (m : Move) : Nat × State :=
  match s.dv.desc m.sp m.desc with
  | none => (0, s)
  | some x =>
    let base := imageBase m.state m.nbr m.frame
    let r := ((upTo 0 m.tiles.length).zip m.tiles).foldl (fun (acc : Nat × State) p =>
      match acc.2.dv.tensorLoc m.sp m.desc x p.2 with
      | .ok l =>
        let w0 := (acc.2.entry l).1
        if entKind w0 ≠ 1 then acc
        else (acc.1 + 1, acc.2.modDev fun d => d.moveTile m.cmd (entFrame w0 * 65536) (base + 65536 * p.1))
      | .error _ => acc) (0, s.remember m.sp m.desc (s.entriesOf m.sp m.desc x) m.tiles)
    (r.1, (r.2.unmapTiles m.sp m.desc x (upTo 0 (descTiles x))).modDev fun d =>
      d.setRes m.sp m.desc (mkRes m.state false m.nbr m.frame))

/-- Tiles of an offloaded tensor brought back in order (R357): the tiles moved, and whether all are back. -/
def State.restoreGo (s : State) (by_ : Option (Nat × Nat × Nat)) (sp i x base : Nat) :
    List (Nat × Nat × Word × Word) → Nat → Nat × Bool × State
  | [], n => (n, true, s)
  | (t, k, w0, w1) :: rest, n =>
    match s.dv.tensorLoc sp i x t with
    | .error _ => State.restoreGo s by_ sp i x base rest n
    | .ok l =>
      if entKind (s.entry l).1 ≠ 0 then State.restoreGo s by_ sp i x base rest n
      else if entKind w0 ≠ 1 then State.restoreGo (s.setEntry l w0 w1) by_ sp i x base rest n
      else
        match s.takeFrame l.die with
        | none => (n, false, s)
        | some (f, s1) =>
          let s2 := s1.modDev fun d => d.moveTile by_ (base + 65536 * k) (f * 65536)
          let s3 := s2.setSide (.frame f) (tileSums l.fmt (s2.storeRows (.frame f)))
          State.restoreGo (s3.setEntry l (entPut w0 0 36 f) w1) by_ sp i x base rest (n + 1)

/-- Tiles with their remembered entries, and for each STORED one its place in the image. -/
def imagePlaces (ts : List Nat) (es : List (Word × Word)) : List (Nat × Nat × Word × Word) :=
  ((upTo 0 es.length).zip es).map fun p => (p.1, ts.findIdx (· == p.1), p.2.1, p.2.2)

/-- An offloaded tensor brought back (R356, R357): the tiles moved and whether all are back; then it is resident. -/
def State.recallNow (s : State) (by_ : Option (Nat × Nat × Nat)) (sp i : Nat) : Nat × Bool × State :=
  match s.dv.desc sp i with
  | none => (0, true, s)
  | some x =>
    let es := ((s.dv.images.find? fun m => m.sp == sp && m.desc == i).map fun m => imagePlaces m.tiles m.ents).getD []
    let base := imageBase (resState x) (descF x 0x38 52 9) (descF x 0x38 0 36)
    let r := s.restoreGo by_ sp i x base es 0
    if r.2.1 then
      (r.1, true, r.2.2.modDev fun d =>
        { d.setRes sp i (mkRes 0 false 0 0) with images := d.images.filter fun m => !(m.sp == sp && m.desc == i) })
    else
      (r.1, false, r.2.2.modDev fun d => d.setRes sp i (mkRes (resState x) false (descF x 0x38 52 9) (descF x 0x38 0 36)))

/-- XSPILL (R357). A tensor that is not resident has nothing to move. DEDUCED: log entry 62. -/
def State.runXspill (s : State) (core ch : Nat) (f : XSp) (c : Cmd) : Cmd × State :=
  let i := c.x.toNat
  match s.dv.desc c.space i with
  | none => (c.fail (unmapped (tileRef (i % 2 ^ 24) 0) 0), s)
  | some x =>
    if resBusy x then (c, s)
    else if resState x ≠ 0 then (c.moved, s)
    else
      let ts := s.storedTiles c.space i x
      let go (state nbr frame area : Nat) : Cmd × State :=
        let mv : Move := ⟨c.space, i, false, state, nbr, frame, ts, some (core, ch, c.seq)⟩
        ({ c with st := .posted }, s.modDev fun d =>
          { d.setRes c.space i (mkRes 0 true 0 0) with moves := d.moves ++ [mv], hostArea := d.hostArea + area })
      match f.sel.toNat with
      | 1 =>
        let s0 := { s with fresh := s.fresh + 1 }
        let named := if f.sy = 0#5 then none else some (c.y.toNat % 512)
        match Config.neighbourGrant s.fresh named ts.length with
        | none => (c.fail (poolEmpty (tileRef i 0)), s0)
        | some (n, fr) => let r := go 1 (named.getD n) fr 0; (r.1, { r.2 with fresh := s.fresh + 1 })
      | 2 => go 2 0 ((hostBase + s.dv.hostArea) >>> 16) (65536 * ts.length)
      | _ =>
        ({ c with st := .moved, done := ts.length },
         (s.unmapTiles c.space i x (upTo 0 (descTiles x))).modDev fun d => d.setRes c.space i (mkRes 3 false 0 0))

/-- XRECALL (R357). -/
def State.runXrecall (s : State) (core ch : Nat) (c : Cmd) : Cmd × State :=
  let i := c.x.toNat
  match s.dv.desc c.space i with
  | none => (c.fail (unmapped (tileRef (i % 2 ^ 24) 0) 0), s)
  | some x =>
    if resBusy x then (c, s)
    else match resState x with
      | 0 => (c.moved, s)
      | 3 => (c.fail (unmapped (tileRef i 0) 0), s)
      | _ =>
        let r := s.recallNow (some (core, ch, c.seq)) c.space i
        let c1 := { c with done := r.1 }
        (if r.2.1 then c1.moved else c1.fail (poolEmpty (tileRef i 0)), r.2.2)

/-- OFFLOAD_DONE (R356): a move under way ends; the command that asked for it has its tiles. -/
def State.endOffload (s : State) (i : Nat) : State :=
  match s.dv.moves[i]? with
  | none => s
  | some m =>
    if m.back then s
    else
      let r := s.offloadDone m
      let s1 := r.2.modDev fun d => { d with moves := dropAt d.moves i }
      match m.cmd with
      | some (c, ch, seq) => s1.modCmd c ch seq fun x => { x with st := .moved, done := r.1 }
      | none => s1

/-- RESIDENCY_RECALL_DONE (R356): a recall the unit began by itself ends. -/
def State.endRecall (s : State) (i : Nat) : State :=
  match s.dv.moves[i]? with
  | none => s
  | some m =>
    if m.back then (s.recallNow none m.sp m.desc).2.2.modDev fun d => { d with moves := dropAt d.moves i } else s

/-! ### Collectives (R352, R353) -/

/-- A value and its flags folded with the next one (R353): a sum of BF16 runs on FP32 codes. -/
def foldStep (fmt combine : Nat) (p q : Nat × Nat) : Nat × Nat :=
  let r : Elem :=
    match combine with
    | 0 => if fmt = 4 then ((p.1 + q.1) % 2 ^ 32, 0) else fAdd 12 p.1 q.1
    | k => if fmt = 4 then (if (sgn 32 p.1 ≤ sgn 32 q.1) = (k = 2) then p.1 else q.1, 0) else fMinMax (k = 1) fmt p.1 q.1
  (r.1, p.2 ||| q.2 ||| r.2)

/-- Every run of values of one key folded into one. -/
def foldRuns (f : Nat × Nat → Nat × Nat → Nat × Nat) (l : List (Nat × Nat × Nat)) : List (Nat × Nat × Nat) :=
  (l.foldl (fun acc x => match acc with
    | [] => [x]
    | y :: t => if y.1 = x.1 then (y.1, f y.2 x.2) :: t else x :: y :: t) []).reverse

/-- Elements folded in their order (R353): with the torus those of each device first, then along x, y and z of the device
coordinate x + 8y + 64z; else one after another. The code and the flags. -/
def foldElems (fmt combine : Nat) (torus : Bool) (xs : List (Nat × Nat)) : Nat × Nat :=
  let wide := combine = 0 ∧ fmt = 10
  let f := foldStep fmt combine
  let l := xs.map fun x => (x.1, if wide then x.2 <<< 16 else x.2, 0)
  let up (k : Nat) (l : List (Nat × Nat × Nat)) : List (Nat × Nat × Nat) := foldRuns f (l.map fun x => (x.1 / k, x.2))
  let r := if torus then foldRuns f ((up 8 (up 8 (up 1 l))).map fun x => (0, x.2)) else foldRuns f (l.map fun x => (0, x.2))
  let v := (r.map (·.2)).headD (0, 0)
  if wide then let q := cvt (decodeF fp32 v.1) 10; (q.1, v.2 ||| q.2) else v

/-- An order of `m` members taken one by one by a free choice (DESIGN CHOICE, log entry 22). -/
def freeOrder (n : Nat) : Nat → List Nat → List Nat
  | 0, _ => []
  | fuel + 1, l =>
    match l with
    | [] => []
    | l =>
      let k := Config.arrivalPick n l.length % l.length
      (l[k]?).getD 0 :: freeOrder n fuel (dropAt l k)

/-- The members in the order in which element `e` of `n` is folded (R353); the torus takes them by `d3`, their devices and their
ranks in their launches there, those that agree in both by their own order (DESIGN CHOICE, log entry 16). -/
def foldOrder (order : Nat) (d3 : List Nat) (m n e fresh : Nat) : List Nat :=
  match order with
  | 0 => (upTo 1 m).map fun k => (e / ceilDiv n m + k) % m
  | 1 => (upTo 0 m).insertionSort fun a b => (d3[a]?).getD a ≤ (d3[b]?).getD b
  | _ => freeOrder fresh m (upTo 0 m)

/-- Domain register of a level of a task of a launch, whether it has ended or not (R223). -/
def State.dmrOf (s : State) (lid rank level : Nat) : Word :=
  match s.launch? lid with
  | some l => vget (domainRegs s.dv.mg l.rc l.base rank) level 0#64
  | none => 0#64

/-- A member's posted collective: core, channel, command, and its rank in the domain. -/
def State.collOf (s : State) (lid rank level id : Nat) : Option (Nat × Nat × Cmd × Nat) :=
  s.boxes.findSome? fun b => (upTo 0 8).findSome? fun ch =>
    match vget b.co.ch ch [] with
    | c :: _ =>
      let k := Machine.collOf c.blk
      let isColl := match c.ins with | .xcoll _ => true | _ => false
      if isColl && c.st == .posted && c.lid == lid && c.rank == rank && k.level == level && k.id == id then
        some (b.co.id, ch, c, dmrRank (s.dmrOf lid rank level))
      else none
    | [] => none

/-- The sources of the members, read in order; the first that fails, by position and cause. -/
def State.readSources (s : State) : List (Nat × Nat × Cmd × Nat) → Except (Nat × Nat × Nat × Cause) (List (List Nat)) × State
  | [] => (.ok [], s)
  | (core, ch, c, _) :: t =>
    let k := Machine.collOf c.blk
    let r := s.opRead (c.who core ch clsCopy) k.src (k.n * k.bytes)
    match r.1 with
    | .error e => (.error (core, ch, c.seq, e), r.2)
    | .ok bs =>
      let q := State.readSources r.2 t
      match q.1 with
      | .error e => (.error e, q.2)
      | .ok l => (.ok (elems (8 * k.bytes) k.n (natOfBytes bs) :: l), q.2)

/-- A member of a collective (R352): its rank, its device and its rank there, its elements, and its command when it is here. -/
structure CMem where
  rank : Nat
  dev : Nat
  d3 : Nat
  data : List Nat
  here : Option (Nat × Nat × Cmd)
  deriving DecidableEq, Repr

/-- The members of a collective that are on other devices, of `m` in all (R352): each contributes free values. The answer says
whether they all agree with the command `k`. DESIGN CHOICE: log entry 16. -/
def State.peers (s : State) (m : Nat) (mine : List Nat) (k : Coll) : Bool × List CMem :=
  let rs := ((upTo 0 m).filter fun r => !mine.contains r).take (m - mine.length)
  (rs.all fun r => (Config.peerMember s.fresh r).2.2,
   rs.map fun r =>
     let p := Config.peerMember s.fresh r
     ⟨r, p.1, p.2.1, (upTo 0 k.n).map fun e => Config.peerElem s.fresh r e % 2 ^ (8 * k.bytes), none⟩)

/-- What a member of a collective receives (R353): codes with their flags. -/
def collResult (k : Coll) (level fresh pos : Nat) (ms : List CMem) : List (Nat × Nat) :=
  let m := ms.length
  let torus := k.order == 1 && level == 4
  let keys := if level = 4 then ms.map fun x => x.dev * 65536 + x.d3 else []
  let red (e : Nat) : Nat × Nat :=
    foldElems k.fmt k.combine torus ((foldOrder k.order keys m k.n e fresh).map fun i =>
      (((ms[i]?).map (·.dev)).getD 0, ((((ms[i]?).map (·.data)).getD [])[e]?).getD 0))
  match k.kind with
  | 2 => (ms.flatMap (·.data)).map fun c => (c, 0)
  | 1 => (upTo (pos * (k.n / m)) (k.n / m)).map red
  | _ => (upTo 0 k.n).map red

/-- The rows a command has read, and asked for, are spent (R320). -/
def State.spent (s : State) (core ch seq : Nat) : State :=
  s.modCmd core ch seq fun c => { c with reads := [], asked := [], need := [] }

/-- The window rows that a trial of a command's piece turned out to need and that it has not read (R320). -/
def State.missing (s : State) (core ch seq : Nat) : List (Nat × Bool) := ((s.cmd? core ch seq).map (·.need)).getD []

/-- COLLECTIVE_MATCH (R352, R353): once every member has posted, those on other devices by the event itself, the data are folded, and
each member's command goes on to place what it receives. -/
def State.collective (s : State) (lid level inst id : Nat) : State :=
  let o := s.barOwner lid level
  let ms := s.members o.1 o.2 level inst
  let found := ms.filterMap fun m => s.collOf m.1 m.2.1 level id
  if ms = [] || found.length ≠ ms.length then s
  else
    let ps := found.insertionSort fun a b => a.2.2.2 ≤ b.2.2.2
    let key (c : Cmd) := let k := Machine.collOf c.blk; (k.kind, k.combine, k.fmt, k.n, k.order)
    let ks := ps.map fun p => key p.2.2.1
    let k := (ps.map fun p => Machine.collOf p.2.2.1.blk).headD (Machine.collOf 0#512)
    let m := if o.1 then max ((s.launch? lid).map (·.smembers) |>.getD 0) ps.length else ps.length
    let peers := s.peers m (ps.map (·.2.2.2)) k
    let s0 := if peers.2.isEmpty then s else { s with fresh := s.fresh + 1 }
    if ks.any (· != ks.headD (0, 0, 0, 0, 0)) || !peers.1 then
      ps.foldl (fun s p => s.modCmd p.1 p.2.1 p.2.2.1.seq fun c => c.fail (engDenied 6 0)) s0
    else
      let r := s.readSources ps
      if ps.any fun p => r.2.missing p.1 p.2.1 p.2.2.1.seq != [] then
        ps.foldl (fun s p => s.askWin p.1 p.2.1 p.2.2.1 (r.2.missing p.1 p.2.1 p.2.2.1.seq)) s
      else
        let s1 := ps.foldl (fun s p => s.spent p.1 p.2.1 p.2.2.1.seq) { r.2 with fresh := r.2.fresh + 1 }
        match r.1 with
        | .error (core, ch, seq, e) => s1.modCmd core ch seq fun c => c.fail e
        | .ok xs =>
          let mine := (ps.zip xs).map fun (p, x) =>
            (⟨p.2.2.2, s.dv.mg.index, dmrRank (s.dmrOf p.2.2.1.lid p.2.2.1.rank 3), x, some (p.1, p.2.1, p.2.2.1)⟩ : CMem)
          let all := (mine ++ peers.2).insertionSort fun a b => a.rank ≤ b.rank
          ((upTo 0 all.length).zip all).foldl (fun s p =>
            match p.2.here with
            | none => s
            | some (core, ch, c) =>
              let vs := (collResult k level s.fresh p.1 all).map fun x => (bytesOfNat k.bytes x.1, x.2)
              s.modCmd core ch c.seq fun c =>
                { c with st := .running, out := chunksOf (Machine.collOf c.blk).dst k.bytes true vs }) s1

/-! ### Starting a command (R199, R324, R325, R405, R406) -/

/-- Whether a command is past its fences and its channel runs (R259, R325). -/
def Core.mayStart (c : Core) (ch : Nat) (x : Cmd) : Bool :=
  !c.hold.getLsbD ch && c.fences.all fun f => !(f.held.getLsbD ch && f.seq < x.seq)

/-- Destinations that a command names by window, with the bytes it may write there. -/
def Cmd.dests (c : Cmd) : List (Nat × Nat) :=
  match c.ins with
  | .xcopy _ => [(c.x.toNat, c.z.toNat)]
  | .xcopyt _ => let h := shapeOf c.blk; [(h.dst, (h.d0 + h.outDims.1 * h.dp + 7) / 8)]
  | .xgath _ => let g := gatherOf c.blk; [(g.dst, g.n * g.row)]
  | .xscat _ => [((gatherOf c.blk).dst, 0x800000)]
  | .xpost _ => [(bF c.blk 0x10 0 64, bF c.blk 0x18 0 40)]
  | .xcoll _ => [((collOf c.blk).dst, 0x800000)]
  | .xmedia _ => [(bF c.blk 0x28 0 64, 0x800000)]
  | _ => []

/-- Whether a command would write an accumulator row that an unretired M instruction writes (R199). -/
def State.accHeld (s : State) (c : Cmd) : Bool :=
  c.dests.any fun d =>
    if opWin d.1 && windowBase ≤ opPa d.1 && opPa d.1 < windowBase + 48 * 2 ^ 30 then
      let off := (opPa d.1 - windowBase) % 2 ^ 30
      if wAcc ≤ off ∧ off < 0x1800000 then
        let core := (opPa d.1 - windowBase) / 2 ^ 30
        let lo := (off - wAcc) / 1024
        let hi := min 8192 ((off - wAcc + d.2 + 1023) / 1024)
        (upTo lo (hi - lo)).any (s.winBusy core)
      else false
    else false

/-- Whether an EMIT copy is in the emission hold buffer. -/
def Journal.holds (j : Journal) (core ch seq : Nat) : Bool :=
  j.hold.any fun h => h.core == core && h.ch == ch && h.seq == seq

/-- The next piece of a command's data movement. DESIGN CHOICE: log entry 43. -/
def State.runCmd (s : State) (core ch : Nat) (c : Cmd) : Cmd × State :=
  match c.ins with
  | .xcopy _ => s.runXcopy core ch c
  | .xcopyt _ => s.runXcopyt core ch c
  | .xpair _ => s.runXpair core ch c
  | .xfill f => s.runXfill core ch f c
  | .xgath _ => s.runRows core ch false c
  | .xscat _ => s.runRows core ch true c
  | .xacc _ => ({ c with st := .posted }, s)
  | .xcas _ => ({ c with st := .posted }, s)
  | .xnear _ => s.runXnear core ch c
  | .xsend _ => s.runXsend core ch c
  | .xpost _ => s.runXpost core ch c
  | .xcoll _ => if c.out.isEmpty then ({ c with st := .posted }, s) else s.putNext (c.who core ch clsCopy) c
  | .xmedia _ => s.runXmedia core ch c
  | .xspill f => s.runXspill core ch f c
  | .xrecall _ => s.runXrecall core ch c
  | _ => (c.moved, s)

/-- A command run for a piece, and written back to its channel. A piece that needs window rows it has not read asks for them at
their banks, and runs once they have been read (R320). -/
def State.runHead (s : State) (core ch : Nat) (c : Cmd) : State :=
  let r := s.runCmd core ch c
  let miss := r.2.missing core ch c.seq
  if miss = [] then (r.2.modCmd core ch c.seq fun _ => r.1).spent core ch c.seq
  else (s.askWin core ch c miss).modCmd core ch c.seq fun x => { x with st := if x.st = .queued then .running else x.st }

/-- The state with a command taken out of the emission hold buffer. -/
def State.unhold (s : State) (core ch seq : Nat) : State :=
  s.modDev fun d =>
    { d with jnl := { d.jnl with hold := d.jnl.hold.filter fun h => !(h.core == core && h.ch == ch && h.seq == seq) } }

/-- Whether a posted XSEND waits at the head of its channel for a buffer. -/
def Cmd.waitsSend (c : Cmd) : Bool := match c.ins with | .xsend _ => c.st == .posted | _ => false

/-- Whether an EMIT copy about to start is suppressed (R406): its watermark is covered by what was emitted before the failure; a live
stream covers none, since it numbers its entries above `held`. DEDUCED: log entry 67. -/
def State.suppresses (s : State) (c : Cmd) : Bool :=
  c.emit && c.st == .queued && match c.wm with
    | none => false
    | some w => decide (w ≤ (s.dv.stream c.stream).held) && (c.replay || decide (0 < w))

/-- COMMAND_START: the head of a channel starts, when nothing holds it (R199, R259, R324, R325, R405, R406), or moves its next
piece. -/
def State.startCmd (s0 : State) (core ch : Nat) : State :=
  let s := s0.fenceTick core
  match vget (s.core core).ch ch [] with
  | [] => s
  | c :: _ =>
    if c.waitsSend then s.runHead core ch c
    else if !(c.st == .queued || c.st == .running) || !(s.core core).mayStart ch c then s
    else if s.suppresses c then
      s.modCmd core ch c.seq fun c => { c with st := .moved, result := none, done := 0, extra := some 1#64 }
    else if c.emit && c.st == .queued && c.wm.isNone then s
    else if c.result.isSome then s.modCmd core ch c.seq Cmd.moved
    else if s.accHeld c then s
    else if !c.emit || c.st == .running then s.runHead core ch c
    else
      match c.wm with
      | none => s
      | some w =>
        let x := s.dv.stream c.stream
        if s.dv.jnl.holds core ch c.seq then
          if w ≤ x.ack then (s.unhold core ch c.seq).runHead core ch c else s
        else if s.dv.jnl.hold.length < Config.holdCap then
          s.modDev fun d => { d with jnl := { d.jnl with hold := d.jnl.hold ++ [⟨core, ch, c.seq, c.stream, w⟩] } }
        else s

/-- ATOMIC_APPLY: a started XACC or XCAS is applied at its location's port (R326). -/
def State.applyAtomic (s : State) (core ch : Nat) : State :=
  match vget (s.core core).ch ch [] with
  | [] => s
  | c :: _ =>
    if !(c.st == .posted) then s
    else match c.ins with
      | .xacc f => let r := s.runXacc core ch f c; r.2.modCmd core ch c.seq fun _ => r.1
      | .xcas f => let r := s.runXcas core ch f c; r.2.modCmd core ch c.seq fun _ => r.1
      | _ => s

/-! ### Completing a command (R324, R336, R337) -/

/-- Whether a vector queue has yet to admit an entry that a command wrote to a push window (R31, R253). -/
def Plane.pushesOf (p : Plane) (seq : Nat) : Bool := p.pushes.any fun x => x.seq == seq

/-- Whether every write of a command has performed: visible at the device domain, or at the slice domain for host and
remote memory, with no access queued at a bank and every pushed entry admitted (R31, R253, R320, R324, R351). -/
def State.cmdVisible (s : State) (core ch : Nat) (c : Cmd) : Bool :=
  (s.boxes.all fun b => !b.pl.pushesOf c.seq && !b.co.shadow.pushesOf c.seq) &&
  (s.dv.launches.all fun l => l.images.all fun i => !i.pl.pushesOf c.seq) &&
  (s.dv.far.all fun f => f.id != c.seq || (if f.addr < 2 ^ 40 then 3 else 4) ≤ f.level) &&
  (match c.peer with | none => true | some p => s.dv.visible p 4) &&
  s.boxes.all fun b => b.co.engQ.all fun e => !(e.core == core && e.ch == ch && e.seq == c.seq)

/-- A status entry (R336). -/
def statusWord (cause : Option Cause) (x rp : Bool) (ch tag done : Nat) : Word :=
  BitVec.ofNat 64 (((cause.map (·.code.toNat)).getD 0) <<< 56 + b2n x <<< 55 + b2n rp <<< 54 + ch <<< 51 +
    (tag % 256) <<< 40 + done % 2 ^ 40)

/-- The tag of a command's block; 0 for register forms (R336). -/
def Cmd.tag (c : Cmd) : Nat := bF c.blk 8 0 8

/-- The entries a command writes to xq (R336, R340). -/
def Cmd.entries (c : Cmd) (cause : Option Cause) (rp : Bool) (ch : Nat) : List Word :=
  let quiet := match c.ins with | .xcopy f => f.quiet == 1#1 | _ => false
  let extra := match cause with | some k => some k.detail | none => c.extra
  if quiet && cause.isNone then []
  else statusWord cause extra.isSome rp ch c.tag c.done :: (match extra with | some w => [w] | none => [])

/-- The cause a command's record carries: what failed, or else an enabled flag (R143). -/
def Cmd.cause (c : Cmd) (flags : BitVec 16) : Option Cause :=
  let en := enabledOf flags (BitVec.ofNat 5 c.fl)
  (c.result.or c.err).or (if en = 0#5 then none else some (fpCause 3 en))

/-- The stores of a phase-bound copy that completes count as its task's: a phase waits for them at its own level (R233). -/
def Cmd.tagStores (c : Cmd) (d : Dev) : Dev :=
  if c.pb then { d with far := d.far.map fun f => if f.id = c.seq then { f with lid := c.lid, rank := c.rank, plane := 2 } else f }
  else d

/-- A command leaves its channel (R230, R324, R339): its arrival is made and its block posted. The slots that only it kept of a
task that has ended are freed (R260; log entry 120). -/
def State.leaveChannel (s : State) (core ch : Nat) (c : Cmd) (post : Option (Nat × Bool)) : State :=
  let s1 := s.modCore core fun co =>
    { co with ch := vput co.ch ch ((vget co.ch ch []).filter fun x => x.seq != c.seq),
              hold := co.hold &&& ~~~(1#8 <<< ch) }
  let s2 := (s1.modDev fun d => (c.tagStores d).forgetGens c.seq).arrive c.arr [c.seq] ((c.arr.map (·.level)).getD 0)
  let s3 := match post with
    | none => s2
    | some (pa, bad) =>
      let r : JReq :=
        ⟨pa, c.lid, c.rank, .done (some (bF c.blk 0 58 6)) false (if bad then some 0x30#8 else none), [], none⟩
      s2.modDev fun d => { d with jcbQ := d.jcbQ ++ [r] }
  let s4 := s3.fenceTick core
  if s4.alive c.lid c.rank then s4 else s4.freeOwned c.lid c.rank

/-- The physical address of the block a command posts to, none when it posts to none (R339). DEDUCED: log entry 61. -/
def State.postPa (s : State) (core : Nat) (c : Cmd) : Except Cause (Option Nat) × State :=
  let a := bF c.blk 0 0 55
  if a = 0 then (.ok none, s)
  else
    let r := s.place (c.who core 0 clsCopy) true a 64
    match r.1 with
    | .error e => (.error e, r.2)
    | .ok (.virt _ (.mem pa _)) => (.ok (some pa), r.2)
    | .ok (.virt va (.sym l _)) =>
      match r.2.readyWrite l c.lid c.rank with
      | .ok (.frame f, s1) => (.ok (some (f * 65536 + va % 65536)), s1)
      | .ok (.slot _ _, s1) => (.error (unmapped l.ref 0), s1)
      | .error e => (.error e, r.2)
    | .ok _ => (.error (engDenied 2 0), r.2)

/-- Whether a forced offload's move has been cancelled (R356). -/
def State.spillGone (s : State) (core ch : Nat) (c : Cmd) : Bool :=
  match c.ins with
  | .xspill _ => c.st == .posted && s.dv.moves.all fun m => m.cmd != some (core, ch, c.seq)
  | _ => false

/-- The plane that holds a command's task: on its core, or in the image of a saved task (R375). -/
def State.taskPlane (s : State) (core : Nat) (c : Cmd) : Option Plane :=
  let p := s.plane core c.plane
  if p.live ∧ p.lid = c.lid ∧ p.rank = c.rank then some p
  else match s.launch? c.lid with
    | some l => (l.images.find? fun i => i.rank == c.rank).map (·.pl)
    | none => none

/-- The state with the plane of a command's task changed. -/
def State.modTask (s : State) (core : Nat) (c : Cmd) (f : Plane → Plane) : State :=
  let p := s.plane core c.plane
  if p.live ∧ p.lid = c.lid ∧ p.rank = c.rank then s.modPlane core c.plane f
  else s.modLaunch c.lid fun l =>
    { l with images := l.images.map fun i => if i.rank = c.rank then { i with pl := f i.pl } else i }

/-- Entries appended to a saved task's xq in its save area too, with the count (R375, R377, R379); `old` is the plane before. -/
def State.saveXq (s : State) (core : Nat) (c : Cmd) (old : Plane) (es : List Word) : State :=
  let p := s.plane core c.plane
  if es = [] ∨ (p.live ∧ p.lid = c.lid ∧ p.rank = c.rank) then s
  else match s.launch? c.lid with
    | none => s
    | some l =>
      let n := old.xq.length
      let w := s.putParts l.q (l.imageAt c.rank)
        [(0xA00 + 8 * n, bytesOfNat (8 * es.length) (packs 64 (es.map (·.toNat)))), (offXqCount, bytesOfNat 8 (n + es.length))]
      match w.1 with
      | some k => w.2.saveFailed c.lid c.rank k
      | none => w.2

/-- COMMAND_COMPLETE: the head of a channel, its data moved and visible, writes its record, arrives and posts its
block; a translation fault holds the channel instead (R259, R324, R336, R337, R339). -/
def State.completeCmd (s : State) (core ch : Nat) : State :=
  match vget (s.core core).ch ch [] with
  | [] => s
  | c :: _ =>
    if !(c.st == .moved || s.spillGone core ch c) || !s.cmdVisible core ch c then s
    else
      let task := s.taskPlane core c
      let live := task.isSome
      let p := task.getD Plane.reset
      let hold := match c.result with | some k => k.holds | none => false
      let q := if hold then (Except.ok none, s) else s.postPa core c
      let cause0 := c.cause (if live then vget p.flags 3 0#16 else 0#16)
      let cause := match q.1 with | .error e => cause0.or (some e) | .ok _ => cause0
      let es := if live then c.entries cause hold ch else []
      if live && Config.xqCap < p.xq.length + es.length then s
      else
        let s1 := (q.2.saveXq core c p es).modTask core c fun p =>
          { p with xq := p.xq ++ es,
                   flags := if hold then p.flags else vput p.flags 3 (vget p.flags 3 0#16 ||| BitVec.ofNat 16 c.fl) }
        if hold then
          let s2 := s1.modCmd core ch c.seq fun c => { c with st := .held }
          let s3 := s2.modCore core fun co => { co with hold := co.hold ||| (1#8 <<< ch) }
          s3.modDev fun d => { d with faultQ := d.faultQ ++ [⟨dieOf core, 1, core, ch, c.result.getD ⟨0#8, 0#64⟩⟩] }
        else
          s1.leaveChannel core ch c (match q.1 with | .ok (some pa) => some (pa, cause.isSome) | _ => none)

/-- CHANNEL_REPLAY (R259): the held command runs again from its first unplaced piece. -/
def State.replayCmd (s : State) (core ch : Nat) : State :=
  match vget (s.core core).ch ch [] with
  | [] => s
  | c :: _ =>
    if c.st == .held then
      (s.modCmd core ch c.seq fun c => { c with st := .running, result := none }).modCore core fun co =>
        { co with hold := co.hold &&& ~~~(1#8 <<< ch) }
    else s

/-- CHANNEL_ABORT (R142, R259): the failed record is final, and the flags of what was placed are set. -/
def State.abortCmd (s : State) (core ch : Nat) : State :=
  match vget (s.core core).ch ch [] with
  | [] => s
  | c :: _ =>
    if c.st == .held then
      let q := s.postPa core c
      let s1 := q.2.modTask core c fun p =>
        { p with flags := vput p.flags 3 (vget p.flags 3 0#16 ||| BitVec.ofNat 16 c.fl) }
      s1.leaveChannel core ch c (match q.1 with | .ok (some pa) => some (pa, true) | _ => none)
    else s

/-- ENGINE_ACCESS_PERFORM (R320): an accepted access performs, no earlier one to its row being left. -/
def State.performAccess (s : State) (c i : Nat) : State :=
  match (s.core c).engQ[i]? with
  | none => s
  | some e =>
    if ((s.core c).engQ.take i).any fun x => x.row == e.row then s
    else (s.modCore c fun co => { co with engQ := dropAt co.engQ i }).engPerform c e

end Sys2Proof.Machine
end

