-- ==== Sys2Proof/Machine/Group.lean ====
section
/-!
DEFINITION. The rules a group keeps, checked on its words before it issues (R10 to R13, R29, R61, R84, R91, R93, R102,
R115, R144, R226, R338): what each instruction reads, writes, pops, peeks and pushes, and the causes of a group that
breaks a rule. The checks of single instructions stand in their meanings.
-/

namespace Sys2Proof.Machine

/-! ### What an instruction uses -/

/-- A register as the independence rules see it: scalar, predicate, scale, system, pattern, ring. -/
inductive Key where
  | s (r : Nat)
  | p (k : Nat)
  | ks (n : Nat)
  | sys (n : Nat)
  | xp (n : Nat)
  | rg (n : Nat)
  deriving DecidableEq, Repr

/-- What an instruction reads, writes, pops, peeks and pushes; `pinned` when its registers fall under R84 or R115. -/
structure Uses where
  reads : List Key := []
  writes : List Key := []
  pops : List Nat := []
  peeks : List Nat := []
  pushes : List Nat := []
  pinned : Bool := false
  deriving DecidableEq, Repr

/-- A scalar register; s0 is exempt (R12, R25). -/
def skey (r : BitVec 5) : List Key := if r = 0#5 then [] else [.s r.toNat]

/-- A predicate; number 0 is no register (R161). -/
def pkey (cl n : Nat) : List Key := if n = 0 then [] else [.p (4 * cl + n)]

/-- Scalar registers read. -/
def Uses.rd (l : List (BitVec 5)) (pinned : Bool) : Uses := { reads := l.flatMap skey, pinned := pinned }

/-- Scalar registers read, one written. -/
def Uses.rw (l : List (BitVec 5)) (d : BitVec 5) : Uses := { reads := l.flatMap skey, writes := skey d }

/-- The queues that sources peek. -/
def peeksOf (cl : Nat) (l : List Src) : List Nat := l.filterMap fun x => if x.peek then srcQueue cl x.code else none

/-- A vector instruction that pushes. -/
def Uses.vec (cl : BitVec 1) (l : List Src) (pred : BitVec 3) (vd : BitVec 4) : Uses :=
  { reads := pkey cl.toNat (pred.toNat % 4), pops := popsOf cl.toNat l, peeks := peeksOf cl.toNat l,
    pushes := [16 * cl.toNat + vd.toNat] }

/-- A vector instruction that pops its destination queue first (R28). -/
def Uses.own (cl : BitVec 1) (u : Uses) (vd : BitVec 4) : Uses := { u with pops := (16 * cl.toNat + vd.toNat) :: u.pops }

/-- A vector instruction that writes a predicate. -/
def Uses.cmp (cl : BitVec 1) (l : List Src) (pred : BitVec 3) (vd : BitVec 2) : Uses :=
  { reads := pkey cl.toNat (pred.toNat % 4), writes := pkey cl.toNat vd.toNat, pops := popsOf cl.toNat l,
    peeks := peeksOf cl.toNat l }

/-- A predicate instruction. -/
def Uses.prd (cl : BitVec 1) (l : List (BitVec 2)) (vd : BitVec 2) : Uses :=
  { reads := l.flatMap fun n => pkey cl.toNat n.toNat, writes := pkey cl.toNat vd.toNat }

/-- An L-slot store of a queue's head. -/
def Uses.store (u : Uses) (cl : BitVec 1) (q : BitVec 4) (pk : BitVec 1) : Uses :=
  if pk = 1#1 then { u with peeks := [lq cl q] } else { u with pops := [lq cl q] }

/-- Rings read. -/
def Uses.ring (u : Uses) (l : List Nat) : Uses := { u with reads := l.map Key.rg ++ u.reads }

/-- The rings a condensing instruction's register names: two read, two published (R215). -/
def Uses.condRings (u : Uses) (y : Word) : Uses :=
  { u with reads := .rg (bitsOf y.toNat 0 3) :: .rg (bitsOf y.toNat 8 3) :: u.reads,
           writes := .rg (bitsOf y.toNat 16 3) :: .rg (bitsOf y.toNat 24 3) :: u.writes }

/-- QPOP: a pop of mq, or of xq, which with W = 0 writes qf (R102, R338). -/
def qpopUses (f : KQp) : Uses :=
  { writes := (if f.q = 0#1 ∧ f.w = 0#1 then [.sys 0x002] else []) ++ skey f.sx, pops := if f.q = 1#1 then [32] else [] }

/-- What an instruction uses; the rings that a register names are read from the plane. -/
def usesOf (p : Plane) : Instr → Uses
  | .nop _f => {}
  | .jmp _f => {}
  | .br f => Uses.rd [f.s] true
  | .brp f => { reads := pkey f.cl.toNat f.pn.toNat, pinned := true }
  | .jmpi f => Uses.rd [f.s] true
  | .call _f => {}
  | .calli f => Uses.rd [f.s] true
  | .ret _f => {}
  | .loop f => Uses.rd [f.s] true
  | .loopi _f => {}
  | .brkl _f => {}
  | .segj f => Uses.rd [f.s] true
  | .safe _f => {}
  | .trap _f => {}
  | .eret _f => { reads := [.sys 0x009] }
  | .brkpt _f => {}
  | .halt _f => {}
  | .waitb _f => {}
  | .arrive _f => {}
  | .arwait _f => {}
  | .sstep _f => {}
  | .eclipse _f => {}
  | .yield _f => {}
  | .waitj f => Uses.rd [f.s] true
  | .mfsr f => { reads := [.sys f.reg.toNat], writes := skey f.sd }
  | .mtsr f => { reads := skey f.sa, writes := [.sys f.reg.toNat] }
  | .add f => Uses.rw [f.sa, f.sb] f.sd
  | .sub f => Uses.rw [f.sa, f.sb] f.sd
  | .and f => Uses.rw [f.sa, f.sb] f.sd
  | .or f => Uses.rw [f.sa, f.sb] f.sd
  | .xor f => Uses.rw [f.sa, f.sb] f.sd
  | .andn f => Uses.rw [f.sa, f.sb] f.sd
  | .shl f => Uses.rw [f.sa, f.sb] f.sd
  | .shr f => Uses.rw [f.sa, f.sb] f.sd
  | .sra f => Uses.rw [f.sa, f.sb] f.sd
  | .mul f => Uses.rw [f.sa, f.sb] f.sd
  | .mulh f => Uses.rw [f.sa, f.sb] f.sd
  | .mulhu f => Uses.rw [f.sa, f.sb] f.sd
  | .min f => Uses.rw [f.sa, f.sb] f.sd
  | .max f => Uses.rw [f.sa, f.sb] f.sd
  | .minu f => Uses.rw [f.sa, f.sb] f.sd
  | .maxu f => Uses.rw [f.sa, f.sb] f.sd
  | .seq f => Uses.rw [f.sa, f.sb] f.sd
  | .sne f => Uses.rw [f.sa, f.sb] f.sd
  | .slt f => Uses.rw [f.sa, f.sb] f.sd
  | .sltu f => Uses.rw [f.sa, f.sb] f.sd
  | .sle f => Uses.rw [f.sa, f.sb] f.sd
  | .sleu f => Uses.rw [f.sa, f.sb] f.sd
  | .sel f => Uses.rw [f.sa, f.sb, f.sc] f.sd
  | .mov f => Uses.rw [f.sa] f.sd
  | .abs f => Uses.rw [f.sa] f.sd
  | .neg f => Uses.rw [f.sa] f.sd
  | .clz f => Uses.rw [f.sa] f.sd
  | .ctz f => Uses.rw [f.sa] f.sd
  | .popc f => Uses.rw [f.sa] f.sd
  | .bfx f => Uses.rw [f.sa] f.sd
  | .bfi f => Uses.rw [f.sa, f.sd] f.sd
  | .addi f => Uses.rw [f.sa] f.sd
  | .andi f => Uses.rw [f.sa] f.sd
  | .ori f => Uses.rw [f.sa] f.sd
  | .xori f => Uses.rw [f.sa] f.sd
  | .shli f => Uses.rw [f.sa] f.sd
  | .shri f => Uses.rw [f.sa] f.sd
  | .srai f => Uses.rw [f.sa] f.sd
  | .muli f => Uses.rw [f.sa] f.sd
  | .li f => Uses.rw [] f.sd
  | .lih f => Uses.rw [f.sd] f.sd
  | .lix f => Uses.rw [f.sd] f.sd
  | .lit f => Uses.rw [f.sd] f.sd
  | .mfli f => Uses.rw [] f.sd
  | .mflc f => Uses.rw [] f.sd
  | .slti f => Uses.rw [f.sa] f.sd
  | .seqi f => Uses.rw [f.sa] f.sd
  | .vadd f => Uses.vec f.cl [src f.va f.pa, src f.vb f.pb] f.pred f.vd
  | .vsub f => Uses.vec f.cl [src f.va f.pa, src f.vb f.pb] f.pred f.vd
  | .vadds f => Uses.vec f.cl [src f.va f.pa, src f.vb f.pb] f.pred f.vd
  | .vsubs f => Uses.vec f.cl [src f.va f.pa, src f.vb f.pb] f.pred f.vd
  | .vmul f => Uses.vec f.cl [src f.va f.pa, src f.vb f.pb] f.pred f.vd
  | .vmulh f => Uses.vec f.cl [src f.va f.pa, src f.vb f.pb] f.pred f.vd
  | .vmad f => Uses.own f.cl (Uses.vec f.cl [src f.va f.pa, src f.vb f.pb] f.pred f.vd) f.vd
  | .vand f => Uses.vec f.cl [src f.va f.pa, src f.vb f.pb] f.pred f.vd
  | .vor f => Uses.vec f.cl [src f.va f.pa, src f.vb f.pb] f.pred f.vd
  | .vxor f => Uses.vec f.cl [src f.va f.pa, src f.vb f.pb] f.pred f.vd
  | .vandn f => Uses.vec f.cl [src f.va f.pa, src f.vb f.pb] f.pred f.vd
  | .vshl f => Uses.vec f.cl [src f.va f.pa, src f.vb f.pb] f.pred f.vd
  | .vshr f => Uses.vec f.cl [src f.va f.pa, src f.vb f.pb] f.pred f.vd
  | .vsra f => Uses.vec f.cl [src f.va f.pa, src f.vb f.pb] f.pred f.vd
  | .vmin f => Uses.vec f.cl [src f.va f.pa, src f.vb f.pb] f.pred f.vd
  | .vmax f => Uses.vec f.cl [src f.va f.pa, src f.vb f.pb] f.pred f.vd
  | .vabs f => Uses.vec f.cl [src f.va f.pa] f.pred f.vd
  | .vneg f => Uses.vec f.cl [src f.va f.pa] f.pred f.vd
  | .vcmp f => Uses.cmp f.cl [src f.va f.pa, src f.vb f.pb] f.pred f.vd
  | .vfadd f => Uses.vec f.cl [src f.va f.pa, src f.vb f.pb] f.pred f.vd
  | .vfsub f => Uses.vec f.cl [src f.va f.pa, src f.vb f.pb] f.pred f.vd
  | .vfmul f => Uses.vec f.cl [src f.va f.pa, src f.vb f.pb] f.pred f.vd
  | .vfma f => Uses.own f.cl (Uses.vec f.cl [src f.va f.pa, src f.vb f.pb] f.pred f.vd) f.vd
  | .vfmin f => Uses.vec f.cl [src f.va f.pa, src f.vb f.pb] f.pred f.vd
  | .vfmax f => Uses.vec f.cl [src f.va f.pa, src f.vb f.pb] f.pred f.vd
  | .vfabs f => Uses.vec f.cl [src f.va f.pa] f.pred f.vd
  | .vfneg f => Uses.vec f.cl [src f.va f.pa] f.pred f.vd
  | .vfcmp f => Uses.cmp f.cl [src f.va f.pa, src f.vb f.pb] f.pred f.vd
  | .vfrnd f => Uses.vec f.cl [src f.va f.pa] f.pred f.vd
  | .vrcp f => Uses.vec f.cl [src f.va f.pa] f.pred f.vd
  | .vrsq f => Uses.vec f.cl [src f.va f.pa] f.pred f.vd
  | .vexp2 f => Uses.vec f.cl [src f.va f.pa] f.pred f.vd
  | .vlog2 f => Uses.vec f.cl [src f.va f.pa] f.pred f.vd
  | .vtanh f => Uses.vec f.cl [src f.va f.pa] f.pred f.vd
  | .vsigm f => Uses.vec f.cl [src f.va f.pa] f.pred f.vd
  | .vrng f => Uses.vec 1#1 [] f.pred f.vd
  | .vcvt f => Uses.vec f.cl [src f.va f.pa] f.pred f.vd
  | .vqnt f => Uses.vec f.cl [src f.va f.pa] f.pred f.vd
  | .vdqnt f => Uses.vec f.cl [src f.va f.pa] f.pred f.vd
  | .pand f => Uses.prd f.cl [f.va, f.vb] f.vd
  | .por f => Uses.prd f.cl [f.va, f.vb] f.vd
  | .pxor f => Uses.prd f.cl [f.va, f.vb] f.vd
  | .pnot f => Uses.prd f.cl [f.va] f.vd
  | .pmov f => Uses.prd f.cl [f.va] f.vd
  | .psetn f => Uses.cmp f.cl [src f.va f.pa] 0#3 f.vd
  | .vsel f => Uses.vec f.cl [src f.va f.pa, src f.vb f.pb] f.pred f.vd
  | .vperm f => Uses.vec f.cl [src f.va f.pa, src f.vb f.pb] f.pred f.vd
  | .vrot f => Uses.vec f.cl [src f.va f.pa, src f.vb f.pb] 0#3 f.vd
  | .vshfl f => Uses.vec f.cl [src f.va f.pa] f.pred f.vd
  | .vbcst f => Uses.vec f.cl [src f.va f.pa, src f.vb f.pb] f.pred f.vd
  | .vmov f => Uses.vec f.cl [src f.va f.pa] f.pred f.vd
  | .vradd f => Uses.vec f.cl [src f.va f.pa] f.pred f.vd
  | .vrmax f => Uses.vec f.cl [src f.va f.pa] f.pred f.vd
  | .vrmin f => Uses.vec f.cl [src f.va f.pa] f.pred f.vd
  | .vrfadd f => Uses.vec f.cl [src f.va f.pa] f.pred f.vd
  | .vrfmax f => Uses.vec f.cl [src f.va f.pa] f.pred f.vd
  | .vband f => Uses.vec f.cl [src f.va f.pa, src f.vb f.pb] f.pred f.vd
  | .vpopc f => Uses.vec f.cl [src f.va f.pa] f.pred f.vd
  | .vpfx f => Uses.vec f.cl [src f.va f.pa, src f.vb f.pb] f.pred f.vd
  | .visect f => Uses.vec f.cl [src f.va f.pa, src f.vb f.pb] 0#3 f.vd
  | .vcsw f => Uses.vec f.cl [src f.va f.pa, src f.vb f.pb] f.pred f.vd
  | .vcswx f => Uses.vec f.cl [src f.va f.pa, src f.vb f.pb] f.pred f.vd
  | .malloc f => Uses.rw [] f.sx
  | .mfree f => Uses.rd [f.sx] true
  | .mband f => Uses.rd [f.sx, f.sy] true
  | .mzero f => Uses.rd [f.sx, f.sy] true
  | .mldw f => Uses.ring (Uses.rd [f.sx] true) [bitsOf (p.rdS f.sx).toNat 0 3]
  | .mmul f => Uses.ring (Uses.rd [f.sx, f.sy, f.sz] true) [f.rg.toNat]
  | .mmulg f => { Uses.ring (Uses.rd [f.sx, f.sy, f.sz] true) [f.rg.toNat] with pops := [lq f.cl f.q] }
  | .mmuls f => Uses.ring (Uses.rd [f.sx, f.sy, f.sz] true) [f.rg.toNat, bitsOf (p.rdS f.sy).toNat 20 3]
  | .mmulb f => Uses.ring (Uses.rd [f.sx, f.sy, f.sz] true) [f.rg.toNat, bitsOf (p.rdS f.sy).toNat 20 3]
  | .mmulc f => Uses.ring (Uses.rd [f.sx, f.sy, f.sz] true) [f.rg.toNat]
  | .mcond f => Uses.condRings { Uses.rw [f.sy] f.sx with pinned := true } (p.rdS f.sy)
  | .mchain f => Uses.ring (Uses.rd [f.sx, f.sy, f.sz] true) [f.rg.toNat]
  | .mchainRecv f => Uses.rd [f.sx, f.sy, f.sz] true
  | .mdrain f => { Uses.rd [f.sx, f.sy, f.sz] true with pushes := [32] }
  | .mchk f => { Uses.rw [f.sy] f.sx with pinned := true }
  | .ldv f => { Uses.rd [f.sx, f.sy] true with pushes := [lq f.cl f.q] }
  | .stv f => Uses.store (Uses.rd [f.sx, f.sy] true) f.cl f.q f.pk
  | .lds f => { Uses.rw [f.sx] f.sy with pinned := true }
  | .sts f => Uses.rd [f.sx, f.sy] true
  | .ldx f => { reads := .xp f.xp.toNat :: (skey f.sx ++ skey f.sy), pinned := true, pushes := [lq f.cl f.q] }
  | .stx f => Uses.store { reads := .xp f.xp.toNat :: (skey f.sx ++ skey f.sy), pinned := true } f.cl f.q f.pk
  | .ldf f => { Uses.rd [f.sx] true with pushes := [lq f.cl f.q] }
  | .stf f => Uses.store (Uses.rd [f.sx] true) f.cl f.q f.pk
  | .mark _f => {}
  | .sfence _f => {}
  | .vjoin f => Uses.rd [f.sx, f.sy] true
  | .rset f => { reads := .rg f.rg.toNat :: (skey f.sx ++ skey f.sy), writes := [.rg f.rg.toNat], pinned := true }
  | .rpush f => { reads := [.rg f.rg.toNat], writes := [.rg f.rg.toNat] }
  | .xcopy f => Uses.rd [f.sx, f.sy, f.sz] true
  | .xcopyt f => Uses.rd [f.sx] true
  | .xpair f => Uses.rd [f.sx] true
  | .xfill f => Uses.rd [f.sx, f.sy, f.sz] true
  | .xgath f => Uses.rd [f.sx] true
  | .xscat f => Uses.rd [f.sx] true
  | .xacc f => Uses.rd [f.sx, f.sy, f.sz] true
  | .xcas f => Uses.rd [f.sx, f.sy, f.sz] true
  | .xnear f => Uses.rd [f.sx] true
  | .xsend f => Uses.rd [f.sx] true
  | .xpost f => Uses.rd [f.sx] true
  | .xcoll f => Uses.rd [f.sx] true
  | .xfence f => Uses.rd [f.sx] true
  | .xhand f => { Uses.rw [f.sy, f.sz] f.sx with pinned := true }
  | .xtake f => { Uses.rw [f.sy] f.sx with pinned := true }
  | .xmedia f => Uses.rd [f.sx] true
  | .xspill f => Uses.rd [f.sx, f.sy] true
  | .xrecall f => Uses.rd [f.sx] true
  | .qpop f => qpopUses f
  | .kbl f => Uses.rd [f.sx] false
  | .kblW f => Uses.rd [f.sx] false
  | .kxpat f => { Uses.rd [f.sx, f.sy] false with writes := [.xp f.xp.toNat] }
  | .flagsRd f => Uses.rw [] f.sx
  | .flagsClr f => Uses.rw [f.sy] f.sx
  | .flagsEn f => Uses.rw [f.sy] f.sx
  | .kscale f => { Uses.rd [f.sx, f.sy] true with writes := [.ks f.ks.toNat] }
  | .kscalei f => { Uses.rd [f.sx, f.sy] true with writes := [.ks f.ks.toNat] }
  | .krbind f => Uses.rd [f.sx, f.sy] false
  | .krec f => Uses.rw [f.sy, f.sz] f.sx
  | .krclr f => Uses.rd [f.sx] false
  | .kseal f => Uses.rd [f.sx] false
  | .cksum f => Uses.rw [f.sy] f.sx
  | .ttq f => Uses.rw [f.sy] f.sx
  | .ttset f => Uses.rd [f.sx, f.sy] false
  | .ttsettle f => Uses.rw [f.sy, f.sz] f.sx
  | .ttpromo f => Uses.rw [f.sy] f.sx
  | .jcbadd f => Uses.rd [f.sx, f.sy] false
  | .jcbdone f => Uses.rd [f.sx] false
  | .jcbq f => Uses.rw [f.sy] f.sx
  | .jemit f => Uses.rw [f.sy, f.sz] f.sx
  | .jemitMark f => Uses.rw [f.sy, f.sz] f.sx
  | .jroute f => Uses.rw [f.sy, f.sz] f.sx
  | .jgen f => Uses.rw [f.sy, f.sz] f.sx
  | .jrpl f => { pushes := [lq f.cl f.q] }
  | .jtrunc f => Uses.rd [f.sx] false
  | .ctag f => Uses.rd [f.sx, f.sy, f.sz] false
  | .resq f => Uses.rw [f.sy] f.sx
  | .deferredTrap => {}
  | .resultLanding => {}
  | .farDataArrival _ _ _ => {}
  | .timedLanding => {}
  | .segmentFetchDone _ _ => {}
  | .emptyBundle => {}
  | .eclipseSwap => {}
  | .pushWindowWrite _ _ _ _ => {}
  | .pushWindowAdmit _ => {}
  | .mInstructionStart => {}
  | .mInstructionRetire => {}
  | .drainVectorPush => {}
  | .chainForm _ => {}
  | .accWindowWrite _ _ _ => {}
  | .stWrite _ _ => {}
  | .hcWrite _ _ => {}
  | .launchRecordRead _ => {}
  | .launchPlace => {}
  | .agingTick _ => {}
  | .taskSave _ _ => {}
  | .launchRestore _ => {}
  | .launchComplete _ => {}
  | .faultAck _ => {}
  | .dependenceWatchdog _ => {}
  | .runWatchdog _ => {}
  | .dispatcherFailover => {}
  | .arrivalDeliver _ => {}
  | .communicationPhase _ _ _ => {}
  | .jcbApply _ => {}
  | .translationWalk _ _ _ _ _ => {}
  | .translationInvalidate _ _ _ => {}
  | .channelReplay _ _ => {}
  | .channelAbort _ _ => {}
  | .offerTakeable _ _ => {}
  | .xtakeApply _ => {}
  | .frameReturn _ => {}
  | .offloadDone _ => {}
  | .tileCheckRetry _ _ => {}
  | .luxMergeApply _ => {}
  | .lqPerform _ _ => {}
  | .sqLeave _ _ => {}
  | .scopePropagate _ => {}
  | .viewSeenRaise _ _ _ _ => {}
  | .engineAccessPerform _ _ => {}
  | .commandStart _ _ => {}
  | .commandComplete _ _ => {}
  | .atomicApply _ _ => {}
  | .fabricMessageArrive _ _ _ _ => {}
  | .collectiveMatch _ _ _ _ => {}
  | .viewCacheFill _ _ _ => {}
  | .hostAccess _ _ _ _ => {}
  | .managementWrite _ _ => {}
  | .linkFlitResend => {}
  | .deviceFailed => {}
  | .deviceReset => {}
  | .secureBoot _ _ _ _ _ _ _ _ => {}
  | .attestNonceWrite _ => {}
  | .attestReportDone => {}
  | .ageingUpdate _ _ _ => {}
  | .powerStateRequest _ => {}
  | .idleEntry => {}
  | .lowExit => {}
  | .clockStepDown => {}
  | .clockStepUp => {}
  | .criticalTemperature => {}
  | .journalAppendAssign => {}
  | .mirrorEntryWrite _ _ => {}
  | .mirrorAck _ _ => {}
  | .mirrorLost _ => {}
  | .jmirrorWrite _ => {}
  | .replayStart _ _ => {}
  | .dieLinkRetrain _ => {}
  | .fabricPortFailure _ => {}
  | .fabricPeerRequest _ _ _ _ _ => {}
  | .residencyRecallDone _ => {}

/-! ### Classes of instructions -/

/-- Instructions that can transfer control (R13). -/
def transfers : Instr → Bool
  | .jmp _ | .br _ | .brp _ | .jmpi _ | .call _ | .calli _ | .ret _ | .segj _ | .brkl _ | .trap _ | .brkpt _ | .eret _
  | .halt _ => true
  | _ => false

/-- Waiting instructions (R226). -/
def waits : Instr → Bool
  | .waitb _ | .arwait _ | .sstep _ | .waitj _ | .yield _ | .eclipse _ => true
  | _ => false

/-- LOOP and LOOPI. -/
def opensLoop : Instr → Bool
  | .loop _ | .loopi _ => true
  | _ => false

/-- Instructions that hold a landing-buffer entry (R21). -/
def landsLate : Instr → Bool
  | .ldf _ | .jcbq _ | .xtake _ | .krec _ | .jrpl _ => true
  | _ => false

/-- The channel a command of the X slot queues on (R332). -/
def channelOf : Instr → Option Nat
  | .xcopy f => some f.ch.toNat
  | .xcopyt f | .xpair f | .xgath f | .xscat f | .xnear f | .xpost f | .xcoll f | .xmedia f | .xrecall f => some f.ch.toNat
  | .xfill f => some f.ch.toNat
  | .xacc f => some f.ch.toNat
  | .xcas f => some f.ch.toNat
  | .xsend f => some f.ch.toNat
  | .xspill f => some f.ch.toNat
  | _ => none

/-- Whether an instruction needs an SQ entry (R323). -/
def needsSq : Instr → Bool
  | .stf _ | .mark _ | .sfence _ => true
  | .xfence f => f.q == 1#1
  | _ => false

/-- Whether a QPOP waits for an entry of xq (R338). -/
def waitsXq : Instr → Bool
  | .qpop f => f.q == 0#1 && f.w == 1#1
  | _ => false

/-- The ring an RSET sets. -/
def resetsRing : Instr → Option Nat
  | .rset f => some f.rg.toNat
  | _ => none

/-! ### A group's words -/

/-- A decoded slot word in its place in the group. -/
structure Placed where
  pos : Nat
  slot : Nat
  ins : Instr
  deriving DecidableEq, Repr

/-- The bundles of the group that starts at pc, and whether its last one ends it (R11). -/
def Plane.group (p : Plane) : List Bundle × Bool :=
  let l := (((p.cur.map (·.bundles)).getD []).drop p.bun.toNat).take Config.groupMax
  match (upTo 0 l.length).find? fun i => ((l[i]?).map fun b => b[0].getLsbD 31).getD false with
  | some i => (l.take (i + 1), true)
  | none => (l, false)

/-- Slot words of a bundle with their slots. -/
def slotWords (b : Bundle) : List (Nat × BitVec 32) := (upTo 0 8).zip b.toList

/-- The words of a bundle that decode, in slot order. -/
def placed (pos : Nat) (b : Bundle) : List Placed :=
  (slotWords b).filterMap fun x =>
    match decodeSlot x.1 x.2 with
    | .ok i => some ⟨pos, x.1, i⟩
    | .error _ => none

/-- The causes of words that do not decode (R61, R62). -/
def wordFaults (pos : Nat) (b : Bundle) : List Found :=
  (slotWords b).filterMap fun x =>
    match decodeSlot x.1 x.2 with
    | .ok _ => none
    | .error e => some ⟨⟨BitVec.ofNat 8 e.code, decodeDetail x.2.toNat e.reason e.field x.1 pos⟩, pos, x.1⟩

/-- ILLEGAL_ENCODING of a word that breaks a rule of its group (R62). -/
def ruleFault (reason word pos slot : Nat) : Found := ⟨⟨0x02#8, decodeDetail word reason 0xFF slot pos⟩, pos, slot⟩

/-- The same, of a decoded word. -/
def Placed.breaks (x : Placed) (reason : Nat) : Found := ruleFault reason (encode x.ins).toNat x.pos x.slot

/-! ### Shape (R11, R13, R91, R93, R144, R226, R338) -/

/-- Every element after the first that meets a test. -/
def afterFirst (t : Placed → Bool) (l : List Placed) : List Placed := (l.filter t).tail

/-- Two FLAGS of one engine, one of them not a read (R144): the later one. -/
def flagsFaults : List Placed → List Found
  | [] => []
  | x :: t =>
    let eng (i : Instr) : Option (Nat × Bool) := match i with
      | .flagsRd f => some (f.eng.toNat, false)
      | .flagsClr f | .flagsEn f => some (f.eng.toNat, true)
      | _ => none
    (match eng x.ins with
     | none => []
     | some a => t.filterMap fun y => match eng y.ins with
       | some b => if a.1 = b.1 ∧ (a.2 || b.2) then some (y.breaks 8) else none
       | none => none) ++ flagsFaults t

/-- The rules on the places of a group's instructions. -/
def Plane.shapeFaults (p : Plane) (bundles : List Bundle) (ended : Bool) (l : List Placed) : List Found :=
  let last := bundles.length - 1
  let ctl := l.filter fun x => transfers x.ins || opensLoop x.ins
  (if ended then [] else [ruleFault 4 0 last 0]) ++
  ((l.filter fun x => (transfers x.ins || waits x.ins) && x.pos != last).map fun x => x.breaks 5) ++
  (if ctl.any fun x => opensLoop x.ins then ctl.tail.map fun x => x.breaks 8 else []) ++
  ((afterFirst (fun x => match x.ins with | .qpop f => f.q == 0#1 | _ => false) l).map fun x => x.breaks 8) ++
  flagsFaults l ++
  (match p.liveLoops with
   | lv :: _ =>
     let e := lv.stop.toNat - p.bun.toNat
     if lv.seg = p.seg ∧ p.bun.toNat ≤ lv.stop.toNat ∧ e < last then
       [ruleFault 5 (((bundles[e]?).map fun b => b[0].toNat).getD 0) e 0]
     else []
   | [] => [])

/-! ### Independence (R12, R29, R102, R115) -/

/-- Keys whose read after an earlier bundle's write breaks the group (R12, R102, R115). -/
def Key.ordered : Key → Bool
  | .ks _ => false
  | _ => true

/-- Keys that no two instructions of a group may write (R12). -/
def Key.single : Key → Bool
  | .s _ | .p _ | .ks _ => true
  | _ => false

/-- The queues of a use. -/
def Uses.queues (u : Uses) : List Nat := u.pops ++ u.peeks ++ u.pushes

/-- Whether two uses of different bundles meet in a queue that one of them pops or pushes (R12). -/
def Uses.clash (a b : Uses) : Bool :=
  (a.pops ++ a.pushes).any b.queues.contains || (b.pops ++ b.pushes).any a.queues.contains

/-- Whether a list names something twice. -/
def twice (l : List Nat) : Bool := !decide l.Nodup

/-- The rules on an instruction given those before it in the group. DEDUCED: log entry 33. -/
def useFaults (before : List (Placed × Uses)) (x : Placed) (u : Uses) : List Found :=
  let earlier := before.filter fun y => y.1.pos < x.pos
  let same := before.filter fun y => y.1.pos == x.pos
  let stale := u.reads.any fun k => k.ordered && earlier.any fun y => y.2.writes.contains k
  let again := u.writes.any fun k => k.single && before.any fun y => y.2.writes.contains k
  let queue := earlier.any fun y => u.clash y.2
  let pops := twice u.pops || u.pops.any fun q => same.any fun y => y.2.pops.contains q
  let pushes := u.pushes.any fun q => same.any fun y => y.2.pushes.contains q
  (if stale || again || queue then [x.breaks 8] else []) ++ (if pops || pushes then [x.breaks 9] else [])

/-- The independence rules of a group. -/
def independence : List (Placed × Uses) → List (Placed × Uses) → List Found
  | _, [] => []
  | before, x :: t => useFaults before x.1 x.2 ++ independence (before ++ [x]) t

/-- The bundles of the group at pc with their positions. -/
def Plane.groupBundles (p : Plane) : List (Nat × Bundle) := (upTo 0 p.group.1.length).zip p.group.1

/-- The decoded words of the group at pc. -/
def Plane.placedGroup (p : Plane) : List Placed := p.groupBundles.flatMap fun x => placed x.1 x.2

/-- Every rule of a group on its words, the group standing at pc. Of the reasons of code 0x02 that one word meets, the first of this
list is reported: its own decoding, then the group's shape, then independence (DESIGN CHOICE, log entry 111). -/
def Plane.groupFaults (p : Plane) : List Found :=
  let g := p.group
  let l := p.placedGroup
  (p.groupBundles.flatMap fun x => wordFaults x.1 x.2) ++ p.shapeFaults g.1 g.2 l ++
    independence [] (l.map fun x => (x, usesOf p x.ins))

/-! ### Pending writes (R84, R115) -/

/-- The register a landing result writes. -/
def Dest.key : Dest → List Key
  | .sreg r => skey r
  | .pred k => [.p k]
  | .none | .scale _ | .vq _ | .mq => []

/-- The register an M-slot instruction writes at its retirement. -/
def MEnt.key (e : MEnt) : List Key :=
  match e.ins with
  | .mcond f => skey f.sx
  | .mchk f => skey f.sx
  | _ => []

/-- A pinned instruction that reads a register on which a write lands after the group's first bundle. -/
def Placed.pinFaults (x : Placed) (u : Uses) (landed : List Key) : List Found :=
  if u.pinned && u.reads.any fun k => landed.contains k then [x.breaks 8] else []

/-! ### Choosing (R61, R103) -/

/-- Whether a cause goes before another: lower code, then bundle, then slot. -/
def Found.first (a b : Found) : Bool :=
  decide (a.cause.code.toNat < b.cause.code.toNat) ||
    (a.cause.code == b.cause.code && (decide (a.pos < b.pos) || (a.pos == b.pos && decide (a.slot < b.slot))))

/-- The cause a group raises. -/
def bestFound : List Found → Option Found
  | [] => none
  | a :: t => match bestFound t with
    | some b => if b.first a then some b else some a
    | none => some a

end Sys2Proof.Machine
end

