-- ==== Sys2Proof/Machine/Fetch.lean ====
section
/-!
DEFINITION. The segment fetcher (R36 to R42, R63 to R65, R220, R371): reading the segment table, expanding a segment,
prefetching the next one, and the entry that waits for it.
-/

namespace Sys2Proof.Machine

/-- Where a fetch stands: the plane's core and die, its task's address space, and the segment table. -/
structure Fetcher where
  core : Nat
  space : Nat
  segtab : Word
  nseg : Nat
  deriving DecidableEq, Repr

/-- The fetcher of a plane. -/
def Plane.fetcher (p : Plane) (core : Nat) : Fetcher := ⟨core, p.space, p.segtab, p.nseg⟩

/-- The first sector with an uncorrectable error among `n` bytes at a physical address (R371). -/
def Dev.firstBad (d : Dev) (pa n : Nat) : Option Nat :=
  ((upTo (pa / 32) ((pa + n + 31) / 32 - pa / 32)).find? fun i => d.badSect.contains i).map fun i => 32 * i

/-- Bytes that the fetcher reads at a physical address (R371): correctable errors are corrected and counted, and the first sector
with an uncorrectable one is found and counted. -/
def State.codeBytes (s0 : State) (core pa n : Nat) : List Byte × Option Nat × State :=
  let s := s0.scrub pa n
  let bad := s.dv.firstBad pa n
  (s.paBytes core pa n, bad, match bad with | some a => s.logErr (homeDie a) 4 0#64 | none => s)

/-- Bytes of a segment, page by page (R37, R39): a segment fetch needs X (R220). The answer holds the first sector with
an uncorrectable error. -/
def State.fetchBytes (s : State) (f : Fetcher) : Nat → Nat → Nat → Except Cause (List Byte × Option Nat) × State
  | 0, _, _ => (.ok ([], none), s)
  | fuel + 1, va, n =>
    if n = 0 then (.ok ([], none), s)
    else
      let k := min n (65536 - va % 65536)
      let x := s.dv.xlate (dieOf f.core) none f.space false true va
      let s1 : State := { s with dv := x.2 }
      match x.1 with
      | .error c => (.error c, s1)
      | .ok pa0 =>
        match s1.dv.check clsCore f.space false pa0 k with
        | some r => (.error ⟨0x12#8, deniedDetail r.1 false true r.2⟩, s1)
        | none =>
          let pa := s1.dv.mg.local pa0
          let b := s1.codeBytes f.core pa k
          match State.fetchBytes b.2.2 f fuel (va + k) (n - k) with
          | (.error c, s2) => (.error c, s2)
          | (.ok r, s2) => (.ok (b.1 ++ r.1, b.2.1.or r.2), s2)

/-- An entry of the segment table, by an ordinary read (R220), with the first sector with an uncorrectable error. -/
def State.tableEntry (s : State) (f : Fetcher) (i : Nat) : Except Cause (Nat × Option Nat) × State :=
  let va := f.segtab.toNat + 8 * i
  let r := s.look (dieOf f.core) f.space clsCore false va 8
  match r.1 with
  | .error c => (.error c, r.2)
  | .ok (.mem pa _) => let b := r.2.codeBytes f.core pa 8; (.ok (natOfBytes b.1, b.2.1), b.2.2)
  | .ok k => (.ok (bitsOf (r.2.lookRow f.core (dieOf f.core) va k).toNat (8 * (va % 256)) 64, none), r.2)

/-- A segment fetched and expanded (R63 to R65, R220): entered by fall-through, the table entry must hold `expect`. -/
def State.fetchSeg (s : State) (f : Fetcher) (i : Nat) (expect : Option Word) : Except Cause SegBuf × State :=
  if f.nseg ≤ i then (.error badSegment, s)
  else
    match s.tableEntry f i with
    | (.error c, s1) => (.error c, s1)
    | (.ok (e, bad), s1) =>
      if e ≥ 2 ^ 55 ∨ e % 32 ≠ 0 ∨ (expect.any fun w => w.toNat != e) then (.error badSegment, s1)
      else
        match s1.fetchBytes f 2 e 32 with
        | (.error c, s2) => (.error c, s2)
        | (.ok h, s2) =>
          match decodeHeader h.1 with
          | none => (.error badSegment, s2)
          | some hd =>
            if hd.idx ≠ i ∨ 33 * hd.len < hd.bytes then (.error badSegment, s2)
            else
              match s2.fetchBytes f 4 (e + 32) hd.bytes with
              | (.error c, s3) => (.error c, s3)
              | (.ok b, s3) =>
                match decodeBody hd b.1 with
                | none => (.error badSegment, s3)
                | some l =>
                  (.ok ⟨i, l, BitVec.ofNat 64 hd.next, hd.nidx, none, ((bad.or h.2).or b.2).map (BitVec.ofNat 64), false⟩, s3)

/-- A fetch as a half of the loop buffer holds it: its fault is raised when the segment is entered (R39). -/
def heldSeg (i : Nat) : Except Cause SegBuf → SegBuf
  | .ok b => b
  | .error c => ⟨i, [], 0#64, 0, some c, none, false⟩

/-- Whether the segment table, read without fault, does not hold at a segment's `nidx` the address of its `next` (R65). -/
def State.misses (s : State) (f : Fetcher) (b : SegBuf) : Bool × State :=
  if f.nseg ≤ b.nidx then (true, s)
  else
    let r := s.tableEntry f b.nidx
    (match r.1 with | .ok e => e.1 != b.next.toNat | .error _ => false, r.2)

/-- The prefetch of a segment's next one (R37, R65): none when the table does not hold it. -/
def State.prefetch (s : State) (f : Fetcher) (b : SegBuf) : Option SegBuf × State :=
  let m := s.misses f b
  if m.1 then (none, m.2)
  else
    let r := m.2.fetchSeg f b.nidx none
    (some (heldSeg b.nidx r.1), r.2)

/-- Control enters a fetched segment at the bundle an entry names; past its last bundle it falls through, or the entry
fails (R38, R40, R97, R99). -/
def State.enterSeg (s : State) (c p : Nat) (e : Enter) (b : SegBuf) : State :=
  let at_ (q : Plane) : Plane := { q with seg := BitVec.ofNat 32 e.seg, bun := BitVec.ofNat 12 e.bun }
  let plain : State := s.modPlane c p fun q => at_ (q.executing b)
  if b.err.isSome ∨ e.bun < b.bundles.length then plain
  else if e.via = .jump ∧ e.bun = b.bundles.length then
    s.modPlane c p fun q => (q.executing b).flow e.bun
  else if e.via = .eret then s.endTask c p (some (badSegment, (s.plane c p).epc)) false
  else s.modPlane c p fun q => at_ (q.executing { b with err := some badSegment })

/-- SEGMENT_FETCH_DONE: the fetcher expands the segment a plane waits to enter, or else the next one of its chain (R37,
R38). -/
def State.fetchDone (s : State) (c p : Nat) : State :=
  let q := s.plane c p
  if !q.live then s
  else
    match q.enter with
    | some e =>
      match q.cur, q.nxt with
      | some cu, some n =>
        if n.idx = e.seg ∧ cu.nidx = e.seg then
          (s.modPlane c p fun q => { q with nxt := none }).enterSeg c p e n
        else
          let r := s.fetchSeg (q.fetcher c) e.seg (if e.via = .fall then some cu.next else none)
          (r.2.modPlane c p fun q => { q with nxt := none }).enterSeg c p e (heldSeg e.seg r.1)
      | cu, _ =>
        let r := s.fetchSeg (q.fetcher c) e.seg (if e.via = .fall then cu.map (·.next) else none)
        (r.2.modPlane c p fun q => { q with nxt := none }).enterSeg c p e (heldSeg e.seg r.1)
    | none =>
      match q.cur, q.nxt with
      | some cu, none =>
        if q.resident ∨ cu.next = 0#64 ∨ cu.err.isSome ∨ cu.broken then s
        else
          let r := s.prefetch (q.fetcher c) cu
          r.2.modPlane c p fun q => { q with nxt := r.1, cur := some { cu with broken := r.1.isNone } }
      | _, _ => s

/-- A loop buffer that lost a bit is filled again: the segment is expanded anew while the core freezes, and the error counted (R371). A
fetch that fails now, or meets an uncorrectable sector, is met at the next group boundary. -/
def State.reexpand (s : State) : State :=
  match s.pl.cur with
  | none => s.modPl fun p => { p with lbErr := false }
  | some b =>
    let r := s.fetchSeg (s.pl.fetcher s.co.id) b.idx none
    let b1 := match r.1 with
      | .ok n => { b with bundles := n.bundles, next := n.next, nidx := n.nidx, unc := n.unc }
      | .error c => { b with err := b.err.or (some c), unc := none }
    State.freeze ((r.2.logErr (dieOf s.co.id) 4 0#64).modPl fun p => { p.fetched b1 with lbErr := false })

/-- The whole of a plane-resident kernel (R41): its segments, those marked whose next one a fall-through would not find
(R65), and the first fault. -/
def State.fetchAll (s : State) (f : Fetcher) : Nat → List SegBuf × Option (Except Cause Nat) × State
  | 0 => ([], none, s)
  | n + 1 =>
    let r := s.fetchAll f n
    let q := r.2.2.fetchSeg f n none
    match q.1 with
    | .error c => (r.1 ++ [heldSeg n (.error c)], r.2.1.or (some (.error c)), q.2)
    | .ok b =>
      let u := b.unc.map fun w => (Except.ok w.toNat : Except Cause Nat)
      (r.1 ++ [{ b with unc := none, broken := b.next != 0#64 && (q.2.misses f b).1 }], r.2.1.or u, q.2)

/-- A loaded plane's first segment, or its whole kernel (R41, R42, R244). -/
def State.loadCode (s : State) (c p : Nat) : State :=
  let q := s.plane c p
  if q.resident then
    let r := s.fetchAll (q.fetcher c) q.nseg
    let b := (r.1.find? fun b => b.idx == q.seg.toNat).getD (heldSeg q.seg.toNat (.error badSegment))
    let b1 := match r.2.1 with
      | some (.error e) => { b with err := b.err.or (some e) }
      | some (.ok a) => { b with unc := some (BitVec.ofNat 64 a) }
      | none => b
    r.2.2.modPlane c p fun q => { q.executing b1 with res := r.1 }
  else
    let r := s.fetchSeg (q.fetcher c) q.seg.toNat none
    r.2.modPlane c p fun q => q.executing (heldSeg q.seg.toNat r.1)

end Sys2Proof.Machine
end

