-- ==== Sys2Proof/Machine/Issue.lean ====
section
/-!
DEFINITION. What the sequencer does around its instructions: the start and end of a bundle, end processing and
transfers, empty bundles, boundaries, freezes, waits and the eclipse (R11 to R24, R34, R38, R92 to R100, R224 to R228,
R246, R363 to R369, R372 to R375); and the events of the core itself.
-/

namespace Sys2Proof.Machine

/-! ### Watermarks of emission copies (R405) -/

/-- Whether an append that a command's watermark waits for is still to be numbered. -/
def Dev.appendsLeft (d : Dev) (c : Cmd) : Bool :=
  d.jnl.reqs.any fun r => r.lid == c.lid && r.rank == c.rank && decide (r.issued ≤ c.issued) &&
    match r.op with | .append _ _ _ _ => true | .read _ _ _ _ => false | .trunc _ => false

/-- EMIT commands whose appends are all numbered take their watermark. -/
def State.fixMarks (s : State) : State :=
  let fix (c : Cmd) : Cmd :=
    if c.emit && c.wm.isNone && !s.dv.appendsLeft c then { c with wm := some (s.dv.stream c.stream).last } else c
  s.mapCores fun co => { co with ch := co.ch.map fun l => l.map fix }

/-! ### Bundles -/

/-- A bundle starts: the matrix engine at its count, then the results due land (R15, R17, R189). -/
def State.bundleStart (s : State) : State := s.mTick.landDue

/-- A bundle's counts advance (R101, R363). -/
def Plane.count (p : Plane) : Plane :=
  { p with bcount := p.bcount + 1, tcount := if p.intrap then p.tcount else p.tcount + 1, cycle := p.cycle + 1,
           mseen := if p.intrap then p.mseen else [] }

/-- A bundle ends: its flags, its pops, the engine's tiles, its new loop level, the counts, and a cycle for a task that
waits in the shadow plane (R28, R91, R101, R144, R318). -/
def State.bundleEnd (s : State) : State :=
  let s1 := s.setFlags.doPops.mFinish.fixMarks
  { s1 with
    pl := { s1.pl.count with loops := s1.pl.loopNew.toList ++ s1.pl.loops, loopNew := none },
    co := { s1.co with shadow := s1.co.shadow.tick 1 } }

/-- An empty bundle (R226): a NOP in every slot, counted. -/
def State.emptyBundle (s : State) : State := s.bundleStart.bundleEnd

/-- A cycle in which the core is frozen (R19). DESIGN CHOICE: log entry 75. -/
def State.stall (s : State) : State := s.pass 1

/-- A cycle in which neither plane of the core can issue (R227): the tasks that have started count it (R101). -/
def State.idle (s : State) : State :=
  { s with pl := s.pl.tick 1, co := { s.co with shadow := s.co.shadow.tick 1 } }

/-! ### Freezes before a bundle (R18, R198, R216, R323, R332) -/

/-- A result due at the next bundle whose data is not back (R18). -/
def Plane.late (p : Plane) : Bool := p.flight.any fun f => f.due ≤ p.bcount && !f.arrived

/-- Whether the core is frozen before its next bundle, empty ones included: a result is late, or the engine would be held
at its count. -/
def State.frozen (s : State) : Bool := s.pl.late || (!s.pl.intrap && s.mTick.mHeld)

/-- Whether any captured or capturable result still waits for its data (R369). -/
def Plane.uncaptured (p : Plane) : Bool := (p.flight ++ p.pending).any fun f => !f.arrived

/-- Whether a group's checks read a register or queue entry whose data is not back: the core freezes until they can be
decided (R14). DEDUCED: log entry 73. -/
def State.groupBlind (s : State) (l : List Placed) (n : Nat) : Bool :=
  s.pl.flight.any fun f => !f.known && decide (f.due < s.pl.bcount + n) && l.any fun x =>
    let u := usesOf s.pl x.ins
    (f.dest.key.any u.reads.contains) ||
      (x.slot == 4 && match f.dest with | .vq q => u.pops.contains q | _ => false)

/-- Whether a group freezes the core before it issues, for SQ entries or for room in a channel queue (R323, R332). -/
def State.groupHeld (s : State) (l : List Placed) : Bool :=
  decide (Config.sqCap < s.pl.sq.length + (l.filter fun x => needsSq x.ins).length ∧ l.any fun x => needsSq x.ins) ||
  (upTo 0 8).any fun ch =>
    let k := (l.filter fun x => channelOf x.ins == some ch).length
    decide (0 < k ∧ Config.chanCap < (vget s.co.ch ch []).length + k)

/-- The rings an unretired M-slot instruction reads (R128). -/
def MEnt.rings (p : Plane) (e : MEnt) : List Nat :=
  match e.ins with
  | .mmuls f => [f.rg.toNat, bitsOf e.y.toNat 20 3]
  | .mmulb f => [f.rg.toNat, bitsOf e.y.toNat 20 3]
  | .mcond _ => [bitsOf e.y.toNat 0 3, bitsOf e.y.toNat 8 3]
  | .mldw _ => [bitsOf e.x.toNat 0 3]
  | i => (usesOf p i).reads.filterMap fun k => match k with | .rg n => some n | _ => none

/-- Whether an RSET of a group waits for an M-slot instruction that reads its ring (R128). -/
def State.ringHeld (s : State) (l : List Placed) : Bool :=
  l.any fun x => match resetsRing x.ins with
    | some n => s.pl.m.any fun e => e.open_ && (e.rings s.pl).contains n
    | none => false

/-! ### End processing and transfers (R13, R92, R94, R98 to R100) -/

/-- The loop levels after the end processing of bundle `b` of segment `seg`; where control goes, none meaning the bundle
after `b`; and whether a level opened with P ended an iteration (R92, R372). -/
def endLevels (seg : BitVec 32) (b : Nat) : Nat → List Loop → List Loop × Option Nat × Bool
  | n + 1, l :: t =>
    if l.seg ≠ seg ∨ l.stop.toNat ≠ b then (l :: t, none, false)
    else
      let c := l.count - 1#32
      if c ≠ 0#32 then ({ l with count := c, index := l.index + 1#32 } :: t, some l.start.toNat, l.pre)
      else
        let r := endLevels seg b n t
        (r.1, r.2.1, l.pre || r.2.2)
  | _, l => (l, none, false)

/-- End processing of a bundle on the levels the plane sees (R92, R97): where control goes, and the plane. -/
def Plane.endProc (p : Plane) (seg : BitVec 32) (b : Nat) : Nat × Plane :=
  let r := endLevels seg b p.liveLoops.length p.loops
  (r.2.1.getD (b + 1), { p with loops := r.1, safe := p.safe || (r.2.2 && !p.intrap) })

/-- TRAP and BRKPT once their group has retired (R98): in a handler they end the task at once; otherwise the cause waits
for the boundary, where control stands at the bundle it would reach next. DEDUCED: log entry 71. -/
def State.software (s : State) (c : Cause) (brk : Bool) : State :=
  let p := s.pl
  if p.intrap then s.preciseTrap c
  else
    let r := if brk then (p.bun.toNat + 1, { p with safe := p.safe || p.endSafe }) else p.endProc p.seg p.bun.toNat
    let q := r.2
    let a : Nat × Nat := if r.1 = p.bun.toNat + 1 then p.after p.bun.toNat else (p.seg.toNat, r.1)
    let at_ : Plane := { q with held := some c, seg := BitVec.ofNat 32 a.1, bun := BitVec.ofNat 12 a.2 }
    { s with pl := if a.1 = p.seg.toNat then at_ else { at_ with enter := some ⟨a.1, a.2, .fall⟩ } }

/-- Control leaves a group's last bundle, after its counts (R13, R91, R92, R94, R99, R100). -/
def State.leave (s : State) : State :=
  let p : Plane := { s.pl with xfer := none, skipTo := none, grp := 0, looks := [] }
  match s.pl.xfer with
  | none =>
    let r := p.endProc p.seg p.bun.toNat
    { s with pl := r.2.flow (s.pl.skipTo.getD r.1) }
  | some (.bundle b) => { s with pl := { p with safe := p.safe || p.endSafe }.goTo p.seg.toNat b .jump }
  | some (.segment g b) => { s with pl := { p with safe := p.safe || p.endSafe }.goTo g b .jump }
  | some (.after g b) =>
    let r := p.endProc (BitVec.ofNat 32 g) b
    { s with pl := if BitVec.ofNat 32 g = p.seg then r.2.flow r.1 else r.2.goTo g r.1 .jump }
  | some (.software c brk) => State.software { s with pl := p } c brk
  | some .eret => State.eretNow { s with pl := p }
  | some .halt => { s with pl := { p with wait := some .halt, intrap := false, hdefer := [] } }

/-! ### Boundaries (R365 to R369, R372 to R375) -/

/-- Where a cause gathered at a boundary came from: a deferred entry by its place, a landing result by its number, the
matrix engine, whose cause falls due at this count, or the held TRAP or BRKPT. -/
inductive From where
  | deferred (i : Nat)
  | flight (id : Nat)
  | engine (d : Deferred)
  | held
  deriving DecidableEq, Repr

/-- A cause gathered at a boundary. -/
structure Gathered where
  cause : Cause
  req : Word
  src : From
  deriving DecidableEq, Repr

/-- The causes gathered at a boundary from the plane, apart from the next group's (R367), with flag words that hold the
enables (R143). A handler meets only its own (R368). -/
def Plane.gather (p : Plane) (words : Vector (BitVec 16) 5) : List Gathered :=
  let now := if p.intrap then p.bcount else p.tcount
  let l := if p.intrap then p.hdefer else p.deferred
  (((upTo 0 l.length).zip l).filterMap fun x =>
    if x.2.due ≤ now then some ⟨x.2.cause, x.2.req, .deferred x.1⟩ else none) ++
  (p.flight.filterMap fun f =>
    let en := enabledOf (vget words f.eng 0#16) f.flags
    if f.due ≤ p.bcount ∧ en ≠ 0#5 ∧ !f.raised ∧ f.eng < 5 then
      some ⟨fpCause f.eng en, reqId f.slot f.issued, .flight f.id⟩ else none) ++
  (if p.intrap then [] else (p.held.map fun c => (⟨c, 0#64, .held⟩ : Gathered)).toList)

/-- Whether a cause is due and not yet raised: no pre-emption lands then (R367). -/
def Plane.causeDue (p : Plane) : Bool := !(p.gather p.flags).isEmpty

/-- Causes that the matrix engine's retirements and drains of the present count will raise (R365, R366): the engine
itself has not yet moved, so that a trap finds it paused before this count (R193). -/
def State.engineCauses (s : State) (words : Vector (BitVec 16) 5) : List Gathered :=
  if s.pl.intrap then []
  else
    let t := s.mTick
    let of_ (c : Cause) (req : Word) (due : Nat) : Gathered := ⟨c, req, .engine ⟨c, due, req⟩⟩
    ((t.pl.deferred.drop s.pl.deferred.length).filterMap fun d =>
      if d.due ≤ s.pl.tcount then some (of_ d.cause d.req d.due) else none) ++
    ((t.pl.newFlags.drop s.pl.newFlags.length).filterMap fun x =>
      let en := enabledOf (vget words x.1 0#16) x.2.1
      if en ≠ 0#5 ∧ !x.2.2.2 then some (of_ (fpCause x.1 en) x.2.2.1 s.pl.tcount) else none)

/-- The causes gathered at a boundary apart from the next group's (R367). -/
def State.gather (s : State) : List Gathered := s.pl.gather s.pl.flags ++ s.engineCauses s.pl.flags

/-- The flag words with the enables that govern results landing in the first bundle of the group at pc: those that stand
now and that no FLAGS.EN of the bundle clears (R143, R144). One that the bundle sets acts as the result lands. -/
def State.nextWords (s : State) : Vector (BitVec 16) 5 :=
  if s.pl.wait.isSome || s.pl.enter.isSome || s.ringHeld s.pl.placedGroup then s.pl.flags
  else s.pl.placedGroup.foldl (fun w x => match x.ins with
    | .flagsEn f =>
      if x.pos = 0 then
        let keep := ((s.bundleStart.pl.rdS f.sy).setWidth 16 &&& 0x1F#16) <<< 8 ||| 0xE0FF#16
        vput w f.eng.toNat (vget w f.eng.toNat 0#16 &&& keep)
      else w
    | _ => w) s.pl.flags

/-- The causes gathered at a boundary whose group is about to issue (R143, R367). -/
def State.gatherNext (s : State) : List Gathered := s.pl.gather s.nextWords ++ s.engineCauses s.nextWords

/-- Whether a gathered cause goes before another (R367). -/
def Gathered.first (a b : Gathered) : Bool :=
  decide (a.cause.code.toNat < b.cause.code.toNat) || (a.cause.code == b.cause.code && decide (a.req.toNat < b.req.toNat))

/-- The first of the gathered causes. -/
def bestGathered : List Gathered → Option Gathered
  | [] => none
  | a :: t => match bestGathered t with
    | some b => if b.first a then some b else some a
    | none => some a

/-- The plane once a gathered cause is raised: the others stay pending. -/
def Plane.taken (p : Plane) (g : Gathered) : Plane :=
  match g.src with
  | .deferred i => if p.intrap then { p with hdefer := dropAt p.hdefer i } else { p with deferred := dropAt p.deferred i }
  | .flight id => p.modFlight id fun f => { f with raised := true }
  | .engine d => { p with mseen := d :: p.mseen }
  | .held => { p with held := none }

/-- A trap at a boundary; results whose data is not back freeze the core first when a handler is to be entered (R369). -/
def State.boundaryTrap (s : State) (c : Cause) (req : Word) (g : Option Gathered) : State :=
  let p := s.pl
  if !p.intrap ∧ p.tbase.getLsbD 63 ∧ p.uncaptured then s.stall
  else (State.modPl s fun p => match g with | some g => p.taken g | none => p).takeTrap c req p.seg.toNat p.bun.toNat

/-- DEFERRED_TRAP (R367): the lowest of the deferred causes due at the boundary is raised. -/
def State.deferredTrap (s : State) : State :=
  if s.pl.grp ≠ 0 then s
  else match bestGathered s.gatherNext with
    | some g => s.boundaryTrap g.cause g.req (some g)
    | none => s

/-- Whether the executing task is asked to be saved at this boundary (R367, R372, R374). -/
def State.saveNow (s : State) : Bool :=
  s.pl.safe && !s.pl.intrap && ((s.launch? s.pl.lid).map (·.preempt)).getD false

/-! ### The eclipse (R24, R225 to R228) -/

/-- Whether a plane's task can issue. -/
def Plane.canRun (p : Plane) : Bool := p.status == .ready || p.status == .loaded

/-- The planes change roles (R227): four cycles, which the tasks that have started count (R101). -/
def State.swap (s : State) : State :=
  { s with pl := s.co.shadow.tick 4, co := { s.co with shadow := s.pl.tick 4, lit := 1 - s.co.lit } }

/-- A plane whose YIELD ends (R228). -/
def Plane.unyield (p : Plane) : Plane :=
  match p.status, p.wait with
  | .parked, some (.yield _) => { p with status := .ready, wait := none }
  | _, _ => p

/-- ECLIPSE_SWAP: a core whose lit plane cannot issue decides (R227, R228): it swaps to the other plane when that one is
ready; with neither ready, a YIELD ends. -/
def State.eclipse (s : State) : State :=
  if s.pl.canRun then s
  else if s.co.shadow.canRun then s.swap
  else
    let other := s.co.shadow.unyield
    if other.canRun then State.swap { s with co := { s.co with shadow := other } }
    else (s.modPl Plane.unyield).idle

/-- A waiting task at a drain point with its condition false (R226, R228). -/
def State.atDrain (s : State) (w : Wait) : State :=
  match w with
  | .eclipse =>
    let s1 := s.modPl fun p => { p with wait := none }
    if s.co.shadow.canRun then s1.swap else s1
  | .yield _ =>
    if s.co.shadow.canRun then (s.modPl fun p => { p with status := .parked, wait := some (.yield true) }).swap
    else s.modPl fun p => { p with wait := none }
  | .halt => s
  | .save => s
  | .bar _ _ _ | .sstep _ _ | .jcb _ | .jcbBit _ => s.modPl fun p => { p with status := .parked }

/-- Whether a plane has issued M-slot instructions that have not retired (R194, R375). -/
def Plane.mBusy (p : Plane) : Bool := p.m.any MEnt.open_

/-- One turn of a task that waits on, its condition false (R100, R194, R226, R246, R375). -/
def State.waitTurn (s : State) (w : Wait) : State :=
  match w with
  | .halt => if s.pl.mBusy then s.emptyBundle else s.endTask s.co.id s.co.lit none false
  | .save => if s.pl.mBusy then s.emptyBundle else s.stall
  | w =>
    let t := s.bundleStart
    if t.pl.drained then t.atDrain w else s.emptyBundle

/-- Whether a launch's run limit has passed: its tasks end with no arrival (R380). -/
def State.limited (s : State) (lid : Nat) : Bool := ((s.launch? lid).map (·.limit)).getD false

/-- Tasks that must end and are not the lit plane's ready one end at once (R246, R380). -/
def State.reap (s : State) : State :=
  let l := s.boxes.flatMap fun b =>
    (if b.pl.endReq && b.pl.live && b.pl.status != .ready then [(b.co.id, b.co.lit)] else []) ++
    (if b.co.shadow.endReq && b.co.shadow.live then [(b.co.id, 1 - b.co.lit)] else [])
  l.foldl (fun s x => s.endTask x.1 x.2 none (s.limited (s.plane x.1 x.2).lid)) s

/-! ### Events of the core -/

/-- RESULT_LANDING (R15, R17): the oldest result due lands, when it is no timed one. A turn lands it at the start of
its bundle. -/
def State.landOne (s : State) (timed : Bool) : State :=
  match s.pl.flight.find? fun f => f.due ≤ s.pl.bcount with
  | none => s
  | some f =>
    if f.lb ≠ timed ∨ !f.arrived then s
    else (s.modPl fun p => { p with flight := p.flight.filter fun x => x.id ≠ f.id }).land f

/-- DEFERRED_TRAP (R366, R367). -/
def execDeferredTrap (s : State) : Host.Outcome State Fault Refusal := .next s.deferredTrap

/-- RESULT_LANDING (R15). -/
def execResultLanding (s : State) : Host.Outcome State Fault Refusal := .next (s.landOne false)

/-- FAR_DATA_ARRIVAL (R18): data that has been fixed comes back to the core. -/
def execFarDataArrival (c p rid : Nat) (s : State) : Host.Outcome State Fault Refusal :=
  .next (s.modPlane c p fun q => q.modFlight rid fun f => { f with arrived := f.arrived || f.known })

/-- TIMED_LANDING (R18): the oldest result due lands, when it is a timed one whose data is back. -/
def execTimedLanding (s : State) : Host.Outcome State Fault Refusal := .next (s.landOne true)

/-- SEGMENT_FETCH_DONE (R37 to R39). -/
def execSegmentFetchDone (c p : Nat) (s : State) : Host.Outcome State Fault Refusal := .next (s.fetchDone c p)

/-- Whether a ready task issues an empty bundle next (R128, R226). -/
def State.idling (s : State) : Bool :=
  s.pl.status == .ready && !s.frozen &&
    match s.pl.wait with
    | some w => !s.waitHolds s.pl w
    | none => s.pl.grp == 0 && s.ringHeld s.pl.placedGroup

/-- EMPTY_BUNDLE (R226): a waiting task that is not frozen issues an empty bundle. -/
def execEmptyBundle (s : State) : Host.Outcome State Fault Refusal :=
  .next (if s.idling then s.emptyBundle else s)

/-- ECLIPSE_SWAP (R227, R228). -/
def execEclipseSwap (s : State) : Host.Outcome State Fault Refusal :=
  .next (match s.pl.wait with
    | some w => if s.pl.status = .ready ∧ !s.waitHolds s.pl w ∧ s.pl.drained then s.atDrain w else s.eclipse
    | none => s.eclipse)

/-- M_INSTRUCTION_START (R189): what can start at this count starts. Nothing while a handler runs (R193). -/
def execMInstructionStart (s : State) : Host.Outcome State Fault Refusal :=
  .next (if s.pl.intrap then s else s.mStarts)

/-- M_INSTRUCTION_RETIRE (R189, R193). -/
def execMInstructionRetire (s : State) : Host.Outcome State Fault Refusal :=
  .next (if s.pl.intrap then s else s.mRetires)

/-- DRAIN_VECTOR_PUSH (R193, R217). -/
def execDrainVectorPush (s : State) : Host.Outcome State Fault Refusal :=
  .next (if s.pl.intrap then s else s.mDrains)

/-- CHAIN_FORM (R216): on the source's core. -/
def execChainForm (c : Nat) (s : State) : Host.Outcome State Fault Refusal :=
  let home := s.co.id
  .next ((s.focusOn c).formChain.focusOn home)

/-- ACC_WINDOW_WRITE (R199): an accepted window write of a whole accumulator row, once no unretired M-slot instruction
writes the row. -/
def execAccWindowWrite (c row : Nat) (d : BitVec 8192) (s : State) : Host.Outcome State Fault Refusal :=
  .next (if s.winBusy c row || decide (8192 ≤ row) then s else s.modCore c fun co => co.accWrite row 0 1024 d.toNat)

/-- PUSH_WINDOW_WRITE (R31, R199): a write to a push window of a plane of core `c`, held by the writing engine until it is
admitted; only the plane's own launch reaches its queues (R252, R253). -/
def execPushWindowWrite (c off lid : Nat) (d : BitVec 2048) (s : State) : Host.Outcome State Fault Refusal :=
  let p := off / 0x10000 % 2
  let q := off / 0x1000 % 2 * 16 + off / 0x100 % 16
  let pl := s.plane c p
  .next (if off % 256 = 0 ∧ off < 0x20000 ∧ off % 0x10000 < 0x2000 ∧ pl.live ∧ pl.lid = lid then
      s.modPlane c p fun pl => { pl with pushes := pl.pushes ++ [⟨q, d, 0⟩] }
    else s)

/-- The first held push whose queue has an entry neither landed nor reserved, admitted (R31). -/
def Plane.letIn (p : Plane) : Plane :=
  match (upTo 0 p.pushes.length).find? fun i => match p.pushes[i]? with
      | some x => (p.queue x.queue).length + p.reserved x.queue < qCap x.queue &&
          ((p.pushes.take i).all fun y => y.queue != x.queue)
      | none => false with
  | none => p
  | some i =>
    match p.pushes[i]? with
    | some x =>
      { p with vq := vput p.vq x.queue (vget p.vq x.queue [] ++ [⟨x.data, rowTag x.data⟩]), pushes := dropAt p.pushes i }
    | none => p

/-- PUSH_WINDOW_ADMIT (R31): counted by group checks only from the next group on, so nothing is admitted while a group
is under way. -/
def execPushWindowAdmit (c : Nat) (s : State) : Host.Outcome State Fault Refusal :=
  let adm (p : Plane) : Plane := if p.grp = 0 then p.letIn else p
  .next (match s.box c with
    | some b => s.setBox ⟨adm b.pl, { b.co with shadow := adm b.co.shadow }⟩
    | none => s)

end Sys2Proof.Machine
end

