-- ==== Sys2Proof/Machine/Dispatcher.lean ====
section
/-!
DEFINITION. The dispatcher's own work (R219 to R223, R238 to R248, R389): its accesses to memory, reading and checking
launch records, choosing and placing launches, and completion records.
-/

namespace Sys2Proof.Machine

/-- Numbered barriers at a level (R229). -/
def barCount (level : Nat) : Nat := if level = 1 then 16 else if level = 4 then 8 else 32

/-- Whether an arrival binding is legal (R230). -/
def bindOk (b : BitVec 8) : Bool :=
  let lv := b.toNat / 32
  lv = 0 || (lv ≤ 4 && b.toNat % 32 < barCount lv)

/-- Whether a record keeps its layout (R222 reason 3, R240, R398). DEDUCED: log entry 76. -/
def recOk (rc : BitVec 1024) : Bool :=
  let nv := recNvar rc
  recF rc 0x7B 0 8 = 0 && recF rc 0x70 48 16 = 0 && recF rc 0x68 33 31 = 0 && recF rc 0x5C 2 30 = 0 &&
  recClass rc ≠ 3 && recNseg rc ≠ 0 && recSegtab rc % 8 = 0 && (nv ≠ 0 || recRows rc = 0) &&
  ((upTo 1 (nv - 1)).all fun i => recThr rc (i - 1) < recThr rc i) &&
  ((upTo 0 (nv + 1)).all fun i => recEntry rc i < recNseg rc) &&
  ((upTo 0 3).all fun i => bindOk (recArr rc i)) &&
  (!recJact rc || (1 ≤ recStream rc && recStream rc ≤ 1023)) &&
  (recF rc 0x70 0 16 = 0 || recSrank rc + recT rc ≤ recF rc 0x70 16 16)

/-- Whether positions 0 to `c − 1` of a cluster are present cores. DEDUCED: log entry 77. -/
def Mgmt.clusterOk (m : Mgmt) (c cl : Nat) : Bool := (upTo 0 c).all fun p => m.cores.getLsbD (4 * cl + p)

/-- Whether a record asks for no more tasks than the present clusters can hold (R222 reason 1). -/
def Mgmt.roomFor (m : Mgmt) (rc : BitVec 1024) : Bool :=
  let c := recCpc rc
  let n (lo k : Nat) : Nat := ((upTo lo k).filter (m.clusterOk c)).length
  recT rc ≠ 0 && recT rc ≤ c * (if recOneDie rc then max (n 0 6) (n 6 6) else n 0 12)

/-- Bundles of the segments a table names, by their headers' length fields, whatever else a header holds; one that cannot be read
counts none (R41, R222 reason 2). DEDUCED: log entry 74. -/
def State.kernelLen (s : State) (f : Fetcher) (tab : List Byte) : Nat → Nat
  | 0 => 0
  | n + 1 =>
    let a := natOfBytes ((tab.drop (8 * n)).take 8) % 2 ^ 55
    let h := match (s.fetchBytes f 2 a 32).1 with
      | .ok b => natOfBytes (b.1.take 2) % 2 ^ 13
      | .error _ => 0
    s.kernelLen f tab n + h

/-- The first failing read of R222's reason 4: the segment table, the dependence and completion blocks, the row count; with the
table, when it can be read. -/
def State.recReads (s : State) (q : Nat) (rc : BitVec 1024) : Option Cause × Option (List Byte) × State :=
  let tb := s.infraRead q 10 (recSegtab rc) (8 * recNseg rc)
  let one (acc : Option Cause × State) (a : Nat × Nat) : Option Cause × State :=
    match acc.1 with
    | some c => (some c, acc.2)
    | none => acc.2.infraCheck q false 2 a.1 a.2
  let l := ((recDone rc :: recDeps rc).filter (· ≠ 0)).map (fun a => (a / 64 * 64, 64)) ++
    (if recNvar rc = 0 then [] else [(recRows rc, 4)])
  match tb.1 with
  | .error c => (some c, none, tb.2)
  | .ok b => let r := l.foldl one (none, tb.2); (r.1, some b, r.2)

/-- The lowest reason for which a record is rejected, 0 for none (R222). -/
def State.rejects (s : State) (q : Nat) (rc : BitVec 1024) : Nat × State :=
  let r := s.recReads q rc
  if !s.dv.mg.roomFor rc then (1, r.2.2)
  else if recResident rc && r.2.1.any fun b =>
      decide (4096 < s.kernelLen ⟨24 * s.dv.mg.dispDie, q, 0#64, recNseg rc⟩ b (recNseg rc)) then
    (2, r.2.2)
  else if !recOk rc then (3, r.2.2)
  else if r.1.isSome then (4, r.2.2)
  else (0, r.2.2)

/-! ### Job control blocks (R234 to R236) -/

/-- A block's fields (R234). -/
structure Jcb where
  expected : Nat
  completed : Nat
  errors : Nat
  complete : Bool
  failed : Bool
  open_ : Nat
  cause : Nat
  slot : Nat
  deriving DecidableEq, Repr

/-- A block read from its 64 bytes. -/
def jcbOf (x : Nat) : Jcb :=
  ⟨bitsOf x 0 32, bitsOf x 32 32, bitsOf x 64 32, x.testBit 96, x.testBit 97, bitsOf x 128 64, bitsOf x 0x180 8,
   bitsOf x 0x188 8⟩

/-- A block's 64 bytes with its fields replaced. -/
def Jcb.put (b : Jcb) (x : Nat) : Nat :=
  [(0, 32, b.expected), (32, 32, b.completed), (64, 32, b.errors), (96, 1, b2n b.complete), (97, 1, b2n b.failed),
   (128, 64, b.open_), (0x180, 8, b.cause), (0x188, 8, b.slot)].foldl (fun x f => bitsPut x f.1 f.2.1 f.2.2) x

/-- An error posted to a block (R235). -/
def Jcb.post (b : Jcb) (cause slot : Nat) : Jcb :=
  { b with failed := true, errors := min (b.errors + 1) (2 ^ 32 - 1), cause := if b.errors = 0 then cause else b.cause,
           slot := if b.errors = 0 then slot else b.slot }

/-- Whether a block completes after an update (R235). -/
def Jcb.evaluate (b : Jcb) : Jcb :=
  if !b.complete ∧ b.open_ = 0 ∧ b.expected ≤ b.completed then
    let b1 := { b with complete := true }
    if b.expected < b.completed then b1.post 0x1B 0xFF else b1
  else b

/-- JCBADD at a block (R235, R236). -/
def Jcb.add (b : Jcb) (inc slot : Nat) : Jcb :=
  let b1 := if b.open_.testBit slot then { b with expected := (b.expected + inc) % 2 ^ 32 } else b
  if b.open_.testBit slot ∧ !b.complete then b1 else b1.post 0x1B slot

/-- JCBDONE, or the dispatcher's post, at a block (R236, R245). -/
def Jcb.finish (b : Jcb) (slot : Option Nat) (close : Bool) (err : Option Nat) : Jcb :=
  let b1 := { b with completed := (b.completed + 1) % 2 ^ 32 }
  let b2 := match err with | some c => b1.post c (slot.getD 0xFF) | none => b1
  match slot with
  | some i => if close then { b2 with open_ := bitsPut b2.open_ i 1 0 } else b2
  | none => b2

/-- What JCBQ gives (R236). -/
def Jcb.query (b : Jcb) : Nat :=
  b2n b.complete <<< 63 + b2n b.failed <<< 62 + (min b.errors (2 ^ 30 - 1)) <<< 32 +
    wrap 32 ((b.expected : Int) - b.completed)

/-- A block request applied at its home (R234 to R236). -/
def State.applyJcb (s : State) (r : JReq) : State :=
  let x := s.dv.portNat r.pa 64
  let b := jcbOf x
  let put (n : Jcb) : State :=
    s.modDev fun d => d.patch (d.frameFmt (r.pa / 65536)) agentInfra r.pa (bytesOfNat 64 (n.put x))
  match r.op with
  | .add inc slot => ((put (b.add inc.toNat slot).evaluate).arrive r.arr [] 0).wake
  | .done slot close err =>
    ((put (b.finish slot close (err.map (·.toNat))).evaluate).arrive r.arr [] 0).wake
  | .query c p fid => s.fixData c p fid (BitVec.ofNat 2048 b.query)
  | .queryRow blk c p fid => s.fixData c p fid (BitVec.ofNat 2048 (jcbOf blk.toNat).query)

/-! ### Completion records (R239, R245, R248) -/

/-- A completion record. -/
def mkRecord (seq tag status : Nat) (err : Option (Nat × Cause × Word)) : BitVec 256 :=
  let e := err.getD (0, ⟨0#8, 0#64⟩, 0#64)
  BitVec.ofNat 256 (seq % 2 ^ 64 + (tag + (status + e.2.1.code.toNat <<< 8 + (e.1 % 65536) <<< 16) <<< 32) <<< 64 +
    e.2.1.detail.toNat <<< 128 + e.2.2.toNat <<< 192)

/-- Finished records written in sequence order, each before CH moves past it, while the host leaves room; a record that
cannot be written is held (R239, R245, R388). -/
def State.flush (s : State) (q : Nat) : Nat → State
  | 0 => s
  | fuel + 1 =>
    let x := s.dv.queue q
    match x.done.find? fun r => r.1 == x.chead with
    | none => s
    | some r =>
      if x.heldRec ∨ x.chead ≥ x.hc + 2 ^ x.size.toNat then s
      else
        let w := s.infraWrite q 4 (x.cring.toNat + 32 * (x.chead % 2 ^ x.size.toNat)) (bytesOfNat 32 r.2.toNat)
        match w.1 with
        | some c =>
          w.2.2.modDev fun d => (d.modQueue q fun x => { x with heldRec := true }).queueFault 2 q x.chead c (.heldCompletion q)
        | none =>
          State.flush (w.2.2.modDev fun d => d.modQueue q fun x =>
            { x with chead := x.chead + 1, done := x.done.filter fun y => y.1 != r.1 }) q fuel

/-- The post of a launch's completion block, when it names one (R236, R245): applied before the record is written. -/
def State.postDone (s : State) (q : Nat) (rc : BitVec 1024) (e : Option (BitVec 8)) : State :=
  if recDone rc = 0 then s
  else
    let va := recDone rc / 64 * 64
    let post (pa : Nat) (s : State) : State := s.applyJcb ⟨pa, 0, 0, .done none false e, [], none⟩
    let r := s.infraLook q true va 64
    match r.1 with
    | .ok (.mem pa _) => post pa r.2
    | .ok (.sym l _) =>
      match r.2.readyWrite l 0 0 with
      | .ok (.frame f, s2) => post (f * 65536 + va % 65536) s2
      | _ => r.2
    | _ => r.2

/-- A launch's completion: its block posted, then its record finished (R245, R248). DEDUCED: log entry 81. -/
def State.finish (s : State) (q seq : Nat) (rc : BitVec 1024) (status : Nat) (err : Option (Nat × Cause × Word)) : State :=
  let s1 := s.postDone q rc (if status = 0 then none else some (((err.map fun x => x.2.1.code)).getD 0#8))
  let s2 := s1.modDev fun d => d.modQueue q fun x => { x with done := x.done ++ [(seq, mkRecord seq (recTag rc) status err)] }
  s2.flush q (2 ^ 16 + 1)

/-- A head record completed without running: status 1 with a reason, or status 3 (R222, R247). -/
def State.dismiss (s : State) (q : Nat) (rc : BitVec 1024) (status : Nat) (c : Cause) : State :=
  let seq := (s.dv.queue q).dh
  (s.modDev fun d => { d.modQueue q fun x => { x with dh := x.dh + 1, head := none, raised := 0 } with
      chosen := if d.chosen.map (·.1) = some q then none else d.chosen }).finish q seq rc status (some (0, c, 0#64))

/-- Whether a queue may take another record (R239, R245). -/
def LQueue.takes (x : LQueue) : Bool :=
  x.en && !x.overrun && x.head.isNone && decide (x.dh < x.st) && decide (x.chead < x.hc + 2 ^ x.size.toNat) && !x.heldRec

/-- LAUNCH_RECORD_READ (R222, R239). -/
def State.readRecord (s0 : State) (q : Nat) : State :=
  let s := if q < 16 then s0.modDev fun d => d.modQueue q LQueue.guard else s0
  let x := s.dv.queue q
  if 16 ≤ q ∨ s.dv.mg.failed ∨ s.dv.mg.power = .low ∨ !x.takes then s
  else
    let r := s.infraRead q 2 (x.lring.toNat + 128 * (x.dh % 2 ^ x.size.toNat)) 128
    match r.1 with
    | .error c =>
      r.2.modDev fun d => (d.modQueue q fun x => { x with en := false }).queueFault 0 q x.dh c (.queueFault q)
    | .ok b =>
      let rc := BitVec.ofNat 1024 (natOfBytes b)
      let k := r.2.rejects q rc
      if k.1 = 0 then k.2.modDev fun d => d.modQueue q fun x => { x with head := some rc, raised := 0 }
      else k.2.dismiss q rc 1 ⟨0#8, BitVec.ofNat 64 k.1⟩

/-! ### Choosing (R241 to R243) -/

/-- Whether a dependence block is complete; one that cannot be read is not. -/
def State.depDone (s : State) (q a : Nat) : Bool :=
  a = 0 || (match (s.infraNat q (a / 64 * 64 + 0xC) 4).1 with | .ok x => x % 2 = 1 | .error _ => false)

/-- Whether a queue's head is eligible (R241). DEDUCED: log entry 102. -/
def State.eligible (s : State) (q : Nat) : Bool :=
  let x := s.dv.queue q
  match x.head with
  | some rc => x.en && (recDeps rc).all (s.depDone q)
  | none => false

/-- Effective priority of a queue's head: aging raises it by 1 per limit, up to 2 (R241). -/
def LQueue.effPrio (x : LQueue) : Nat :=
  match x.head with
  | some rc => let p := recPrio rc; if p = 3 ∨ recAge rc = 0 then p else max p (min (p + x.raised) 2)
  | none => 0

/-- The queue whose head the dispatcher chooses (R241). -/
def State.choose (s : State) : Option Nat :=
  let l := (upTo 0 16).filter s.eligible
  let p := l.foldl (fun m q => max m (s.dv.queue q).effPrio) 0
  let last := vget s.dv.rr p 0
  ((upTo 1 16).map fun i => (last + i) % 16).find? fun q => l.contains q && (s.dv.queue q).effPrio == p

/-- Where a launch of `t` tasks, `c` to a cluster, goes: plane set and first cluster, with `free` telling free planes by core
and plane set (R221). -/
def Mgmt.spot (m : Mgmt) (free : Nat → Nat → Bool) (t c : Nat) (oneDie : Bool) : Option (Nat × Nat) :=
  let n := ceilDiv t c
  (upTo 0 2).findSome? fun k =>
    ((upTo 0 (13 - n)).find? fun b =>
      (!oneDie || b / 6 == (b + n - 1) / 6) &&
      (upTo b n).all fun cl => m.clusterOk c cl && (upTo 0 c).all fun p => free (4 * cl + p) k).map fun b => (k, b)

/-- Whether a plane is empty. -/
def State.planeFree (s : State) (c p : Nat) : Bool :=
  (s.box c).isSome && !(s.plane c p).live

/-- The variant a row count selects (R243). -/
def variantOf (rc : BitVec 1024) (r : Nat) : Nat := ((upTo 0 (recNvar rc)).filter fun i => recThr rc i ≤ r).length

/-- The state of a task's plane at its start (R26, R223, R230, R244). DEDUCED: log entry 100. -/
def loadedPlane (m : Mgmt) (old : Plane) (q lid : Nat) (rc : BitVec 1024) (base entry t born : Nat) : Plane :=
  { Plane.reset with
    status := .loaded, lid := lid, rank := t, space := q, jact := recJact rc, stream := recStream rc,
    ab := #v[recArr rc 0, recArr rc 1, recArr rc 2], dmr := domainRegs m rc base t,
    s := vput Plane.reset.s 1 (BitVec.ofNat 64 (recF rc 0x10 0 64)), seg := BitVec.ofNat 32 entry,
    segtab := BitVec.ofNat 64 (recSegtab rc), nseg := recNseg rc, resident := recResident rc, lq := old.lq, sq := old.sq,
    born := born }

/-- A launch placed: DH advances, every task's plane is loaded (R244). -/
def State.placeAt (s : State) (q : Nat) (rc : BitVec 1024) (v k base : Nat) : State :=
  let x := s.dv.queue q
  let lid := s.dv.nextLid
  let c := recCpc rc
  let tasks := (upTo 0 (recT rc)).map fun t => (⟨t, 4 * (base + t / c) + t % c, k, false, false⟩ : Task)
  let l : Launch :=
    { lid := lid, q := q, seq := x.dh, rc := rc, pset := k, base := base, variant := v, prio := x.effPrio, tasks := tasks,
      preempt := false, saved := false, status := 0, err := none, images := [], slots := [], limit := false }
  let s1 := s.modDev fun d =>
    { d.modQueue q fun x => { x with dh := x.dh + 1, head := none, raised := 0 } with
      launches := d.launches ++ [l], nextLid := lid + 1, rr := vput d.rr x.effPrio q, chosen := none,
      mg := { d.mg with power := .active } }
  tasks.foldl (fun s t =>
    let n := s.takeId
    (n.2.modPlane t.core k fun p => loadedPlane s.dv.mg p q lid rc base (recEntry rc v) t.rank n.1).loadCode t.core k) s1

/-- Launches asked to make room for a prio 3 launch: the shortest run of candidates, lowest priority and then latest
placed first, whose planes allow a placement (R242). -/
def State.askPreempt (s : State) (rc : BitVec 1024) : State :=
  let cand := (s.dv.launches.filter fun l => !l.preempt && decide (l.prio < 3) && recClass l.rc ≤ 1).insertionSort fun a b =>
    if a.prio ≠ b.prio then a.prio < b.prio else b.lid ≤ a.lid
  let gone (ls : List Launch) (c p : Nat) : Bool :=
    s.planeFree c p || ((s.dv.launches.filter (·.preempt)) ++ ls).any fun l =>
      l.lid == (s.plane c p).lid && (s.plane c p).live
  let fits (n : Nat) : Bool := (s.dv.mg.spot (gone (cand.take n)) (recT rc) (recCpc rc) (recOneDie rc)).isSome
  match (upTo 0 (cand.length + 1)).find? fits with
  | some n => s.modDev fun d =>
      { d with launches := d.launches.map fun l =>
          if (cand.take n).any fun x => x.lid == l.lid then { l with preempt := true } else l }
  | none => s

/-- The launch that is placed next, with its variant: a choice that waits for its placement stands; a head chosen now has its row
count read at this moment (R241, R243). DESIGN CHOICE: log entry 78. -/
def State.decideNext (s : State) : Option (Nat × Except Cause Nat) × State :=
  match s.dv.chosen with
  | some (q, v) => (some (q, .ok v), s)
  | none =>
    match s.choose with
    | none => (none, s)
    | some q =>
      match (s.dv.queue q).head with
      | none => (none, s)
      | some rc =>
        if recNvar rc = 0 then (some (q, .ok 0), s)
        else let r := s.infraNat q (recRows rc) 4; (some (q, r.1.map (variantOf rc)), r.2)

/-- LAUNCH_PLACE (R241 to R244). -/
def State.place1 (s : State) : State :=
  if s.dv.mg.failed ∨ s.dv.mg.power = .low then s
  else
    let r := s.decideNext
    match r.1 with
    | none => r.2
    | some (q, v) =>
      match (r.2.dv.queue q).head, v with
      | none, _ => r.2.modDev fun d => { d with chosen := none }
      | some rc, .error _ => r.2.dismiss q rc 1 ⟨0#8, 4#64⟩
      | some rc, .ok v =>
        match r.2.dv.mg.spot r.2.planeFree (recT rc) (recCpc rc) (recOneDie rc) with
        | some (k, base) => r.2.placeAt q rc v k base
        | none =>
          let s1 := r.2.modDev fun d => { d with chosen := some (q, v), mg := { d.mg with power := .active } }
          if recPrio rc = 3 then s1.askPreempt rc else s1

/-! ### Completing and ending launches (R245 to R247, R380) -/

/-- Whether a launch still has commands on some channel. -/
def State.hasCmds (s : State) (lid : Nat) : Bool := s.boxes.any fun b => b.co.ch.toList.any fun l => l.any fun c => c.lid == lid

/-- Whether a launch still has far stores in a queue, or one not yet visible where R245 asks it. -/
def State.hasStores (s : State) (lid : Nat) : Bool :=
  (s.boxes.any fun b => (b.pl.sq ++ b.co.shadow.sq).any fun q =>
    q.lid == lid && match q.kind with | .stf _ _ _ _ _ => true | .mark => false | .fence _ => false | .cmds _ => false) ||
  s.dv.far.any fun f => f.lid == lid && !(lid == 0) && decide (f.level < if f.addr < 2 ^ 40 then 3 else 4)

/-- Whether a launch still has a block update, a Lux merge or an arrival under way (R245). -/
def State.hasUpdates (s : State) (lid : Nat) : Bool :=
  (s.dv.jcbQ.any fun r => r.lid == lid) || (s.dv.luxQ.any fun r => r.lid == lid) || s.dv.arrQ.any fun a => a.owed.lid == lid

/-- The commands of a launch that its run limit ends leave their channels without a record (R380). -/
def State.dropCmds (s : State) (lid : Nat) : State :=
  let mine (core ch seq : Nat) : Bool := (vget (s.core core).ch ch []).any fun c => c.seq == seq && c.lid == lid
  let s1 := s.modDev fun d =>
    { d with posted := d.posted.filter fun p => !mine p.core p.ch p.seq,
             jnl := { d.jnl with hold := d.jnl.hold.filter fun h => !mine h.core h.ch h.seq },
             gens := d.gens.filter fun g => !s.boxes.any fun b => b.co.ch.toList.any fun l => l.any fun c => c.seq == g.1 && c.lid == lid }
  s1.mapCores fun co =>
    { co with ch := co.ch.map fun l => l.filter fun c => c.lid != lid,
              hold := (upTo 0 8).foldl (fun h k =>
                if ((vget co.ch k []).head?.map (·.lid)) = some lid then h &&& ~~~(1#8 <<< k) else h) co.hold }

/-- A completed launch of a slice group counts among its members while another launch of the group is placed (R224, R229). -/
def Dev.retire (d : Dev) (l : Launch) : Dev :=
  let rest := d.launches.filter fun x => x.lid != l.lid
  let keep (grp : Bool) (own : Nat) : Bool := if grp then rest.any fun x => x.sgroup == own else own != l.lid
  { d with launches := rest, gone := (d.gone ++ [l]).filter fun g => g.sgroup != 0 && rest.any fun x => x.sgroup == g.sgroup,
           bars := d.bars.filter fun b => keep b.grp b.own, steps := d.steps.filter fun b => keep b.grp b.own,
           merged := d.merged.filter fun m => m.2.1 != l.lid || (l.sgroup != 0 && rest.any fun x => x.sgroup == l.sgroup) }

/-- LAUNCH_COMPLETE (R224, R229, R245, R260, R380). -/
def State.completeLaunch (s0 : State) (lid : Nat) : State :=
  match s0.launch? lid with
  | none => s0
  | some l =>
    if s0.dv.mg.failed ∨ l.tasks.any (fun t => !t.ended) then s0
    else
      let s := if l.limit then s0.dropCmds lid else s0
      if s.hasCmds lid ∨ s.hasStores lid ∨ s.hasUpdates lid then s
      else
        let s1 := (s.freeSlots fun _ _ x => x.lid == lid && x.st != .free).modDev fun d => d.retire l
        s1.finish l.q l.seq l.rc l.status l.err

/-- The lowest rank of a launch that has not ended. -/
def Launch.lowest (l : Launch) : Nat := (l.tasks.filter fun t => !t.ended).foldl (fun m t => min m t.rank) 65535

/-- RUN_WATCHDOG (R247, R380): the limit of a launch that has started, before a save or since, and is not saved; one whose
tasks end for another reason keeps its status (DESIGN CHOICE, log entry 112). -/
def State.runLimit (s : State) (lid : Nat) : State :=
  match s.launch? lid with
  | none => s
  | some l =>
    let started := l.tasks.any fun t =>
      t.ended || t.saved || (s.plane t.core t.plane).status != .loaded || 0 < (s.plane t.core t.plane).bcount
    let rank := if l.tasks.all (·.ended) then 0 else l.lowest
    if l.saved ∨ !started then s
    else State.stopLaunch (s.modLaunch lid fun l => { l with limit := true }) lid 4 (some (rank, ⟨0x3F#8, 0#64⟩, 0#64))

/-- Whether a plane's task is ended by the watchdog, which waits for nothing (R380). -/
def State.limitHit (s : State) : Bool := s.pl.endReq && s.limited s.pl.lid

end Sys2Proof.Machine
end

