-- ==== Sys2Proof/Machine/Preempt.lean ====
section
/-!
DEFINITION. Pre-emption (R374 to R379): saving a task, releasing a launch's banks and slots, restoring it, and ending
tasks that are saved. Every part of R377 is written to the save area, the places that R377 leaves open as log entry 25 says (DESIGN
CHOICE), and a restore reads every part back; what no part holds it takes from the copy that the launch holds.
-/

namespace Sys2Proof.Machine

/-! ### The save area (R370, R377) -/

/-- Kind and destination of a pending-landing descriptor (R370). -/
def Dest.descr : Dest → Nat × Nat
  | .none => (0, 0)
  | .sreg r => (0, r.toNat)
  | .pred k => (1, k)
  | .scale n => (2, n)
  | .vq k => (3, k)
  | .mq => (3, 0x20)

/-- A pending-landing descriptor (R370). -/
def Plane.descriptor (p : Plane) (f : Flight) : Nat :=
  let kd := f.dest.descr
  let cause := ((p.deferred.find? fun d => d.req == reqId f.slot f.issued).map (·.cause.code.toNat)).getD 0
  let ar := (f.arr.map (·.ar)).getD 0
  let w1 := if kd.1 = 3 then f.tag.toNat else f.val.toNat % 2 ^ 64
  cause <<< 32 + b2n (cause != 0) <<< 31 + ar <<< 29 + f.flags.toNat <<< 24 + (f.due % 4096) <<< 12 + kd.2 <<< 4 + kd.1 +
    w1 <<< 64

/-- Whether a captured result has bytes in the image's data area (R370). -/
def Dest.bytes : Dest → Nat
  | .pred _ => 32
  | .vq _ => 256
  | .mq => 256
  | .none => 0
  | .sreg _ => 0
  | .scale _ => 0

/-- A list with the positions of its members. -/
def indexed {α : Type} (l : List α) : List (Nat × α) := (upTo 0 l.length).zip l

/-- Bytes of numbers of `n` bytes each. -/
def wordsOf (n : Nat) (l : List Nat) : List Byte := bytesOfNat (n * l.length) (packs (8 * n) l)

/-- A stationary buffer's properties as one word: format, codebook, west, NF, ZERO. -/
def WProp.word (x : WProp) : Nat :=
  x.fmt.toNat + b2n x.cb <<< 4 + b2n x.west <<< 5 + b2n x.nf <<< 6 + b2n x.zero <<< 7 + 1 <<< 8

/-- The first block of a task image (R377; DESIGN CHOICE, log entry 25): seven words, then the stationary buffers' properties and
codebooks. -/
def Plane.imageHead (p : Plane) (core : Nat) (wprop : Vector (Option WProp) 2) (w : Vector (Option WData) 2) : List (Nat × List Byte) :=
  [(0, wordsOf 8 ([p.rank, core, p.tcount, p.loops.length, p.rets.length, p.captured, p.xq.length].map (· % 2 ^ 64))),
   (0x40, wordsOf 8 (wprop.toList.map fun x => (x.map WProp.word).getD 0)),
   (0x80, wordsOf 16 (w.toList.map fun x => (x.map fun d => d.cb.toNat).getD 0))]

/-- The sequencer's block (R377; DESIGN CHOICE, log entry 25): pc, loop stack, return store, and the system registers 0x002 to 0x00D, 0x010
and 0x011. -/
def Plane.imageSeq (p : Plane) : List (Nat × List Byte) :=
  [(0x200, bytesOfNat 8 (mkAddr p.seg.toNat p.bun.toNat).toNat),
   (0x210, wordsOf 16 (p.loops.map fun l =>
      l.count.toNat + l.index.toNat <<< 32 + l.seg.toNat <<< 64 + l.start.toNat <<< 96 + l.stop.toNat <<< 108 + b2n l.pre <<< 120)),
   (0x300, wordsOf 8 (p.rets.map (·.toNat))),
   (0x400, wordsOf 8 ([b2n p.qf, 0, 0, 0, 0, 0, p.tbase.toNat, p.epc.toNat, p.ecause.toNat, p.edetail.toNat, p.ereq.toNat,
      p.estatus.toNat, p.cycle, p.bcount].map (· % 2 ^ 64)))]

/-- A band in its image: first row, count, position, and 1 (R377; DESIGN CHOICE, log entry 25). -/
def Band.word (b : Band) : Nat := b.row % 2 ^ 13 + (b.count % 2 ^ 14) <<< 13 + (b.pos % 4) <<< 27 + 1 <<< 29

/-- The block of predicates, flags, scale, pattern and ring registers and of the task's bands, up to the 32 of the table (R197, R377;
DESIGN CHOICE, log entry 25). The hard-wired p0 of each cluster is not in it. -/
def Plane.imageRegs (p : Plane) (bands : List Band) : List (Nat × List Byte) :=
  [(0x600, wordsOf 32 ([1, 2, 3, 5, 6, 7].map fun k => (vget p.pr k 0).toNat)), (0x6C0, wordsOf 2 (p.flags.toList.map (·.toNat))),
   (0x6D0, wordsOf 8 (p.ks.toList.map (·.w.toNat))), (0x710, wordsOf 16 (p.xp.toList.map (·.toNat))),
   (0x750, wordsOf 5 (p.rg.toList.map fun r => r.base.toNat + r.size.toNat <<< 8 + r.head.toNat <<< 17 + r.count.toNat <<< 25)),
   (0x778, wordsOf 4 ((upTo 0 32).map fun i => ((bands[i]?).map Band.word).getD 0))]

/-- The queues' parts (R377): entries, and for each queue its occupancy, reservations and four tags; the tags of mq, each with bit 31
set, stand after its entries (DESIGN CHOICE, log entry 25). -/
def Plane.imageQueues (p : Plane) : List (Nat × List Byte) :=
  ((indexed p.vq.toList).flatMap fun q => (indexed q.2).map fun e => (0x2000 + 1024 * q.1 + 256 * e.1, bytesOfNat 256 e.2.data.toNat)) ++
  ((indexed p.vq.toList).map fun q => (0xA000 + 16 * q.1, bytesOfNat 16
    (q.2.length + p.reserved q.1 <<< 8 + packs 24 (q.2.map fun e => e.tag.toNat) <<< 32))) ++
  ((indexed p.mq).map fun e => (0xC000 + 256 * e.1, bytesOfNat 256 e.2.data.toNat)) ++
  [(0xE000, wordsOf 4 ((upTo 0 32).map fun i => ((p.mq[i]?).map fun e => e.tag.toNat + 1 <<< 31).getD 0))]

/-- The parts of a task image, by offset (R370, R377). -/
def Plane.imageParts (p : Plane) (core : Nat) (bands : List Band) (wprop : Vector (Option WProp) 2) (w : Vector (Option WData) 2) :
    List (Nat × List Byte) :=
  p.imageHead core wprop w ++
  [(0x100, wordsOf 8 (p.s.toList.map (·.toNat)))] ++ p.imageSeq ++ p.imageRegs bands ++
  [(0x800, wordsOf 256 (p.bl.toList.map (·.toNat))), (0xA00, wordsOf 8 (p.xq.map (·.toNat))),
   (0xC00, wordsOf 16 (p.pending.map p.descriptor))] ++ p.imageQueues ++
  ((indexed p.pending).map fun f => (0x10000 + 256 * f.1, bytesOfNat f.2.dest.bytes f.2.val.toNat))

/-- The mask of the bits with the listed numbers. -/
def maskOf (xs : List Nat) : Nat := xs.foldl (fun m b => m ||| 1 <<< b) 0

/-- A numbered barrier in the launch header: its key, P, and Im and Dm of each member of the launch (R377; DESIGN CHOICE, log entry 25). -/
def Bar.bytes (b : Bar) (lid : Nat) : List Byte :=
  let l := b.cnt.filter fun c => c.lid == lid
  wordsOf 8 ([b.level + b.inst <<< 8 + b.num <<< 16 + l.length <<< 24, b.phase] ++
    l.flatMap fun c => [c.rank + (c.i % 2 ^ 24) <<< 16 + (c.d % 2 ^ 24) <<< 40])

/-- A superstep barrier in the launch header: its key, its count, and the ranks that have issued SSTEP (R377; DESIGN CHOICE, log entry
25). -/
def SStep.bytes (x : SStep) (lid : Nat) : List Byte :=
  wordsOf 8 ([x.level + x.inst <<< 8, x.count,
    maskOf ((x.marks.filter fun m => m.1 == lid).map (·.2))].map (· % 2 ^ 64))

/-- The launch header's parts (R377): its first words, the bank masks with the place of each task's slot bitmap, the barriers and
supersteps of the launch, and the bitmap of the slots of each task. -/
def Launch.headerParts (l : Launch) (d : Dev) (slots : List SlotImg) : List (Nat × List Byte) :=
  let mine (grp : Bool) (own : Nat) : Bool := if grp then l.sgroup == own else l.lid == own
  [(0, bytesOfNat 64 (1 + recClass l.rc <<< 16 + (recT l.rc % 64) <<< 18 + l.base <<< 24 + l.pset <<< 28))] ++
  (l.images.map fun i => (0x40 + 16 * i.rank, wordsOf 8 [maskOf i.banks, 0x3400 + 32 * i.rank])) ++
  [(0x1000, (((d.bars.filter fun b => mine b.grp b.own).flatMap (Bar.bytes · l.lid)).take 0x2000)),
   (0x3000, (((d.steps.filter fun b => mine b.grp b.own).flatMap fun x => x.bytes l.lid).take 0x400))] ++
  ((upTo 0 48).map fun t =>
    (0x3400 + 32 * t, bytesOfNat 32 (maskOf ((slots.filter fun x => x.slot.rank == t).map (·.k)))))

/-- The whole launch header: what none of its parts holds is zero (R377). -/
def Launch.header (l : Launch) (d : Dev) (slots : List SlotImg) : List Byte :=
  bytesOfNat 0x10000 (sumN ((l.headerParts d slots).map fun p => natOfBytes p.2 <<< (8 * p.1)))

/-! ### Saving (R374 to R376) -/

/-- What the bank table holds for a bank of a saved task: no plane's own. DESIGN CHOICE: log entry 83. -/
def savedOwner (lid p : Nat) : Nat := 3 + 2 * lid + p

/-- Banks of a core with this table entry. -/
def Core.banksOf (c : Core) (owner : Nat) : List Nat := (upTo 0 64).filter fun b => SMap.get 0 c.bank b = owner

/-- A core with one table entry of its banks replaced by another. -/
def Core.reown (c : Core) (old new : Nat) : Core :=
  { c with bank := SMap.mapV 0 (fun _ o => if o = old then new else o) c.bank }

/-- Whether a task stands where it can be saved (R367, R372, R375): parked, or stopped at a safe point with its M-slot
instructions retired and the data of its results back, and no cause due. -/
def Plane.savable (p : Plane) : Bool :=
  !p.intrap && !p.endReq && !p.uncaptured && !p.causeDue &&
    (p.status == .parked || (p.status == .ready && p.wait == some .save && p.grp == 0 && !p.mBusy))

/-- A plane as its image holds it: its results captured with their distances (R369), its far queues left behind. -/
def Plane.image (p : Plane) : Plane :=
  { p with status := if p.status = .parked then .parked else .loaded, wait := if p.wait = some .save then none else p.wait,
           pending := p.capture, captured := p.flight.length, flight := [], lq := [], sq := [], cur := none, nxt := none, res := [],
           safe := false }

/-- Operands by which a command may name a window, or slots by reference. -/
def Cmd.operands (c : Cmd) : List Nat :=
  match c.ins with
  | .xcopy _ => [c.x.toNat, c.y.toNat]
  | .xcopyt _ => let h := shapeOf c.blk; [h.dst, h.src, h.aux]
  | .xpair _ => [bF c.blk 0x10 0 64]
  | .xfill _ => if refDesc c.x = descSlots then [2 ^ 63] else []
  | .xgath _ => let g := gatherOf c.blk; [g.dst, g.src, g.idx]
  | .xscat _ => let g := gatherOf c.blk; [g.dst, g.src, g.idx]
  | .xsend _ => [bF c.blk 0x10 0 64]
  | .xpost _ => [bF c.blk 0x10 0 64]
  | .xcoll _ => let k := collOf c.blk; [k.src, k.dst]
  | .xmedia _ => [bF c.blk 0x10 0 64, bF c.blk 0x20 0 64, bF c.blk 0x28 0 64]
  | _ => []

/-- Whether a launch has a command that names a window (R376). -/
def State.windowCmds (s : State) (lid : Nat) : Bool :=
  s.boxes.any fun b => b.co.ch.toList.any fun l => l.any fun c => c.lid == lid && c.operands.any fun a => opWin a && !opPush a

/-- A saved slot (R376): dead contents come back as the reset entry. -/
def State.slotImg (s : State) (full : Bool) (c k : Nat) : SlotImg :=
  let x := (s.core c).slot k
  if full then
    let st := entKind x.w0 = 1
    { core := c, k := k, slot := x, rows := if st then s.storeRows (.slot c k) else [], side := s.side (.slot c k) }
  else { core := c, k := k, slot := { x with w0 := slotReset.w0, w1 := slotReset.w1 }, rows := [], side := 0#16384 }

/-- The checksum and column state of a bank in its image (R377; DESIGN CHOICE, log entry 25): per row the sums, then kind and
block count; per column the sums and the block counts, and whether the state is invalid. -/
def TaskImg.bankTail (i : TaskImg) (b : Nat) : List Byte :=
  let rows := (upTo 0 128).map fun r => SMap.get accReset i.rows (128 * b + r)
  let col := SMap.get colReset i.cols b
  wordsOf 8 (rows.map fun x => x.c.toNat + x.mag.toNat <<< 32) ++
  ((indexed rows).flatMap fun x =>
    bytesOfNat 4 (b2n x.2.isInt + (if x.1 = 0 then b2n col.invalid <<< 1 else 0) + (x.2.nb % 2 ^ 16) <<< 16)) ++
  bytesOfNat 1024 col.c.toNat ++ bytesOfNat 1024 col.mag.toNat ++
  wordsOf 2 ((elems 32 256 col.nb.toNat).map (· % 2 ^ 16))

/-- Where the save area of the class full holds a slot (R377): in the image of the launch's task on the slot's core, whoever of the
launch owns it. DESIGN CHOICE: log entry 25. -/
def Launch.slotAt (l : Launch) (x : SlotImg) : Nat :=
  l.imageAt (((l.tasks.find? fun t => t.core == x.core).map (·.rank)).getD x.slot.rank) + 0x880000 + 0x11000 * x.k

/-- The state of a slot in one word: its state, takeable and hidden bits, its task and its binding (R377; DESIGN CHOICE, log entry 25). -/
def Slot.word (x : Slot) : Nat :=
  (match x.st with | .free => 0 | .owned => 1 | .offered => 2) + b2n x.takeable <<< 2 + b2n x.hidden <<< 3 +
    (x.rank % 2 ^ 16) <<< 16 + (match x.lux with | some r => r.toNat <<< 32 + 1 <<< 48 | none => 0)

/-- A slot's part of the save area of the class full (R377). -/
def SlotImg.parts (x : SlotImg) : List (Nat × List Byte) :=
  ((indexed x.rows).map fun r => (256 * r.1, bytesOfNat 256 r.2.toNat)) ++
  [(0x10000, wordsOf 8 [x.slot.w0.toNat, x.slot.w1.toNat, x.slot.record, x.slot.word]), (0x10800, bytesOfNat 2048 x.side.toNat)]

/-- The parts of a task image of the class full: stationary buffers and banks (R377). -/
def Launch.fullParts (i : TaskImg) : List (Nat × List Byte) :=
  ((indexed i.w.toList).flatMap fun b => match b.2 with
    | some d => (indexed d.rows).map fun r => (0x20000 + 0x10000 * b.1 + 256 * r.1, bytesOfNat 256 r.2.toNat)
    | none => []) ++
  (i.banks.flatMap fun b => ((upTo 0 128).map fun r =>
    (0x40000 + 0x21000 * b + 1024 * r, bytesOfNat 1024 (SMap.get accReset i.rows (128 * b + r)).data.toNat)) ++
    [(0x40000 + 0x21000 * b + 0x20000, i.bankTail b)])

/-- Parts written one place after another, each at its address and for its rank; the first failure with its rank (R379). -/
def State.putAll (s : State) (sp : Nat) (l : List (Nat × Nat × List (Nat × List Byte))) : Option (Nat × Cause) × State :=
  l.foldl (fun acc x =>
    match acc.1 with
    | some e => (some e, acc.2)
    | none => let p := acc.2.putParts sp x.2.1 x.2.2; (p.1.map fun c => (x.1, c), p.2)) (none, s)

/-- Saved tasks of a launch end with it (R246, R260): their captured results arrive unless `quiet`, and what they still
hold is released. -/
def State.endSaved (s : State) (lid : Nat) (quiet : Bool) : State :=
  match s.launch? lid with
  | none => s
  | some l =>
    let ts := l.tasks.filter fun t => t.saved && !t.ended
    let s1 := ts.foldl (fun s t =>
      let s1 := match l.images.find? fun i => i.rank == t.rank with
        | some i => if quiet then s else i.pl.pending.foldl (fun s f => s.arrive f.arr [] 0) s
        | none => s
      if l.saved then s1
      else
        let own := savedOwner lid t.plane
        let s2 := s1.modCore t.core fun co =>
          { co.reown own 0 with bands := co.bands.filter fun b =>
              !(b.lid == lid && SMap.get 0 co.bank (b.row / 128) == own) }
        s2.freeOwned lid t.rank) s
    (s1.modLaunch lid fun l =>
      { l with tasks := l.tasks.map fun t => if t.saved then { t with ended := true, saved := false } else t,
               images := [], slots := [] }).barsAdvance

/-- Once every task of a launch is saved, or has ended, and no command names its windows: the header written, banks and
slots saved or declared dead, and released (R375, R376). DESIGN CHOICE: log entry 64. -/
def State.release (s : State) (lid : Nat) : State :=
  match s.launch? lid with
  | none => s
  | some l =>
    if l.saved ∨ l.status ≠ 0 ∨ l.tasks.any (fun t => !t.saved && !t.ended) ∨ l.tasks.all (fun t => !t.saved) ∨ s.windowCmds lid
    then s
    else
      let full := recClass l.rc = 1
      let slots := s.boxes.flatMap fun b =>
        (b.co.slots.filter fun x => x.2.lid == lid && x.2.st != .free).map fun x => s.slotImg full b.co.id x.1
      let imgs := l.images.map fun i =>
        let co := s.core (l.coreOf i.rank)
        let own := savedOwner lid l.pset
        let bs := co.banksOf own
        { i with
          banks := bs, bands := co.bands.filter fun b => b.lid == lid && bs.contains (b.row / 128),
          rows := if full then co.acc.filter fun x => bs.contains (x.1 / 128) else [],
          cols := if full then co.cols.filter fun x => bs.contains x.1 else [] }
      let l1 := { l with images := imgs, slots := slots, saved := true }
      let r := s.putAll l.q ((0, recSave l.rc, [(0, l1.header s.dv slots)]) ::
        (if full then (imgs.map fun i => (i.rank, l.imageAt i.rank, Launch.fullParts i)) ++
          slots.map fun x => (x.slot.rank, l.slotAt x, x.parts) else []))
      match r.1 with
      | some (rank, c) => r.2.saveFailed lid rank c
      | none =>
        let s1 := r.2.modLaunch lid fun _ => l1
        let s2 := imgs.foldl (fun s i => s.modCore (l.coreOf i.rank) fun co =>
          { co.reown (savedOwner lid l.pset) 0 with bands := co.bands.filter fun b => !i.bands.contains b }) s1
        s2.freeSlots fun _ _ x => x.lid == lid && x.st != .free

/-- Whether a communication phase of a launch has begun: every live member of its domain has issued SSTEP (R232, R374). -/
def State.phaseBegun (s : State) (lid : Nat) : Bool :=
  s.dv.steps.any fun x =>
    let ms := s.members x.grp x.own x.level x.inst
    let live := ms.filter (·.2.2)
    (ms.any fun m => m.1 == lid) && !live.isEmpty && (live.all fun m => x.marks.contains (m.1, m.2.1)) &&
      s.complete x.grp x.own ms.length

/-- TASK_SAVE (R374, R375): a pre-empted task at a safe point is saved and its plane becomes empty; a communication phase that has begun
comes first. -/
def State.saveTask (s : State) (c p : Nat) : State :=
  let pl := s.plane c p
  match s.launch? pl.lid with
  | none => s
  | some l =>
    if !l.preempt ∨ l.status ≠ 0 ∨ !pl.live ∨ !pl.savable ∨ s.phaseBegun pl.lid then s
    else
      let i := pl.image
      let co := s.core c
      let full := recClass l.rc = 1
      let img : TaskImg :=
        { rank := pl.rank, pl := i, banks := [], bands := [], rows := [], cols := [],
          wprop := if full then co.wprop else Vector.replicate 2 none, w := if full then co.w else Vector.replicate 2 none }
      let bands := co.bands.filter fun b => b.lid == pl.lid && co.bankOf (b.row / 128) == some p
      let w := s.putParts l.q (l.imageAt pl.rank) (i.imageParts c bands img.wprop img.w)
      match w.1 with
      | some k => (w.2.saveFailed pl.lid pl.rank k).endTask c p none false
      | none =>
        let s1 := w.2.modLaunch pl.lid fun l =>
          { l with images := l.images ++ [img],
                   tasks := l.tasks.map fun t => if t.rank = pl.rank then { t with saved := true } else t }
        let s2 := (s1.modCore c fun co => co.reown (p + 1) (savedOwner pl.lid p)).modPlane c p Plane.cleared
        s2.release pl.lid

/-! ### Restoring (R376, R378, R379) -/

/-- Whether everything a saved launch returns to is free. -/
def State.restorable (s : State) (l : Launch) : Bool :=
  (l.images.all fun i =>
    let c := l.coreOf i.rank
    s.planeFree c l.pset && i.banks.all fun b => ((s.core c).bankOf b).isNone) &&
  l.slots.all fun x => ((s.core x.core).slot x.k).st == .free

/-- Bytes of a save area as one number (R379). -/
def State.areaNat (s : State) (sp a n : Nat) : Except Cause Nat × State :=
  let r := s.areaRead sp (n / 65536 + 2) a n
  (r.1.map natOfBytes, r.2)

/-- The destination that a descriptor names (R370); one the model holds apart from s0 stays so. -/
def Dest.ofDescr (old : Dest) (kind n : Nat) : Dest :=
  if old.descr = (kind, n) then old
  else match kind with
    | 0 => .sreg (BitVec.ofNat 5 n)
    | 1 => .pred n
    | 2 => .scale n
    | 3 => if n = 0x20 then .mq else .vq n
    | _ => old

/-- A captured result as its descriptor and its data in a task image give it (R370). -/
def Flight.fromImage (f : Flight) (x i : Nat) : Flight :=
  let d := bitsOf x (8 * (0xC00 + 16 * i)) 128
  let kind := bitsOf d 0 4
  let dest := f.dest.ofDescr kind (bitsOf d 4 8)
  { f with due := bitsOf d 12 12, flags := BitVec.ofNat 5 (bitsOf d 24 5), dest := dest,
           val := match kind with
             | 0 => BitVec.ofNat 2048 (bitsOf d 64 64)
             | 2 => scaleVal (bitsOf d 64 64)
             | _ => BitVec.ofNat 2048 (bitsOf x (8 * (0x10000 + 256 * i)) (8 * dest.bytes)),
           tag := if kind = 3 then BitVec.ofNat 24 (bitsOf d 64 24) else f.tag }

/-- `n` entries of `w` bytes each of an image, as numbers. -/
def fieldsAt (x off w n : Nat) : List Nat := (upTo 0 n).map fun i => bitsOf x (8 * (off + w * i)) (8 * w)

/-- A plane with the sequencer's block and the counts of its image (R377). -/
def Plane.seqFrom (p : Plane) (x : Nat) : Plane :=
  let head := fieldsAt x 0 8 7
  let sys := fieldsAt x 0x400 8 14
  let sysN (i : Nat) : Nat := (sys[i]?).getD 0
  let pc := bitsOf x (8 * 0x200) 64
  let loop (y : Nat) : Loop :=
    ⟨BitVec.ofNat 32 (bitsOf y 0 32), BitVec.ofNat 32 (bitsOf y 32 32), BitVec.ofNat 32 (bitsOf y 64 32), BitVec.ofNat 12 (bitsOf y 96 12),
     BitVec.ofNat 12 (bitsOf y 108 12), y.testBit 120⟩
  { p with
    tcount := (head[2]?).getD 0, captured := (head[5]?).getD 0,
    seg := BitVec.ofNat 32 (pc >>> 12), bun := BitVec.ofNat 12 pc,
    loops := (fieldsAt x 0x210 16 ((head[3]?).getD 0)).map loop,
    rets := (fieldsAt x 0x300 8 ((head[4]?).getD 0)).map (BitVec.ofNat 44),
    qf := (sysN 0).testBit 0, tbase := BitVec.ofNat 64 (sysN 6), epc := BitVec.ofNat 64 (sysN 7), ecause := BitVec.ofNat 8 (sysN 8),
    edetail := BitVec.ofNat 64 (sysN 9), ereq := BitVec.ofNat 64 (sysN 10), cycle := sysN 12, bcount := sysN 13 }

/-- A plane with the registers of its image (R377): predicates, flags, scales, patterns and rings. -/
def Plane.regsFrom (p : Plane) (x : Nat) : Plane :=
  let pr := fieldsAt x 0x600 32 6
  let ring (y : Nat) : Ring :=
    ⟨BitVec.ofNat 8 (bitsOf y 0 8), BitVec.ofNat 9 (bitsOf y 8 9), BitVec.ofNat 8 (bitsOf y 17 8), BitVec.ofNat 9 (bitsOf y 25 9)⟩
  { p with
    s := Vector.ofFn fun i => BitVec.ofNat 64 (bitsOf x (8 * (0x100 + 8 * i.val)) 64),
    pr := Vector.ofFn fun i =>
      if i.val % 4 = 0 then vget p.pr i.val 0 else BitVec.ofNat 256 ((pr[i.val - 1 - i.val / 4]?).getD 0),
    flags := Vector.ofFn fun i => BitVec.ofNat 16 (bitsOf x (8 * (0x6C0 + 2 * i.val)) 16),
    ks := Vector.ofFn fun i => let w := bitsOf x (8 * (0x6D0 + 8 * i.val)) 64; ⟨BitVec.ofNat 64 w, BitVec.ofNat 32 (scaleRcp (w % 2 ^ 32))⟩,
    xp := Vector.ofFn fun i => BitVec.ofNat 128 (bitsOf x (8 * (0x710 + 16 * i.val)) 128),
    rg := Vector.ofFn fun i => ring (bitsOf x (8 * (0x750 + 5 * i.val)) 40),
    bl := Vector.ofFn fun i => BitVec.ofNat 2048 (bitsOf x (8 * (0x800 + 256 * i.val)) 2048) }

/-- A plane with the queues of its image (R377): their entries with their tags, and xq. -/
def Plane.queuesFrom (p : Plane) (x : Nat) : Plane :=
  let row (off : Nat) : Row := BitVec.ofNat 2048 (bitsOf x (8 * off) 2048)
  let mqTags := (fieldsAt x 0xE000 4 32).takeWhile (·.testBit 31)
  { p with
    xq := (fieldsAt x 0xA00 8 (bitsOf x (8 * 48) 64)).map (BitVec.ofNat 64),
    vq := Vector.ofFn fun q =>
      let y := bitsOf x (8 * (0xA000 + 16 * q.val)) 128
      (upTo 0 (min 4 (bitsOf y 0 8))).map fun e => ⟨row (0x2000 + 1024 * q.val + 256 * e), BitVec.ofNat 24 (bitsOf y (32 + 24 * e) 24)⟩,
    mq := (indexed mqTags).map fun e => ⟨row (0xC000 + 256 * e.1), BitVec.ofNat 24 e.2⟩ }

/-- A saved plane with what its image in memory holds (R370, R377); what no part of it holds, such as the wait of a parked task,
stays. -/
def Plane.fromImage (p : Plane) (x : Nat) : Plane :=
  let q := ((p.seqFrom x).regsFrom x).queuesFrom x
  { q with pending := (indexed (p.pending.take q.captured)).map fun f => f.2.fromImage x f.1 }

/-- The bands of a task's image (R197, R377). -/
def bandsFrom (lid x : Nat) : List Band :=
  ((fieldsAt x 0x778 4 32).filter (·.testBit 29)).map fun y => ⟨bitsOf y 0 13, bitsOf y 13 14, lid, bitsOf y 27 2⟩

/-- The properties of a stationary buffer read from their word (R187, R377). -/
def WProp.fromWord (old : Option WProp) (y : Nat) : Option WProp :=
  if y.testBit 8 then
    some ⟨BitVec.ofNat 4 y, y.testBit 4, y.testBit 5, y.testBit 6, y.testBit 7, (old.map (·.born)).getD 0⟩
  else none

/-- A bank of an image of the class full as its bytes give it: rows, sums, kinds and column state (R377). -/
def TaskImg.bankFrom (i : TaskImg) (b x : Nat) : TaskImg :=
  let t := 0x20000
  let row (m : SMap AccRow) (k : Nat) : SMap AccRow :=
    let old := SMap.get accReset m (128 * b + k)
    let kind := bitsOf x (8 * (t + 1024 + 4 * k)) 32
    SMap.set accReset m (128 * b + k)
      { old with data := BitVec.ofNat 8192 (bitsOf x (8192 * k) 8192), isInt := kind.testBit 0, nb := bitsOf kind 16 16,
                 c := BitVec.ofNat 32 (bitsOf x (8 * (t + 8 * k)) 32), mag := BitVec.ofNat 32 (bitsOf x (8 * (t + 8 * k) + 32) 32) }
  { i with
    rows := (upTo 0 128).foldl row i.rows,
    cols := SMap.set colReset i.cols b
      ⟨(bitsOf x (8 * (t + 1024)) 32).testBit 1, BitVec.ofNat 8192 (bitsOf x (8 * (t + 1536)) 8192),
       BitVec.ofNat 8192 (bitsOf x (8 * (t + 2560)) 8192), BitVec.ofNat 8192 (packs 32 (fieldsAt x (t + 3584) 2 256))⟩ }

/-- The banks of a task image of the class full read back from memory (R377, R378). -/
def State.readBanks (s : State) (sp base : Nat) : List Nat → TaskImg → Except Cause TaskImg × State
  | [], i => (.ok i, s)
  | b :: t, i =>
    let r := s.areaNat sp (base + 0x40000 + 0x21000 * b) 0x21000
    match r.1 with
    | .error c => (.error c, r.2)
    | .ok x => State.readBanks r.2 sp base t (i.bankFrom b x)

/-- A task image read back from the save area (R378, R379); `h` is the launch header. -/
def State.readImage (s : State) (l : Launch) (h : Nat) (i : TaskImg) : Except Cause TaskImg × State :=
  let full := recClass l.rc = 1
  let a := l.imageAt i.rank
  let r := s.areaNat l.q a (if full then 0x40000 else 0x20000)
  match r.1 with
  | .error c => (.error c, r.2)
  | .ok x =>
    let wprop : Vector (Option WProp) 2 := Vector.ofFn fun b =>
      WProp.fromWord (vget i.wprop b.val none) (bitsOf x (8 * (0x40 + 8 * b.val)) 64)
    let w : Vector (Option WData) 2 := Vector.ofFn fun b => (vget i.w b.val none).map fun d =>
      { d with rows := (upTo 0 d.rows.length).map fun k => BitVec.ofNat 2048 (bitsOf x (8 * (0x20000 + 0x10000 * b.val + 256 * k)) 2048),
               cb := BitVec.ofNat 128 (bitsOf x (8 * (0x80 + 16 * b.val)) 128) }
    let mask := bitsOf h (8 * (0x40 + 16 * i.rank)) 64
    let j := { i with pl := i.pl.fromImage x, bands := bandsFrom l.lid x, banks := i.banks.filter mask.testBit,
                      wprop := if full then wprop else i.wprop, w := if full then w else i.w }
    if full then r.2.readBanks l.q a j.banks j else (.ok j, r.2)

/-- A slot's record as its words in the save area give it (R260, R377). -/
def Slot.fromWords (x : Slot) (rec_ y : Nat) : Slot :=
  { x with gen := BitVec.ofNat 16 (bitsOf rec_ 48 16), trank := BitVec.ofNat 8 (bitsOf rec_ 8 8), plane := bitsOf rec_ 6 1,
           core := bitsOf rec_ 0 6, st := (match bitsOf y 0 2 with | 1 => .owned | 2 => .offered | _ => x.st),
           takeable := y.testBit 2, hidden := y.testBit 3, rank := bitsOf y 16 16,
           lux := if y.testBit 48 then some (BitVec.ofNat 16 (bitsOf y 32 16)) else none }

/-- A saved slot of the class full read back: its bytes, its entry, its record and its sidecar (R377, R378). -/
def State.readSlot (s : State) (l : Launch) (x : SlotImg) : Except Cause SlotImg × State :=
  if recClass l.rc ≠ 1 then (.ok x, s)
  else
    let r := s.areaNat l.q (l.slotAt x) 0x11000
    (r.1.map fun n =>
      let at_ (i : Nat) : Nat := bitsOf n (8 * (0x10000 + 8 * i)) 64
      { x with rows := (upTo 0 x.rows.length).map fun k => BitVec.ofNat 2048 (bitsOf n (2048 * k) 2048),
               side := BitVec.ofNat 16384 (bitsOf n (8 * 0x10800) 16384),
               slot := { x.slot.fromWords (at_ 2) (at_ 3) with w0 := BitVec.ofNat 64 (at_ 0), w1 := BitVec.ofNat 64 (at_ 1) } }, r.2)

/-! The launch header written back into the barrier and superstep units (R378). What the units have counted since, from arrivals
delivered to saved tasks, stands: counts only rise. DEDUCED: log entry 25. -/

/-- A barrier of the header merged into its unit. -/
def State.mergeBar (s : State) (lid level inst num phase : Nat) (cnt : List Nat) : State :=
  let b := s.bar (s.barOwner lid level) level inst num
  let put (b : Bar) (y : Nat) : Bar :=
    let c := b.counts lid (bitsOf y 0 16)
    b.put { c with i := max c.i (bitsOf y 16 24), d := max c.d (bitsOf y 40 24) }
  s.setBar (cnt.foldl put { b with phase := max b.phase phase })

/-- The barriers of the header, word by word. -/
def State.mergeBars (lid : Nat) : Nat → List Nat → State → State
  | 0, _, s => s
  | fuel + 1, ws, s =>
    match ws with
    | key :: phase :: t =>
      if key % 256 = 0 then s
      else
        let n := key >>> 24
        State.mergeBars lid fuel (t.drop n) (s.mergeBar lid (bitsOf key 0 8) (bitsOf key 8 8) (bitsOf key 16 8) phase (t.take n))
    | _ => s

/-- The supersteps of the header, word by word: the marks of a step that has not completed since. -/
def State.mergeSteps (lid : Nat) : List Nat → State → State
  | key :: count :: mask :: t, s =>
    if key % 256 = 0 then s
    else
      let x := s.sstep (s.barOwner lid (key % 256)) (key % 256) (bitsOf key 8 8)
      let new := ((upTo 0 64).filter mask.testBit).map fun r => (lid, r)
      State.mergeSteps lid t (s.setSStep
        (if count < x.count then x
         else { x with count := count, marks := x.marks ++ new.filter fun m => !x.marks.contains m }))
  | _, s => s

/-- A list read back one by one; the first failure with the rank it belongs to. -/
def readAll {α : Type} (rank : α → Nat) (f : State → α → Except Cause α × State) : List α → State → Except (Nat × Cause) (List α) × State
  | [], s => (.ok [], s)
  | x :: t, s =>
    let r := f s x
    match r.1 with
    | .error c => (.error (rank x, c), r.2)
    | .ok y => let q := readAll rank f t r.2; (q.1.map (y :: ·), q.2)

/-- A saved launch's area read back (R378, R379): images, slots, and the header, whose bitmaps say which slots come back; the first
failure with its rank. -/
def State.readArea (s : State) (l : Launch) : Except (Nat × Cause) (List TaskImg × List SlotImg × Nat) × State :=
  let h := s.areaNat l.q (recSave l.rc) 0x10000
  match h.1 with
  | .error c => (.error (0, c), h.2)
  | .ok x =>
    let r := readAll TaskImg.rank (fun s i => s.readImage l x i) l.images h.2
    match r.1 with
    | .error c => (.error c, r.2)
    | .ok is =>
      let here (y : SlotImg) : Bool := (bitsOf x (8 * (0x3400 + 32 * y.slot.rank)) 256).testBit y.k
      let q := readAll (fun x : SlotImg => x.slot.rank) (fun s x => s.readSlot l x) (l.slots.filter here) r.2
      (q.1.map fun sl => (is, sl, x), q.2)

/-- A bank given back (R376). -/
def Core.putBank (c : Core) (full : Bool) (i : TaskImg) (owner b : Nat) : Core :=
  let c1 := { c with bank := SMap.set 0 c.bank b owner }
  let c2 := (upTo (128 * b) 128).foldl (fun c r => c.setAcc r (if full then SMap.get accReset i.rows r else accReset)) c1
  c2.setCol b (if full then SMap.get colReset i.cols b else colReset)

/-- A slot given back: its record exactly, its entry, and its bytes when it was stored (R376). -/
def State.putSlot (s : State) (x : SlotImg) : State :=
  let s1 := s.modCore x.core fun c =>
    ((upTo 0 x.rows.length).zip x.rows).foldl (fun c p => c.setRow (256 * x.k + p.1) p.2) (c.setSlot x.k x.slot)
  s1.setSide (.slot x.core x.k) x.side

/-- A task's plane given back: its captured results land from its first bundle on (R369, R378). A light restore leaves
it no stationary buffer. -/
def Plane.restored (i : Plane) (old : Plane) (born : Nat) : Plane :=
  { i with flight := i.pending.map (fun f => { f with due := i.bcount + f.due - 1 }), pending := [], captured := 0,
           lq := old.lq, sq := old.sq, born := born }

/-- LAUNCH_RESTORE (R376, R378, R379). -/
def State.restore (s : State) (lid : Nat) : State :=
  match s.launch? lid with
  | none => s
  | some l =>
    if s.dv.mg.failed ∨ !l.saved ∨ l.status ≠ 0 ∨ !s.restorable l then s
    else
      let r := s.readArea l
      match r.1 with
      | .error (rank, c) => r.2.saveFailed lid rank c
      | .ok (images, slots, h) =>
        let full := recClass l.rc = 1
        let s0 := State.mergeBars lid 1024 (fieldsAt h 0x1000 8 1024) r.2
        let s1 := slots.foldl State.putSlot (State.mergeSteps lid (fieldsAt h 0x3000 8 128) s0)
        let s2 := images.foldl (fun s i =>
          let c := l.coreOf i.rank
          let n := s.takeId
          let s3 := n.2.modCore c fun co =>
            let co1 := i.banks.foldl (fun co b => co.putBank full i (l.pset + 1) b) co
            { co1 with bands := co1.bands ++ i.bands, wprop := if full then i.wprop else co1.wprop,
                       w := if full then i.w else co1.w }
          let s4 := s3.modPlane c l.pset fun old => i.pl.restored old (if full then i.pl.born else n.1)
          let seg := i.pl.seg.toNat
          if i.pl.enter.isSome then s4
          else
            let q := s4.loadCode c l.pset
            q.modPlane c l.pset fun p => { p with seg := BitVec.ofNat 32 seg, bun := i.pl.bun }) s1
        s2.modLaunch lid fun l =>
          { l with preempt := false, saved := false, images := [], slots := [],
                   tasks := l.tasks.map fun t => { t with saved := false } }

/-- Saved tasks of launches that must end do (R246, R380). -/
def State.sweep (s : State) : State :=
  (s.dv.launches.filter fun l => l.status != 0 && l.tasks.any fun t => t.saved && !t.ended).foldl
    (fun s l => s.endSaved l.lid l.limit) s

end Sys2Proof.Machine
end

