-- ==== Sys2Proof/Machine/Tasks.lean ====
section
/-!
DEFINITION. The dispatcher's events (R221 to R248, R374 to R380, R389), the delivery of arrivals (R229 to R231), the
communication phase (R232, R233) and the updates of job control blocks (R234 to R236).
-/

namespace Sys2Proof.Machine

/-! ### Launch queues and launches -/

/-- ST_WRITE (R389). -/
def execStWrite (q : Nat) (v : BitVec 64) (s : State) : Host.Outcome State Fault Refusal := .next (s.writeSt q v.toNat)

/-- HC_WRITE (R389). -/
def execHcWrite (q : Nat) (v : BitVec 64) (s : State) : Host.Outcome State Fault Refusal := .next (s.writeHc q v.toNat)

/-- LAUNCH_RECORD_READ (R222, R239). -/
def execLaunchRecordRead (q : Nat) (s : State) : Host.Outcome State Fault Refusal := .next (s.readRecord q)

/-- LAUNCH_PLACE (R221, R241 to R244); planes or banks that a saved launch waits for may be taken. -/
def execLaunchPlace (s : State) : Host.Outcome State Fault Refusal := .next s.place1

/-- AGING_TICK (R241): an eligible head spends a full aging limit. -/
def execAgingTick (q : Nat) (s : State) : Host.Outcome State Fault Refusal :=
  let x := s.dv.queue q
  let ages := match x.head with | some rc => recAge rc ≠ 0 && recPrio rc ≠ 3 && s.eligible q | none => false
  .next (if ages then s.modDev fun d => d.modQueue q fun x => { x with raised := x.raised + 1 } else s)

/-- TASK_SAVE (R375). -/
def execTaskSave (c p : Nat) (s : State) : Host.Outcome State Fault Refusal :=
  .next (if s.dv.mg.failed then s else s.saveTask c p)

/-- LAUNCH_RESTORE (R378). A release that waited for commands is made first (R376). -/
def execLaunchRestore (lid : Nat) (s : State) : Host.Outcome State Fault Refusal :=
  .next (match s.launch? lid with
    | some l => if l.saved then s.restore lid else if s.dv.mg.failed then s else s.release lid
    | none => s)

/-- LAUNCH_COMPLETE (R245). -/
def execLaunchComplete (lid : Nat) (s : State) : Host.Outcome State Fault Refusal := .next (s.completeLaunch lid)

/-- FAULT_ACK (R245): a held completion is written again. -/
def execFaultAck (q : Nat) (s : State) : Host.Outcome State Fault Refusal :=
  .next (if 16 ≤ q ∨ s.dv.mg.failed then s
    else (s.modDev fun d => d.modQueue q fun x => { x with heldRec := false }).flush q (2 ^ 16 + 1))

/-- DEPENDENCE_WATCHDOG (R247): a head whose dependences are incomplete completes with status 3. -/
def execDependenceWatchdog (q : Nat) (s : State) : Host.Outcome State Fault Refusal :=
  .next (match (s.dv.queue q).head with
    | some rc =>
      if s.dv.mg.failed ∨ (recDeps rc).all (s.depDone q) then s else s.dismiss q rc 3 ⟨0x3F#8, 0#64⟩
    | none => s)

/-- RUN_WATCHDOG (R247, R380). -/
def execRunWatchdog (lid : Nat) (s : State) : Host.Outcome State Fault Refusal :=
  .next (if s.dv.mg.failed then s else s.runLimit lid)

/-- DISPATCHER_FAILOVER (R239): the standby on die 1 goes on from DH, CH and the state of the placed launches. -/
def execDispatcherFailover (s : State) : Host.Outcome State Fault Refusal :=
  .next (s.modDev fun d => { d with mg := { d.mg with dispDie := 1 } })

/-! ### Arrivals (R229 to R231) -/

/-- Whether stores have left every queue and are visible at a level. -/
def State.storesSeen (s : State) (l : List Nat) (level : Nat) : Bool :=
  l.all fun i => (s.boxes.all fun b => (b.pl.sq ++ b.co.shadow.sq).all fun q => q.id != i) && s.dv.visible i level

/-- A delivered arrival (R229, R230): D rises, and the phase while every live member has delivered past it. An arrival
that would bring D − P to 256 ends the launch instead. DEDUCED: log entry 82. -/
def State.delivered (s : State) (o : Owed) : State :=
  match s.launch? o.lid with
  | none => s
  | some _ =>
    let b := s.bar (s.barOwner o.lid o.level) o.level (s.barInst o.lid o.rank o.level) o.num
    let c := b.counts o.lid o.rank
    if 256 ≤ c.d + 1 - b.phase then s.stopLaunch o.lid 5 none
    else s.setBar (s.barAdvance (b.put { c with d := c.d + 1 }))

/-- Arrivals that wait for no store are delivered at their retire points (R230). DEDUCED: log entry 32. -/
def State.deliverDone (s : State) : State :=
  (s.dv.arrQ.filter fun a => a.stores.isEmpty).foldl (fun s a => s.delivered a.owed)
    (s.modDev fun d => { d with arrQ := d.arrQ.filter fun a => !a.stores.isEmpty })

/-- ARRIVAL_DELIVER (R230, R231): the stores an arrival follows are visible at its level. -/
def execArrivalDeliver (i : Nat) (s : State) : Host.Outcome State Fault Refusal :=
  .next (match s.dv.arrQ[i]? with
    | none => s
    | some a =>
      if s.storesSeen a.stores a.level then
        ((s.modDev fun d => { d with arrQ := dropAt d.arrQ i }).delivered a.owed).wake
      else s)

/-! ### The communication phase (R232, R233, R308, R356) -/

/-- Whether a far store of a phase's members, their phase-bound copies' among them, is not yet visible at its level (R233). -/
def phaseStore (ms : List (Nat × Nat)) (level : Nat) (f : Far) : Bool := decide (f.level < level) && ms.contains (f.lid, f.rank)

/-- Whether steps 1 and 2 of a phase are over for its members: no phase-bound command and no merge of theirs is left, their
stores have left their queues, and every write is visible at the level (R232, R233, R327). -/
def State.phaseQuiet (s : State) (ms : List (Nat × Nat)) (level : Nat) : Bool :=
  (s.boxes.all fun b => b.co.ch.toList.all fun l => l.all fun c => !(c.pb && ms.contains (c.lid, c.rank))) &&
  (s.boxes.all fun b => (b.pl.sq ++ b.co.shadow.sq).all fun q => !ms.contains (q.lid, q.rank) ||
    match q.kind with | .stf _ _ _ _ _ => false | .mark => true | .fence _ => true | .cmds _ => true) &&
  (s.dv.far.all fun f => !phaseStore ms level f) &&
  s.dv.luxQ.all fun r => match r.op with
    | .merge _ => !ms.contains (r.lid, r.rank)
    | .clear _ => true
    | .seal => true
    | .read _ _ _ _ _ _ => true

/-- cost.next of a tagged tensor one lower; at 1 the unit begins to recall an offloaded tensor (R356). -/
def State.lowerNext (s : State) (sp i : Nat) : State :=
  match s.dv.desc sp i with
  | none => s
  | some x =>
    let n := descF x 0x28 48 16
    if n = 0 then s
    else
      let s1 := s.modDev fun d => d.putDesc sp i 0x2E 2 (n - 1)
      if n = 2 ∧ (resState x = 1 ∨ resState x = 2) ∧ !resBusy x then
        s1.modDev fun d =>
          { d.setRes sp i (mkRes (resState x) true (descF x 0x38 52 9) (descF x 0x38 0 36)) with
            moves := d.moves ++ [⟨sp, i, true, resState x, descF x 0x38 52 9, descF x 0x38 0 36, [], none⟩] }
      else s1

/-- The address spaces of some launches' tasks. -/
def State.spacesOf (s : State) (ms : List (Nat × Nat)) : List Nat :=
  ((s.dv.launches.filter fun l => ms.any fun m => m.1 == l.lid).map (·.q)).eraseDups

/-- COMMUNICATION_PHASE of a domain (R232): once every live member has issued SSTEP and steps 1 and 2 are over, the
members' dirty tiles settle, their records are sealed, the count rises and the members go on. -/
def State.phase (s : State) (lid level inst : Nat) : State :=
  let o := s.barOwner lid level
  let all := s.members o.1 o.2 level inst
  let x := s.sstep o level inst
  let live := all.filter (·.2.2)
  let ms := all.map fun m => (m.1, m.2.1)
  if live.isEmpty || !(live.all fun m => x.marks.contains (m.1, m.2.1)) || !s.complete o.1 o.2 all.length ||
      !s.phaseQuiet ms level then s
  else
    let dirty := (s.dv.dirty.toList.flatten).filter fun d => d.tags.any ms.contains
    let s1 := dirty.foldl (fun s d => s.settleRef d.sp d.ref) s
    let mine (m : Nat × Nat × Nat × Nat) : Bool := m.2.2.2 == level && ms.contains (m.2.1, m.2.2.1)
    let recs := ((s1.dv.merged.filter mine).map (·.1)).eraseDups
    let s2 := s1.modDev fun d =>
      { recs.foldl (fun d r => d.setLux r (luxSeal (d.luxRec r) level (x.count + 1))) d with
        merged := d.merged.filter fun m => !mine m }
    let s3 := s2.setSStep { x with count := x.count + 1, marks := [] }
    let s4 :=
      if 3 ≤ level then
        (s3.spacesOf ms).foldl (fun s sp =>
          (upTo 0 (SMap.get (0, 0) s.dv.descs sp).2).foldl (fun s i => s.lowerNext sp i) s) s3
      else s3
    s4.wake

/-- COMMUNICATION_PHASE (R232). -/
def execCommunicationPhase (lid level inst : Nat) (s : State) : Host.Outcome State Fault Refusal :=
  .next (if s.dv.mg.failed then s else s.phase lid level inst)

/-! ### Job control blocks (R234 to R236) -/

/-- JCB_APPLY (R235): no earlier request of the same task to the block waits, and the stores it releases are visible at
the device domain. -/
def execJcbApply (i : Nat) (s : State) : Host.Outcome State Fault Refusal :=
  .next (match s.dv.jcbQ[i]? with
    | none => s
    | some r =>
      if (s.dv.jcbQ.take i).any (fun e => e.pa == r.pa && e.lid == r.lid && e.rank == r.rank) ||
          !s.storesSeen r.stores 3 then s
      else (s.modDev fun d => { d with jcbQ := dropAt d.jcbQ i }).applyJcb r)

end Sys2Proof.Machine
end

