-- ==== Sys2Proof/Machine/Order.lean ====
section
/-!
DEFINITION. Events of translation, channels, offers, frames, tile sums and Lux records (R256 to R264, R280, R296, R306,
R307), and the steps of the ordering machine (R316 to R326, R342, R350 to R356).
-/

namespace Sys2Proof.Machine

/-! ### Translation and channel holds (R256, R257, R259) -/

/-- TRANSLATION_WALK (R256, R257). -/
def execTranslationWalk (die sp va : Nat) (write fetch : Bool) (s : State) : Host.Outcome State Fault Refusal :=
  .next (if die < 2 ∧ sp < 16 then { s with dv := (s.dv.xlate die none sp write fetch va).2 } else s)

/-- TRANSLATION_INVALIDATE (R257): cached translations that meet the range `lo` to `hi − 1` of a space go. -/
def execTranslationInvalidate (sp lo hi : Nat) (s : State) : Host.Outcome State Fault Refusal :=
  .next (s.modDev fun d =>
    { d with tcache := d.tcache.filter fun t => !(t.space == sp && decide (t.va < hi) && decide (lo < t.va + t.size)) })

/-- CHANNEL_REPLAY (R259). -/
def execChannelReplay (c ch : Nat) (s : State) : Host.Outcome State Fault Refusal := .next (s.replayCmd c ch)

/-- CHANNEL_ABORT (R259). -/
def execChannelAbort (c ch : Nat) (s : State) : Host.Outcome State Fault Refusal := .next (s.abortCmd c ch)

/-! ### Offers (R262 to R264) -/

/-- Whether an M-slot instruction of a plane may still touch slot `k`: a tile it reads, or a place of a ring that it will
publish on (R215). -/
def MEnt.touches (p : Plane) (e : MEnt) (k : Nat) : Bool :=
  let places (n : Nat) : Bool := let r := p.ring n; r.base.toNat ≤ k && k < r.base.toNat + r.size.toNat
  e.open_ && (e.reads.any (fun t => t.slot == k) ||
    match e.ins with
    | .mcond _ => places (bitsOf e.y.toNat 16 3) || places (bitsOf e.y.toNat 24 3)
    | _ => false)

/-- Whether operations that an offerer issued earlier may still touch its slot (R263). -/
def State.slotBusy (s : State) (c k : Nat) (x : Slot) : Bool :=
  s.cmdTouches x.lid x.rank c k ||
  let p := s.plane c x.plane
  p.lid == x.lid && p.rank == x.rank && p.m.any fun e => e.touches p k

/-- OFFER_TAKEABLE (R263). -/
def execOfferTakeable (c slot : Nat) (s : State) : Host.Outcome State Fault Refusal :=
  let x := (s.core c).slot slot
  .next (if x.st = .offered ∧ !x.takeable ∧ !s.slotBusy c slot x then
      (s.modCore c fun co => co.setSlot slot { x with takeable := true, arr := none }).arrive x.arr [] 0
    else s)

/-- Result code of an XTAKE request (R264). -/
def XtReq.code (r : XtReq) (x : Slot) : Nat :=
  if r.free then
    if r.core ≠ r.icore then 5
    else match x.st with | .free => 0 | .owned => 2 | .offered => 4
  else if x.gen ≠ r.gen then 3
  else match x.st with
    | .free => 2
    | .owned => 2
    | .offered =>
      if x.lid = r.lid ∧ x.rank = r.rank then 0
      else if x.lid = r.lid ∧ x.trank.toNat = r.rank % 256 then (if x.takeable then 0 else 1)
      else 4

/-- A slot as a successful XTAKE leaves it: owned, and not seen so before the landing (R264). -/
def XtReq.take (r : XtReq) (x : Slot) : Slot :=
  { x with st := .owned, gen := x.gen + 1#16, core := r.icore, plane := r.iplane, lid := r.lid, rank := r.rank,
           hidden := true, takeable := false, arr := none }

/-- A request applied at the slot's core (R264): none of an ended task. A revoked offer's arrival is made (DEDUCED, log entry 54). -/
def State.xtApply (s : State) (r : XtReq) : State :=
  if !s.alive r.lid r.rank then s
  else
    let x := (s.core r.core).slot r.slot
    let k := r.code x
    let s1 := (s.fixData r.icore r.iplane r.fid (BitVec.ofNat 2048 k)).modPlane r.icore r.iplane fun p =>
      p.modFlight r.fid fun f => if k = 0 then { f with take := some (r.core, r.slot) } else f
    if k = 0 then (s1.modCore r.core fun co => co.setSlot r.slot (r.take x)).arrive x.arr [] 0 else s1

/-- XTAKE_APPLY (R264). -/
def execXtakeApply (i : Nat) (s : State) : Host.Outcome State Fault Refusal :=
  .next (match s.dv.xtQ[i]? with
    | none => s
    | some r => (s.modDev fun d => { d with xtQ := dropAt d.xtQ i }).xtApply r)

/-! ### Frames, moves and tile checks (R280, R296, R356) -/

/-- Whether an access that sampled a frame has not completed: a far load or store in its queue, a store not yet visible
at the device domain, or a block request (R280). DEDUCED: log entry 94. -/
def State.frameBusy (s : State) (f : Nat) : Bool :=
  let hit (pa : Nat) : Bool := pa / 65536 == f
  let inPlane (p : Plane) : Bool :=
    (p.lq.any fun e => !e.mark && e.sym.isNone && hit e.pa) ||
    (p.sq.any fun e => match e.kind with | .stf pa _ _ _ _ => hit pa | .mark => false | .fence _ => false | .cmds _ => false) ||
    (match p.wait with | some (.jcb pa) => hit pa | _ => false)
  (s.boxes.any fun b => inPlane b.pl || inPlane b.co.shadow) || (s.dv.far.any fun x => hit x.addr && x.level < 3) ||
  s.dv.jcbQ.any fun r => hit r.pa && match r.op with | .add _ _ | .done _ _ _ | .query _ _ _ => true | .queryRow _ _ _ _ => false

/-- FRAME_RETURN (R280). -/
def execFrameReturn (i : Nat) (s : State) : Host.Outcome State Fault Refusal :=
  .next (match s.dv.release[i]? with
    | none => s
    | some (die, f) =>
      if s.frameBusy f then s
      else s.modDev fun d =>
        { d with release := dropAt d.release i, pool := vput d.pool die (vget d.pool die [] ++ [f]) })

/-- OFFLOAD_DONE (R356). -/
def execOffloadDone (i : Nat) (s : State) : Host.Outcome State Fault Refusal := .next (s.endOffload i)

/-- RESIDENCY_RECALL_DONE (R356). -/
def execResidencyRecallDone (i : Nat) (s : State) : Host.Outcome State Fault Refusal := .next (s.endRecall i)

/-- TILE_CHECK_RETRY (R296, R297): the whole-tile check of a STORED tile. -/
def execTileCheckRetry (sp : Nat) (ref : BitVec 64) (s : State) : Host.Outcome State Fault Refusal :=
  .next (match s.refLoc sp ref with
    | .error _ => s
    | .ok l =>
      let e := s.entry l
      if entKind e.1 = 1 then (s.checkTile (storeOf l e.1) l.fmt l.ref).2 else s)

/-! ### Lux records (R306 to R308, R313, R314) -/

/-- A field of a section, by its code (R313). -/
def luxField (x : BitVec 2048) (code bin : Nat) : Nat :=
  match code with
  | 0 => luxF x 0 32
  | 1 => luxF x 4 32
  | 2 => luxF x 8 64
  | 3 => luxF x 16 64
  | 4 => luxF x 24 32
  | 5 => luxF x 28 32
  | 6 => luxF x 0xE0 64
  | 7 => luxF x 0xE8 64
  | _ => luxF x (0x20 + 4 * bin) 32

/-- A request applied at a record's home. -/
def State.luxApply (s : State) (r : LuxReq) : State :=
  let x := s.dv.luxRec r.rec_.toNat
  let put (y : Lux) : State := s.modDev fun d => d.setLux r.rec_.toNat y
  match r.op with
  | .merge p =>
    let marks := (upTo 1 4).map fun lv => (r.rec_.toNat, r.lid, r.rank, lv)
    (put ⟨luxMerge x.live p, x.sealed⟩).modDev fun d =>
      { d with merged := d.merged ++ marks.filter fun m => !d.merged.contains m }
  | .clear sel =>
    (put ⟨if sel.getLsbD 0 then luxClear x.live else x.live, if sel.getLsbD 1 then luxReset else x.sealed⟩).arrive r.arr [] 0
  | .seal => (put (luxSeal x 0 (luxF x.sealed 0xE0 48 + 1))).arrive r.arr [] 0
  | .read sealed code bin c p fid =>
    (s.fixData c p fid (BitVec.ofNat 2048 (luxField (if sealed then x.sealed else x.live) code bin))).arrive r.arr [] 0

/-- Whether a far store of this number waits in a store queue. -/
def State.inSq (s : State) (id : Nat) : Bool := s.boxes.any fun b => (b.pl.sq ++ b.co.shadow.sq).any fun q => q.id == id

/-- Whether a request's store is one whose merge comes before another request (R307). -/
def LuxReq.before (a b : LuxReq) : Bool := a.store != 0 && b.after.contains a.store && a.rec_ == b.rec_ && a.lid == b.lid && a.rank == b.rank

/-- LUX_MERGE_APPLY (R306, R307): a request applied, no earlier one of its task to the record being left, but for one that its
own merge comes before; nor a store, in the SQ or as a merge on its way, whose merge comes before it. -/
def execLuxMergeApply (i : Nat) (s : State) : Host.Outcome State Fault Refusal :=
  .next (match s.dv.luxQ[i]? with
    | none => s
    | some r =>
      if ((s.dv.luxQ.take i).any fun e => e.rec_ == r.rec_ && e.lid == r.lid && e.rank == r.rank && !r.before e) ||
          (s.dv.luxQ.any fun e => e.before r) || r.after.any s.inSq then s
      else (s.modDev fun d => { d with luxQ := dropAt d.luxQ i }).luxApply r)

/-! ### Far queues (R298, R316, R321 to R323, R371) -/

/-- A deferred cause at the landing of an awaited result (R365): by task count, or by the handler's bundles. -/
def Plane.deferFlight (p : Plane) (fid : Nat) (c : Cause) : Plane :=
  match p.flight.find? fun f => f.id == fid with
  | some f =>
    let req := reqId f.slot f.issued
    if p.intrap then { p with hdefer := p.hdefer ++ [⟨c, f.due, req⟩] }
    else { p with deferred := p.deferred ++ [⟨c, p.tcount + (f.due - p.bcount), req⟩] }
  | none =>
    match p.pending.find? fun f => f.id == fid with
    | some f => { p with deferred := p.deferred ++ [⟨c, p.tcount + (f.due - 1), reqId f.slot f.issued⟩] }
    | none => p

/-- A row with the 32-byte sectors that meet a test zeroed. -/
def zeroSectors (r : Row) (bad : Nat → Bool) : Row :=
  (upTo 0 8).foldl (fun (r : Row) i => if bad i then BitVec.ofNat 2048 (bitsPut r.toNat (256 * i) 256 0) else r) r

/-- What a far load of memory reads (R296, R298, R316, R371): the failing sectors land as zero bytes; a symbolic tile that repeats a
frame is not checked. -/
def State.farMem (s0 : State) (c : Nat) (e : LqEnt) : Row × Option Cause × State :=
  let s := s0.scrub e.pa 256
  let bad (i : Nat) : Bool := e.pa < 2 ^ 40 && s.dv.badSect.contains (e.pa / 32 + i)
  match (upTo 0 8).find? bad with
  | some i =>
    (zeroSectors (s.paRow c e.pa) bad, some ⟨0x22#8, BitVec.ofNat 64 (e.pa + 32 * i)⟩, s.logErr (homeDie e.pa) 4 0#64)
  | none =>
    match e.ref with
    | none => s.memRow c 0 e.pa none true 0 256
    | some (sp, ref) =>
      match s.refLoc sp ref with
      | .ok l => s.memRow c 0 e.pa (some l) (entKind (s.entry l).1 = 1) 0 256
      | .error _ => (s.paRow c e.pa, none, s)

/-- What a far load reads (R276, R298, R316, R342, R371): the row, a cause for its landing, and the state after the checks. A view is
read now: from the die's cache, which a miss fills, or it fails as its base does. -/
def State.farRow (s : State) (c : Nat) (e : LqEnt) : Row × Option Cause × State :=
  match e.sym, e.view with
  | some r, _ => (r, none, s)
  | none, some (n, v, off) =>
    let die := dieOf c
    let t := off / 65536
    if s.dv.vcache.any fun x => x.die == die && x.view == n && x.tile == t then (s.viewRead die n v off, none, s)
    else match s.viewFault v t with
      | some k => (0#2048, some k, s)
      | none => let s1 := s.viewFill die n v t; (s1.viewRead die n v off, none, s1)
  | none, none => s.farMem c e

/-- Marks at the head of the LQ whose SQ entry has left go (R323). -/
def Plane.stripMarks (p : Plane) : Plane :=
  { p with lq := p.lq.dropWhile fun e => e.mark && p.sq.all fun q => q.id != e.id }

/-- The LQ head performs unless a mark holds it (R321, R323). -/
def State.lqPerform (s : State) (c p : Nat) : State :=
  match (s.plane c p).lq with
  | [] => s
  | e :: t =>
    if e.mark then s.modPlane c p Plane.stripMarks
    else
      let r := s.farRow c e
      let s1 := r.2.2.fixData c p e.fid r.1
      s1.modPlane c p fun q =>
        let q1 := { q with lq := t }.stripMarks
        match r.2.1 with | some k => q1.deferFlight e.fid k | none => q1

/-- LQ_PERFORM (R321). -/
def execLqPerform (c p : Nat) (s : State) : Host.Outcome State Fault Refusal := .next (s.lqPerform c p)

/-- Whether a mark holds a store behind it: a load ahead of the mark has not performed (R323). -/
def markHolds (id : Nat) : List LqEnt → Bool → Bool
  | [], _ => false
  | e :: t, ahead => if e.mark then (ahead && decide (e.id < id)) || markHolds id t ahead else markHolds id t true

/-- A far store performed: a coherence position at every sector, visible at the core's domain, its merge for the binding that it
sampled, with no second check of the old row (R294, R299, R312, R321, R371). DEDUCED: log entry 51. -/
def State.farStore (s : State) (c p : Nat) (e : SqEnt) (pa : Nat) (data : Row) (sp : Nat) (ref : Option Word)
    (lux : Option (BitVec 16)) : State :=
  let l := match ref with
    | none => none
    | some r => match s.refLoc sp r with
      | .ok l => let w0 := (s.entry l).1; if entKind w0 = 1 ∧ entFrame w0 = pa / 65536 then some { l with lux := lux } else none
      | .error _ => none
  let w : Wr := ⟨c, 0, e.id, false, e.lid, e.rank, false⟩
  let s1 := ((s.putBits false w pa l 0 256 (spanMask 0 256) fun _ => data).2).heal pa 256 l
  (s1.modDev fun d =>
    { d.forgetGens e.id with far := d.far.map fun f => if f.id = e.id then { f with lid := e.lid, rank := e.rank, plane := p } else f }).arrive
      e.arr [e.id] (max 3 ((e.arr.map (·.level)).getD 3))

/-- The SQ head leaves when it may (R321, R323, R325). -/
def State.sqLeave (s : State) (c p : Nat) : State :=
  let q := s.plane c p
  match q.sq with
  | [] => s
  | e :: t =>
    let s1 := s.modPlane c p fun q => { q with sq := t }.stripMarks
    match e.kind with
    | .stf pa data sp ref lux =>
      if markHolds e.id q.lq false then s else (s1.farStore c p e pa data sp ref lux).fenceTick c
    | .mark => s1.arrive e.arr [] 0
    | .fence level =>
      if s.dv.far.all fun f => !(f.core == c && f.plane == p && f.lid != 0) || decide (level ≤ f.level)
      then s1.arrive e.arr [] 0 else s
    | .cmds w => if w.all (s.core c).cmdDone then s1.arrive e.arr [] 0 else s

/-- SQ_LEAVE (R321). -/
def execSqLeave (c p : Nat) (s : State) : Host.Outcome State Fault Refusal := .next (s.sqLeave c p)

/-- SCOPE_PROPAGATE (R322): a far store becomes visible at the next outer domain. -/
def execScopePropagate (i : Nat) (s : State) : Host.Outcome State Fault Refusal :=
  .next (match s.dv.far[i]? with
    | none => s
    | some f =>
      if 4 ≤ f.level then s
      else (s.modDev fun d => Dev.fold { d with far := updAt (fun x => { x with level := x.level + 1 }) d.far i }).fenceTick
        f.core)

/-! ### The scratchpad, engines and channels (R319, R320, R324, R326, R342, R351, R352) -/

/-- VIEW_SEEN_RAISE (R319): view 1 is the swizzled one. -/
def execViewSeenRaise (c row view idx : Nat) (s : State) : Host.Outcome State Fault Refusal :=
  .next (if row < 65536 ∧ view < 2 then s.modCore c fun co => co.raiseView (view == 1) row idx else s)

/-- ENGINE_ACCESS_PERFORM (R320). -/
def execEngineAccessPerform (c i : Nat) (s : State) : Host.Outcome State Fault Refusal := .next (s.performAccess c i)

/-- COMMAND_START (R324, R325): a command starts, or moves its next piece. A failed device has stopped (R382). -/
def execCommandStart (c ch : Nat) (s : State) : Host.Outcome State Fault Refusal :=
  .next (if s.dv.mg.failed then s else s.startCmd c ch)

/-- COMMAND_COMPLETE (R324). -/
def execCommandComplete (c ch : Nat) (s : State) : Host.Outcome State Fault Refusal :=
  .next (if s.dv.mg.failed then s else s.completeCmd c ch)

/-- ATOMIC_APPLY (R326). -/
def execAtomicApply (c ch : Nat) (s : State) : Host.Outcome State Fault Refusal :=
  .next (if s.dv.mg.failed then s else s.applyAtomic c ch)

/-- FABRIC_MESSAGE_ARRIVE (R350, R351): a message of another device takes the oldest matching buffer; one longer than that
buffer is not placed, and the buffer stays posted. -/
def execFabricMessageArrive (src sp tag : Nat) (data : List (BitVec 8)) (s : State) : Host.Outcome State Fault Refusal :=
  .next (if s.dv.mg.failed then s
    else match s.dv.postedFor sp tag with
      | none => s
      | some p =>
        let cap := ((s.cmd? p.core p.ch p.seq).map fun r => bF r.blk 0x18 0 40).getD 0
        if cap < data.length then s else (s.deliver p src data).2)

/-- COLLECTIVE_MATCH (R352, R353). -/
def execCollectiveMatch (lid level inst id : Nat) (s : State) : Host.Outcome State Fault Refusal :=
  .next (if s.dv.mg.failed then s else s.collective lid level inst id)

/-- VIEW_CACHE_FILL (R342). -/
def execViewCacheFill (die view tile : Nat) (s : State) : Host.Outcome State Fault Refusal :=
  .next (match (if die < 2 ∧ view < 64 then s.dv.views.find? (fun v => v.1 == die * 64 + view) else none) with
    | some (_, v) => if tile * 65536 < v.size ∧ (s.viewFault v tile).isNone then s.viewFill die view v tile else s
    | none => s)

end Sys2Proof.Machine
end

