-- ==== Sys2Proof/Machine/JournalEv.lean ====
section
/-!
DEFINITION. Events of the journal controller and of the mirror (R399 to R411).
-/

namespace Sys2Proof.Machine

/-! ### Entries and the local buffer (R401, R403, R404) -/

/-- An entry with its sequence number. -/
def numbered (e : BitVec 512) (seq : Nat) : BitVec 512 := BitVec.ofNat 512 (bitsPut e.toNat 128 64 seq)

/-- An entry as the buffer holds it, not acknowledged. -/
def jEnt (e : BitVec 512) : JEnt := ⟨jStream e, jSeq e, jStep e, e, false⟩

/-- Whether a mirror is named (R399). -/
def Journal.named (j : Journal) : Bool := j.jm.getLsbD 63

/-- The device with its journal changed. -/
def Dev.modJnl (d : Dev) (f : Journal → Journal) : Dev := { d with jnl := f d.jnl }

/-- Whether the buffer frees an entry: acknowledged, and at or below its stream's tstep (R404). -/
def Dev.frees (d : Dev) (e : JEnt) : Bool := e.acked && decide (e.step ≤ (d.stream e.stream).tstep)

/-- Acknowledged entries at or below their stream's tstep leave the buffer (R404). -/
def Dev.freeAcked (d : Dev) : Dev :=
  (d.jnl.buf.filter d.frees).foldl (fun d e =>
    let x := d.stream e.stream
    d.setStream e.stream { x with freed := max x.freed e.step })
    (d.modJnl fun j => { j with buf := j.buf.filter fun e => !d.frees e })

/-- An entry written to the buffer and sent to the mirror (R403). -/
def Journal.write (j : Journal) (e : JEnt) : Journal :=
  { j with buf := j.buf ++ [e], transit := if j.named then j.transit ++ [e.entry] else j.transit }

/-- Waiting entries written in the order of their numbers while the buffer has room; each frees its core (R403). -/
def State.admitWaiting (s : State) : List JWait → State
  | [] => s.modDev fun d => d.modJnl fun j => { j with waiting := [] }
  | w :: t =>
    if s.dv.jnl.buf.length < Config.journalCap then
      State.admitWaiting ((s.modDev fun d => d.modJnl fun j => j.write w.ent).fixNow w.core w.plane w.fid
        (BitVec.ofNat 2048 w.ent.seq)) t
    else s.modDev fun d => d.modJnl fun j => { j with waiting := w :: t }

/-- Room made: waiting entries are written. -/
def State.refill (s : State) : State := s.admitWaiting s.dv.jnl.waiting

/-- The entry of a stream with a sequence number, in the buffer or waiting for it. -/
def Journal.entryAt (j : Journal) (stream seq : Nat) : Option JEnt :=
  (j.buf ++ j.waiting.map (·.ent)).find? fun e => e.stream == stream && e.seq == seq

/-- Whether a stream's next append replays (R408). -/
def Stream.replaying (x : Stream) : Bool := x.mode = 1#2 && x.cursor ≤ x.stop

/-! ### Appends, reads and truncation (R403, R408, R409, R411) -/

/-- The reason of a replay mismatch, checks in order (R408). -/
def mismatch (verify : Bool) (j e : BitVec 512) : Option Nat :=
  if jKind j ≠ jKind e then some 1
  else if jStep j ≠ jStep e then some 2
  else if verify ∧ (bitsOf j.toNat 4 28 ≠ bitsOf e.toNat 4 28 ∨ bitsOf j.toNat 192 320 ≠ bitsOf e.toNat 192 320) then some 0
  else none

/-- REPLAY_MISMATCH (R408). -/
def mismatchCause (j e : BitVec 512) (reason : Nat) : Cause :=
  ⟨0x39#8, BitVec.ofNat 64 ((jSeq j % 2 ^ 48) <<< 16 + reason <<< 12 + jKind j <<< 8 + jKind e <<< 4)⟩

/-- A live append (R403): the next number, assigned whether or not the buffer has room. -/
def State.appendLive (s : State) (stream c p fid : Nat) (e : BitVec 512) : State :=
  let x := s.dv.stream stream
  let n := x.last + 1
  let ent := jEnt (numbered e n)
  let s1 := s.modDev fun d => d.setStream stream { x with last := n, lstep := jStep e }
  if s.dv.jnl.buf.length < Config.journalCap ∧ s.dv.jnl.waiting = [] then
    (s1.modDev fun d => d.modJnl fun j => j.write ent).fixNow c p fid (BitVec.ofNat 2048 n)
  else s1.modDev fun d => d.modJnl fun j => { j with waiting := j.waiting ++ [⟨ent, c, p, fid⟩] }

/-- A replayed append against the entry at the cursor (R408). -/
def State.appendReplay (s : State) (stream c p fid : Nat) (e : BitVec 512) (j : JEnt) : State :=
  let x := s.dv.stream stream
  match mismatch x.verify j.entry e with
  | some r => (s.fixNow c p fid 0#2048).modPlane c p fun q => q.deferFlight fid (mismatchCause j.entry e r)
  | none =>
    let fin := decide (x.stop < x.cursor + 1)
    let y := { x with cursor := x.cursor + 1, lstep := j.step, last := j.seq, mode := if fin then 0#2 else x.mode }
    (s.modDev fun d =>
      let d1 := d.setStream stream y
      if fin then { d1 with mg := { d1.mg with events := d1.mg.events ++ [.replayDone stream] } } else d1).fixNow c p fid
        (BitVec.ofNat 2048 j.seq)

/-- What JRPL reads (R409). -/
def Dev.replayRow (d : Dev) (stream kind : Nat) : Row :=
  let x := d.stream stream
  match (if x.replaying then d.jnl.entryAt stream x.cursor else none) with
  | some j =>
    if jKind j.entry = kind then
      BitVec.ofNat 2048 (bitsOf j.entry.toNat 192 320 + j.step <<< 320 + j.seq <<< 384 + bitsOf j.entry.toNat 0 64 <<< 448 +
        1 <<< 512)
    else 0#2048
  | none => 0#2048

/-- A request applied at the controller; none when an append waits for its replay entry (DEDUCED, log entry 55). -/
def State.jnlApply (s : State) (r : JnlReq) : Option State :=
  match r.op with
  | .append e c p fid =>
    let x := s.dv.stream r.stream
    if x.replaying then
      match s.dv.jnl.entryAt r.stream x.cursor with
      | some j => some (s.appendReplay r.stream c p fid e j)
      | none => none
    else some (s.appendLive r.stream c p fid e)
  | .read kind c p fid => some ((s.fixData c p fid (s.dv.replayRow r.stream kind)).arrive r.arr [] 0)
  | .trunc step =>
    let x := s.dv.stream r.stream
    let s1 := s.modDev fun d => (d.setStream r.stream { x with tstep := max x.tstep step }).freeAcked
    some (s1.refill.arrive r.arr [] 0)

/-- The state after the `i`-th waiting request, if it can be applied: no earlier one of its task is left (R403). -/
def State.jnlTry (s : State) (i : Nat) : Option State :=
  let l := s.dv.jnl.reqs
  match l[i]? with
  | none => none
  | some r =>
    if (l.take i).any fun q => q.lid == r.lid && q.rank == r.rank then none
    else (s.modDev fun d => d.modJnl fun j => { j with reqs := dropAt j.reqs i }).jnlApply r

/-- A request served: those of one task in their order of issue, those of different tasks in an order of arrival that is free (R403).
DEDUCED: log entry 42. -/
def State.jnlServe (s : State) : State :=
  match (upTo 0 s.dv.jnl.reqs.length).filterMap s.jnlTry with
  | [] => s
  | [t] => t
  | t :: l =>
    let r := ((t :: l)[Config.journalPick s.fresh (l.length + 1) % (l.length + 1)]?).getD t
    { r with fresh := r.fresh + 1 }

/-- JOURNAL_APPEND_ASSIGN (R403): the controller applies a request, of JRPL and JTRUNC too; watermarks follow (R405). -/
def execJournalAppendAssign (s : State) : Host.Outcome State Fault Refusal :=
  .next (if s.dv.mg.failed then s else s.jnlServe.fixMarks)

/-! ### The mirror (R399, R404, R407) -/

/-- MIRROR_ENTRY_WRITE (R399, R404): this device, as a mirror, writes an entry into a device's ring and acknowledges it; a
full ring raises JOURNAL_FULL and answers without an acknowledgement. An entry already there stands once. Acknowledged entries at or
below their stream's tstep, which is the sender's, are freed first. DESIGN CHOICE: log entry 86. -/
def execMirrorEntryWrite (src : Nat) (entry : BitVec 512) (s : State) : Host.Outcome State Fault Refusal :=
  let ring := (SMap.get [] s.dv.jnl.rings src).filter fun e => Config.peerTstep s.fresh src (jStream e) < jStep e
  let rest := ring.filter fun e => !(jStream e == jStream entry && jSeq e == jSeq entry)
  let full := decide (Config.ringCap ≤ rest.length)
  let s1 := State.modDev { s with fresh := s.fresh + 1 } fun d => d.modJnl fun j => { j with
    rings := SMap.set [] j.rings src (if full then ring else rest ++ [entry])
    answers := j.answers ++ [⟨src, jStream entry, jSeq entry, !full⟩] }
  .next (if full then s1.modDev fun d => { d with mg := { d.mg with events := d.mg.events ++ [.journalFull src] } } else s1)

/-- The acknowledged number raised over every durable one that follows it. -/
def raiseAck : Nat → Nat → List Nat → Nat × List Nat
  | 0, a, l => (a, l)
  | n + 1, a, l => if l.contains (a + 1) then raiseAck n (a + 1) (l.filter (· ≠ a + 1)) else (a, l)

/-- MIRROR_ACK (R404): an entry is durable at the mirror. -/
def execMirrorAck (stream seq : Nat) (s : State) : Host.Outcome State Fault Refusal :=
  let x := s.dv.stream stream
  .next (if s.dv.jnl.named ∧ s.dv.jnl.buf.any (fun e => e.stream == stream && e.seq == seq && !e.acked) then
      let l := if x.ack < seq then seq :: x.durable else x.durable
      let r := raiseAck l.length x.ack l
      let mark (j : Journal) : Journal :=
        { j with buf := j.buf.map fun e => if e.stream = stream ∧ e.seq = seq then { e with acked := true } else e,
                 transit := j.transit.filter fun e => !(jStream e == stream && jSeq e == seq) }
      (s.modDev fun d => ((d.setStream stream { x with ack := r.1, durable := r.2 }).modJnl mark).freeAcked).refill
    else s)

/-- MIRROR_LOST (R404, R407): an entry of a stream stayed unacknowledged for the timeout. Where the mirror has answered that its ring
is full, no timeout runs; whether it has is a free value (DESIGN CHOICE, log entry 86). -/
def execMirrorLost (stream : Nat) (s : State) : Host.Outcome State Fault Refusal :=
  .next (if s.dv.jnl.buf.any (fun e => e.stream == stream && !e.acked) ∧ !s.dv.jnl.jm.getLsbD 62 then
      let s1 := { s with fresh := s.fresh + 1 }
      if Config.mirrorFull s.fresh then s1
      else s1.modDev fun d =>
        { (d.modJnl fun j => { j with jm := j.jm ||| (1#64 <<< 62) }) with
          mg := { d.mg with events := d.mg.events ++ [.mirrorLost stream] } }
    else s)

/-- The order in which entries are sent again: stream by stream, by number. -/
def JEnt.before (a b : JEnt) : Bool := decide (a.stream < b.stream) || (a.stream == b.stream && decide (a.seq ≤ b.seq))

/-- A new mirror (R407): entries above tstep are sent again, the others go, ack restarts, and a stream of which the buffer
has freed an entry above tstep has a gap. DEDUCED: log entry 92. -/
def State.newMirror (s : State) (jm : Word) : State :=
  let keep := (s.dv.jnl.buf.filter fun e => (s.dv.stream e.stream).tstep < e.step).map fun e => { e with acked := false }
  let left (k : Nat) : List Nat :=
    (((keep ++ s.dv.jnl.waiting.map (·.ent)).filter fun e => e.stream == k).map (·.seq))
  let restart (k : Nat) (x : Stream) : Stream :=
    { x with gap := x.gap || decide (x.tstep < x.freed), durable := [], ack := match left k with | [] => x.last | a :: t => t.foldl min a - 1 }
  (s.modDev fun d => d.modJnl fun j =>
    { j with jm := jm, buf := keep, transit := (keep.insertionSort fun a b => JEnt.before a b).map (·.entry),
             streams := SMap.mapV stream0 restart j.streams }).refill

/-- A write of jmirror (R399, R407): naming a mirror clears lost; else lost stays unless the write clears it. -/
def State.writeJmirror (s : State) (v : Word) : State :=
  let dev := v &&& 0x1FF#64
  if v.getLsbD 63 then s.newMirror (dev ||| (1#64 <<< 63))
  else s.modDev fun d => d.modJnl fun j => { j with jm := dev ||| (j.jm &&& v &&& (1#64 <<< 62)) }

/-- JMIRROR_WRITE (R399, R407). -/
def execJmirrorWrite (v : BitVec 64) (s : State) : Host.Outcome State Fault Refusal := .next (s.writeJmirror v)

/-! ### Replay (R408) -/

/-- The entries of a replay source written to the buffer while it has room; the rest wait. -/
def Journal.copyIn (j : Journal) : List JEnt → Journal
  | [] => j
  | e :: t =>
    if j.buf.length < Config.journalCap ∧ j.waiting = [] then (j.write e).copyIn t
    else ({ j with waiting := j.waiting ++ [(⟨e, 0, 0, 0⟩ : JWait)] } : Journal).copyIn t

/-- The replay source (R399, R408): what is read of it over the fabric; when that is nothing, the rings that this device holds as a
mirror, of which only the failed device's has entries of the stream. DEDUCED: log entry 96. -/
def Journal.source (j : Journal) (src : List (BitVec 512)) : List (BitVec 512) :=
  if src.isEmpty then j.rings.flatMap (·.2) else src

/-- REPLAY_START (R408): mode 01, and the entries of the source from cursor to end copied with their numbers. The
device's own mirror must be named. Entries below the cursor count as acknowledged (DEDUCED, log entry 56). -/
def execReplayStart (stream : Nat) (src : List (BitVec 512)) (s : State) : Host.Outcome State Fault Refusal :=
  let x := s.dv.stream stream
  .next (if 1 ≤ stream ∧ stream ≤ 1023 ∧ x.cursor ≤ x.stop ∧ s.dv.jnl.named then
      let new := ((s.dv.jnl.source src).filter fun e => jStream e == stream && decide (x.cursor ≤ jSeq e) && decide (jSeq e ≤ x.stop) &&
        (s.dv.jnl.entryAt stream (jSeq e)).isNone).map jEnt
      s.modDev fun d =>
        (d.setStream stream { x with mode := 1#2, ack := max x.ack (x.cursor - 1) }).modJnl fun j => j.copyIn new
    else s)

end Sys2Proof.Machine
end

