-- ==== Sys2Proof/Machine/Manage.lean ====
section
/-!
DEFINITION. What the outside world does to the device: accesses of the host and of fabric peers (R265, R383, R387, R388),
the management region (R387, R389; DESIGN CHOICE, log entry 14), failure and reset (R382, R390), secure boot and attestation (R393,
R394), ageing, power and clocks (R395 to R397), and the links (R381, R385).
-/

namespace Sys2Proof.Machine

/-- The state with the management block changed. -/
def State.modMg (s : State) (f : Mgmt → Mgmt) : State := s.modDev fun d => { d with mg := f d.mg }

/-- A management event raised. -/
def Mgmt.raise (m : Mgmt) (e : MEvent) : Mgmt := { m with events := m.events ++ [e] }

/-! ### Accesses from outside (R265, R266, R387, R388) -/

/-- Why an access of `n` bytes from outside is refused: reason 7 on a failed device, 1 outside device memory or with the
memory off, or the table's reason. DEDUCED: log entry 89. -/
def State.outerFault (s : State) (cls sp : Nat) (write : Bool) (pa n : Nat) : Option Nat :=
  if s.dv.mg.failed then some 7
  else if s.dv.mg.power = .low ∨ 2 ^ 40 < pa + n then some 1
  else (s.dv.check cls sp write pa n).map (·.1)

/-- The rows of a frame that `n` bytes at a physical address touch, noted in its tile's entry after a write from outside: NF, DIRTY,
one move of the pair's generation, and the views of it dropped; no merge (R283, R305, R342, R344). DEDUCED: log entry 87. -/
def State.outerNote (s : State) (l : TLoc) (pa n : Nat) : State :=
  (upTo (pa / 256) ((pa + n + 255) / 256 - pa / 256)).foldl (fun s r =>
    let lo := if r = pa / 256 then pa % 256 else 0
    let hi := min 256 (pa + n - 256 * r)
    s.noteWrite { l with lux := none } ⟨agentHost, 4, 0, false, 0, 0, r != pa / 256⟩
      (BitVec.ofNat 2048 (s.dv.portNat (256 * r) 256)) (spanMask lo hi)) s

/-- Bytes of one frame written from outside: visible everywhere at once, the sums moved and its tile noted (R294, R315, R388). DEDUCED:
log entry 87. -/
def State.outerPut (s : State) (pa : Nat) (bs : List Byte) : State :=
  let l := s.dv.frameTile (pa / 65536)
  let fmt := (l.map (·.fmt)).getD 15
  let s1 := (s.modDev fun d => d.keepSums fmt pa bs.length fun d => d.store 0 agentHost 4 pa bs).healAs pa bs.length fmt
  match l with
  | some l => s1.outerNote l pa bs.length
  | none => s1

/-- A write from outside, piece by piece: frames of memory, and blocks of the queue registers (R389). -/
def State.outerWrite (s : State) : Nat → Nat → List Byte → State
  | 0, _, _ => s
  | fuel + 1, pa, bs =>
    match bs with
    | [] => s
    | bs =>
      if inQueuePage pa then
        let lo := pa % 256
        let now := bs.take (256 - lo)
        let new : Row := BitVec.ofNat 2048 (bitsPut (s.paRow agentHost pa).toNat (8 * lo) (8 * now.length) (natOfBytes now))
        State.outerWrite (s.pageWrite pa lo (lo + now.length) new) fuel (pa + now.length) (bs.drop (256 - lo))
      else
        let k := if pa < Config.queuePage then min (65536 - pa % 65536) (Config.queuePage - pa) else 65536 - pa % 65536
        State.outerWrite (s.outerPut pa (bs.take k)) fuel (pa + k) (bs.drop k)

/-- HOST_ACCESS (R265, R387): class 4, space 0. -/
def execHostAccess (write : Bool) (pa n : Nat) (data : List (BitVec 8)) (s : State) : Host.Outcome State Fault Refusal :=
  .next (match s.outerFault clsHost 0 write pa (if write then data.length else n) with
    | some r => s.modMg fun m => { m with hostResp := some (BitVec.ofNat 4 r) }
    | none =>
      if write then (s.outerWrite (data.length / 65536 + 20) pa data).modMg fun m => { m with hostResp := none }
      else s.modMg fun m => { m with hostResp := none, hostData := s.paBytes agentHost pa n })

/-- FABRIC_PEER_REQUEST (R265, R386): class 5, in the space of the sender's launch. -/
def execFabricPeerRequest (write : Bool) (pa n sp : Nat) (data : List (BitVec 8)) (s : State) :
    Host.Outcome State Fault Refusal :=
  .next (match s.outerFault clsPeer sp write pa (if write then data.length else n) with
    | some r => s.modMg fun m => { m with peerResp := some (BitVec.ofNat 4 r) }
    | none =>
      if write then (s.outerWrite (data.length / 65536 + 20) pa data).modMg fun m => { m with peerResp := none }
      else s.modMg fun m => { m with peerResp := none, peerData := s.paBytes agentHost pa n })

/-! ### The management region (R387, R389; DESIGN CHOICE, log entry 14) -/

/-- A write to roots and descriptor tables (R254, R268). -/
def State.rootWrite (s : State) (off v : Nat) : Option State :=
  if off < 0x80 then
    let sp := off / 8
    some (s.modDev fun d =>
      { d with roots := SMap.set 0#64 d.roots sp (BitVec.ofNat 64 (bitsOf v 16 36 <<< 16)),
               rootEn := BitVec.ofNat 16 (bitsPut d.rootEn.toNat sp 1 (v % 2)) })
  else if 0x100 ≤ off ∧ off < 0x200 then
    let sp := (off - 0x100) / 16
    some (s.modDev fun d =>
      let t := SMap.get (0, 0) d.descs sp
      { d with descs := SMap.set (0, 0) d.descs sp (if off % 16 = 0 then (v % 2 ^ 55, t.2) else (t.1, v % 2 ^ 24)) })
  else none

/-- A write to frame pools and watermarks (R277, R356). -/
def State.poolWrite (s : State) (off v : Nat) : Option State :=
  if off < 0x10 then
    let die := off / 8
    if v < 2 ^ 24 ∧ homeDie (v * 65536) = die ∧ !(vget s.dv.pool die []).contains v then
      some (s.modDev fun d => { d with pool := vput d.pool die (vget d.pool die [] ++ [v]) })
    else none
  else if off < 0x20 then some (s.modDev fun d => { d with poolWm := vput d.poolWm ((off - 0x10) / 8) v })
  else if off < 0x30 then some (s.modDev fun d => { d with resWm := vput d.resWm ((off - 0x20) / 8) v })
  else if off = 0x30 then some (s.modDev fun d => { d with hostArea := v / 65536 * 65536 % 2 ^ 50 })
  else none

/-- A write to error logs and fault queues (R259, R297): a die's log cleared, or its oldest fault record taken. -/
def State.errWrite (s : State) (off : Nat) : Option State :=
  if off = 0 ∨ off = 0x40 then
    some (s.modDev fun d => { d with errs := vput d.errs (off / 0x40) ⟨0, 0, 0, 0, 0#64, 0#64, 0#64⟩ })
  else if off = 0x100 ∨ off = 0x140 then some (s.modDev fun d => { d with faultQ := d.faultQ.eraseP fun r => r.die == off / 0x40 - 4 })
  else none

/-- A write of half an access table entry (R265); its reserved bits stay zero. -/
def State.tableWrite (s : State) (off v : Nat) : Option State :=
  let k := off / 16
  if k < 323 * 64 then
    let old := s.dv.atabEntry (k / 64) (k % 64)
    let new := if off % 16 = 0 then bitsPut old 0 64 (bitsPut v 36 1 0) else bitsPut old 64 64 (v % 2 ^ 36)
    some (s.modDev fun d =>
      { d with atab := SMap.set (if k % 64 = 0 then atabReset else 0#128) d.atab k (BitVec.ofNat 128 new) })
  else none

/-- A view nothing has configured. -/
def view0 : View := ⟨0, 0, 0, 0, false, 0#4, 0#32⟩

/-- A write to a view (R342); its cached tiles go. -/
def State.viewWrite (s : State) (off v : Nat) : Option State :=
  let k := off / 64
  let set (f : View → View) : Option State :=
    some (s.modDev fun d =>
      { d with views := SMap.set view0 d.views k (f (SMap.get view0 d.views k)),
               vcache := d.vcache.filter fun c => !(c.die * 64 + c.view == k) })
  if 128 ≤ k then none
  else match off % 64 with
    | 0 => set fun x => { x with sp := bitsOf v 0 4, transposed := v.testBit 8, fmt := BitVec.ofNat 4 (bitsOf v 12 4) }
    | 8 => set fun x => { x with va := v % 2 ^ 55 }
    | 16 => set fun x => { x with size := v % 2 ^ 55 }
    | 24 => set fun x => { x with base := v % 2 ^ 24 }
    | 32 => set fun x => { x with scale := BitVec.ofNat 32 v }
    | _ => none

/-- A write to the journal control page (R399, R400). -/
def State.journalWrite (s : State) (off v : Nat) : Option State :=
  let k := off / 0x40
  let x := s.dv.stream k
  let set (x : Stream) : Option State := some (s.modDev fun d => d.setStream k x)
  if k = 0 then
    match off with
    | 0 => some (s.writeJmirror (BitVec.ofNat 64 v))
    | 8 =>
      if 1 ≤ v % 65536 ∧ v % 65536 ≤ 1000 then some (s.modDev fun d => d.modJnl fun j => { j with timeout := BitVec.ofNat 16 v })
      else none
    | _ => none
  else if 1024 ≤ k then none
  else match off % 0x40 with
    | 0 =>
      if 2 ≤ v % 4 then none
      else set { x with mode := BitVec.ofNat 2 v, verify := v.testBit 2, gap := x.gap && v.testBit 3 }
    | 0x18 => set { x with held := v }
    | 0x20 => set { x with cursor := v }
    | 0x28 => set { x with stop := v }
    | _ => none

/-- A write to a management register; none when it is refused. -/
def State.mgmtWrite (s : State) (off v : Nat) : Option State :=
  if off % 8 ≠ 0 then none
  else if off < 0x1000 then none
  else if off = 0x1008 then some (s.modMg fun m => { m with events := [] })
  else if off = 0x1010 then some (s.modMg fun m => { m with torus := BitVec.ofNat 18 v })
  else if 0x1_0000 ≤ off ∧ off < 0x1_1000 then s.queueWrite ((off - 0x1_0000) / 0x100) (off % 0x100) v
  else if 0x2_0000 ≤ off ∧ off < 0x3_0000 then s.rootWrite (off - 0x2_0000) v
  else if 0x3_0000 ≤ off ∧ off < 0x4_0000 then s.poolWrite (off - 0x3_0000) v
  else if 0x4_0000 ≤ off ∧ off < 0x8_0000 then s.errWrite (off - 0x4_0000)
  else if 0x8_0000 ≤ off ∧ off < 0x10_0000 then s.tableWrite (off - 0x8_0000) v
  else if 0x10_0000 ≤ off ∧ off < 0x11_0000 then s.viewWrite (off - 0x10_0000) v
  else if 0x11_0000 ≤ off ∧ off < 0x12_0000 then s.journalWrite (off - 0x11_0000) v
  else if 0x12_1000 ≤ off ∧ off < 0x12_1018 then
    some (s.modMg fun m => { m with ageLimit := vput m.ageLimit ((off - 0x12_1000) / 8) (BitVec.ofNat 32 v) })
  else if off = 0x13_0008 then
    if 1000 ≤ v ∧ v ≤ 2400 then some (s.modMg fun m => { m with limit := v }) else none
  else none

/-- MANAGEMENT_WRITE (R387, R389, R391, R400): a refused write changes nothing and has the error response. DEDUCED: log entry 97. -/
def execManagementWrite (off : Nat) (v : BitVec 64) (s : State) : Host.Outcome State Fault Refusal :=
  .next (match s.mgmtWrite off v.toNat with
    | some s1 => s1.modMg fun m => { m with hostResp := none }
    | none => s.modMg fun m => { m with hostResp := some 2#4 })

/-! ### Failure and reset (R382, R390) -/

/-- A device that fails (R382). -/
def Mgmt.fail (m : Mgmt) : Mgmt :=
  if m.failed then m
  else { m with failed := true, failDetail := some ⟨0x22#8, BitVec.ofNat 64 (3 <<< 60)⟩, events := m.events ++ [.deviceFailed] }

/-- The next epoch (R390). -/
def nextEpoch (e : BitVec 32) : BitVec 32 := if e = BitVec.allOnes 32 then 1#32 else e + 1#32

/-- The management block after a device reset: what is fused, measured or booted stays (R390, R391, R395). DEDUCED: log entry 95. -/
def Mgmt.restart (m : Mgmt) : Mgmt :=
  { Mgmt.reset with
    epoch := nextEpoch m.epoch, bootStage := m.bootStage, bootReason := m.bootReason, cores := m.cores, dec := m.dec, ctx := m.ctx,
    ports := m.ports, portsFailed := m.portsFailed, chan := m.chan, cap := m.cap, serial := m.serial, idKey := m.idKey, rootDigest := m.rootDigest,
    digests := m.digests, versions := m.versions, rollback := m.rollback, monitors := m.monitors }

/-- The machine at its reset values with a management block; the agenda, the counter of free values and what is no memory of the
device, the host's and that of other devices, go on. -/
def State.cleared (s : State) (m : Mgmt) : State :=
  { State.reset with dv := { Dev.reset with mg := m, mem := s.dv.mem.filter fun c => 2 ^ 40 ≤ c.1 }, agenda := s.agenda, fresh := s.fresh }

/-- LINK_FLIT_RESEND (R381): invisible to software. -/
def execLinkFlitResend (s : State) : Host.Outcome State Fault Refusal := .next s

/-- DEVICE_FAILED (R382). -/
def execDeviceFailed (s : State) : Host.Outcome State Fault Refusal := .next (s.modMg Mgmt.fail)

/-- DEVICE_RESET (R382, R390). -/
def execDeviceReset (s : State) : Host.Outcome State Fault Refusal := .next (s.cleared s.dv.mg.restart)

/-- DIE_LINK_RETRAIN (R382): the state of the die link. -/
def execDieLinkRetrain (up : Bool) (s : State) : Host.Outcome State Fault Refusal :=
  .next (s.modMg fun m => { m with linkUp := up })

/-- FABRIC_PORT_FAILURE (R385): the port leaves the hash. -/
def execFabricPortFailure (p : Nat) (s : State) : Host.Outcome State Fault Refusal :=
  .next (s.modMg fun m => { m with portsFailed := m.portsFailed ||| (1#18 <<< p) })

/-! ### Secure boot and attestation (R393, R394) -/

/-- A firmware image (R393): the fields of its header, its body, and the bytes its signature covers. -/
structure Firmware where
  magic : Nat
  stage : Nat
  version : BitVec 32
  digest : BitVec 256
  key : BitVec 512
  cert : BitVec 512
  sig : BitVec 512
  body : List Byte
  signed : List Byte
  deriving DecidableEq, Repr

/-- An image read from its bytes (R393). -/
def firmwareOf (b : List Byte) : Firmware :=
  let f (i n : Nat) : Nat := natOfBytes ((b.drop i).take n)
  let body := (b.drop 0x100).take (f 0x0C 4)
  ⟨f 0 4, f 4 4, BitVec.ofNat 32 (f 8 4), BitVec.ofNat 256 (f 0x10 32), BitVec.ofNat 512 (f 0x30 64), BitVec.ofNat 512 (f 0x80 64),
   BitVec.ofNat 512 (f 0xC0 64), body, b.take 0x80 ++ body⟩

/-- The SM3 digest of a public key. -/
def keyDigest (k : BitVec 512) : BitVec 256 := Config.sm3 (bytesOfNat 64 k.toNat)

/-- Whether an image's key is the root key, by the digest in the fuses, or one that the root key signed (R393). -/
def Firmware.keyOk (x : Firmware) (root : BitVec 256) : Bool :=
  keyDigest x.key == root ||
    (let k := Config.certKey x.key x.cert; keyDigest k == root && Config.sm2Verify k (keyDigest x.key) x.cert)

/-- Whether an image's signature verifies over header bytes 0x00 to 0x7F with the body (R393). -/
def Firmware.sigOk (x : Firmware) : Bool := Config.sm2Verify x.key (Config.sm3 x.signed) x.sig

/-- What the boot finds of an image: whether its key and its signature hold, its version and its digest (R393). -/
structure Verdict where
  key : Bool
  sig : Bool
  version : BitVec 32
  digest : BitVec 256
  deriving DecidableEq, Repr

/-- What the boot finds of an image under a root digest. -/
def Firmware.verdict (x : Firmware) (root : BitVec 256) : Verdict := ⟨x.keyOk root, x.sigOk, x.version, Config.sm3 x.body⟩

/-- One stage: 0 accepted, else the reason. -/
def stageReason (key sig : Bool) (version rollback : BitVec 32) : Nat :=
  if !key then 1 else if !sig then 2 else if version.toNat < rollback.toNat then 3 else 0

/-- A stage, counted from 0, loaded, or the boot stopped at it, unless it stopped before (R393). -/
def Mgmt.loadStage (m : Mgmt) (x : Nat × Verdict) : Mgmt :=
  if m.bootStage ≠ 0 then m
  else
    let r := stageReason x.2.key x.2.sig x.2.version (vget m.rollback x.1 0#32)
    if r = 0 then { m with versions := vput m.versions x.1 x.2.version, digests := vput m.digests x.1 x.2.digest }
    else { m with bootStage := x.1 + 1, bootReason := BitVec.ofNat 2 r }

/-- SECURE_BOOT (R393): bit i − 1 of `k` and `g` says whether the key and the signature of stage i hold; `v` and `d` are the
versions and digests of the images. The first bad stage stops the boot. DESIGN CHOICE: log entry 101. -/
def execSecureBoot (k g : BitVec 3) (v1 v2 v3 : BitVec 32) (d1 d2 d3 : BitVec 256) (s : State) :
    Host.Outcome State Fault Refusal :=
  .next (s.modMg fun m =>
    [(0, v1, d1), (1, v2, d2), (2, v3, d3)].foldl
      (fun m x => m.loadStage (x.1, ⟨k.getLsbD x.1, g.getLsbD x.1, x.2.1, x.2.2⟩)) { m with bootStage := 0, bootReason := 0#2 })

/-- Stages 2 and 3 verified again from the images that the boot finds (R393, R396); a device that stopped at stage 1 stays so. -/
def Mgmt.verifyAgain (m : Mgmt) (fresh : Nat) : Mgmt :=
  if m.bootStage = 1 then m
  else [1, 2].foldl (fun m i => m.loadStage (i, (firmwareOf (Config.bootImage fresh (i + 1))).verdict m.rootDigest))
    { m with bootStage := 0, bootReason := 0#2 }

/-- ATTEST_NONCE_WRITE (R394): a nonce written before done replaces the one before. -/
def execAttestNonceWrite (n : BitVec 256) (s : State) : Host.Outcome State Fault Refusal :=
  .next (s.modMg fun m => { m with nonce := n, attPending := true, attDone := false })

/-- Capability registers 0x00 to 0x3F (R391). -/
def Mgmt.capBytes (m : Mgmt) : List Byte :=
  bytesOfNat 8 m.cores.toNat ++ bytesOfNat 8 (m.ports.toNat + m.dec.toNat <<< 18) ++
  (m.chan.toList.flatMap fun c => bytesOfNat 4 c.toNat) ++ (m.cap.toList.flatMap fun c => bytesOfNat 1 c.toNat) ++
  bytesOfNat 8 m.torus.toNat

/-- Bytes 0x000 to 0x13F of a report (R394). -/
def Mgmt.reportBody (m : Mgmt) : List Byte :=
  bytesOfNat 4 1 ++ bytesOfNat 4 m.epoch.toNat ++ bytesOfNat 8 m.serial.toNat ++ bytesOfNat 32 m.nonce.toNat ++
  (m.digests.toList.flatMap fun d => bytesOfNat 32 d.toNat) ++ m.capBytes ++
  bytesOfNat 16 (Config.attestVersions (m.versions.toList.map (·.toNat)) (m.rollback.toList.map (·.toNat))).toNat ++
  bytesOfNat 32 0 ++ bytesOfNat 64 m.idKey.toNat

/-- ATTEST_REPORT_DONE (R394): the report of the last nonce is written and done set. -/
def execAttestReportDone (s : State) : Host.Outcome State Fault Refusal :=
  .next (if s.dv.mg.attPending then
      s.modMg fun m =>
        let b := m.reportBody
        { m with report := BitVec.ofNat 3072 (natOfBytes (b ++ bytesOfNat 64 (Config.attestSign b).toNat)), attPending := false,
                 attDone := true }
    else s)

/-! ### Ageing, power and clocks (R395 to R397) -/

/-- AGEING_UPDATE (R395): a powered hour of monitor `i`. -/
def execAgeingUpdate (i : Nat) (margin : BitVec 16) (remaining : BitVec 32) (s : State) : Host.Outcome State Fault Refusal :=
  .next (if i < 74 then
      s.modMg fun m =>
        let x := (vget m.monitors i 0#128).toNat
        let kind := bitsOf x 48 16
        let y := bitsPut (bitsPut (bitsPut x 0 32 remaining.toNat) 32 16 margin.toNat) 64 64 (bitsOf x 64 64 + 1)
        let m1 := { m with monitors := vput m.monitors i (BitVec.ofNat 128 y) }
        if remaining.toNat < (vget m.ageLimit kind 0#32).toNat then m1.raise (.ageing i) else m1
    else s)

/-- Whether the device may enter LOW (R396). -/
def Dev.quiet (d : Dev) : Bool := d.launches.isEmpty && d.queues.all fun q => !q.en

/-- POWER_STATE_REQUEST (R396): LOW (2) is entered when nothing is placed and no queue enabled; the other states are
entered and left by their own events. DEDUCED: log entry 91. -/
def execPowerStateRequest (st : BitVec 2) (s : State) : Host.Outcome State Fault Refusal :=
  .next (if st = 2#2 ∧ s.dv.quiet then s.modMg fun m => { m with power := .low } else s)

/-- IDLE_ENTRY (R396). -/
def execIdleEntry (s : State) : Host.Outcome State Fault Refusal :=
  .next (if s.dv.mg.power = .active ∧ s.dv.launches.isEmpty then s.modMg fun m => { m with power := .idle } else s)

/-- LOW_EXIT (R390, R393, R396): everything but the management block holds its reset values, and stages 2 and 3 are verified again: one
that is rejected stops the boot. DEDUCED: log entry 90. -/
def execLowExit (s : State) : Host.Outcome State Fault Refusal :=
  .next (if s.dv.mg.power = .low then
      let t := s.cleared ({ s.dv.mg with epoch := nextEpoch s.dv.mg.epoch, power := .idle }.verifyAgain s.fresh)
      { t with fresh := s.fresh + 1 }
    else s)

/-- CLOCK_STEP_DOWN (R397), in MHz. -/
def execClockStepDown (s : State) : Host.Outcome State Fault Refusal :=
  .next (s.modMg fun m => { m with clock := if 1100 ≤ m.clock then m.clock - 100 else m.clock })

/-- CLOCK_STEP_UP (R397), back to 2.0 GHz. -/
def execClockStepUp (s : State) : Host.Outcome State Fault Refusal :=
  .next (s.modMg fun m => { m with clock := if m.clock + 100 ≤ 2000 then m.clock + 100 else m.clock })

/-- CRITICAL_TEMPERATURE (R382, R397): at 1.0 GHz the device fails. -/
def execCriticalTemperature (s : State) : Host.Outcome State Fault Refusal :=
  .next (s.modMg fun m => if m.clock = 1000 then m.fail else m)

end Sys2Proof.Machine
end

