-- ==== Sys2Proof/Machine/Scalar.lean ====
section
/-!
DEFINITION. The S slot (R104 to R110): scalar arithmetic. Sources are read at issue; the result lands one bundle later,
that of a multiplication three.
-/

namespace Sys2Proof.Machine

/-- A scalar result of the S slot (R104). -/
def State.scalar (s : State) (ar : BitVec 2) (sd : BitVec 5) (lat : Nat) (v : State → Word) :
    Host.Outcome State Fault Refusal :=
  s.guarded 1 [] fun s => let o := s.owe ar; o.2.resultS 1 lat sd (v s) o.1

/-- A register-form operation (R105). -/
def State.scalar2 (s : State) (f : SR) (lat : Nat) (g : Word → Word → Word) : Host.Outcome State Fault Refusal :=
  s.scalar f.ar f.sd lat fun s => g (s.rdS f.sa) (s.rdS f.sb)

/-- A one-source operation (R106). -/
def State.scalar1 (s : State) (f : SOne) (g : Word → Word) : Host.Outcome State Fault Refusal :=
  s.scalar f.ar f.sd 1 fun s => g (s.rdS f.sa)

/-- An immediate form, imm13 sign-extended (R108). -/
def State.scalarI (s : State) (f : SImm) (lat : Nat) (g : Word → Word → Word) : Host.Outcome State Fault Refusal :=
  s.scalar f.ar f.sd lat fun s => g (s.rdS f.sa) (f.imm.signExtend 64)

/-- A shift by sh (R108). -/
def State.scalarH (s : State) (f : SSh) (g : Word → Nat → Word) : Host.Outcome State Fault Refusal :=
  s.scalar f.ar f.sd 1 fun s => g (s.rdS f.sa) f.sh.toNat

/-- A register with 16 bits from `lo` replaced (R109). -/
def State.scalarX (s : State) (f : SIns) (lo : Nat) : Host.Outcome State Fault Refusal :=
  s.scalar f.ar f.sd 1 fun s => BitVec.ofNat 64 (bitsPut (s.rdS f.sd).toNat lo 16 f.imm.toNat)

/-- Truth as a 64-bit 0 or 1. -/
def flag (b : Bool) : Word := if b then 1#64 else 0#64

/-- Leading zero bits (R106). -/
def clz (x : Word) : Nat := if x = 0#64 then 64 else 63 - Nat.log2 x.toNat

/-- Trailing zero bits (R106). -/
def ctz (x : Word) : Nat := ((upTo 0 64).find? fun i => x.getLsbD i).getD 64

/-- Set bits (R106). -/
def popcount (n x : Nat) : Nat := ((upTo 0 n).filter fun i => x.testBit i).length

/-- The high 64 bits of a signed product (R105). -/
def mulHigh (a b : Word) : Word := BitVec.ofInt 64 (a.toInt * b.toInt / 2 ^ 64)

/-- The high 64 bits of an unsigned product. -/
def mulHighU (a b : Word) : Word := BitVec.ofNat 64 ((a.toNat * b.toNat) >>> 64)

/-- The shift amount sb[5:0] (R105). -/
def shAmt (b : Word) : Nat := b.toNat % 64

/-- ADD (R105). -/
def execAdd (f : SR) (s : State) : Host.Outcome State Fault Refusal := s.scalar2 f 1 fun a b => a + b

/-- SUB (R105). -/
def execSub (f : SR) (s : State) : Host.Outcome State Fault Refusal := s.scalar2 f 1 fun a b => a - b

/-- AND (R105). -/
def execAnd (f : SR) (s : State) : Host.Outcome State Fault Refusal := s.scalar2 f 1 fun a b => a &&& b

/-- OR (R105). -/
def execOr (f : SR) (s : State) : Host.Outcome State Fault Refusal := s.scalar2 f 1 fun a b => a ||| b

/-- XOR (R105). -/
def execXor (f : SR) (s : State) : Host.Outcome State Fault Refusal := s.scalar2 f 1 fun a b => a ^^^ b

/-- ANDN (R105). -/
def execAndn (f : SR) (s : State) : Host.Outcome State Fault Refusal := s.scalar2 f 1 fun a b => a &&& ~~~b

/-- SHL (R105). -/
def execShl (f : SR) (s : State) : Host.Outcome State Fault Refusal := s.scalar2 f 1 fun a b => a <<< shAmt b

/-- SHR (R105). -/
def execShr (f : SR) (s : State) : Host.Outcome State Fault Refusal := s.scalar2 f 1 fun a b => a >>> shAmt b

/-- SRA (R105). -/
def execSra (f : SR) (s : State) : Host.Outcome State Fault Refusal := s.scalar2 f 1 fun a b => a.sshiftRight (shAmt b)

/-- MUL (R105). -/
def execMul (f : SR) (s : State) : Host.Outcome State Fault Refusal := s.scalar2 f 3 fun a b => a * b

/-- MULH (R105). -/
def execMulh (f : SR) (s : State) : Host.Outcome State Fault Refusal := s.scalar2 f 3 mulHigh

/-- MULHU (R105). -/
def execMulhu (f : SR) (s : State) : Host.Outcome State Fault Refusal := s.scalar2 f 3 mulHighU

/-- MIN (R105). -/
def execMin (f : SR) (s : State) : Host.Outcome State Fault Refusal := s.scalar2 f 1 fun a b => if a.toInt ≤ b.toInt then a else b

/-- MAX (R105). -/
def execMax (f : SR) (s : State) : Host.Outcome State Fault Refusal := s.scalar2 f 1 fun a b => if a.toInt ≤ b.toInt then b else a

/-- MINU (R105). -/
def execMinu (f : SR) (s : State) : Host.Outcome State Fault Refusal := s.scalar2 f 1 fun a b => if a.toNat ≤ b.toNat then a else b

/-- MAXU (R105). -/
def execMaxu (f : SR) (s : State) : Host.Outcome State Fault Refusal := s.scalar2 f 1 fun a b => if a.toNat ≤ b.toNat then b else a

/-- SEQ (R105). -/
def execSeq (f : SR) (s : State) : Host.Outcome State Fault Refusal := s.scalar2 f 1 fun a b => flag (a = b)

/-- SNE (R105). -/
def execSne (f : SR) (s : State) : Host.Outcome State Fault Refusal := s.scalar2 f 1 fun a b => flag (a ≠ b)

/-- SLT (R105). -/
def execSlt (f : SR) (s : State) : Host.Outcome State Fault Refusal := s.scalar2 f 1 fun a b => flag (a.toInt < b.toInt)

/-- SLTU (R105). -/
def execSltu (f : SR) (s : State) : Host.Outcome State Fault Refusal := s.scalar2 f 1 fun a b => flag (a.toNat < b.toNat)

/-- SLE (R105). -/
def execSle (f : SR) (s : State) : Host.Outcome State Fault Refusal := s.scalar2 f 1 fun a b => flag (a.toInt ≤ b.toInt)

/-- SLEU (R105). -/
def execSleu (f : SR) (s : State) : Host.Outcome State Fault Refusal := s.scalar2 f 1 fun a b => flag (a.toNat ≤ b.toNat)

/-- SEL (R106). -/
def execSel (f : SSel) (s : State) : Host.Outcome State Fault Refusal :=
  s.scalar f.ar f.sd 1 fun s => if s.rdS f.sc ≠ 0#64 then s.rdS f.sa else s.rdS f.sb

/-- MOV (R106). -/
def execMov (f : SOne) (s : State) : Host.Outcome State Fault Refusal := s.scalar1 f id

/-- ABS (R106). -/
def execAbs (f : SOne) (s : State) : Host.Outcome State Fault Refusal := s.scalar1 f fun a => if a.toInt < 0 then -a else a

/-- NEG (R106). -/
def execNeg (f : SOne) (s : State) : Host.Outcome State Fault Refusal := s.scalar1 f fun a => 0#64 - a

/-- CLZ (R106). -/
def execClz (f : SOne) (s : State) : Host.Outcome State Fault Refusal := s.scalar1 f fun a => BitVec.ofNat 64 (clz a)

/-- CTZ (R106). -/
def execCtz (f : SOne) (s : State) : Host.Outcome State Fault Refusal := s.scalar1 f fun a => BitVec.ofNat 64 (ctz a)

/-- POPC (R106). -/
def execPopc (f : SOne) (s : State) : Host.Outcome State Fault Refusal := s.scalar1 f fun a => BitVec.ofNat 64 (popcount 64 a.toNat)

/-- BFX (R107). -/
def execBfx (f : SFld) (s : State) : Host.Outcome State Fault Refusal :=
  s.scalar f.ar f.sd 1 fun s => BitVec.ofNat 64 (bitsOf (s.rdS f.sa).toNat f.pos.toNat f.wid.toNat)

/-- BFI (R107): sd is a source too. -/
def execBfi (f : SFld) (s : State) : Host.Outcome State Fault Refusal :=
  s.scalar f.ar f.sd 1 fun s =>
    BitVec.ofNat 64 (bitsPut (s.rdS f.sd).toNat f.pos.toNat f.wid.toNat (s.rdS f.sa).toNat)

/-- ADDI (R108). -/
def execAddi (f : SImm) (s : State) : Host.Outcome State Fault Refusal := s.scalarI f 1 fun a b => a + b

/-- ANDI (R108). -/
def execAndi (f : SImm) (s : State) : Host.Outcome State Fault Refusal := s.scalarI f 1 fun a b => a &&& b

/-- ORI (R108). -/
def execOri (f : SImm) (s : State) : Host.Outcome State Fault Refusal := s.scalarI f 1 fun a b => a ||| b

/-- XORI (R108). -/
def execXori (f : SImm) (s : State) : Host.Outcome State Fault Refusal := s.scalarI f 1 fun a b => a ^^^ b

/-- MULI (R108). -/
def execMuli (f : SImm) (s : State) : Host.Outcome State Fault Refusal := s.scalarI f 3 fun a b => a * b

/-- SLTI (R108). -/
def execSlti (f : SImm) (s : State) : Host.Outcome State Fault Refusal := s.scalarI f 1 fun a b => flag (a.toInt < b.toInt)

/-- SEQI (R108). -/
def execSeqi (f : SImm) (s : State) : Host.Outcome State Fault Refusal := s.scalarI f 1 fun a b => flag (a = b)

/-- SHLI (R108). -/
def execShli (f : SSh) (s : State) : Host.Outcome State Fault Refusal := s.scalarH f fun a n => a <<< n

/-- SHRI (R108). -/
def execShri (f : SSh) (s : State) : Host.Outcome State Fault Refusal := s.scalarH f fun a n => a >>> n

/-- SRAI (R108). -/
def execSrai (f : SSh) (s : State) : Host.Outcome State Fault Refusal := s.scalarH f fun a n => a.sshiftRight n

/-- LI (R109). -/
def execLi (f : SLi) (s : State) : Host.Outcome State Fault Refusal :=
  s.scalar f.ar f.sd 1 fun _ => f.imm.signExtend 64

/-- LIH (R109). -/
def execLih (f : SIns) (s : State) : Host.Outcome State Fault Refusal := s.scalarX f 16

/-- LIX (R109). -/
def execLix (f : SIns) (s : State) : Host.Outcome State Fault Refusal := s.scalarX f 32

/-- LIT (R109). -/
def execLit (f : SIns) (s : State) : Host.Outcome State Fault Refusal := s.scalarX f 48

/-- A field of a live loop level, innermost first; 0 at or beyond the depth; a handler does not see the
levels below its floor (R97, R110). -/
def Plane.loopField (p : Plane) (k : Nat) (g : Loop → BitVec 32) : Word :=
  match p.liveLoops[k]? with
  | some l => (g l).setWidth 64
  | none => 0#64

/-- MFLI (R110). -/
def execMfli (f : SLv) (s : State) : Host.Outcome State Fault Refusal :=
  s.scalar f.ar f.sd 1 fun s => s.pl.loopField f.lvl.toNat Loop.index

/-- MFLC (R110). -/
def execMflc (f : SLv) (s : State) : Host.Outcome State Fault Refusal :=
  s.scalar f.ar f.sd 1 fun s => s.pl.loopField f.lvl.toNat Loop.count

end Sys2Proof.Machine
end

