-- ==== Sys2Proof/Machine/VecInt.lean ====
section
/-!
DEFINITION. Integer vector instructions (R164), predicate instructions (R161 to R163), and select, permute and move
(R173 to R176).
-/

namespace Sys2Proof.Machine

/-! ### Integer instructions (R164): 2 bundles -/

/-- A two-operand integer instruction on its elements' codes. -/
def State.vecInt (s : State) (f : V3) (g : Nat → Nat → Nat → Elem) : Host.Outcome State Fault Refusal :=
  s.vec3 f 2 fun on a b => map2 f.fmt.toNat on a.data a.data b.data (g f.fmt.toNat)

/-- VADD (R164). -/
def execVadd (f : V3) (s : State) : Host.Outcome State Fault Refusal :=
  s.vecInt f fun m a b => iWrap m (intVal m a + intVal m b)

/-- VSUB (R164). -/
def execVsub (f : V3) (s : State) : Host.Outcome State Fault Refusal :=
  s.vecInt f fun m a b => iWrap m (intVal m a - intVal m b)

/-- VADDS (R164). -/
def execVadds (f : V3) (s : State) : Host.Outcome State Fault Refusal :=
  s.vecInt f fun m a b => iSat m (intVal m a + intVal m b)

/-- VSUBS (R164). -/
def execVsubs (f : V3) (s : State) : Host.Outcome State Fault Refusal :=
  s.vecInt f fun m a b => iSat m (intVal m a - intVal m b)

/-- VMUL (R164). -/
def execVmul (f : V3) (s : State) : Host.Outcome State Fault Refusal :=
  s.vecInt f fun m a b => iWrap m (intVal m a * intVal m b)

/-- VMULH (R164). -/
def execVmulh (f : V3) (s : State) : Host.Outcome State Fault Refusal :=
  s.vecInt f fun m a b => iWrap m ((intVal m a * intVal m b) >>> intBits m)

/-- VAND (R164). -/
def execVand (f : V3) (s : State) : Host.Outcome State Fault Refusal :=
  s.vecInt f fun _ a b => (a &&& b, 0)

/-- VOR (R164). -/
def execVor (f : V3) (s : State) : Host.Outcome State Fault Refusal :=
  s.vecInt f fun _ a b => (a ||| b, 0)

/-- VXOR (R164). -/
def execVxor (f : V3) (s : State) : Host.Outcome State Fault Refusal :=
  s.vecInt f fun _ a b => (a ^^^ b, 0)

/-- VANDN (R164). -/
def execVandn (f : V3) (s : State) : Host.Outcome State Fault Refusal :=
  s.vecInt f fun _ a b => (a - (a &&& b), 0)

/-- VSHL (R164). -/
def execVshl (f : V3) (s : State) : Host.Outcome State Fault Refusal :=
  s.vecInt f fun m a b => iShift 0 m a b

/-- VSHR (R164). -/
def execVshr (f : V3) (s : State) : Host.Outcome State Fault Refusal :=
  s.vecInt f fun m a b => iShift 1 m a b

/-- VSRA (R164). -/
def execVsra (f : V3) (s : State) : Host.Outcome State Fault Refusal :=
  s.vecInt f fun m a b => iShift 2 m a b

/-- VMIN (R164). -/
def execVmin (f : V3) (s : State) : Host.Outcome State Fault Refusal :=
  s.vecInt f fun m a b => iWrap m (min (intVal m a) (intVal m b))

/-- VMAX (R164). -/
def execVmax (f : V3) (s : State) : Host.Outcome State Fault Refusal :=
  s.vecInt f fun m a b => iWrap m (max (intVal m a) (intVal m b))

/-- VMAD (R164): the addend is popped from the destination queue. -/
def execVmad (f : V3) (s : State) : Host.Outcome State Fault Refusal :=
  let m := f.fmt.toNat
  s.vecAcc f 2 fun on a b d =>
    map3 m on a.data b.data d.data fun x y z => iWrap m (intVal m z + intVal m x * intVal m y)

/-- VABS (R164). -/
def execVabs (f : V2) (s : State) : Host.Outcome State Fault Refusal :=
  let m := f.fmt.toNat
  s.vec2 f 2 fun on a => map1 m on a.data fun x => iWrap m ((intVal m x).natAbs : Int)

/-- VNEG (R164). -/
def execVneg (f : V2) (s : State) : Host.Outcome State Fault Refusal :=
  let m := f.fmt.toNat
  s.vec2 f 2 fun on a => map1 m on a.data fun x => iWrap m (0 - intVal m x)

/-- A comparison writing a predicate (R52, R161, R164, R167). -/
def State.vecCmp (s : State) (f : VCm) (lat : Nat) (g : Nat → Nat → Bool × Nat) : Host.Outcome State Fault Refusal :=
  let cl := f.cl.toNat
  let m := f.fmt.toNat
  s.vector (cl + 2) f.ar [src f.va f.pa, src f.vb f.pb] none (.pred (4 * cl + f.vd.toNat)) lat fun p =>
    cmpLanes m (active m (p.mask cl f.pred)) (p.operand cl f.va.toNat m).data (p.operand cl f.vb.toNat m).data g

/-- VCMP (R164). -/
def execVcmp (f : VCm) (s : State) : Host.Outcome State Fault Refusal :=
  let m := f.fmt.toNat
  s.vecCmp f 2 fun a b => (cmpInt f.cond.toNat (intVal m a) (intVal m b), 0)

/-! ### Predicate instructions (R162, R163): 1 bundle -/

/-- A predicate operation on all 256 bits (R162). -/
def State.predOp (s : State) (cl : BitVec 1) (ar vd : BitVec 2) (g : Plane → Pred) :
    Host.Outcome State Fault Refusal :=
  s.vector (cl.toNat + 2) ar [] none (.pred (4 * cl.toNat + vd.toNat)) 1 fun p =>
    ⟨(g p).setWidth 2048, none, 0, none⟩

/-- A two-source predicate operation. -/
def State.predOp2 (s : State) (f : PP3) (g : Pred → Pred → Pred) : Host.Outcome State Fault Refusal :=
  s.predOp f.cl f.ar f.vd fun p => g (p.pred f.cl.toNat f.va.toNat) (p.pred f.cl.toNat f.vb.toNat)

/-- PAND (R162). -/
def execPand (f : PP3) (s : State) : Host.Outcome State Fault Refusal :=
  s.predOp2 f fun x y => x &&& y

/-- POR (R162). -/
def execPor (f : PP3) (s : State) : Host.Outcome State Fault Refusal :=
  s.predOp2 f fun x y => x ||| y

/-- PXOR (R162). -/
def execPxor (f : PP3) (s : State) : Host.Outcome State Fault Refusal :=
  s.predOp2 f fun x y => x ^^^ y

/-- PNOT (R162). -/
def execPnot (f : PP2) (s : State) : Host.Outcome State Fault Refusal :=
  s.predOp f.cl f.ar f.vd fun p => ~~~(p.pred f.cl.toNat f.va.toNat)

/-- PMOV (R162). -/
def execPmov (f : PP2) (s : State) : Host.Outcome State Fault Refusal :=
  s.predOp f.cl f.ar f.vd fun p => p.pred f.cl.toNat f.va.toNat

/-- PSETN (R163): the first n elements, n from bytes 0 to 3 of va. -/
def execPsetn (f : PSn) (s : State) : Host.Outcome State Fault Refusal :=
  let cl := f.cl.toNat
  let m := f.fmt.toNat
  s.vector (cl + 2) f.ar [src f.va f.pa] none (.pred (4 * cl + f.vd.toNat)) 1 fun p =>
    let n := (p.operand cl f.va.toNat m).data.toNat % 2 ^ 32
    ⟨(predOf (laneBits m / 8) ((upTo 0 (laneCount m)).map fun e => decide (e < n))).setWidth 2048, none, 0, none⟩

/-! ### Select, permute and move (R173 to R176): 2 bundles, no flags -/

/-- VSEL (R173, R174): a whole operand keeps its tag (R157). -/
def execVsel (f : V3) (s : State) : Host.Outcome State Fault Refusal :=
  let m := f.fmt.toNat
  s.vec3 f 2 fun on a b =>
    { moveLanes m on b.data (lanes m a.data) with
      tag := if on.all id then some a.tag else if on.all (!·) then some b.tag else none }

/-- VPERM (R173): indices from all elements, active or not (R175). -/
def execVperm (f : V3) (s : State) : Host.Outcome State Fault Refusal :=
  let m := f.fmt.toNat
  s.vec3 f 2 fun on a b =>
    let l := lanes m a.data
    moveLanes m on a.data ((lanes m b.data).map fun i => l.getD (i % laneCount m) 0)

/-- VROT (R176): 256 bytes of va followed by vb, from byte n of the latch. -/
def execVrot (f : VRt) (s : State) : Host.Outcome State Fault Refusal :=
  let cl := f.cl.toNat
  s.vector (cl + 2) f.ar [src f.va f.pa, src f.vb f.pb] none (.vq (16 * cl + f.vd.toNat)) 2 fun p =>
    let a := (p.operand cl f.va.toNat 15).data.toNat
    let b := (p.operand cl f.vb.toNat 15).data.toNat
    ⟨BitVec.ofNat 2048 ((a + b <<< 2048) >>> (8 * ((vget p.bl cl 0#2048).toNat % 256))), none, 0, none⟩

/-- VSHFL (R173): m is element 0 of the latch. -/
def execVshfl (f : V2) (s : State) : Host.Outcome State Fault Refusal :=
  let m := f.fmt.toNat
  let cl := f.cl.toNat
  let k := (lanes m (vget s.pl.bl cl 0#2048)).headD 0 % laneCount m
  s.vec2 f 2 fun on a =>
    let l := lanes m a.data
    moveLanes m on a.data ((upTo 0 (laneCount m)).map fun i => l.getD (i ^^^ k) 0)

/-- VBCST (R173). -/
def execVbcst (f : V3) (s : State) : Host.Outcome State Fault Refusal :=
  let m := f.fmt.toNat
  s.vec3 f 2 fun on a b =>
    let l := lanes m a.data
    let x := l.getD ((lanes m b.data).headD 0 % laneCount m) 0
    moveLanes m on a.data (List.replicate (laneCount m) x)

/-- VMOV (R173): unpredicated, it keeps the tag (R157). -/
def execVmov (f : V2) (s : State) : Host.Outcome State Fault Refusal :=
  s.vec2 f 2 fun _ a => ⟨a.data, if f.pred = 0#3 then some a.tag else none, 0, none⟩

end Sys2Proof.Machine
end

