-- ==== Sys2Proof/Machine/VecReduce.lean ====
section
/-!
DEFINITION. Vector reductions (R150, R177) and the sparse group (R178 to R180).
-/

namespace Sys2Proof.Machine

/-! ### Reductions (R150, R177): 6 bundles -/

/-- The fixed pairwise tree: `k` halvings of a list of lanes, every combine's flags gathered. -/
def treeGo (g : Nat → Nat → Elem) : Nat → List Nat → Nat → Elem
  | 0, l, fl => (l.headD 0, fl)
  | k + 1, l, fl =>
    let d := l.length / 2
    let r := List.zipWith g (l.take d) (l.drop d)
    treeGo g k (r.map (·.1)) (r.foldl (fun a x => a ||| x.2) fl)

/-- A reduction over the elements of an entry: an inactive one enters as the identity; the result in lane 0 of `rfmt`. -/
def State.reduce (s : State) (f : V2) (rfmt ident : Nat) (pre : Nat → Nat) (g : Nat → Nat → Elem) :
    Host.Outcome State Fault Refusal :=
  let m := f.fmt.toNat
  s.vec2 f 6 fun on a =>
    let l := List.zipWith (fun b x => if b then pre x else ident) on (codes m a.data)
    let r := treeGo g (Nat.log2 (laneCount m)) l 0
    ⟨ofLanes rfmt [r.1], none, r.2, none⟩

/-- VRADD (R177): the exact sum modulo 2^32, in .i32. -/
def execVradd (f : V2) (s : State) : Host.Outcome State Fault Refusal :=
  let m := f.fmt.toNat
  s.reduce f 4 0 (fun x => wrap 32 (intVal m x)) fun x y => ((x + y) % 2 ^ 32, 0)

/-- VRMAX (R177). -/
def execVrmax (f : V2) (s : State) : Host.Outcome State Fault Refusal :=
  let m := f.fmt.toNat
  s.reduce f m (wrap (intBits m) (intRange (isSigned m) (intBits m)).1) id fun x y =>
    iWrap m (max (intVal m x) (intVal m y))

/-- VRMIN (R177). -/
def execVrmin (f : V2) (s : State) : Host.Outcome State Fault Refusal :=
  let m := f.fmt.toNat
  s.reduce f m (wrap (intBits m) (intRange (isSigned m) (intBits m)).2) id fun x y =>
    iWrap m (min (intVal m x) (intVal m y))

/-- VRFADD (R177): the identity is −0. -/
def execVrfadd (f : V2) (s : State) : Host.Outcome State Fault Refusal :=
  let m := f.fmt.toNat
  s.reduce f m (packF (fltOf m) true 0 0) id (fAdd m)

/-- VRFMAX (R177): the identity is −infinity. -/
def execVrfmax (f : V2) (s : State) : Host.Outcome State Fault Refusal :=
  let m := f.fmt.toNat
  s.reduce f m ((fltOf m).infCode true) id (fMinMax true m)

/-! ### The sparse group (R178 to R180): 4 bundles -/

/-- VBAND (R178). -/
def execVband (f : VBn) (s : State) : Host.Outcome State Fault Refusal :=
  let cl := f.cl.toNat
  s.vector (cl + 2) f.ar [src f.va f.pa, src f.vb f.pb] none (.vq (16 * cl + f.vd.toNat)) 4 fun p =>
    let a := (p.operand cl f.va.toNat 15).data
    let b := (p.operand cl f.vb.toNat 15).data
    map2 15 (active 15 (p.mask cl f.pred)) a a b fun x y => (x &&& y, 0)

/-- VPOPC (R178). -/
def execVpopc (f : V2) (s : State) : Host.Outcome State Fault Refusal :=
  let m := f.fmt.toNat
  s.vec2 f 4 fun on a => map1 m on a.data fun x => (popcount (laneBits m) x, 0)

/-- The exclusive prefix sums of the active elements; an inactive one keeps its own. -/
def prefixSums (w : Nat) : List Bool → List Nat → Nat → List Nat
  | b :: on, x :: l, acc =>
    if b then acc % 2 ^ w :: prefixSums w on l (acc + x) else x :: prefixSums w on l acc
  | _, _, _ => []

/-- VPFX (R178). -/
def execVpfx (f : V3) (s : State) : Host.Outcome State Fault Refusal :=
  let m := f.fmt.toNat
  s.vec3 f 4 fun on a b =>
    ⟨ofLanes m (prefixSums (laneBits m) on (lanes m a.data) ((lanes m b.data).headD 0)), none, 0, none⟩

/-- VISECT (R179): fmt .b extracts bits of vb under va; the others compress elements of va under the bits of vb. -/
def execVisect (f : VIs) (s : State) : Host.Outcome State Fault Refusal :=
  let cl := f.cl.toNat
  let m := f.fmt.toNat
  s.vector (cl + 2) f.ar [src f.va f.pa, src f.vb f.pb] none (.vq (16 * cl + f.vd.toNat)) 4 fun p =>
    let a := (p.operand cl f.va.toNat m).data
    let b := (p.operand cl f.vb.toNat m).data
    if m = 15 then
      let sel := (upTo 0 2048).filterMap fun i => if a.getLsbD i then some (b2n (b.getLsbD i)) else none
      ⟨BitVec.ofNat 2048 (packs 1 sel), none, 0, none⟩
    else
      let l := lanes m a
      ⟨ofLanes m ((upTo 0 (laneCount m)).filterMap fun e => if b.getLsbD e then some (l.getD e 0) else none), none, 0, none⟩

/-- A compare-and-swap of 64 pairs of 32 bits (R180): the pair is the element. -/
def State.vecSwap (s : State) (f : V3) (loser : Bool) : Host.Outcome State Fault Refusal :=
  let cl := f.cl.toNat
  let m := f.fmt.toNat
  s.vector (cl + 2) f.ar [src f.va f.pa, src f.vb f.pb] none (.vq (16 * cl + f.vd.toNat)) 4 fun p =>
    let a := (p.operand cl f.va.toNat m).data
    let b := (p.operand cl f.vb.toNat m).data
    map2 5 (active 5 (p.mask cl f.pred)) a a b (cswap loser m)

/-- VCSW (R180): the winner. -/
def execVcsw (f : V3) (s : State) : Host.Outcome State Fault Refusal :=
  s.vecSwap f false

/-- VCSWX (R180): the loser. -/
def execVcswx (f : V3) (s : State) : Host.Outcome State Fault Refusal :=
  s.vecSwap f true

end Sys2Proof.Machine
end

