-- ==== Sys2Proof/Machine/Dispatch.lean ====
section
/-!
DEFINITION. The dispatch of every constructor of Instr to its meaning, one arm each.
-/

namespace Sys2Proof.Machine

open Sys2Proof

def exec (i : Instr) (s : State) : Host.Outcome State Fault Refusal :=
  match i with
  | .nop f => Sys2Proof.Machine.execNop f s
  | .jmp f => Sys2Proof.Machine.execJmp f s
  | .br f => Sys2Proof.Machine.execBr f s
  | .brp f => Sys2Proof.Machine.execBrp f s
  | .jmpi f => Sys2Proof.Machine.execJmpi f s
  | .call f => Sys2Proof.Machine.execCall f s
  | .calli f => Sys2Proof.Machine.execCalli f s
  | .ret f => Sys2Proof.Machine.execRet f s
  | .loop f => Sys2Proof.Machine.execLoop f s
  | .loopi f => Sys2Proof.Machine.execLoopi f s
  | .brkl f => Sys2Proof.Machine.execBrkl f s
  | .segj f => Sys2Proof.Machine.execSegj f s
  | .safe f => Sys2Proof.Machine.execSafe f s
  | .trap f => Sys2Proof.Machine.execTrap f s
  | .eret f => Sys2Proof.Machine.execEret f s
  | .brkpt f => Sys2Proof.Machine.execBrkpt f s
  | .halt f => Sys2Proof.Machine.execHalt f s
  | .waitb f => Sys2Proof.Machine.execWaitb f s
  | .arrive f => Sys2Proof.Machine.execArrive f s
  | .arwait f => Sys2Proof.Machine.execArwait f s
  | .sstep f => Sys2Proof.Machine.execSstep f s
  | .eclipse f => Sys2Proof.Machine.execEclipse f s
  | .yield f => Sys2Proof.Machine.execYield f s
  | .waitj f => Sys2Proof.Machine.execWaitj f s
  | .mfsr f => Sys2Proof.Machine.execMfsr f s
  | .mtsr f => Sys2Proof.Machine.execMtsr f s
  | .add f => Sys2Proof.Machine.execAdd f s
  | .sub f => Sys2Proof.Machine.execSub f s
  | .and f => Sys2Proof.Machine.execAnd f s
  | .or f => Sys2Proof.Machine.execOr f s
  | .xor f => Sys2Proof.Machine.execXor f s
  | .andn f => Sys2Proof.Machine.execAndn f s
  | .shl f => Sys2Proof.Machine.execShl f s
  | .shr f => Sys2Proof.Machine.execShr f s
  | .sra f => Sys2Proof.Machine.execSra f s
  | .mul f => Sys2Proof.Machine.execMul f s
  | .mulh f => Sys2Proof.Machine.execMulh f s
  | .mulhu f => Sys2Proof.Machine.execMulhu f s
  | .min f => Sys2Proof.Machine.execMin f s
  | .max f => Sys2Proof.Machine.execMax f s
  | .minu f => Sys2Proof.Machine.execMinu f s
  | .maxu f => Sys2Proof.Machine.execMaxu f s
  | .seq f => Sys2Proof.Machine.execSeq f s
  | .sne f => Sys2Proof.Machine.execSne f s
  | .slt f => Sys2Proof.Machine.execSlt f s
  | .sltu f => Sys2Proof.Machine.execSltu f s
  | .sle f => Sys2Proof.Machine.execSle f s
  | .sleu f => Sys2Proof.Machine.execSleu f s
  | .sel f => Sys2Proof.Machine.execSel f s
  | .mov f => Sys2Proof.Machine.execMov f s
  | .abs f => Sys2Proof.Machine.execAbs f s
  | .neg f => Sys2Proof.Machine.execNeg f s
  | .clz f => Sys2Proof.Machine.execClz f s
  | .ctz f => Sys2Proof.Machine.execCtz f s
  | .popc f => Sys2Proof.Machine.execPopc f s
  | .bfx f => Sys2Proof.Machine.execBfx f s
  | .bfi f => Sys2Proof.Machine.execBfi f s
  | .addi f => Sys2Proof.Machine.execAddi f s
  | .andi f => Sys2Proof.Machine.execAndi f s
  | .ori f => Sys2Proof.Machine.execOri f s
  | .xori f => Sys2Proof.Machine.execXori f s
  | .shli f => Sys2Proof.Machine.execShli f s
  | .shri f => Sys2Proof.Machine.execShri f s
  | .srai f => Sys2Proof.Machine.execSrai f s
  | .muli f => Sys2Proof.Machine.execMuli f s
  | .li f => Sys2Proof.Machine.execLi f s
  | .lih f => Sys2Proof.Machine.execLih f s
  | .lix f => Sys2Proof.Machine.execLix f s
  | .lit f => Sys2Proof.Machine.execLit f s
  | .mfli f => Sys2Proof.Machine.execMfli f s
  | .mflc f => Sys2Proof.Machine.execMflc f s
  | .slti f => Sys2Proof.Machine.execSlti f s
  | .seqi f => Sys2Proof.Machine.execSeqi f s
  | .vadd f => Sys2Proof.Machine.execVadd f s
  | .vsub f => Sys2Proof.Machine.execVsub f s
  | .vadds f => Sys2Proof.Machine.execVadds f s
  | .vsubs f => Sys2Proof.Machine.execVsubs f s
  | .vmul f => Sys2Proof.Machine.execVmul f s
  | .vmulh f => Sys2Proof.Machine.execVmulh f s
  | .vmad f => Sys2Proof.Machine.execVmad f s
  | .vand f => Sys2Proof.Machine.execVand f s
  | .vor f => Sys2Proof.Machine.execVor f s
  | .vxor f => Sys2Proof.Machine.execVxor f s
  | .vandn f => Sys2Proof.Machine.execVandn f s
  | .vshl f => Sys2Proof.Machine.execVshl f s
  | .vshr f => Sys2Proof.Machine.execVshr f s
  | .vsra f => Sys2Proof.Machine.execVsra f s
  | .vmin f => Sys2Proof.Machine.execVmin f s
  | .vmax f => Sys2Proof.Machine.execVmax f s
  | .vabs f => Sys2Proof.Machine.execVabs f s
  | .vneg f => Sys2Proof.Machine.execVneg f s
  | .vcmp f => Sys2Proof.Machine.execVcmp f s
  | .vfadd f => Sys2Proof.Machine.execVfadd f s
  | .vfsub f => Sys2Proof.Machine.execVfsub f s
  | .vfmul f => Sys2Proof.Machine.execVfmul f s
  | .vfma f => Sys2Proof.Machine.execVfma f s
  | .vfmin f => Sys2Proof.Machine.execVfmin f s
  | .vfmax f => Sys2Proof.Machine.execVfmax f s
  | .vfabs f => Sys2Proof.Machine.execVfabs f s
  | .vfneg f => Sys2Proof.Machine.execVfneg f s
  | .vfcmp f => Sys2Proof.Machine.execVfcmp f s
  | .vfrnd f => Sys2Proof.Machine.execVfrnd f s
  | .vrcp f => Sys2Proof.Machine.execVrcp f s
  | .vrsq f => Sys2Proof.Machine.execVrsq f s
  | .vexp2 f => Sys2Proof.Machine.execVexp2 f s
  | .vlog2 f => Sys2Proof.Machine.execVlog2 f s
  | .vtanh f => Sys2Proof.Machine.execVtanh f s
  | .vsigm f => Sys2Proof.Machine.execVsigm f s
  | .vrng f => Sys2Proof.Machine.execVrng f s
  | .vcvt f => Sys2Proof.Machine.execVcvt f s
  | .vqnt f => Sys2Proof.Machine.execVqnt f s
  | .vdqnt f => Sys2Proof.Machine.execVdqnt f s
  | .pand f => Sys2Proof.Machine.execPand f s
  | .por f => Sys2Proof.Machine.execPor f s
  | .pxor f => Sys2Proof.Machine.execPxor f s
  | .pnot f => Sys2Proof.Machine.execPnot f s
  | .pmov f => Sys2Proof.Machine.execPmov f s
  | .psetn f => Sys2Proof.Machine.execPsetn f s
  | .vsel f => Sys2Proof.Machine.execVsel f s
  | .vperm f => Sys2Proof.Machine.execVperm f s
  | .vrot f => Sys2Proof.Machine.execVrot f s
  | .vshfl f => Sys2Proof.Machine.execVshfl f s
  | .vbcst f => Sys2Proof.Machine.execVbcst f s
  | .vmov f => Sys2Proof.Machine.execVmov f s
  | .vradd f => Sys2Proof.Machine.execVradd f s
  | .vrmax f => Sys2Proof.Machine.execVrmax f s
  | .vrmin f => Sys2Proof.Machine.execVrmin f s
  | .vrfadd f => Sys2Proof.Machine.execVrfadd f s
  | .vrfmax f => Sys2Proof.Machine.execVrfmax f s
  | .vband f => Sys2Proof.Machine.execVband f s
  | .vpopc f => Sys2Proof.Machine.execVpopc f s
  | .vpfx f => Sys2Proof.Machine.execVpfx f s
  | .visect f => Sys2Proof.Machine.execVisect f s
  | .vcsw f => Sys2Proof.Machine.execVcsw f s
  | .vcswx f => Sys2Proof.Machine.execVcswx f s
  | .malloc f => Sys2Proof.Machine.execMalloc f s
  | .mfree f => Sys2Proof.Machine.execMfree f s
  | .mband f => Sys2Proof.Machine.execMband f s
  | .mzero f => Sys2Proof.Machine.execMzero f s
  | .mldw f => Sys2Proof.Machine.execMldw f s
  | .mmul f => Sys2Proof.Machine.execMmul f s
  | .mmulg f => Sys2Proof.Machine.execMmulg f s
  | .mmuls f => Sys2Proof.Machine.execMmuls f s
  | .mmulb f => Sys2Proof.Machine.execMmulb f s
  | .mmulc f => Sys2Proof.Machine.execMmulc f s
  | .mcond f => Sys2Proof.Machine.execMcond f s
  | .mchain f => Sys2Proof.Machine.execMchain f s
  | .mchainRecv f => Sys2Proof.Machine.execMchainRecv f s
  | .mdrain f => Sys2Proof.Machine.execMdrain f s
  | .mchk f => Sys2Proof.Machine.execMchk f s
  | .ldv f => Sys2Proof.Machine.execLdv f s
  | .stv f => Sys2Proof.Machine.execStv f s
  | .lds f => Sys2Proof.Machine.execLds f s
  | .sts f => Sys2Proof.Machine.execSts f s
  | .ldx f => Sys2Proof.Machine.execLdx f s
  | .stx f => Sys2Proof.Machine.execStx f s
  | .ldf f => Sys2Proof.Machine.execLdf f s
  | .stf f => Sys2Proof.Machine.execStf f s
  | .mark f => Sys2Proof.Machine.execMark f s
  | .sfence f => Sys2Proof.Machine.execSfence f s
  | .vjoin f => Sys2Proof.Machine.execVjoin f s
  | .rset f => Sys2Proof.Machine.execRset f s
  | .rpush f => Sys2Proof.Machine.execRpush f s
  | .xcopy f => Sys2Proof.Machine.execXcopy f s
  | .xcopyt f => Sys2Proof.Machine.execXcopyt f s
  | .xpair f => Sys2Proof.Machine.execXpair f s
  | .xfill f => Sys2Proof.Machine.execXfill f s
  | .xgath f => Sys2Proof.Machine.execXgath f s
  | .xscat f => Sys2Proof.Machine.execXscat f s
  | .xacc f => Sys2Proof.Machine.execXacc f s
  | .xcas f => Sys2Proof.Machine.execXcas f s
  | .xnear f => Sys2Proof.Machine.execXnear f s
  | .xsend f => Sys2Proof.Machine.execXsend f s
  | .xpost f => Sys2Proof.Machine.execXpost f s
  | .xcoll f => Sys2Proof.Machine.execXcoll f s
  | .xfence f => Sys2Proof.Machine.execXfence f s
  | .xhand f => Sys2Proof.Machine.execXhand f s
  | .xtake f => Sys2Proof.Machine.execXtake f s
  | .xmedia f => Sys2Proof.Machine.execXmedia f s
  | .xspill f => Sys2Proof.Machine.execXspill f s
  | .xrecall f => Sys2Proof.Machine.execXrecall f s
  | .qpop f => Sys2Proof.Machine.execQpop f s
  | .kbl f => Sys2Proof.Machine.execKbl f s
  | .kblW f => Sys2Proof.Machine.execKblW f s
  | .kxpat f => Sys2Proof.Machine.execKxpat f s
  | .flagsRd f => Sys2Proof.Machine.execFlagsRd f s
  | .flagsClr f => Sys2Proof.Machine.execFlagsClr f s
  | .flagsEn f => Sys2Proof.Machine.execFlagsEn f s
  | .kscale f => Sys2Proof.Machine.execKscale f s
  | .kscalei f => Sys2Proof.Machine.execKscalei f s
  | .krbind f => Sys2Proof.Machine.execKrbind f s
  | .krec f => Sys2Proof.Machine.execKrec f s
  | .krclr f => Sys2Proof.Machine.execKrclr f s
  | .kseal f => Sys2Proof.Machine.execKseal f s
  | .cksum f => Sys2Proof.Machine.execCksum f s
  | .ttq f => Sys2Proof.Machine.execTtq f s
  | .ttset f => Sys2Proof.Machine.execTtset f s
  | .ttsettle f => Sys2Proof.Machine.execTtsettle f s
  | .ttpromo f => Sys2Proof.Machine.execTtpromo f s
  | .jcbadd f => Sys2Proof.Machine.execJcbadd f s
  | .jcbdone f => Sys2Proof.Machine.execJcbdone f s
  | .jcbq f => Sys2Proof.Machine.execJcbq f s
  | .jemit f => Sys2Proof.Machine.execJemit f s
  | .jemitMark f => Sys2Proof.Machine.execJemitMark f s
  | .jroute f => Sys2Proof.Machine.execJroute f s
  | .jgen f => Sys2Proof.Machine.execJgen f s
  | .jrpl f => Sys2Proof.Machine.execJrpl f s
  | .jtrunc f => Sys2Proof.Machine.execJtrunc f s
  | .ctag f => Sys2Proof.Machine.execCtag f s
  | .resq f => Sys2Proof.Machine.execResq f s
  | .deferredTrap => Sys2Proof.Machine.execDeferredTrap s
  | .resultLanding => Sys2Proof.Machine.execResultLanding s
  | .farDataArrival c p rid => Sys2Proof.Machine.execFarDataArrival c p rid s
  | .timedLanding => Sys2Proof.Machine.execTimedLanding s
  | .segmentFetchDone c p => Sys2Proof.Machine.execSegmentFetchDone c p s
  | .emptyBundle => Sys2Proof.Machine.execEmptyBundle s
  | .eclipseSwap => Sys2Proof.Machine.execEclipseSwap s
  | .pushWindowWrite c off lid d => Sys2Proof.Machine.execPushWindowWrite c off lid d s
  | .pushWindowAdmit c => Sys2Proof.Machine.execPushWindowAdmit c s
  | .mInstructionStart => Sys2Proof.Machine.execMInstructionStart s
  | .mInstructionRetire => Sys2Proof.Machine.execMInstructionRetire s
  | .drainVectorPush => Sys2Proof.Machine.execDrainVectorPush s
  | .chainForm c => Sys2Proof.Machine.execChainForm c s
  | .accWindowWrite c row d => Sys2Proof.Machine.execAccWindowWrite c row d s
  | .stWrite q v => Sys2Proof.Machine.execStWrite q v s
  | .hcWrite q v => Sys2Proof.Machine.execHcWrite q v s
  | .launchRecordRead q => Sys2Proof.Machine.execLaunchRecordRead q s
  | .launchPlace => Sys2Proof.Machine.execLaunchPlace s
  | .agingTick q => Sys2Proof.Machine.execAgingTick q s
  | .taskSave c p => Sys2Proof.Machine.execTaskSave c p s
  | .launchRestore lid => Sys2Proof.Machine.execLaunchRestore lid s
  | .launchComplete lid => Sys2Proof.Machine.execLaunchComplete lid s
  | .faultAck q => Sys2Proof.Machine.execFaultAck q s
  | .dependenceWatchdog q => Sys2Proof.Machine.execDependenceWatchdog q s
  | .runWatchdog lid => Sys2Proof.Machine.execRunWatchdog lid s
  | .dispatcherFailover => Sys2Proof.Machine.execDispatcherFailover s
  | .arrivalDeliver n => Sys2Proof.Machine.execArrivalDeliver n s
  | .communicationPhase lid level inst => Sys2Proof.Machine.execCommunicationPhase lid level inst s
  | .jcbApply n => Sys2Proof.Machine.execJcbApply n s
  | .translationWalk die sp va write fetch => Sys2Proof.Machine.execTranslationWalk die sp va write fetch s
  | .translationInvalidate sp lo hi => Sys2Proof.Machine.execTranslationInvalidate sp lo hi s
  | .channelReplay c ch => Sys2Proof.Machine.execChannelReplay c ch s
  | .channelAbort c ch => Sys2Proof.Machine.execChannelAbort c ch s
  | .offerTakeable c slot => Sys2Proof.Machine.execOfferTakeable c slot s
  | .xtakeApply n => Sys2Proof.Machine.execXtakeApply n s
  | .frameReturn n => Sys2Proof.Machine.execFrameReturn n s
  | .offloadDone n => Sys2Proof.Machine.execOffloadDone n s
  | .tileCheckRetry sp ref => Sys2Proof.Machine.execTileCheckRetry sp ref s
  | .luxMergeApply n => Sys2Proof.Machine.execLuxMergeApply n s
  | .lqPerform c p => Sys2Proof.Machine.execLqPerform c p s
  | .sqLeave c p => Sys2Proof.Machine.execSqLeave c p s
  | .scopePropagate n => Sys2Proof.Machine.execScopePropagate n s
  | .viewSeenRaise c row view idx => Sys2Proof.Machine.execViewSeenRaise c row view idx s
  | .engineAccessPerform c n => Sys2Proof.Machine.execEngineAccessPerform c n s
  | .commandStart c ch => Sys2Proof.Machine.execCommandStart c ch s
  | .commandComplete c ch => Sys2Proof.Machine.execCommandComplete c ch s
  | .atomicApply c ch => Sys2Proof.Machine.execAtomicApply c ch s
  | .fabricMessageArrive src sp tag data => Sys2Proof.Machine.execFabricMessageArrive src sp tag data s
  | .collectiveMatch lid level inst id => Sys2Proof.Machine.execCollectiveMatch lid level inst id s
  | .viewCacheFill die view tile => Sys2Proof.Machine.execViewCacheFill die view tile s
  | .hostAccess write pa n data => Sys2Proof.Machine.execHostAccess write pa n data s
  | .managementWrite off v => Sys2Proof.Machine.execManagementWrite off v s
  | .linkFlitResend => Sys2Proof.Machine.execLinkFlitResend s
  | .deviceFailed => Sys2Proof.Machine.execDeviceFailed s
  | .deviceReset => Sys2Proof.Machine.execDeviceReset s
  | .secureBoot k g v1 v2 v3 d1 d2 d3 => Sys2Proof.Machine.execSecureBoot k g v1 v2 v3 d1 d2 d3 s
  | .attestNonceWrite n => Sys2Proof.Machine.execAttestNonceWrite n s
  | .attestReportDone => Sys2Proof.Machine.execAttestReportDone s
  | .ageingUpdate n margin remaining => Sys2Proof.Machine.execAgeingUpdate n margin remaining s
  | .powerStateRequest st => Sys2Proof.Machine.execPowerStateRequest st s
  | .idleEntry => Sys2Proof.Machine.execIdleEntry s
  | .lowExit => Sys2Proof.Machine.execLowExit s
  | .clockStepDown => Sys2Proof.Machine.execClockStepDown s
  | .clockStepUp => Sys2Proof.Machine.execClockStepUp s
  | .criticalTemperature => Sys2Proof.Machine.execCriticalTemperature s
  | .journalAppendAssign => Sys2Proof.Machine.execJournalAppendAssign s
  | .mirrorEntryWrite src entry => Sys2Proof.Machine.execMirrorEntryWrite src entry s
  | .mirrorAck stream seq => Sys2Proof.Machine.execMirrorAck stream seq s
  | .mirrorLost stream => Sys2Proof.Machine.execMirrorLost stream s
  | .jmirrorWrite v => Sys2Proof.Machine.execJmirrorWrite v s
  | .replayStart stream src => Sys2Proof.Machine.execReplayStart stream src s
  | .dieLinkRetrain up => Sys2Proof.Machine.execDieLinkRetrain up s
  | .fabricPortFailure p => Sys2Proof.Machine.execFabricPortFailure p s
  | .fabricPeerRequest write pa n sp data => Sys2Proof.Machine.execFabricPeerRequest write pa n sp data s
  | .residencyRecallDone n => Sys2Proof.Machine.execResidencyRecallDone n s

end Sys2Proof.Machine
end

