-- ==== Sys2Proof/Machine/Sequencer.lean ====
section
/-!
DEFINITION. One turn of a core (R11 to R24, R226 to R228, R363 to R369): the group's checks against the state its
instructions will meet, the issue of a bundle, and what a core does that cannot issue.
-/

namespace Sys2Proof.Machine

/-! ### Checking a group (R12, R14, R61; DESIGN CHOICE, log entry 9) -/

/-- The next state of an outcome; no meaning answers otherwise. -/
def nextOf (o : Host.Outcome State Fault Refusal) (s : State) : State :=
  match o with
  | .next t => t
  | .fault _ => s
  | .refused _ => s

/-- The instructions of a bundle in the order of their effects: slots 1 to 7, then slot 0. DEDUCED: log entry 70. -/
def inOrder (l : List Placed) : List Placed := (l.filter fun x => x.slot != 0) ++ l.filter fun x => x.slot == 0

/-- The state at the start of a bundle: its place in the group, what it pops, and what lands and happens before it. -/
def State.enterBundle (s : State) (l : List Placed) (pos : Nat) (m : Mode) : State :=
  (s.modPl fun p =>
    { p with bun := p.bun + BitVec.ofNat 12 (pos - p.grp), grp := pos, mode := m, found := [], willPop := l.flatMap fun x => (usesOf p x.ins).pops }).bundleStart

/-- The precise causes of an instruction at its own bundle. -/
def State.causesOf (s : State) (x : Placed) : List Found :=
  (nextOf (exec x.ins (s.modPl fun p => { p with mode := .check, found := [] })) s).pl.found

/-- RESULT_QUEUE of the second or third landing-buffer entry a bundle needs (R21). -/
def State.lbMore (s : State) (l : List Placed) (x : Placed) : List Found :=
  let k := (l.filter fun y => landsLate y.ins && y.slot < x.slot).length
  if landsLate x.ins ∧ 0 < k ∧ s.pl.lbUsed < Config.lbCap ∧ Config.lbCap ≤ s.pl.lbUsed + k then
    [⟨resultQueue 8, x.pos, x.slot⟩]
  else []

/-- What a far access finds before its group issues, noted with the frame taken for an STF that will promote a tile (R126,
R278). -/
def State.takeLook (s : State) (pos : Nat) (write : Bool) (va : Word) (own : Bool) : State :=
  let r := s.farLook write va
  match r.1 with
  | .error _ => s
  | .ok k =>
    let frame := match k with
      | .sym l _ => if own then (vget r.2.dv.pool l.die []).head?.map fun f => (l.die, f) else none
      | .mem _ _ | .view _ _ => none
    let s1 := match frame with | some x => r.2.claimFrame x.1 x.2 | none => r.2
    s1.modPl fun p => { p with looks := p.looks ++ [⟨pos, write, va, k, frame.map (·.2)⟩] }

/-- The far access of an instruction noted; an STF whose entry does not agree with its tag takes no frame (R301). -/
def State.noteLook (s : State) (x : Placed) : State :=
  match x.ins with
  | .ldf f => s.takeLook x.pos false (s.rdS f.sx) false
  | .stf f => let e := s.pl.headOf (lq f.cl f.q); s.takeLook x.pos true (s.rdS f.sx) (rowTag e.data = e.tag)
  | _ => s

/-- A group's simulated issue: the state, the causes found, the registers written since its first bundle. -/
structure Sim where
  s : State
  found : List Found
  landed : List Key
  deriving DecidableEq, Repr

/-- Registers written between two states by results that landed and M-slot instructions that retired. -/
def landedKeys (a b : Plane) : List Key :=
  ((a.flight.filter fun f => b.flight.all fun g => g.id != f.id).flatMap fun f => f.dest.key) ++
  ((a.m.filter fun e => e.open_ && b.m.all fun g => g.issued != e.issued || !g.open_).flatMap MEnt.key)

/-- One bundle of a group simulated: checks at its start, then the effects of what passes them. -/
def Sim.bundle (x : Sim) (b : Nat × Bundle) : Sim :=
  let l := placed b.1 b.2
  let s1 := x.s.enterBundle l b.1 .run
  let landed := if b.1 = 0 then [] else x.landed ++ landedKeys x.s.pl s1.pl
  let causes := l.map fun p => (p, s1.causesOf p)
  let found := causes.flatMap fun p => p.2 ++ s1.lbMore l p.1 ++ p.1.pinFaults (usesOf s1.pl p.1.ins) landed
  let go := inOrder ((causes.filter fun p => p.2.isEmpty).map (·.1))
  let s2 := go.foldl (fun s p => nextOf (exec p.ins s) s) (go.foldl State.noteLook s1)
  ⟨s2.bundleEnd, x.found ++ found, landed⟩

/-- The group at pc simulated from the state at its start. -/
def State.groupSim (s : State) : Sim :=
  s.pl.groupBundles.foldl Sim.bundle ⟨s.modPl fun p => { p with gEnd := p.group.1.length, looks := [] }, [], []⟩

/-- Every precise cause of the group at pc (R14). -/
def State.groupCauses (s : State) : List Found :=
  let s0 := s.modPl fun p => { p with gEnd := p.group.1.length }
  (s0.enterBundle [] 0 .run).pl.groupFaults ++ s.groupSim.found

/-- Whether an instruction accesses far memory by a virtual address (R125). -/
def Placed.isFar (x : Placed) : Bool := match x.ins with | .ldf _ | .stf _ => true | _ => false

/-- A far access's translation made before its group issues: the core freezes while a walk is outstanding, and a frame leaves its
pool (R19, R126). -/
def State.lookAhead (s : State) (x : Looked) : State :=
  let va := x.va.toNat / 256 * 256
  let die := dieOf s.co.id
  let walk := (s.dv.viewAt die s.pl.space va).isNone && s.dv.needsWalk die none s.pl.space x.write va
  let s1 := (s.farLook x.write x.va).2
  let s2 := if walk then s1.freeze else s1
  match x.frame with
  | some f => s2.claimFrame (homeDie (f * 65536)) f
  | none => s2

/-- The far accesses of the group at pc looked up before it issues (R126). -/
def State.lookUp (s : State) : State :=
  if s.pl.placedGroup.any Placed.isFar then
    let l := s.groupSim.s.pl.looks
    (l.foldl State.lookAhead s).modPl fun p => { p with looks := l }
  else s.modPl fun p => { p with looks := [] }

/-! ### Issuing a bundle (R14, R15, R28) -/

/-- The instructions of a bundle, one after another. -/
def runSlots : List Placed → State → Host.Outcome State Fault Refusal
  | [], s => .next s
  | x :: t, s =>
    match exec x.ins s with
    | .next s1 => runSlots t s1
    | .fault r => .fault r
    | .refused r => .refused r

/-- The words of the bundle at pc, decoded. -/
def Plane.bundleHere (p : Plane) : List Placed :=
  match (p.cur.map (·.bundles)).getD [] |>.drop p.bun.toNat with
  | b :: _ => placed p.grp b
  | [] => []

/-- The bundle at pc issues; after the last of its group control leaves the group. -/
def State.issueBundle (s : State) : Host.Outcome State Fault Refusal :=
  let l := s.pl.bundleHere
  match runSlots (inOrder l) (s.enterBundle l s.pl.grp .run) with
  | .next s1 =>
    let s2 := s1.bundleEnd.modPl fun p => { p with mode := .direct, willPop := [], found := [] }
    .next (if s2.pl.grp + 1 < s2.pl.gEnd then s2.modPl fun p => { p with grp := p.grp + 1, bun := p.bun + 1#12 } else s2.leave)
  | .fault r => .fault r
  | .refused r => .refused r

/-- Whether the bundle at pc waits for an entry of xq (R338). -/
def State.xqHeld (s : State) : Bool :=
  s.pl.xq.isEmpty && s.outstanding && s.pl.bundleHere.any fun x => waitsXq x.ins

/-- A group starts: its far accesses are looked up, its first bundle issues, and a YIELD in the other plane is over (R126,
R228). -/
def State.startGroup (s0 : State) : Host.Outcome State Fault Refusal :=
  let s := s0.lookUp
  let n := s.pl.group.1.length
  State.issueBundle
    { s with pl := { s.pl with gEnd := n, safe := false }, co := { s.co with shadow := s.co.shadow.unyield } }

/-! ### A group boundary (R365 to R369) -/

/-- The precise cause of the next group: what its segment met, or the lowest of its checks; none while an RSET of it waits
for a ring (R128). -/
def State.preciseCause (s : State) : Option Cause :=
  match s.pl.cur.bind (·.err) with
  | some c => some c
  | none =>
    if s.pl.len ≤ s.pl.bun.toNat then some badSegment
    else if s.ringHeld s.pl.placedGroup then none
    else (bestFound s.groupCauses).map (·.cause)

/-- The cause a boundary raises: the lowest code (R367). DEDUCED: log entry 98. A group that issues governs the enables of
its first bundle's landings (R143). -/
def State.raised (s : State) (precise : Option Cause) : Option (Cause × Word × Option Gathered) :=
  match bestGathered (if precise.isNone then s.gatherNext else s.gather), precise with
  | none, none => none
  | some g, none => some (g.cause, g.req, some g)
  | none, some c => some (c, 0#64, none)
  | some g, some c => if c.code.toNat < g.cause.code.toNat then some (c, 0#64, none) else some (g.cause, g.req, some g)

/-- Whether a cause is one that a drain found by reading another core's tables, a read for which the core freezes 4 cycles (R19,
R198). -/
def State.remoteAcc (s : State) (c : Cause) : Bool :=
  (c.code = 0x19#8 || c.code = 0x1A#8) && bitsOf c.detail.toNat 13 2 != s.co.id % 4

/-- A boundary at which the next group can be checked: a trap, a pre-emption, a freeze, an empty bundle, or the group's first
bundle. -/
def State.boundary (s : State) : Host.Outcome State Fault Refusal :=
  let l := s.pl.placedGroup
  if s.groupBlind l s.pl.group.1.length then .next s.stall
  else match s.raised s.preciseCause with
    | some (c, req, g) =>
      .next ((if g.isNone && s.remoteAcc c && !(s.pl.tbase.getLsbD 63 && s.pl.uncaptured) then s.pass 4 else s).boundaryTrap c req g)
    | none =>
      if s.saveNow then .next (s.modPl fun p => { p with wait := some .save })
      else if s.groupHeld l || s.xqHeld then .next s.stall
      else if s.ringHeld l then .next s.emptyBundle
      else s.startGroup

/-- A boundary at a segment end whose next segment is not there: only a held TRAP or BRKPT and what is due are raised. -/
def State.bareBoundary (s : State) : State :=
  match s.raised none with
  | some (c, req, g) => s.boundaryTrap c req g
  | none => s.stall

/-! ### A turn -/

/-- A ready task that must end at a group boundary starts to end (R246); a frozen one waits for its freeze. -/
def State.halting (s : State) : State :=
  if s.pl.endReq && s.pl.grp == 0 && (s.pl.enter.isNone || s.pl.held.isSome) then
    s.modPl fun p => { p with wait := some .halt, intrap := false, hdefer := [] }
  else s

/-- Whether the watchdog ends the task now: at a boundary, or frozen (R380). -/
def State.limitNow (s : State) : Bool := s.limitHit && (s.pl.grp == 0 || s.frozen || s.xqHeld)

/-- The next bundle of a task that does not wait. -/
def State.advance (s : State) : Host.Outcome State Fault Refusal :=
  if s.pl.enter.isSome then .next (if s.pl.held.isSome then s.bareBoundary else s.stall)
  else if s.frozen then .next s.stall
  else if s.pl.grp = 0 then s.boundary
  else if s.xqHeld then .next s.stall
  else s.issueBundle

/-- Whether a task that would be saved meets a cause first: a pre-emption request waits for it (R367). -/
def State.unsaved (s : State) (w : Wait) : Bool := w == .save && s.pl.causeDue

/-- A turn of a ready task. -/
def State.runReady (s : State) : Host.Outcome State Fault Refusal :=
  if s.limitNow then .next (s.endTask s.co.id s.co.lit none true)
  else
    let s1 := s.halting
    match s1.pl.wait with
    | none => s1.advance
    | some w =>
      if s1.frozen then .next s1.stall
      else if s1.waitHolds s1.pl w || s1.unsaved w then State.advance (s1.modPl fun p => { p with wait := none })
      else .next (s1.waitTurn w)

/-- A task of which an uncorrectable bit stands in its registers, latches, stacks or landing buffer ends with an error completion
(R371). -/
def State.softEnd (s : State) : State :=
  let p := s.pl
  (s.logErr (dieOf s.co.id) 4 0#64).endTask s.co.id s.co.lit
    (some (⟨0x22#8, BitVec.ofNat 64 (2 <<< 60)⟩, (mkAddr p.seg.toNat p.bun.toNat).setWidth 64)) false

/-- A turn of the focused core. A failed device runs nothing (R382). -/
def State.turn (s : State) : Host.Outcome State Fault Refusal :=
  if s.dv.mg.failed then .next s
  else if s.pl.live ∧ s.pl.soft then .next s.softEnd
  else if s.pl.canRun ∧ s.pl.lbErr then .next s.reexpand
  else match s.pl.status with
    | .empty | .parked | .ended => .next s.eclipse
    | .loaded => State.runReady (s.modPl fun p => { p with status := .ready })
    | .ready => s.runReady

end Sys2Proof.Machine
end

