-- ==== Sys2Proof/Machine/Step.lean ====
section
/-!
DEFINITION. The step: one turn of a core, or one event of the agenda (DESIGN CHOICE, log entry 4); and placing one instruction where the
next step fetches it.
-/

namespace Sys2Proof.Machine

/-- Completion records that have room and are in order are written (R239, R245); a failed device writes none (R382). -/
def State.flushAll (s : State) : State :=
  if s.dv.mg.failed then s else (upTo 0 16).foldl (fun s q => s.flush q (2 ^ 16 + 1)) s

/-- What follows every step: tasks asked to end do, arrivals whose retire point has come are delivered, completion records are
written, and waits whose condition holds are over (R227, R230, R239, R246). -/
def State.settled (s : State) : State := s.reap.sweep.deliverDone.flushAll.wake

/-- An outcome after what follows every step. -/
def settle (o : Host.Outcome State Fault Refusal) : Host.Outcome State Fault Refusal :=
  match o with
  | .next s => .next s.settled
  | .fault r => .fault r
  | .refused r => .refused r

/-- Events that happen inside a core's turns only (DESIGN CHOICE, log entry 27). -/
def inTurn : Instr → Bool
  | .deferredTrap | .resultLanding | .timedLanding | .emptyBundle | .eclipseSwap | .mInstructionStart
  | .mInstructionRetire | .drainVectorPush => true
  | _ => false

/-- One step: the next act of the agenda, or, with nothing on it, a turn of the focused core. -/
def step (s : State) : Host.Outcome State Fault Refusal :=
  match s.agenda with
  | [] => settle s.turn
  | .turn c :: t => settle ({ s with agenda := t }.focusOn c).turn
  | .ev e :: t => settle (if e.isEvent && !inTurn e then exec e { s with agenda := t } else .next { s with agenda := t })

/-- A bundle that holds one word in a slot and ends its group. -/
def oneWord (slot : Nat) (w : BitVec 32) : Bundle :=
  bundleOf ((List.range 8).map fun i => (if i = slot then w else 0#32) ||| (if i = 0 then 0x80000000#32 else 0#32))

/-- The slot whose map reads a table word (DESIGN CHOICE, log entry 5). -/
def tableSlot (w : Nat) : Nat := (tableSlots.find? fun k => (decodeSlot k (.ofNat 32 w)).toOption.isSome).getD 1

/-- The word as the one bundle of the executing segment of the focused core's lit plane, a ready task at its start (DESIGN CHOICE, log
entry 1). -/
def State.withFetchWord (s : State) (nbits w : Nat) : State :=
  let b : SegBuf := ⟨0, [oneWord (tableSlot w) (BitVec.ofNat 32 (w % 2 ^ nbits))], 0#64, 0, none, none, false⟩
  let p : Plane := { s.pl with status := .ready, seg := 0#32, bun := 0#12, cur := some b, enter := none, wait := none, endReq := false,
                               held := none, grp := 0, mode := .direct, soft := false, lbErr := false }
  { s with pl := p, agenda := [] }

end Sys2Proof.Machine
end

