-- ==== Sys2Proof/Safety.lean ====
section
/-!
DEFINITION. What counts as a safe run, in the terms the claims use.
-/

namespace Sys2Proof.Machine

/-- A step goes on: it neither faults nor is refused. -/
def State.goesOn (s : State) : Prop := ∃ t, step s = .next t

/-- A run of `n` steps that never stops. -/
def State.safeFor (n : Nat) (s : State) : Prop := ∃ t, Host.Core.run Sys2Proof.core n s = .next t

/-- No task waits for a condition that already holds (R226, R227): every parked task's wait is open. -/
def State.noLostWake (s : State) : Prop :=
  ∀ b ∈ s.boxes, ∀ p, p = b.pl ∨ p = b.co.shadow → ∀ w, p.status = .parked → p.wait = some w → s.waitHolds p w = false

end Sys2Proof.Machine
end

