-- ==== Sys2Proof/WellFormed.lean ====
section
/-!
DEFINITION. Well-formed instructions: a slot word whose every field holds a value its layout allows (R45 to R56).
The checks themselves are `fieldErr` of Decode.lean, which the decoder applies too.
-/

namespace Sys2Proof

/-- A well-formed instruction: it has a slot word, and no field holds a value its layout rules out. -/
def Instr.wf (i : Instr) : Bool := !i.isEvent && (fieldErr i).isNone

end Sys2Proof
end

