-- ==== Sys2Proof/Certificates/Slice0/Obligations.lean ====
section
/-!
DEFINITION. The statements for the provers, and the few shapes they share. A result in flight lands as LandingWritesDestination says;
an arrival an issue counts is what ArrivalIssueCounts says. Completion statements hold in every mode of the checks (log
entry 9): their premises are the checks on the operands, and nothing else.
-/

namespace Sys2Proof.Claim

open Sys2Proof.Machine

/-- None of the listed precise checks fails. -/
def Passes (l : List (Option Cause)) : Prop := ∀ c ∈ l, c = none

/-- `i` completes from `s` in `t`, and nothing of the machine changes but the executing plane, the barriers at which the
AR selector counts the issue (R230), and the device's next number. -/
def Local (i : Instr) (s t : State) (ar : BitVec 2) : Prop :=
  exec i s = .next t ∧
    t = { s with pl := t.pl, dv := { s.dv with bars := (s.owe ar).2.dv.bars, nextId := t.dv.nextId } }

/-- `r` is a result due `lat` bundles after the present one, in `d`, with the arrival the AR selector owes. -/
def Due (s : State) (r : Flight) (ar : BitVec 2) (lat : Nat) (d : Dest) : Prop :=
  r.due = s.pl.bcount + lat ∧ r.dest = d ∧ r.arr = s.pl.owes ar ∧ r.take = none

/-- `i` completes with one scalar result, `v` in `sd` after `lat` bundles, and no other effect on the plane. -/
def Scalar (i : Instr) (s : State) (ar : BitVec 2) (lat : Nat) (sd : BitVec 5) (v : Word) : Prop :=
  ∃ t r, Local i s t ar ∧ t.pl = { s.pl with flight := s.pl.flight ++ [r] } ∧ Due s r ar lat (.sreg sd) ∧
    r.val = v.setWidth 2048 ∧ r.flags = 0#5 ∧ r.known = true ∧ r.arrived = true ∧ r.qfSet = none

/-- `i` completes with no effect but on the executing plane, which becomes `p`. -/
def OnPlane (i : Instr) (s : State) (p : Plane) : Prop := exec i s = .next { s with pl := p }

/-- The value of truth. -/
def truth (b : Bool) : Word := if b then 1#64 else 0#64

/-- A bundle of the executing segment, by its number. -/
abbrev InSegment (p : Plane) (b : Nat) : Prop := b < (p.cur.map (·.bundles.length)).getD 0

end Sys2Proof.Claim

open Sys2Proof Sys2Proof.Machine Sys2Proof.Claim

/-! ### Encoding -/

/-- R43 to R62: the decoder reads back every well-formed instruction that the encoder writes, every operand at every
value. -/
def Obligations.DecodeReadsBackEncode : Prop :=
  ∀ i : Instr, i.wf = true → decodeSlot i.slot (encode i) = .ok i

/-- R46, R47, R110: the words the spec prints for its sample instructions decode to those instructions. -/
def Obligations.PrintedWordsDecode : Prop :=
  decodeSlot 1 0x008C2200#32 = .ok (.add ⟨0#2, 3#5, 1#5, 2#5⟩) ∧
  decodeSlot 1 0x0B9C8530#32 = .ok (.sel ⟨0#2, 7#5, 4#5, 5#5, 6#5⟩) ∧
  decodeSlot 1 0x0F092608#32 = .ok (.bfx ⟨0#2, 2#5, 9#5, 12#6, 8#7⟩) ∧
  decodeSlot 1 0x1318C03F#32 = .ok (.srai ⟨0#2, 6#5, 6#5, 63#6⟩) ∧
  decodeSlot 1 0x140BFFFF#32 = .ok (.li ⟨0#2, 2#5, 0x3FFFF#18⟩) ∧
  decodeSlot 1 0x15908000#32 = .ok (.lit ⟨0#2, 4#5, 0x8000#16⟩) ∧
  decodeSlot 1 0x16940001#32 = .ok (.mflc ⟨0#2, 5#5, 1#3⟩) ∧
  decodeSlot 0 0x810DFFFB#32 = .ok (.br ⟨1#1, 3#5, 1#2, 0xFFFB#16⟩) ∧
  decodeSlot 0 0x81EC000C#32 = .ok (.brp ⟨1#1, 1#1, 2#2, 1#1, 2#2, 12#16⟩) ∧
  decodeSlot 0 0x86800012#32 = .ok (.trap ⟨1#1, 0x12#16⟩) ∧
  decodeSlot 0 0x8C100002#32 = .ok (.mfsr ⟨1#1, 4#5, 0x002#12⟩) ∧
  decodeSlot 0 0x84806001#32 = .ok (.loopi ⟨1#1, 3#10, 0#1, 1#12⟩)
  ∧ decodeSlot 2 0x00888604#32 = .ok (.vadd ⟨0#1, 0#2, 1#4, 2#5, 3#5, 0#1, 0#1, 0#3, 4#4⟩) ∧
  decodeSlot 3 0x0D21771C#32 = .ok (.vfmul ⟨1#1, 0#2, 4#4, 5#5, 27#5, 1#1, 0#1, 1#3, 12#4⟩) ∧
  decodeSlot 4 0x0490A61A#32 = .ok (.mmul ⟨0#2, 4#5, 5#5, 6#5, 0#1, 1#3, 10#4⟩) ∧
  decodeSlot 5 0x03880064#32 = .ok (.ldf ⟨0#2, 2#5, 0#1, 0#4, 100#12⟩) ∧
  decodeSlot 6 0x0090A620#32 = .ok (.xcopy ⟨0#2, 4#5, 5#5, 6#5, 1#3, 0#1, 0#1, 0#1⟩) ∧
  decodeSlot 7 0x0290C009#32 = .ok (.flagsClr ⟨0#2, 4#5, 6#5, 1#3⟩)

namespace Sys2Proof.Claim

/-- The opcodes that a slot's map assigns, NOP's 0 among them (R57 to R60). -/
def assigned : Nat → List Nat
  | 0 => List.range 0x1A
  | 1 => List.range 0x30
  | 2 | 3 => List.range 0x14 ++ List.range' 0x18 10 ++ List.range' 0x28 7 ++ List.range' 0x30 3 ++ List.range' 0x38 6 ++
      List.range' 0x40 6 ++ List.range' 0x48 5 ++ List.range' 0x50 6
  | 4 => List.range 5 ++ List.range' 0x08 9 ++ [0x12]
  | 5 => List.range 0x0E
  | 6 => List.range 0x13
  | _ => [0x00, 0x01, 0x03, 0x04, 0x05] ++ List.range' 0x08 7 ++ List.range' 0x10 4 ++ List.range' 0x18 3 ++
      List.range' 0x20 5 ++ [0x28, 0x29]

end Sys2Proof.Claim

/-- R57 to R62: a word whose opcode its slot's map does not assign, past the map's end or in one of its holes, gives
ILLEGAL_OPCODE, reason 0, field 0xFF, whatever the other bits, in every slot; a VB-only opcode (0x28 to 0x2E) in VA gives
reason 1, field 0xFF; the sample words of R62 are refused as it prints. -/
def Obligations.RefusedWords : Prop :=
  (∀ slot < 8, ∀ w : BitVec 32, (w.extractLsb' 23 7).toNat ∉ assigned slot → decodeSlot slot w = .error ⟨1, 0, 0xFF⟩) ∧
  (∀ w : BitVec 32, 0x28 ≤ (w.extractLsb' 23 7).toNat → (w.extractLsb' 23 7).toNat ≤ 0x2E →
    decodeSlot 2 w = .error ⟨1, 1, 0xFF⟩) ∧
  decodeSlot 0 0x40000000#32 = .error ⟨2, 2, 30⟩ ∧ decodeSlot 3 0x40000000#32 = .error ⟨2, 2, 30⟩ ∧
  decodeSlot 2 0x17000000#32 = .error ⟨1, 1, 0xFF⟩ ∧ decodeSlot 2 0x0A000000#32 = .error ⟨1, 0, 0xFF⟩ ∧
  decodeSlot 2 (0x00800000#32 + (29#32 <<< 14)) = .error ⟨2, 3, 14⟩

/-- R64: a mask byte and the words of the slots whose bit is 1, in ascending slot order, each little-endian, expand to the
bundle that holds each present word exactly and 0 in an absent slot, and the bytes after it are left; the compressed form the
model writes is taken back. -/
def Obligations.BundleCompressionTakesBack : Prop :=
  (∀ (m : Byte) (w : Nat → BitVec 32) (rest : List Byte),
    let bytes := (List.range 8).flatMap fun i =>
      if m.getLsbD i then (List.range 4).map fun j => (w i).extractLsb' (8 * j) 8 else []
    ∃ b : Bundle, takeBundle (m :: bytes ++ rest) = some (b, rest) ∧
      ∀ i < 8, b.toList.getD i 0#32 = if m.getLsbD i then w i else 0#32) ∧
  ∀ (b : Bundle) (rest : List Byte), takeBundle (compress b ++ rest) = some (b, rest)

/-! ### The step -/

/-- R11 to R14, R44: when the bundle at the program counter holds one word, in slot k, that decodes to `i` (the others
are absent, or slot 0's NOP that only ends the group), and nothing holds the plane (no trap, save, freeze, wait, soft
error or loop-buffer error), a turn runs `i` on the state at the start of the bundle, the group's far accesses looked up
before its first one (R126); the bundle's end and the way on follow it: the next bundle of the group, or what comes
after the group. Model's choice: whose turn it is (log entry 4), the order of effects in a bundle (70), and that a
group's checks are decided before its first bundle issues (9). -/
def Obligations.StepRunsDecodedInstruction : Prop :=
  ∀ (s : State) (b : Bundle) (k : Nat) (i : Instr) (t : State),
    let u := s.lookUp
    let g : State := if s.pl.grp = 0 then
        { u with pl := { u.pl with gEnd := u.pl.group.1.length, safe := false },
                 co := { u.co with shadow := u.co.shadow.unyield } }
      else s
    let word := fun j => b.toList.getD j 0#32
    s.agenda = [] → s.dv.mg.failed = false → s.pl.status = .ready → s.pl.soft = false → s.pl.lbErr = false →
    s.limitNow = false → s.pl.endReq = false → s.pl.wait = none → s.pl.enter = none → s.frozen = false →
    s.xqHeld = false →
    (s.pl.grp = 0 →
      s.groupBlind s.pl.placedGroup s.pl.group.1.length = false ∧ s.raised s.preciseCause = none ∧
      s.saveNow = false ∧ s.groupHeld s.pl.placedGroup = false ∧ s.ringHeld s.pl.placedGroup = false) →
    ((s.pl.cur.map (·.bundles)).getD [])[s.pl.bun.toNat]? = some b → k < 8 →
    (∀ j < 8, j ≠ k → word j = 0#32 ∨ (j = 0 ∧ word j = 0x80000000#32)) → decodeSlot k (word k) = .ok i →
    exec i (g.enterBundle g.pl.bundleHere g.pl.grp .run) = .next t →
    step s = .next (State.settled
      (let s2 := t.bundleEnd.modPl fun p => { p with mode := .direct, willPop := [], found := [] }
       if s2.pl.grp + 1 < s2.pl.gEnd then s2.modPl fun p => { p with grp := p.grp + 1, bun := p.bun + 1#12 } else s2.leave))

/-- No step of the machine faults or refuses: an event, a turn and every instruction go on (R61, R96: what a core
cannot do, it traps on). Model's choice: that an event whose condition does not hold changes nothing (log entry 4). -/
def Obligations.EveryStepGoesOn : Prop :=
  (∀ s, ∃ t, step s = .next t) ∧ ∀ i s, ∃ t, exec i s = .next t

/-- R227: after any step no task sleeps on a condition that holds: the invariant every step establishes. Model's
choice: a wait is released in the step that makes its condition hold (log entry 32). -/
def Obligations.StepsLoseNoWakeup : Prop :=
  ∀ s t, s.noLostWake → step s = .next t → t.noLostWake

/-- R225, R226: no task waits after reset, so the invariant of StepsLoseNoWakeup holds there. Model's choice: the
planes of the reset state (log entry 3) and its memory (2). -/
def Obligations.ResetLosesNoWakeup : Prop := State.reset.noLostWake ∧ Memory.wf State.reset.dv.mem

/-- R230: after a step no arrival is left whose operation is at its retire point with no store to wait for. Model's
choice: delivery in that very step (log entry 32). -/
def Obligations.ArrivalsAreDelivered : Prop :=
  ∀ s t, step s = .next t → ∀ a ∈ t.dv.arrQ, a.stores ≠ []

/-! ### Scalar registers and results in flight -/

/-- R104, R105: every register-form operation reads its sources at issue and writes the table's value to sd, one bundle
later, a multiplication three. -/
def Obligations.RegisterFormResults : Prop :=
  ∀ (f : SR) (s : State),
    let a := s.rdS f.sa
    let b := s.rdS f.sb
    let k := b.toNat % 64
    (∀ p ∈ ([(.add f, a + b), (.sub f, a - b), (.and f, a &&& b), (.or f, a ||| b), (.xor f, a ^^^ b),
        (.andn f, a &&& ~~~b), (.shl f, a <<< k), (.shr f, a >>> k), (.sra f, BitVec.ofInt 64 (a.toInt / 2 ^ k)),
        (.min f, if b.toInt < a.toInt then b else a), (.max f, if a.toInt < b.toInt then b else a),
        (.minu f, if b.toNat < a.toNat then b else a), (.maxu f, if a.toNat < b.toNat then b else a),
        (.seq f, truth (a == b)), (.sne f, truth (a != b)), (.slt f, truth (decide (a.toInt < b.toInt))),
        (.sltu f, truth (decide (a.toNat < b.toNat))), (.sle f, truth (decide (a.toInt ≤ b.toInt))),
        (.sleu f, truth (decide (a.toNat ≤ b.toNat)))] : List (Instr × Word)), Scalar p.1 s f.ar 1 f.sd p.2) ∧
    (∀ p ∈ ([(.mul f, BitVec.ofInt 64 (a.toInt * b.toInt)), (.mulh f, BitVec.ofInt 64 (a.toInt * b.toInt / 2 ^ 64)),
        (.mulhu f, BitVec.ofNat 64 (a.toNat * b.toNat / 2 ^ 64))] : List (Instr × Word)), Scalar p.1 s f.ar 3 f.sd p.2)

/-- R106 to R110: select, the one-source operations, bit fields, the immediate forms, the constant loads and the loop
registers; where the spec gives a count or a field, by its bits. -/
def Obligations.OtherScalarResults : Prop :=
  (∀ (f : SSel) (s : State),
    Scalar (.sel f) s f.ar 1 f.sd (if s.rdS f.sc ≠ 0#64 then s.rdS f.sa else s.rdS f.sb)) ∧
  (∀ (f : SOne) (s : State),
    let a := s.rdS f.sa
    Scalar (.mov f) s f.ar 1 f.sd a ∧ Scalar (.abs f) s f.ar 1 f.sd (BitVec.ofInt 64 (a.toInt.natAbs : Int)) ∧
    Scalar (.neg f) s f.ar 1 f.sd (BitVec.ofInt 64 (-a.toInt)) ∧
    (∃ n ≤ 64, (∀ i < 64, 64 - n ≤ i → a.getLsbD i = false) ∧ (n < 64 → a.getLsbD (63 - n) = true) ∧
      Scalar (.clz f) s f.ar 1 f.sd (BitVec.ofNat 64 n)) ∧
    (∃ n ≤ 64, (∀ i < n, a.getLsbD i = false) ∧ (n < 64 → a.getLsbD n = true) ∧
      Scalar (.ctz f) s f.ar 1 f.sd (BitVec.ofNat 64 n)) ∧
    Scalar (.popc f) s f.ar 1 f.sd (BitVec.ofNat 64 ((List.range 64).countP fun i => a.getLsbD i))) ∧
  (∀ (f : SFld) (s : State),
    (∃ v : Word, (∀ i < 64, v.getLsbD i = (decide (i < f.wid.toNat) && (s.rdS f.sa).getLsbD (f.pos.toNat + i))) ∧
      Scalar (.bfx f) s f.ar 1 f.sd v) ∧
    ∃ v : Word, (∀ i < 64, v.getLsbD i = if f.pos.toNat ≤ i ∧ i < f.pos.toNat + f.wid.toNat
        then (s.rdS f.sa).getLsbD (i - f.pos.toNat) else (s.rdS f.sd).getLsbD i) ∧
      Scalar (.bfi f) s f.ar 1 f.sd v) ∧
  (∀ (f : SImm) (s : State),
    let a := s.rdS f.sa
    let m : Word := f.imm.signExtend 64
    (∀ p ∈ ([(.addi f, a + m), (.andi f, a &&& m), (.ori f, a ||| m), (.xori f, a ^^^ m),
        (.slti f, truth (decide (a.toInt < f.imm.toInt))), (.seqi f, truth (a == m))] : List (Instr × Word)),
      Scalar p.1 s f.ar 1 f.sd p.2) ∧
    Scalar (.muli f) s f.ar 3 f.sd (BitVec.ofInt 64 (a.toInt * f.imm.toInt))) ∧
  (∀ (f : SSh) (s : State),
    let a := s.rdS f.sa
    Scalar (.shli f) s f.ar 1 f.sd (a <<< f.sh.toNat) ∧ Scalar (.shri f) s f.ar 1 f.sd (a >>> f.sh.toNat) ∧
    Scalar (.srai f) s f.ar 1 f.sd (BitVec.ofInt 64 (a.toInt / 2 ^ f.sh.toNat))) ∧
  (∀ (f : SLi) (s : State), Scalar (.li f) s f.ar 1 f.sd (f.imm.signExtend 64)) ∧
  (∀ (f : SIns) (s : State), ∀ p ∈ ([(.lih f, 16), (.lix f, 32), (.lit f, 48)] : List (Instr × Nat)),
    ∃ v : Word, (∀ i < 64, v.getLsbD i = if p.2 ≤ i ∧ i < p.2 + 16 then f.imm.getLsbD (i - p.2)
        else (s.rdS f.sd).getLsbD i) ∧ Scalar p.1 s f.ar 1 f.sd v) ∧
  ∀ (f : SLv) (s : State),
    Scalar (.mfli f) s f.ar 1 f.sd (((s.pl.liveLoops[f.lvl.toNat]?).map fun l => l.index.setWidth 64).getD 0#64) ∧
    Scalar (.mflc f) s f.ar 1 f.sd (((s.pl.liveLoops[f.lvl.toNat]?).map fun l => l.count.setWidth 64).getD 0#64)

/-- R15, R17, R22, R25: at the start of a bundle exactly the results due by its count leave the flight, and no other; a result that lands
writes its destination and no other register or queue: the full 64 bits of a scalar register, nothing for s0, which
reads as zero; a predicate; a scale register; a queue's tail. -/
def Obligations.LandingWritesDestination : Prop :=
  (∀ s : State, s.landDue.pl.flight = s.pl.flight.filter fun f => decide (s.pl.bcount < f.due)) ∧
  (∀ (s : State), s.rdS 0#5 = 0#64) ∧
  ∀ (s : State) (f : Flight),
    let t := s.land f
    (∀ r, f.dest = .sreg r → t.rdS r = (if r = 0#5 then 0#64 else f.val.setWidth 64)) ∧
    (∀ r, f.dest ≠ .sreg r → t.rdS r = s.rdS r) ∧
    (∀ k, k < 8 → vget t.pl.pr k 0#256 = if f.dest = .pred k then f.val.setWidth 256 else vget s.pl.pr k 0#256) ∧
    (∀ n, n < 8 → (vget t.pl.ks n ⟨0#64, 0#32⟩).w =
      if f.dest = .scale n then f.val.setWidth 64 else (vget s.pl.ks n ⟨0#64, 0#32⟩).w) ∧
    (∀ q, q < 32 → t.pl.queue q = if f.dest = .vq q then s.pl.queue q ++ [⟨f.val, f.tag⟩] else s.pl.queue q) ∧
    t.pl.queue 32 = if f.dest = .mq then s.pl.queue 32 ++ [⟨f.val, f.tag⟩] else s.pl.queue 32

/-- R230: an AR selector that is 0, or bound to nothing, owes no arrival and changes nothing; any other counts one issue,
I, of the executing task at the bound barrier and moves no other count and no other part of the machine. -/
def Obligations.ArrivalIssueCounts : Prop :=
  ∀ (s : State) (ar : BitVec 2),
    let b := (vget s.pl.ab (ar.toNat - 1) 0#8).toNat
    let lv := b / 32
    let nm := b % 32
    let own := s.barOwner s.pl.lid lv
    let inst := s.barInst s.pl.lid s.pl.rank lv
    let t := (s.owe ar).2
    t = { s with dv := { s.dv with bars := t.dv.bars } } ∧
    if ar = 0#2 ∨ lv = 0 then s.pl.owes ar = none ∧ t = s
    else
      s.pl.owes ar = some ⟨s.pl.lid, s.pl.rank, lv, nm, ar.toNat⟩ ∧
      ((t.bar own lv inst nm).counts s.pl.lid s.pl.rank).i =
        ((s.bar own lv inst nm).counts s.pl.lid s.pl.rank).i + 1 ∧
      ((t.bar own lv inst nm).counts s.pl.lid s.pl.rank).d =
        ((s.bar own lv inst nm).counts s.pl.lid s.pl.rank).d ∧
      (t.bar own lv inst nm).phase = (s.bar own lv inst nm).phase ∧
      (∀ lid rank, ¬(lid = s.pl.lid ∧ rank = s.pl.rank) →
        (t.bar own lv inst nm).counts lid rank = (s.bar own lv inst nm).counts lid rank) ∧
      ∀ o l i n, ¬(o = own ∧ l = lv ∧ i = inst ∧ n = nm) → t.bar o l i n = s.bar o l i n

/-! ### Control -/

/-- R85 to R88, R93: a jump, branch or call whose target lies in the executing segment, away from the end bundle of the
innermost live level, chooses its target; BR by its condition, BRP by a uniform predicate; a branch not taken changes
nothing; a call pushes the address after its bundle. -/
def Obligations.JumpsChooseTarget : Prop :=
  (∀ (f : CJ) (s : State) (b : Nat), (s.pl.bun.toNat : Int) + f.off.toInt = b → InSegment s.pl b →
    s.pl.endFault = none →
    OnPlane (.jmp f) s { s.pl with xfer := some (.bundle b) } ∧
    (s.pl.rets.length < 16 →
      OnPlane (.call f) s { s.pl with xfer := some (.bundle b), rets := s.pl.retEntry :: s.pl.rets })) ∧
  (∀ (f : CS) (s : State), InSegment s.pl (s.rdS f.s).toNat → s.pl.endFault = none →
    OnPlane (.jmpi f) s { s.pl with xfer := some (.bundle (s.rdS f.s).toNat) } ∧
    (s.pl.rets.length < 16 →
      OnPlane (.calli f) s { s.pl with xfer := some (.bundle (s.rdS f.s).toNat), rets := s.pl.retEntry :: s.pl.rets })) ∧
  (∀ (f : CBr) (s : State) (b : Nat), (s.pl.bun.toNat : Int) + f.off.toInt = b → InSegment s.pl b →
    let v := s.rdS f.s
    let taken := (f.cond = 0#2 ∧ v = 0#64) ∨ (f.cond = 1#2 ∧ v ≠ 0#64) ∨ (f.cond = 2#2 ∧ v.toInt < 0) ∨
      (f.cond = 3#2 ∧ 0 ≤ v.toInt)
    (taken → s.pl.endFault = none → OnPlane (.br f) s { s.pl with xfer := some (.bundle b) }) ∧
    (¬taken → OnPlane (.br f) s s.pl)) ∧
  ∀ (f : CBrp) (s : State) (b : Nat), (s.pl.bun.toNat : Int) + f.off.toInt = b → InSegment s.pl b →
    let set := fun e => (s.pl.pred f.cl.toNat f.pn.toNat).getLsbD (e * 2 ^ f.w.toNat)
    let all := ∀ e < 256 / 2 ^ f.w.toNat, set e = true
    let none_ := ∀ e < 256 / 2 ^ f.w.toNat, set e = false
    let taken := (all ∧ f.sense = 0#1) ∨ (none_ ∧ f.sense = 1#1)
    (taken → s.pl.endFault = none → OnPlane (.brp f) s { s.pl with xfer := some (.bundle b) }) ∧
    (¬taken → (all ∨ none_) → OnPlane (.brp f) s s.pl)

/-- R89, R90, R91, R94: RET pops the newest return entry above the floor and goes to it; SEGJ names a segment of the
table; LOOP and LOOPI note a level with count, index 0 and the body's bounds, or with count 0 the way past the end;
BRKL drops its levels and leaves as from the outermost one's end, and in the end bundle of a level opened with P makes a
safe point (R372). A return from the last bundle of a segment is read by
inference (log entry 30). -/
def Obligations.ReturnsSegmentsAndLoops : Prop :=
  (∀ (f : CN) (s : State) (e : BitVec 44) (rest : List (BitVec 44)), s.pl.liveRets = e :: rest → s.pl.endFault = none →
    OnPlane (.ret f) s
      { s.pl with rets := s.pl.rets.tail, xfer := some (.segment (e.toNat / 4096 % 2 ^ 32) (e.toNat % 4096)) }) ∧
  (∀ (f : CSeg) (s : State), (f.idx.setWidth 64 + s.rdS f.s).toNat < s.pl.nseg → s.pl.endFault = none →
    OnPlane (.segj f) s { s.pl with xfer := some (.segment (f.idx.setWidth 64 + s.rdS f.s).toNat 0) }) ∧
  (∀ (s : State) (p : Instr × BitVec 32 × Nat × Bool),
    (∃ f : CLp, p = (.loop f, (s.rdS f.s).setWidth 32, f.dist.toNat + 1, f.pre == 1#1)) ∨
    (∃ f : CLpi, p = (.loopi f, f.n.setWidth 32, f.dist.toNat + 1, f.pre == 1#1)) →
    let first := s.pl.bun.toNat - s.pl.grp + s.pl.gEnd
    let stop := s.pl.bun.toNat + p.2.2.1
    first ≤ stop → InSegment s.pl stop → (∀ l, s.pl.levelHere = some l → stop ≤ l.stop.toNat) → s.pl.loops.length < 6 →
    OnPlane p.1 s (if p.2.1 = 0#32 then { s.pl with skipTo := some (stop + 1) }
      else { s.pl with loopNew := some ⟨p.2.1, 0#32, s.pl.seg, BitVec.ofNat 12 first, BitVec.ofNat 12 stop, p.2.2.2⟩ })) ∧
  ∀ (f : CK) (s : State) (l : Loop), s.pl.liveLoops[f.k.toNat]? = some l →
    OnPlane (.brkl f) s
      { s.pl with loops := s.pl.loops.drop (f.k.toNat + 1), safe := s.pl.safe || s.pl.endSafe,
                  xfer := some (.after l.seg.toNat l.stop.toNat) }

/-- R44, R98, R99, R100, R228, R373: NOP does nothing, SAFE makes a safe point outside a handler, TRAP and BRKPT choose
their trap with its code, HALT and ERET the task's end and the return, ECLIPSE and YIELD their waits. Where a TRAP ends
its segment: log entry 71. -/
def Obligations.SequencerInstructions : Prop :=
  ∀ s : State,
    (∀ f : CN, OnPlane (.nop f) s s.pl ∧
      OnPlane (.safe f) s { s.pl with safe := s.pl.safe || !s.pl.intrap } ∧
      OnPlane (.halt f) s { s.pl with xfer := some .halt } ∧
      OnPlane (.eclipse f) s { s.pl with wait := some .eclipse } ∧
      OnPlane (.yield f) s { s.pl with wait := some (.yield false) } ∧
      (s.pl.intrap = true → s.pl.endFault = none → OnPlane (.eret f) s { s.pl with xfer := some .eret })) ∧
    ∀ f : CCode, OnPlane (.trap f) s { s.pl with xfer := some (.software ⟨0x30#8, f.code.setWidth 64⟩ false) } ∧
      OnPlane (.brkpt f) s { s.pl with xfer := some (.software ⟨0x31#8, f.code.setWidth 64⟩ true) }

/-- R101, R102: MFSR completes for every register the table lists and gives sd that register's value, one bundle on:
pcreg the address of its own bundle, seqdepth, qf, tbase, epc, ecause, edetail, ereq, estatus, cycle, bcount, coreid,
dmr0 to dmr4 and jmirror; MTSR completes for every writable one and writes the listed bits of qf, tbase or epc and no other
state; a word that names another register, or a read-only one in MTSR, is refused with reason 3, field 0. Model's choice:
seqdepth in a handler (log entry 111). -/
def Obligations.SystemRegisterAccess : Prop :=
  (∀ (f : CMf) (s : State),
    let p := s.pl
    let core := s.co.id
    ∀ v : Nat, (f.reg, v) ∈ ([(0x000#12, p.seg.toNat * 4096 + p.bun.toNat), (0x001#12, p.loops.length + p.rets.length * 256),
        (0x002#12, (truth p.qf).toNat), (0x008#12, p.tbase.toNat), (0x009#12, p.epc.toNat), (0x00A#12, p.ecause.toNat),
        (0x00B#12, p.edetail.toNat), (0x00C#12, p.ereq.toNat),
        (0x00D#12, (truth p.intrap).toNat + p.loopFloor * 2 + p.retFloor * 16 + p.captured * 512),
        (0x010#12, p.cycle), (0x011#12, p.bcount), (0x018#12, core / 24 * 65536 + core / 4 * 256 + core),
        (0x020#12, (vget p.dmr 0 0#64).toNat), (0x021#12, (vget p.dmr 1 0#64).toNat), (0x022#12, (vget p.dmr 2 0#64).toNat),
        (0x023#12, (vget p.dmr 3 0#64).toNat), (0x024#12, (vget p.dmr 4 0#64).toNat), (0x030#12, s.dv.jnl.jm.toNat)] :
          List (BitVec 12 × Nat)) →
      Scalar (.mfsr f) s 0#2 1 f.sd (BitVec.ofNat 64 v)) ∧
  (∀ (f : CMt) (s : State),
    let v := s.rdS f.sa
    f.reg = 0x002#12 ∨ f.reg = 0x008#12 ∨ f.reg = 0x009#12 →
      exec (.mtsr f) s = .next { s with pl :=
        if f.reg = 0x002#12 then { s.pl with qf := v.getLsbD 0 }
        else if f.reg = 0x008#12 then { s.pl with tbase := v &&& 0x80000FFFFFFFFFFF#64 }
        else { s.pl with epc := v &&& 0xFFFFFFFFFFF#64 } }) ∧
  (∀ f : CMf, (Instr.mfsr f).wf = true ↔ f.reg ∈ [0x000#12, 0x001#12, 0x002#12, 0x008#12, 0x009#12, 0x00A#12, 0x00B#12,
    0x00C#12, 0x00D#12, 0x010#12, 0x011#12, 0x018#12, 0x020#12, 0x021#12, 0x022#12, 0x023#12, 0x024#12, 0x030#12]) ∧
  (∀ f : CMt, (Instr.mtsr f).wf = true ↔ f.reg ∈ [0x002#12, 0x008#12, 0x009#12]) ∧
  (∀ f : CMf, (Instr.mfsr f).wf = false → decodeSlot 0 (encode (.mfsr f)) = .error ⟨2, 3, 0⟩) ∧
  ∀ f : CMt, (Instr.mtsr f).wf = false → decodeSlot 0 (encode (.mtsr f)) = .error ⟨2, 3, 0⟩

/-- R231, R232, R237: WAITB waits until the phase reaches the task's issued count, ARRIVE counts an issue whose
delivery waits for the task's stores at the level, ARWAIT does both, SSTEP marks the task and waits for the phase,
WAITJ for its block; a wait whose condition holds is none (R226). When a delivery is made: log entries 32 and 46. -/
def Obligations.BarriersAndWaits : Prop :=
  (∀ (f : CBar) (s : State),
    let lv := f.lvl.toNat
    let nm := f.num.toNat
    let own := s.barOwner s.pl.lid lv
    let inst := s.barInst s.pl.lid s.pl.rank lv
    let mine (u : State) := ((u.bar own lv inst nm).counts s.pl.lid s.pl.rank).i
    OnPlane (.waitb f) s
      (if mine s ≤ (s.bar own lv inst nm).phase then s.pl else { s.pl with wait := some (.bar lv nm (mine s)) }) ∧
    (∃ t, exec (.arrive f) s = .next t ∧ mine t = mine s + 1 ∧
      t = { s with dv := { s.dv with
        bars := t.dv.bars, arrQ := s.dv.arrQ ++ [⟨⟨s.pl.lid, s.pl.rank, lv, nm, 0⟩, s.taskStores s.pl, lv⟩] } }) ∧
    ∃ t, exec (.arwait f) s = .next t ∧ mine t = mine s + 1 ∧
      t.pl = (if mine s + 1 ≤ (s.bar own lv inst nm).phase then s.pl else { s.pl with wait := some (.bar lv nm (mine s + 1)) }) ∧
      t = { s with pl := t.pl, dv := { s.dv with
        bars := t.dv.bars, arrQ := s.dv.arrQ ++ [⟨⟨s.pl.lid, s.pl.rank, lv, nm, 0⟩, s.taskStores s.pl, lv⟩] } }) ∧
  (∀ (f : CLvl) (s : State),
    let lv := f.lvl.toNat
    let own := s.barOwner s.pl.lid lv
    let inst := s.barInst s.pl.lid s.pl.rank lv
    ∃ t, exec (.sstep f) s = .next t ∧ (s.pl.lid, s.pl.rank) ∈ (t.sstep own lv inst).marks ∧
      (t.sstep own lv inst).count = (s.sstep own lv inst).count ∧
      t = { s with pl := { s.pl with wait := some (.sstep lv (s.sstep own lv inst).count), safe := s.pl.safe || !s.pl.intrap },
                   dv := { s.dv with steps := t.dv.steps } }) ∧
  ∀ (f : CS) (s s1 : State) (blk : Block), s.blockPa false (s.rdS f.s) = (.ok blk, s1) →
    (∀ pa, blk = .at_ pa → exec (.waitj f) s = .next (if s1.waitHolds s1.pl (.jcb pa) then s1
      else { s1 with pl := { s1.pl with wait := some (.jcb pa) } })) ∧
    ∀ b, blk = .row b → exec (.waitj f) s = .next (if b.getLsbD 96 = true then s1
      else { s1 with pl := { s1.pl with wait := some (.jcbBit false) } })

/-! ### Loops, traps and the return from them -/

/-- R92: end processing of bundle b: with no level, or one of another segment or with another end, control goes to b + 1
and no level changes; a level with more iterations counts down, its index up, and control goes to its start; a level's
last iteration pops it and the next level is treated alike. A group that ends without a transfer goes on at the result. -/
def Obligations.EndProcessingFollowsLoops : Prop :=
  (∀ (p : Plane) (seg : BitVec 32) (b : Nat),
    (p.liveLoops = [] → (p.endProc seg b).1 = b + 1 ∧ (p.endProc seg b).2.loops = p.loops) ∧
    ∀ l rest, p.liveLoops = l :: rest →
      (l.seg ≠ seg ∨ l.stop.toNat ≠ b → (p.endProc seg b).1 = b + 1 ∧ (p.endProc seg b).2.loops = p.loops) ∧
      (l.seg = seg → l.stop.toNat = b → l.count ≠ 1#32 →
        (p.endProc seg b).1 = l.start.toNat ∧
        (p.endProc seg b).2.loops = { l with count := l.count - 1#32, index := l.index + 1#32 } :: p.loops.tail) ∧
      (l.seg = seg → l.stop.toNat = b → l.count = 1#32 →
        let q : Plane := { p with loops := p.loops.tail }
        (p.endProc seg b).1 = (q.endProc seg b).1 ∧ (p.endProc seg b).2.loops = (q.endProc seg b).2.loops)) ∧
  ∀ (s : State) (c : SegBuf), s.pl.xfer = none → s.pl.skipTo = none → s.pl.cur = some c → c.err = none →
    c.idx = s.pl.seg.toNat → c.bundles.length ≤ 4096 →
    let next := (s.pl.endProc s.pl.seg s.pl.bun.toNat).1
    next < c.bundles.length →
    s.leave = { s with pl := { (s.pl.endProc s.pl.seg s.pl.bun.toNat).2 with
                  bun := BitVec.ofNat 12 next, grp := 0, enter := none, looks := [] } }

/-- R96: a trap taken with tbase[63] set records epc, the cause, its detail and request, sets intrap and the floors, and
moves every result in flight, with its remaining distance, into the pending-landing store; control goes to the segment
and bundle that tbase names; every other register and queue of the task keeps its value. -/
def Obligations.TrapEntryRecordsAndVectors : Prop :=
  ∀ (s : State) (c : Cause) (req : Word) (seg bun : Nat), s.pl.intrap = false → s.pl.tbase.getLsbD 63 = true →
    let t := s.takeTrap c req seg bun
    let hseg := s.pl.tbase.toNat / 2 ^ 12 % 2 ^ 32
    let hbun := s.pl.tbase.toNat % 2 ^ 12
    t.co = s.co ∧ t.others = s.others ∧ t.dv = s.dv ∧
    t.pl.epc = BitVec.ofNat 64 (seg % 2 ^ 32 * 4096 + bun % 4096) ∧ t.pl.ecause = c.code ∧ t.pl.edetail = c.detail ∧
    t.pl.ereq = req ∧ t.pl.intrap = true ∧ t.pl.loopFloor = s.pl.loops.length ∧ t.pl.retFloor = s.pl.rets.length ∧
    t.pl.captured = (s.pl.pending ++ s.pl.flight).length ∧ t.pl.flight = [] ∧
    t.pl.pending = s.pl.pending ++ s.pl.flight.map (fun f => { f with due := f.due + 1 - s.pl.bcount }) ∧
    (t.pl.enter = some ⟨hseg, hbun, .trap⟩ ∨
      (t.pl.enter = none ∧ t.pl.seg = BitVec.ofNat 32 hseg ∧ t.pl.bun = BitVec.ofNat 12 hbun)) ∧
    t.pl.s = s.pl.s ∧ t.pl.vq = s.pl.vq ∧ t.pl.mq = s.pl.mq ∧ t.pl.pr = s.pl.pr ∧ t.pl.bl = s.pl.bl ∧
    t.pl.flags = s.pl.flags ∧ t.pl.ks = s.pl.ks ∧ t.pl.xp = s.pl.xp ∧ t.pl.rg = s.pl.rg ∧ t.pl.loops = s.pl.loops ∧
    t.pl.rets = s.pl.rets ∧ t.pl.tbase = s.pl.tbase ∧ t.pl.xq = s.pl.xq ∧ t.pl.qf = s.pl.qf ∧ t.pl.lq = s.pl.lq ∧
    t.pl.sq = s.pl.sq ∧ t.pl.m = s.pl.m ∧ t.pl.ab = s.pl.ab ∧ t.pl.dmr = s.pl.dmr

/-- R96, R97: a trap with tbase[63] clear, or raised while intrap is 1, ends the task: its plane is empty, it counts as
ended, and its launch, if no error stood, carries the cause and the address as its error, status 2. What the completion
of a trap in a handler carries is read by inference (log entry 29), and so is the empty plane (40). -/
def Obligations.TrapWithoutHandlerEndsTask : Prop :=
  ∀ (s : State) (c : Cause) (req : Word) (seg bun : Nat) (l : Launch),
    s.pl.intrap = true ∨ s.pl.tbase.getLsbD 63 = false → s.launch? s.pl.lid = some l → l.status = 0 → l.err = none →
    let t := s.takeTrap c req seg bun
    t.pl.status = .empty ∧
    ∃ l', t.launch? s.pl.lid = some l' ∧ l'.status = 2 ∧
      l'.err = some (s.pl.rank, c, BitVec.ofNat 64 (seg % 2 ^ 32 * 4096 + bun % 4096)) ∧
      ∀ k ∈ l'.tasks, k.rank = s.pl.rank → k.ended = true

/-- R99, R23, R17: ERET drops what stands above the floors, clears intrap, lands each captured result at its remaining
distance counted from the next bundle, in issue order before the handler's own results, and goes to the segment and bundle
of epc. -/
def Obligations.EretRestores : Prop :=
  ∀ s : State, s.pl.epcBad = false →
    let t := s.eretNow
    let seg := s.pl.epc.toNat / 2 ^ 12 % 2 ^ 32
    let bun := s.pl.epc.toNat % 2 ^ 12
    t.co = s.co ∧ t.others = s.others ∧ t.dv = s.dv ∧ t.pl.intrap = false ∧ t.pl.loopFloor = 0 ∧ t.pl.retFloor = 0 ∧
    t.pl.captured = 0 ∧ t.pl.pending = [] ∧
    t.pl.loops = s.pl.loops.drop (s.pl.loops.length - s.pl.loopFloor) ∧
    t.pl.rets = s.pl.rets.drop (s.pl.rets.length - s.pl.retFloor) ∧
    t.pl.flight = s.pl.pending.map (fun f => { f with due := s.pl.bcount + f.due - 1 }) ++ s.pl.flight ∧
    (t.pl.enter = some ⟨seg, bun, .eret⟩ ∨
      (t.pl.enter = none ∧ t.pl.seg = BitVec.ofNat 32 seg ∧ t.pl.bun = BitVec.ofNat 12 bun)) ∧
    t.pl.s = s.pl.s ∧ t.pl.vq = s.pl.vq ∧ t.pl.mq = s.pl.mq ∧ t.pl.pr = s.pl.pr ∧ t.pl.bl = s.pl.bl ∧
    t.pl.flags = s.pl.flags ∧ t.pl.ks = s.pl.ks ∧ t.pl.xp = s.pl.xp ∧ t.pl.rg = s.pl.rg ∧ t.pl.xq = s.pl.xq ∧
    t.pl.m = s.pl.m ∧ t.pl.tbase = s.pl.tbase ∧ t.pl.epc = s.pl.epc

namespace Sys2Proof.Claim

/-- `i`'s check at its own bundle fails with `c`: the check of its group, made before the group issues, finds `c` (R14),
and issued by itself it takes the trap `c` (log entry 9). -/
def Fails (i : Instr) (s : State) (c : Cause) : Prop :=
  (s.pl.mode = .check → ∃ t, exec i s = .next t ∧ ⟨c, s.pl.grp, i.slot⟩ ∈ t.pl.found) ∧
  (s.pl.mode = .direct → exec i s = .next (s.preciseTrap c))

/-- A turn of the focused core stands at a group's start with nothing that holds the plane: no trap, save, freeze, wait,
soft error or loop-buffer error. -/
def AtBoundary (s : State) : Prop :=
  s.agenda = [] ∧ s.dv.mg.failed = false ∧ s.pl.status = .ready ∧ s.pl.soft = false ∧ s.pl.lbErr = false ∧
    s.limitNow = false ∧ s.pl.endReq = false ∧ s.pl.wait = none ∧ s.pl.enter = none ∧ s.frozen = false ∧ s.pl.grp = 0 ∧
    s.groupBlind s.pl.placedGroup s.pl.group.1.length = false

end Sys2Proof.Claim

/-- R14, R30, R33, R35, R89, R91, R93, R94, R96, R99, R193: a check that fails is found before its group issues, and the
step takes its trap at the group's first bundle and issues no bundle of the group, unless a cause gathered at the
boundary has a lower code; of the group's causes the lowest code is raised. With the rule's detail word: an empty queue,
a full return store, an empty one, a full loop stack, every taken transfer of R93 at a loop's end, more levels left than
live, ERET outside a handler, every M-slot instruction but MCHK inside one. Model's choice: checking a group by a
simulated issue, and that an instruction issued by itself takes its own trap (mode direct, which no run uses: log entry
9). By inference: how gathered causes and the group's compare (98). -/
def Obligations.FailingChecksTrap : Prop :=
  (∀ (s : State) (c : Cause), AtBoundary s → s.preciseCause = some c →
    (∀ g ∈ s.gather, c.code.toNat < g.cause.code.toNat) → (s.pl.tbase.getLsbD 63 = true → s.pl.uncaptured = false) →
    step s = .next (State.settled
      ((if s.remoteAcc c then s.pass 4 else s).takeTrap c 0#64 s.pl.seg.toNat s.pl.bun.toNat))) ∧
  (∀ (s : State) (first : Nat × Bundle) (rest : List (Nat × Bundle)) (x : Placed) (c : Found),
    s.pl.cur.bind (·.err) = none → InSegment s.pl s.pl.bun.toNat → s.ringHeld s.pl.placedGroup = false →
    s.pl.groupBundles = first :: rest → x ∈ placed first.1 first.2 →
    c ∈ (State.enterBundle { s with pl := { s.pl with gEnd := s.pl.group.1.length, looks := [] } }
      (placed first.1 first.2) first.1 .run).causesOf x →
    ∃ d, s.preciseCause = some d ∧ d.code.toNat ≤ c.cause.code.toNat) ∧
  ∀ s : State,
    let at_ : Word := BitVec.ofNat 64 (s.pl.seg.toNat * 4096 + s.pl.bun.toNat)
    (∀ (f : V2) (q : Nat), srcQueue f.cl.toNat f.va.toNat = some q → s.pl.queue q = [] →
      ∀ i ∈ [Instr.vabs f, .vneg f, .vfabs f, .vmov f, .vrmax f],
        Fails i s ⟨0x04#8, BitVec.ofNat 64 ((if q = 32 then 0x20 else q) + s.pl.grp * 512 + f.pa.toNat * 4096)⟩) ∧
    (∀ f : CN, s.pl.liveRets = [] → Fails (.ret f) s ⟨0x08#8, at_⟩) ∧
    (∀ (f : CJ) (b : Nat), (s.pl.bun.toNat : Int) + f.off.toInt = b → InSegment s.pl b → s.pl.rets.length = 16 →
      Fails (.call f) s ⟨0x07#8, at_⟩) ∧
    (∀ f : CS, InSegment s.pl (s.rdS f.s).toNat → s.pl.rets.length = 16 → Fails (.calli f) s ⟨0x07#8, at_⟩) ∧
    (∀ l rest, s.pl.liveLoops = l :: rest → l.seg = s.pl.seg → l.stop = s.pl.bun → ∀ i : Instr,
      (∃ (f : CJ) (b : Nat), (s.pl.bun.toNat : Int) + f.off.toInt = b ∧ InSegment s.pl b ∧
        (i = .jmp f ∨ (i = .call f ∧ s.pl.rets.length < 16))) ∨
      (∃ (f : CBr) (b : Nat), (s.pl.bun.toNat : Int) + f.off.toInt = b ∧ InSegment s.pl b ∧ i = .br f ∧
        let v := s.rdS f.s
        ((f.cond = 0#2 ∧ v = 0#64) ∨ (f.cond = 1#2 ∧ v ≠ 0#64) ∨ (f.cond = 2#2 ∧ v.toInt < 0) ∨
          (f.cond = 3#2 ∧ 0 ≤ v.toInt))) ∨
      (∃ (f : CBrp) (b : Nat), (s.pl.bun.toNat : Int) + f.off.toInt = b ∧ InSegment s.pl b ∧ i = .brp f ∧
        ∀ e < 256 / 2 ^ f.w.toNat,
          (s.pl.pred f.cl.toNat f.pn.toNat).getLsbD (e * 2 ^ f.w.toNat) = decide (f.sense = 0#1)) ∨
      (∃ f : CS, InSegment s.pl (s.rdS f.s).toNat ∧ (i = .jmpi f ∨ (i = .calli f ∧ s.pl.rets.length < 16))) ∨
      (∃ f : CN, (i = .ret f ∧ s.pl.liveRets ≠ []) ∨ (i = .eret f ∧ s.pl.intrap = true)) ∨
      (∃ f : CSeg, i = .segj f ∧ (f.idx.setWidth 64 + s.rdS f.s).toNat < s.pl.nseg) →
      Fails i s ⟨0x0A#8, at_⟩) ∧
    (∀ (i : Instr) (dist : Nat), (∃ f : CLp, i = .loop f ∧ dist = f.dist.toNat) ∨ (∃ f : CLpi, i = .loopi f ∧ dist = f.dist.toNat) →
      s.pl.loops.length = 6 →
      let first := s.pl.bun.toNat - s.pl.grp + s.pl.gEnd
      let stop := s.pl.bun.toNat + dist + 1
      first ≤ stop → InSegment s.pl stop → (∀ l, s.pl.levelHere = some l → stop ≤ l.stop.toNat) →
      Fails i s ⟨0x09#8, at_⟩) ∧
    (∀ f : CK, s.pl.liveLoops.length ≤ f.k.toNat → Fails (.brkl f) s ⟨0x09#8, at_⟩) ∧
    (∀ f : CN, s.pl.intrap = false → Fails (.eret f) s (s.illegal (.eret f) 3 23)) ∧
    (s.pl.intrap = true → ∀ i : Instr,
      (∃ f, i = .malloc f) ∨ (∃ f, i = .mmul f) ∨ (∃ f, i = .mmulg f) ∨ (∃ f, i = .mmuls f) ∨ (∃ f, i = .mmulb f) ∨
        (∃ f, i = .mmulc f) ∨ (∃ f, i = .mchain f) ∨ (∃ f, i = .mchainRecv f) ∨ (∃ f, i = .mdrain f) ∨ (∃ f, i = .mzero f) ∨
        (∃ f, i = .mldw f) ∨ (∃ f, i = .mfree f) ∨ (∃ f, i = .mband f) ∨ (∃ f, i = .mcond f) →
      Fails i s (s.illegal i 3 23))

/-- R28, R29: at the end of a bundle each queue that the bundle pops loses its head, once, and no other queue changes. -/
def Obligations.BundlePopsOncePerQueue : Prop :=
  ∀ (s : State) (q : Nat), q ≤ 32 →
    s.doPops.pl.queue q = (if q ∈ s.pl.popped then (s.pl.queue q).tail else s.pl.queue q) ∧ s.doPops.pl.popped = []

/-! ### Vector instructions -/

namespace Sys2Proof.Claim

/-- Lane `e` of an entry in a format (R131, R153). -/
def lane (m : Nat) (r : Row) (e : Nat) : Nat := r.toNat / 2 ^ (laneBits m * e) % 2 ^ laneBits m

/-- The code of element `e`: a 4-bit or 6-bit element's lane is read without its upper bits (R131). -/
def code (m : Nat) (r : Row) (e : Nat) : Nat := lane m r e % 2 ^ elemBits m

/-- Whether element `e` of a format is active under the predicate field of a word (R156, R161). -/
def active (p : Plane) (cl : Nat) (pred : BitVec 3) (m e : Nat) : Bool :=
  let q := if pred.toNat % 4 = 0 then BitVec.allOnes 256 else vget p.pr (cl * 4 + pred.toNat % 4) 0#256
  q.getLsbD (e * (laneBits m / 8)) != pred.getLsbD 2

/-- `i`, a vector instruction of cluster `cl` with these source operands (code and peek bit), popping the queues `own`
besides, completes where no queue it reads is empty and its destination has room: it pops every source it does not
peek, and its one result is due after `lat` bundles, one more when a source is the other cluster's (R28 to R32, R155). -/
def Vec (i : Instr) (s : State) (ar : BitVec 2) (cl : Nat) (srcs : List (BitVec 5 × BitVec 1)) (own : List Nat)
    (lat : Nat) (dest : Dest) (ok : Flight → Prop) : Prop :=
  let pops := own ++ srcs.filterMap fun x => if x.2 = 1#1 then none else srcQueue cl x.1.toNat
  let more := if srcs.any fun x => decide (16 ≤ x.1.toNat ∧ x.1.toNat < 24) then 1 else 0
  (∀ x ∈ srcs, ∀ q, srcQueue cl x.1.toNat = some q → s.pl.queue q ≠ []) → (∀ q ∈ own, s.pl.queue q ≠ []) →
  (∀ q, dest = .vq q → s.pl.pushFault q 1 pops = none) →
  ∃ t r, Local i s t ar ∧ t.pl = { s.pl with popped := s.pl.popped ++ pops, flight := s.pl.flight ++ [r] } ∧
    Due s r ar (lat + more) dest ∧ r.known = true ∧ r.arrived = true ∧ ok r

/-- A result computed element by element: where active the element's new code, else the lane kept; the flags are those
the active elements raise, and the tag is the sum of the entry's bytes (R141, R142, R156, R157). -/
def Elementwise (m : Nat) (on : Nat → Bool) (keep : Row) (g : Nat → Elem) (r : Flight) : Prop :=
  (∀ e < laneCount m, lane m r.val e = if on e then toLane m (g e).1 % 2 ^ laneBits m else lane m keep e) ∧
  (∀ k < 5, r.flags.getLsbD k = true ↔ ∃ e < laneCount m, on e = true ∧ (g e).2.testBit k = true) ∧
  r.tag = rowTag r.val

/-- A predicate computed element by element, 0 where inactive, each bit in all of its element's bytes (R161). -/
def PredicateOf (m : Nat) (on : Nat → Bool) (g : Nat → Bool) (r : Flight) : Prop :=
  ∀ e < laneCount m, ∀ j < laneBits m / 8, r.val.getLsbD (e * (laneBits m / 8) + j) = (on e && g e)

end Sys2Proof.Claim

/-- R164: the two-operand integer instructions, 2 bundles: sums, differences and products modulo 2^w or saturated, the
high half of the product, bitwise operations, shifts by vb modulo w, minimum and maximum; and VMAD with its addend from
the destination queue. 4-bit and 6-bit elements are read as log entry 47 says. -/
def Obligations.VectorIntegerResults : Prop :=
  ∀ (f : V3) (s : State),
    let cl := f.cl.toNat
    let m := f.fmt.toNat
    let n := intBits m
    let a := (s.pl.operand cl f.va.toNat m).data
    let b := (s.pl.operand cl f.vb.toNat m).data
    let va := fun e => intVal m (code m a e)
    let vb := fun e => intVal m (code m b e)
    let sh := fun e => code m b e % 2 ^ n % n
    let on := Claim.active s.pl cl f.pred m
    let q := 16 * cl + f.vd.toNat
    (∀ p ∈ ([(.vadd f, fun e => (wrap n (va e + vb e), 0)), (.vsub f, fun e => (wrap n (va e - vb e), 0)),
        (.vadds f, fun e => iSat m (va e + vb e)), (.vsubs f, fun e => iSat m (va e - vb e)),
        (.vmul f, fun e => (wrap n (va e * vb e), 0)), (.vmulh f, fun e => (wrap n (va e * vb e / 2 ^ n), 0)),
        (.vand f, fun e => (code m a e &&& code m b e, 0)), (.vor f, fun e => (code m a e ||| code m b e, 0)),
        (.vxor f, fun e => (code m a e ^^^ code m b e, 0)),
        (.vandn f, fun e => (code m a e ^^^ (code m a e &&& code m b e), 0)),
        (.vshl f, fun e => (code m a e % 2 ^ n * 2 ^ sh e % 2 ^ n, 0)),
        (.vshr f, fun e => (code m a e % 2 ^ n / 2 ^ sh e, 0)),
        (.vsra f, fun e => (wrap n (sgn n (code m a e) / 2 ^ sh e), 0)),
        (.vmin f, fun e => (wrap n (min (va e) (vb e)), 0)), (.vmax f, fun e => (wrap n (max (va e) (vb e)), 0))] :
        List (Instr × (Nat → Elem))),
      Vec p.1 s f.ar cl [(f.va, f.pa), (f.vb, f.pb)] [] 2 (.vq q) (Elementwise m on a p.2)) ∧
    let d := (s.pl.headOf q).data
    Vec (.vmad f) s f.ar cl [(f.va, f.pa), (f.vb, f.pb)] [q] 2 (.vq q)
      (Elementwise m on d fun e => (wrap n (intVal m (code m d e) + va e * vb e), 0))

/-- R52, R163, R164: VABS and VNEG, 2 bundles; VCMP writes its condition's predicate, 2 bundles; PSETN sets the first n
elements, n from the first four bytes of its operand, 1 bundle. 4-bit and 6-bit elements are read as log entry 47 says. -/
def Obligations.VectorUnaryCompareResults : Prop :=
  (∀ (f : V2) (s : State),
    let cl := f.cl.toNat
    let m := f.fmt.toNat
    let a := (s.pl.operand cl f.va.toNat m).data
    let va := fun e => intVal m (code m a e)
    ∀ p ∈ ([(.vabs f, fun e => (wrap (intBits m) |va e|, 0)), (.vneg f, fun e => (wrap (intBits m) (-va e), 0))] :
        List (Instr × (Nat → Elem))),
      Vec p.1 s f.ar cl [(f.va, f.pa)] [] 2 (.vq (16 * cl + f.vd.toNat))
        (Elementwise m (Claim.active s.pl cl f.pred m) a p.2)) ∧
  (∀ (f : VCm) (s : State),
    let cl := f.cl.toNat
    let m := f.fmt.toNat
    let va := fun e => intVal m (code m (s.pl.operand cl f.va.toNat m).data e)
    let vb := fun e => intVal m (code m (s.pl.operand cl f.vb.toNat m).data e)
    Vec (.vcmp f) s f.ar cl [(f.va, f.pa), (f.vb, f.pb)] [] 2 (.pred (4 * cl + f.vd.toNat))
      (PredicateOf m (Claim.active s.pl cl f.pred m) fun e =>
        if f.cond = 0#2 then decide (va e = vb e) else if f.cond = 1#2 then decide (va e ≠ vb e)
        else if f.cond = 2#2 then decide (va e < vb e) else decide (va e ≤ vb e))) ∧
  ∀ (f : PSn) (s : State),
    let cl := f.cl.toNat
    let m := f.fmt.toNat
    Vec (.psetn f) s f.ar cl [(f.va, f.pa)] [] 1 (.pred (4 * cl + f.vd.toNat))
      (PredicateOf m (fun _ => true) fun e => decide (e < (s.pl.operand cl f.va.toNat m).data.toNat % 2 ^ 32))

/-- R161, R162: the predicate instructions act on all 256 bits, 1 bundle; number 0 reads all ones. -/
def Obligations.PredicateResults : Prop :=
  (∀ (f : PP3) (s : State),
    let cl := f.cl.toNat
    let x := if f.va = 0#2 then BitVec.allOnes 256 else vget s.pl.pr (cl * 4 + f.va.toNat) 0#256
    let y := if f.vb = 0#2 then BitVec.allOnes 256 else vget s.pl.pr (cl * 4 + f.vb.toNat) 0#256
    ∀ p ∈ ([(.pand f, x &&& y), (.por f, x ||| y), (.pxor f, x ^^^ y)] : List (Instr × Pred)),
      Vec p.1 s f.ar cl [] [] 1 (.pred (4 * cl + f.vd.toNat)) fun r => r.val.setWidth 256 = p.2 ∧ r.flags = 0#5) ∧
  ∀ (f : PP2) (s : State),
    let cl := f.cl.toNat
    let x := if f.va = 0#2 then BitVec.allOnes 256 else vget s.pl.pr (cl * 4 + f.va.toNat) 0#256
    ∀ p ∈ ([(.pnot f, ~~~x), (.pmov f, x)] : List (Instr × Pred)),
      Vec p.1 s f.ar cl [] [] 1 (.pred (4 * cl + f.vd.toNat)) fun r => r.val.setWidth 256 = p.2 ∧ r.flags = 0#5

/-- R165 to R168: the floating-point instructions element by element, the exact result of the operation rounded once
(Machine/Flags.lean, R141, R142): 4 bundles, VFMA 5 with its addend from the destination queue, transcendentals 8;
VFCMP writes a predicate. The values of the transcendentals inside their bounds are free (log entry 7), their flags
read by inference (49). -/
def Obligations.VectorFloatResults : Prop :=
  (∀ (f : V3) (s : State),
    let cl := f.cl.toNat
    let m := f.fmt.toNat
    let a := (s.pl.operand cl f.va.toNat m).data
    let b := (s.pl.operand cl f.vb.toNat m).data
    let on := Claim.active s.pl cl f.pred m
    let q := 16 * cl + f.vd.toNat
    (∀ p ∈ ([(.vfadd f, fAdd m), (.vfsub f, fSub m), (.vfmul f, fMul m), (.vfmin f, fMinMax false m),
        (.vfmax f, fMinMax true m)] : List (Instr × (Nat → Nat → Elem))),
      Vec p.1 s f.ar cl [(f.va, f.pa), (f.vb, f.pb)] [] 4 (.vq q)
        (Elementwise m on a fun e => p.2 (code m a e) (code m b e))) ∧
    let d := (s.pl.headOf q).data
    Vec (.vfma f) s f.ar cl [(f.va, f.pa), (f.vb, f.pb)] [q] 5 (.vq q)
      (Elementwise m on d fun e => fFma m (code m a e) (code m b e) (code m d e))) ∧
  (∀ (f : V2) (s : State),
    let cl := f.cl.toNat
    let m := f.fmt.toNat
    let a := (s.pl.operand cl f.va.toNat m).data
    ∀ p ∈ ([(.vfabs f, 4, fSign false m), (.vfneg f, 4, fSign true m), (.vfrnd f, 4, fRnd m),
        (.vrcp f, 8, fTrans 0x28 m), (.vrsq f, 8, fTrans 0x29 m), (.vexp2 f, 8, fTrans 0x2A m),
        (.vlog2 f, 8, fTrans 0x2B m), (.vtanh f, 8, fTrans 0x2C m), (.vsigm f, 8, fTrans 0x2D m)] :
        List (Instr × Nat × (Nat → Elem))),
      Vec p.1 s f.ar cl [(f.va, f.pa)] [] p.2.1 (.vq (16 * cl + f.vd.toNat))
        (Elementwise m (Claim.active s.pl cl f.pred m) a fun e => p.2.2 (code m a e))) ∧
  ∀ (f : VCm) (s : State),
    let cl := f.cl.toNat
    let m := f.fmt.toNat
    let a := (s.pl.operand cl f.va.toNat m).data
    let b := (s.pl.operand cl f.vb.toNat m).data
    Vec (.vfcmp f) s f.ar cl [(f.va, f.pa), (f.vb, f.pb)] [] 4 (.pred (4 * cl + f.vd.toNat))
      (PredicateOf m (Claim.active s.pl cl f.pred m) fun e => (fCmp f.cond.toNat m (code m a e) (code m b e)).1)

/-- R137, R141, R165, R166, R167, R180: what the element operations give on NaNs and zeros: a sum, difference or product
with a NaN, or an invalid one, gives the canonical NaN, an exact one its value; fmin and fmax give the other operand, −0
below +0; a comparison with a NaN is false but NE; absolute value and negation touch the sign alone; all on concrete FP32
codes. VCSW and VCSWX choose the winner and the loser of concrete pairs of a BF16 value with its index. -/
def Obligations.FloatCornerCases : Prop :=
  cswap false 10 0x3FC00003 0x3FC00007 = (0x3FC00003, 0) ∧ cswap false 10 0x7FC10002 0xC0800009 = (0xC0800009, 16) ∧
  cswap true 10 0x7FC10002 0xC0800009 = (0x7FC00002, 16) ∧ cswap false 10 0x8000000C 0x00000005 = (0x00000005, 0) ∧
  cswap false 10 0x40000001 0x3F000000 = (0x40000001, 0) ∧
  (fAdd 12 0x7FC10000 0x3F800000).1 = 0x7FC00000 ∧ (fMul 12 0x7F800000 0).1 = 0x7FC00000 ∧
  (fSub 12 0x7F800000 0x7F800000).1 = 0x7FC00000 ∧ (fAdd 12 0x3F800000 0x40000000).1 = 0x40400000 ∧
  (fMul 12 0x40400000 0x40000000) = (0x40C00000, 0) ∧ (fMinMax false 12 0x80000000 0).1 = 0x80000000 ∧
  (fMinMax true 12 0x80000000 0).1 = 0 ∧ (fMinMax false 12 0x7FC10000 0xC0400000).1 = 0xC0400000 ∧
  (fCmp 0 12 0x7FC00000 0x7FC00000).1 = false ∧ (fCmp 1 12 0x7FC00000 0x7FC00000).1 = true ∧
  (fCmp 0 12 0x80000000 0).1 = true ∧ (fSign false 12 0xC0400000).1 = 0x40400000 ∧
  (fSign true 12 0).1 = 0x80000000 ∧ (fRnd 12 0x3FC00000).1 = 0x40000000 ∧ (fRnd 12 0x40200000).1 = 0x40000000

/-- R157, R173 to R176: VMOV, VSEL, VPERM, VSHFL, VBCST and VROT move whole lanes, 2 bundles, without flags; an
unpredicated VMOV keeps its source's tag. -/
def Obligations.VectorMoveResults : Prop :=
  (∀ (f : V2) (s : State),
    let cl := f.cl.toNat
    let m := f.fmt.toNat
    let a := s.pl.operand cl f.va.toNat m
    let k := lane m (vget s.pl.bl cl 0#2048) 0 % laneCount m
    let on := Claim.active s.pl cl f.pred m
    Vec (.vmov f) s f.ar cl [(f.va, f.pa)] [] 2 (.vq (16 * cl + f.vd.toNat))
      (fun r => r.val = a.data ∧ r.flags = 0#5 ∧ (f.pred = 0#3 → r.tag = a.tag)) ∧
    Vec (.vshfl f) s f.ar cl [(f.va, f.pa)] [] 2 (.vq (16 * cl + f.vd.toNat))
      (fun r => r.flags = 0#5 ∧ ∀ e < laneCount m, lane m r.val e = lane m a.data (if on e then e ^^^ k else e))) ∧
  (∀ (f : V3) (s : State),
    let cl := f.cl.toNat
    let m := f.fmt.toNat
    let a := (s.pl.operand cl f.va.toNat m).data
    let b := (s.pl.operand cl f.vb.toNat m).data
    let on := Claim.active s.pl cl f.pred m
    ∀ p ∈ ([(.vsel f, fun e => if on e then lane m a e else lane m b e),
        (.vperm f, fun e => lane m a (if on e then lane m b e % laneCount m else e)),
        (.vbcst f, fun e => lane m a (if on e then lane m b 0 % laneCount m else e))] : List (Instr × (Nat → Nat))),
      Vec p.1 s f.ar cl [(f.va, f.pa), (f.vb, f.pb)] [] 2 (.vq (16 * cl + f.vd.toNat))
        (fun r => r.flags = 0#5 ∧ ∀ e < laneCount m, lane m r.val e = p.2 e)) ∧
  ∀ (f : VRt) (s : State),
    let cl := f.cl.toNat
    let a := (s.pl.operand cl f.va.toNat 15).data
    let b := (s.pl.operand cl f.vb.toNat 15).data
    let n := (vget s.pl.bl cl 0#2048).toNat % 256
    Vec (.vrot f) s f.ar cl [(f.va, f.pa), (f.vb, f.pb)] [] 2 (.vq (16 * cl + f.vd.toNat))
      fun r => r.flags = 0#5 ∧ ∀ i < 256, lane 15 r.val i = if n + i < 256 then lane 15 a (n + i) else lane 15 b (n + i - 256)

/-- R170, R171, R172: the conversions, 4 bundles: the first min(Ls, Ld) elements are converted, the lanes past them are
0; an inactive lane keeps the source's when the widths are equal and is 0 otherwise. VQNT and VDQNT with a register
whose tgt they accept scale on the way; VQNT with the trap bit defers RESCALE of its first offending element. The
format that counts the lanes is read by inference (log entry 48), and so are a saturation's flags (31). -/
def Obligations.VectorConversionResults : Prop :=
  let lanesOf := fun (sm m : Nat) (on : Nat → Bool) (a : Row) (g : Nat → Elem) (r : Flight) =>
    (∀ e < laneCount m, lane m r.val e =
      if e < laneCount sm then
        (if on e then toLane m (g (code sm a e)).1 % 2 ^ laneBits m
         else if laneBits sm = laneBits m then lane m a e else 0)
      else 0) ∧
    ∀ k < 5, r.flags.getLsbD k = true ↔
      ∃ e, e < laneCount m ∧ e < laneCount sm ∧ on e = true ∧ (g (code sm a e)).2.testBit k = true
  (∀ (f : VCv) (s : State),
    let cl := f.cl.toNat
    let m := f.fmt.toNat
    let sm := f.sfmt.toNat
    let a := (s.pl.operand cl f.va.toNat sm).data
    Vec (.vcvt f) s f.ar cl [(f.va, f.pa)] [] 4 (.vq (16 * cl + f.vd.toNat))
      (lanesOf sm m (Claim.active s.pl cl f.pred m) a (cvtElem sm m))) ∧
  (∀ (f : VDq) (s : State),
    let cl := f.cl.toNat
    let m := f.fmt.toNat
    let k := vget s.pl.ks f.ks.toNat ⟨0#64, 0#32⟩
    let t := (k.w.extractLsb' 32 4).toNat
    let a := (s.pl.operand cl f.va.toNat t).data
    scaleTgtOk t = true →
    Vec (.vdqnt f) s f.ar cl [(f.va, f.pa)] [] 4 (.vq (16 * cl + f.vd.toNat))
      (lanesOf t m (Claim.active s.pl cl f.pred m) a (dequantise t m (k.w.extractLsb' 0 32).toNat))) ∧
  ∀ (f : VQn) (s : State),
    let cl := f.cl.toNat
    let m := f.fmt.toNat
    let q := 16 * cl + f.vd.toNat
    let k := vget s.pl.ks f.ks.toNat ⟨0#64, 0#32⟩
    let t := (k.w.extractLsb' 32 4).toNat
    let a := (s.pl.operand cl f.va.toNat m).data
    let on := Claim.active s.pl cl f.pred t
    let g := quantise m t (k.w.extractLsb' 0 32).toNat k.rcp.toNat (k.w.extractLsb' 40 2).toNat (f.chk == 1#1)
    let ok := lanesOf m t on a fun c => (g c).1
    let bad := fun e => decide (e < laneCount m) && decide (e < laneCount t) && on e && (g (code m a e)).2
    scaleTgtOk t = true →
    ((∀ e, bad e = false) → Vec (.vqnt f) s f.ar cl [(f.va, f.pa)] [] 4 (.vq q) ok) ∧
    ∀ e, bad e = true → (∀ i < e, bad i = false) → s.pl.intrap = false →
      let more := if decide (16 ≤ f.va.toNat ∧ f.va.toNat < 24) then 1 else 0
      let pops := [(f.va, f.pa)].filterMap fun x => if x.2 = 1#1 then none else srcQueue cl x.1.toNat
      (∀ q, srcQueue cl f.va.toNat = some q → s.pl.queue q ≠ []) → s.pl.pushFault q 1 pops = none →
      ∃ t r, Local (.vqnt f) s t f.ar ∧ Due s r f.ar (4 + more) (.vq q) ∧ ok r ∧
        t.pl = { s.pl with popped := s.pl.popped ++ pops, flight := s.pl.flight ++ [r],
                           deferred := s.pl.deferred ++ [⟨⟨0x28#8, BitVec.ofNat 64 (e + f.ks.toNat * 256 + cl * 2048)⟩,
                             s.pl.tcount + (4 + more), reqId (cl + 2) s.pl.tcount⟩] }

/-- R169: VRNG, 6 bundles, without flags: the Philox words of latch blb, one per 32-bit element, as they are or their upper
24 bits scaled by 2^-24; an inactive element is 0. The generator's block of key 0 and counter 0 is the published one. -/
def Obligations.VectorGeneratorResults : Prop :=
  (∀ (f : VRn) (s : State), f.fmt = 5#4 ∨ f.fmt = 12#4 →
    let m := f.fmt.toNat
    let w := fun e => (rngWords (vget s.pl.bl 1 0#2048)).getD e 0
    Vec (.vrng f) s f.ar 1 [] [] 6 (.vq (16 + f.vd.toNat)) fun r =>
      r.flags = 0#5 ∧ ∀ e < 64, lane m r.val e =
        if Claim.active s.pl 1 f.pred m e then
          (if f.fmt = 5#4 then w e else (arithRound fp32 (.fin false (w e / 256) (-24))).1)
        else 0) ∧
  (∀ (f : VRn) (s : State), f.fmt = 15#4 →
    Vec (.vrng f) s f.ar 1 [] [] 6 (.vq (16 + f.vd.toNat)) fun r =>
      r.flags = 0#5 ∧ ∀ e < 256, lane 15 r.val e =
        if Claim.active s.pl 1 f.pred 15 e then
          (rngWords (vget s.pl.bl 1 0#2048)).getD (e / 4) 0 / 2 ^ (8 * (e % 4)) % 256
        else 0) ∧
  (rngWords 0#2048).take 4 = [0x6627E8D5, 0xE169C58D, 0xBC57AC4C, 0x9B00DBD8]

namespace Sys2Proof.Claim

/-- The fixed pairwise tree over 2^k values: each value joins the one half the list away (R150). -/
def tree (g : Nat → Nat → Nat) : Nat → (Nat → Nat) → Nat
  | 0, x => x 0
  | k + 1, x => tree g k fun i => g (x i) (x (i + 2 ^ k))

end Sys2Proof.Claim

/-- R177: the reductions, 6 bundles: the sum modulo 2^32, the largest, the smallest value of the active elements in
lane 0 (the identity when none is active), every other lane 0 and no flag; the floating-point ones run the tree of
R150. 4-bit and 6-bit elements are read as log entry 47 says. -/
def Obligations.VectorReductionResults : Prop :=
  ∀ (f : V2) (s : State),
    let cl := f.cl.toNat
    let m := f.fmt.toNat
    let a := (s.pl.operand cl f.va.toNat m).data
    let on := Claim.active s.pl cl f.pred m
    let V := fun i (ok : Flight → Prop) =>
      Vec i s f.ar cl [(f.va, f.pa)] [] 6 (.vq (16 * cl + f.vd.toNat)) ok
    let v := fun e => intVal m (code m a e)
    (m ≤ 5 →
      V (.vradd f) (fun r => r.flags = 0#5 ∧
        r.val.toNat = wrap 32 ((List.range (laneCount m)).map fun e => if on e then v e else 0).sum) ∧
      V (.vrmax f) (fun r => r.flags = 0#5 ∧ r.val.toNat < 2 ^ intBits m ∧
        (∀ e < laneCount m, on e = true → v e ≤ intVal m r.val.toNat) ∧
        ((∃ e < laneCount m, on e = true ∧ v e = intVal m r.val.toNat) ∨
          intVal m r.val.toNat = (intRange (isSigned m) (intBits m)).1)) ∧
      V (.vrmin f) (fun r => r.flags = 0#5 ∧ r.val.toNat < 2 ^ intBits m ∧
        (∀ e < laneCount m, on e = true → intVal m r.val.toNat ≤ v e) ∧
        ((∃ e < laneCount m, on e = true ∧ v e = intVal m r.val.toNat) ∨
          intVal m r.val.toNat = (intRange (isSigned m) (intBits m)).2))) ∧
    (m = 10 ∨ m = 11 ∨ m = 12 →
      V (.vrfadd f) (fun r => r.val.toNat = tree (fun x y => (fAdd m x y).1) (Nat.log2 (laneCount m))
        (fun e => if on e then code m a e else 2 ^ (laneBits m - 1)) % 2 ^ laneBits m) ∧
      V (.vrfmax f) (fun r => r.val.toNat = tree (fun x y => (fMinMax true m x y).1) (Nat.log2 (laneCount m))
        (fun e => if on e then code m a e else (fltOf m).infCode true) % 2 ^ laneBits m))

/-- R178 to R180: the sparse group, 4 bundles: bitmap AND, bit counts, exclusive prefix sums from element 0 of vb; VISECT's
k-th selected bit or element stands at place k and nothing after the last; the winner and the loser of each pair. -/
def Obligations.SparseResults : Prop :=
  (∀ (f : VBn) (s : State),
    let cl := f.cl.toNat
    let a := (s.pl.operand cl f.va.toNat 15).data
    let b := (s.pl.operand cl f.vb.toNat 15).data
    Vec (.vband f) s f.ar cl [(f.va, f.pa), (f.vb, f.pb)] [] 4 (.vq (16 * cl + f.vd.toNat))
      (Elementwise 15 (Claim.active s.pl cl f.pred 15) a fun e => (lane 15 a e &&& lane 15 b e, 0))) ∧
  (∀ (f : V2) (s : State), f.fmt.toNat ≤ 5 →
    let cl := f.cl.toNat
    let m := f.fmt.toNat
    let a := (s.pl.operand cl f.va.toNat m).data
    Vec (.vpopc f) s f.ar cl [(f.va, f.pa)] [] 4 (.vq (16 * cl + f.vd.toNat))
      (Elementwise m (Claim.active s.pl cl f.pred m) a fun e =>
        ((List.range (laneBits m)).countP fun i => (lane m a e).testBit i, 0))) ∧
  (∀ (f : V3) (s : State),
    let cl := f.cl.toNat
    let m := f.fmt.toNat
    let a := (s.pl.operand cl f.va.toNat m).data
    let b := (s.pl.operand cl f.vb.toNat m).data
    let on := Claim.active s.pl cl f.pred m
    Vec (.vpfx f) s f.ar cl [(f.va, f.pa), (f.vb, f.pb)] [] 4 (.vq (16 * cl + f.vd.toNat)) (fun r =>
      r.flags = 0#5 ∧ ∀ e < laneCount m, lane m r.val e =
        if on e then (lane m b 0 + ((List.range e).map fun i => if on i then lane m a i else 0).sum) % 2 ^ laneBits m
        else lane m a e) ∧
    ∀ p ∈ ([(.vcsw f, false), (.vcswx f, true)] : List (Instr × Bool)),
      let a := (s.pl.operand cl f.va.toNat m).data
      Vec p.1 s f.ar cl [(f.va, f.pa), (f.vb, f.pb)] [] 4 (.vq (16 * cl + f.vd.toNat))
        (Elementwise 5 (Claim.active s.pl cl f.pred 5) a fun e => cswap p.2 m (lane 5 a e) (lane 5 b e))) ∧
  ∀ (f : VIs) (s : State),
    let cl := f.cl.toNat
    let m := f.fmt.toNat
    let a := (s.pl.operand cl f.va.toNat m).data
    let b := (s.pl.operand cl f.vb.toNat m).data
    let below := fun (x : Row) i => (List.range i).countP fun j => x.getLsbD j
    Vec (.visect f) s f.ar cl [(f.va, f.pa), (f.vb, f.pb)] [] 4 (.vq (16 * cl + f.vd.toNat)) fun r => r.flags = 0#5 ∧
      if m = 15 then
        (∀ i < 2048, a.getLsbD i = true → r.val.getLsbD (below a i) = b.getLsbD i) ∧
        ∀ j, below a 2048 ≤ j → r.val.getLsbD j = false
      else
        (∀ e < laneCount m, b.getLsbD e = true → lane m r.val (below b e) = lane m a e) ∧
        ∀ j < laneCount m, below b (laneCount m) ≤ j → lane m r.val j = 0

/-! ### The load and store slot -/

namespace Sys2Proof.Claim

/-- The tile entry of the slot that holds a physical row of the executing core, as the executing task sees it. -/
def slotTerm (s : State) (p : Nat) : Term := s.resolve (s.slotLoc s.pl.space s.co.id (p / 256))

/-- The row an L-slot access reads at a row address, when no checksum of a STORED slot disagrees: a stored row as its view
returns it, or the row a symbol stands for (R114, R116, R273, R296). -/
def RowAt (s : State) (swz : Bool) (a : Nat) (row : Row) : Prop :=
  let p := physRow swz a
  match slotTerm s p with
  | .stored true c k _ _ =>
    (entKind (s.co.slot (p / 256)).w0 = 1 → s.rowBad (.slot c k) (entFmt (s.co.slot (p / 256)).w0) (p % 256) = false) ∧
      row = (s.core c).viewRow swz (256 * k + p % 256)
  | .sym w0 w1 fmt => row = symRow w0 w1 fmt (p % 256)
  | _ => False

/-- No engine access waits at the row's bank, or the word does not ask for them (R320). -/
def NoEngine (s : State) (ma : BitVec 1) (p : Nat) : Prop := ma = 0#1 ∨ ∀ e ∈ s.co.engQ, e.row % 128 ≠ p % 128

/-- A slot's row ready for a store: the slot's own stored row with a sum that agrees, or a symbol, and room on the
die's dirty list. -/
def Writable (s : State) (p : Nat) : Prop :=
  (∀ c k f nf, slotTerm s p = .stored true c k f nf → entKind (s.co.slot (p / 256)).w0 = 1 →
    s.rowBad (.slot s.co.id (p / 256)) (entFmt (s.co.slot (p / 256)).w0) (p % 256) = false) ∧
  (vget s.dv.dirty (dieOf s.co.id) []).length + 3 ≤ Config.dirtyCap

/-- `i` completes from `s` in `t`, its arrival made at once (R230). -/
def Arrives (i : Instr) (s t : State) (ar : BitVec 2) : Prop :=
  exec i s = .next t ∧ t.dv.bars = (s.owe ar).2.dv.bars ∧
    t.dv.arrQ = s.dv.arrQ ++ (s.pl.owes ar).toList.map fun o => ⟨o, [], 0⟩

/-- `i` completes with the executing plane and core as given and its arrival made; nothing else changes. -/
def Quick (i : Instr) (s : State) (ar : BitVec 2) (p : Plane) (c : Core) : Prop :=
  ∃ t, Arrives i s t ar ∧ t = { s with pl := p, co := c, dv := { s.dv with bars := t.dv.bars, arrQ := t.dv.arrQ } }

/-- What a row store leaves: row `p` holds `new`, in the view that wrote it too; every other row of the slot holds what
its entry stood for, and every other row of the scratchpad and byte of memory what it held. -/
def Stored (s t : State) (swz : Bool) (p : Nat) (new : Row) : Prop :=
  t.co.portRow p = new ∧ t.co.viewRow swz p = new ∧
  (∀ r, r ≠ p % 256 → r < 256 → t.co.portRow (256 * (p / 256) + r) = s.termRow (slotTerm s p) r) ∧
  (∀ p', p' / 256 ≠ p / 256 → t.co.portRow p' = s.co.portRow p' ∧ ∀ b, t.co.viewRow b p' = s.co.viewRow b p') ∧
  t.dv.mem = s.dv.mem ∧ t.dv.far = s.dv.far

end Sys2Proof.Claim

/-- R119, R120: LDV gives the row at sx + sy to its queue, and LDS the element at sx, sign- or zero-extended, its
misalignment ignored, to sy; both 6 bundles. A symbolic row in the swizzled view: log entry 41. -/
def Obligations.ScratchpadLoads : Prop :=
  (∀ (f : LLd) (s : State) (row : Row),
    let ea := (s.rdS f.sx + s.rdS f.sy).toNat
    let swz := f.view == 1#1
    let q := 16 * f.cl.toNat + f.q.toNat
    s.rowFault ea = none → RowAt s swz (ea / 256) row → NoEngine s f.ma (physRow swz (ea / 256)) →
    s.pl.pushFault q 1 [] = none →
    ∃ t r, Local (.ldv f) s t f.ar ∧ t.pl = { s.pl with flight := s.pl.flight ++ [r] } ∧ Due s r f.ar 6 (.vq q) ∧
      r.known = true ∧ r.val = row ∧ r.tag = rowTag row ∧ r.flags = 0#5) ∧
  ∀ (f : LEl) (s : State) (row : Row),
    let ea := (s.rdS f.sx).toNat
    let swz := f.view == 1#1
    let n := 2 ^ f.size.toNat
    let off := ea % 256 / n * n
    s.rowFault ea = none → RowAt s swz (ea / 256) row → NoEngine s f.ma (physRow swz (ea / 256)) →
    ∃ v : Word, Scalar (.lds f) s f.ar 6 f.sy v ∧ ∀ i < 64, v.getLsbD i =
      if i < 8 * n then row.getLsbD (8 * off + i) else f.sgn == 1#1 && row.getLsbD (8 * off + 8 * n - 1)

/-- R119, R120, R278, R301: STV writes the source's entry, whose sum agrees with its tag, to the row at sx + sy, STS
the low bytes of sy to the element at sx; a symbolic slot is promoted first; the store retires at once. Model's choice:
both views see a promotion at once (log entry 18). -/
def Obligations.ScratchpadStores : Prop :=
  (∀ (f : LSt) (s : State),
    let ea := (s.rdS f.sx + s.rdS f.sy).toNat
    let swz := f.view == 1#1
    let p := physRow swz (ea / 256)
    let q := 16 * f.cl.toNat + f.q.toNat
    let e := s.pl.headOf q
    s.rowFault ea = none → Writable s p → NoEngine s f.ma p → s.pl.queue q ≠ [] → rowTag e.data = e.tag →
    ∃ t, Arrives (.stv f) s t f.ar ∧ Claim.Stored s t swz p e.data ∧
      t.pl = { s.pl with popped := s.pl.popped ++ if f.pk = 1#1 then [] else [q] }) ∧
  ∀ (f : LEs) (s : State),
    let ea := (s.rdS f.sx).toNat
    let swz := f.view == 1#1
    let p := physRow swz (ea / 256)
    let n := 2 ^ f.size.toNat
    let off := ea % 256 / n * n
    s.rowFault ea = none → Writable s p → NoEngine s f.ma p →
    ∃ t new, Arrives (.sts f) s t f.ar ∧ Claim.Stored s t swz p new ∧ t.pl = s.pl ∧
      ∀ i < 2048, new.getLsbD i = if 8 * off ≤ i ∧ i < 8 * (off + n) then (s.rdS f.sy).getLsbD (i - 8 * off)
        else (s.termRow (slotTerm s p) (p % 256)).getLsbD i

/-- R121, R123, R124: LDX, 8 bundles, gives lane l the w bits at its place in the two-row window, extended as its
format is signed or not, 0 where they pass the window's end; STX writes lane l's low w bits there, the higher lane
where two meet, and leaves every other bit of the window. Model's choice: both views see a promotion at once (log entry
18). -/
def Obligations.FieldAccesses : Prop :=
  (∀ (f : LXl) (s : State) (r0 r1 : Row),
    let a := (s.rdS f.sx).toNat / 256
    let m := f.fmt.toNat
    let x := vget s.pl.xp f.xp.toNat 0#128
    let at_ := lanePos x ((s.rdS f.sy).toNat % 128)
    let w := patW x
    let q := 16 * f.cl.toNat + f.q.toNat
    let two := ∃ l < laneCount m, at_ l + w ≤ 4096 ∧ 2048 < at_ l + w
    s.rowFault (s.rdS f.sx).toNat = none → RowAt s false a r0 → NoEngine s f.ma a →
    (two → s.rowFault ((a + 1) * 256) = none ∧ RowAt s false (a + 1) r1 ∧ NoEngine s f.ma (a + 1)) →
    s.pl.pushFault q 1 [] = none →
    ∃ t r, Local (.ldx f) s t f.ar ∧ t.pl = { s.pl with flight := s.pl.flight ++ [r] } ∧ Due s r f.ar 8 (.vq q) ∧
      r.known = true ∧ r.flags = 0#5 ∧ r.tag = rowTag r.val ∧ ∀ l < laneCount m, lane m r.val l =
        if at_ l + w ≤ 4096 then
          let v := (r0.toNat + r1.toNat * 2 ^ 2048) / 2 ^ at_ l % 2 ^ w
          if isSigned m then wrap (laneBits m) (sgn w v) else v % 2 ^ laneBits m
        else 0) ∧
  ∀ (f : LXs) (s : State),
    let a := (s.rdS f.sx).toNat / 256
    let m := f.fmt.toNat
    let x := vget s.pl.xp f.xp.toNat 0#128
    let at_ := lanePos x ((s.rdS f.sy).toNat % 128)
    let w := patW x
    let q := 16 * f.cl.toNat + f.q.toNat
    let e := s.pl.headOf q
    let covers := fun l i => decide (l < laneCount m ∧ at_ l ≤ i ∧ i < at_ l + w ∧ at_ l + w ≤ 4096)
    let two := ∃ l < laneCount m, at_ l + w ≤ 4096 ∧ 2048 < at_ l + w
    s.rowFault (s.rdS f.sx).toNat = none → Writable s a → NoEngine s f.ma a →
    (two → s.rowFault ((a + 1) * 256) = none ∧ Writable s (a + 1) ∧ NoEngine s f.ma (a + 1)) →
    s.pl.queue q ≠ [] → rowTag e.data = e.tag →
    ∃ t, Arrives (.stx f) s t f.ar ∧ t.pl = { s.pl with popped := s.pl.popped ++ if f.pk = 1#1 then [] else [q] } ∧
      ∀ i < 4096, let p := a + i / 2048
        let bit := (t.termRow (slotTerm t p) (p % 256)).getLsbD (i % 2048)
        (∀ l, covers l i = true → (∀ l', l < l' → covers l' i = false) →
          bit = (wrap w (if isSigned m then sgn (laneBits m) (lane m e.data l) else lane m e.data l)).testBit (i - at_ l)) ∧
        (p < 65536 → (∀ l, covers l i = false) → bit = (s.termRow (slotTerm s p) (p % 256)).getLsbD (i % 2048))

/-- R125, R126, R299, R301, R321, R342: a far load whose address was found before its group issued, or is found now, adds one
LQ entry for its 256 bytes and one result, dist bundles on, that its data will fill: a symbol's row is fixed, memory and
a view are read later; a far store whose source's tag agrees adds one SQ entry, with the binding it samples, the write
leaving with it later, a symbolic tile promoted before into the frame taken for it; neither changes a byte of memory but
what translation marks. -/
def Obligations.FarAccesses : Prop :=
  (∀ (f : LFl) (s s1 : State) (k : Look) (fo : Option Nat),
    let va := s.rdS f.sx
    let q := 16 * f.cl.toNat + f.q.toNat
    s.farSample false va = (.ok (k, fo), s1) → s.pl.pushFault q 1 [] = none → s.pl.lbUsed < Config.lbCap →
    ∃ t r e, exec (.ldf f) s = .next t ∧ t.pl = { s.pl with flight := s.pl.flight ++ [r], lq := s.pl.lq ++ [e] } ∧
      r.due = s.pl.bcount + f.dist.toNat ∧ r.dest = .vq q ∧ r.arr = s.pl.owes f.ar ∧ r.known = false ∧ r.lb = true ∧
      e.fid = r.id ∧ e.mark = false ∧ t.dv.mem = s1.dv.mem ∧ t.dv.far = s1.dv.far ∧ t.co = s.co ∧
      (∀ pa l, k = .mem pa l → e.pa = pa ∧ e.sym = none ∧ e.view = none) ∧
      (∀ n v, k = .view n v → e.view = some (n, v, va.toNat / 256 * 256 - v.va) ∧ e.sym = none) ∧
      (∀ l w0 w1 fmt, k = .sym l (.sym w0 w1 fmt) →
        e.sym = some (symRow w0 w1 fmt (va.toNat / 256 * 256 % 65536 / 256)) ∧ e.view = none)) ∧
  (∀ (f : LFs) (s s1 : State) (pa : Nat) (l : Option TLoc),
    let q := 16 * f.cl.toNat + f.q.toNat
    let ent := s.pl.headOf q
    s.farSample true (s.rdS f.sx) = (.ok (.mem pa l, none), s1) → s.pl.queue q ≠ [] → rowTag ent.data = ent.tag →
    (pa < 2 ^ 40 → s1.rowBad (.frame (pa / 65536)) ((l.map (·.fmt)).getD 15) (pa % 65536 / 256) = false) →
    ∃ t e, exec (.stf f) s = .next t ∧
      t.pl = { s.pl with sq := s.pl.sq ++ [e], popped := s.pl.popped ++ if f.pk = 1#1 then [] else [q] } ∧
      e.kind = .stf pa ent.data s.pl.space (l.map (·.ref)) (l.bind (·.lux)) ∧ e.lid = s.pl.lid ∧ e.rank = s.pl.rank ∧
      e.arr = s.pl.owes f.ar ∧ t.dv.mem = s1.dv.mem ∧ t.dv.far = s1.dv.far ∧ t.co = s.co) ∧
  ∀ (f : LFs) (s s1 s3 : State) (l : TLoc) (k : Term) (fo : Option Nat) (fr : Nat),
    let va := (s.rdS f.sx).toNat
    let ent := s.pl.headOf (16 * f.cl.toNat + f.q.toNat)
    s.farSample true (s.rdS f.sx) = (.ok (.sym l k, fo), s1) → s.pl.queue (16 * f.cl.toNat + f.q.toNat) ≠ [] →
    rowTag ent.data = ent.tag →
    (s1.popSrc (16 * f.cl.toNat + f.q.toNat) f.pk).readyWith l s1.pl.lid s1.pl.rank fo = .ok (.frame fr, s3) →
    (fr < 2 ^ 24 → s3.rowBad (.frame fr) l.fmt (va % 65536 / 256) = false) →
    ∃ t e, exec (.stf f) s = .next t ∧ t.pl = { s3.pl with sq := s3.pl.sq ++ [e] } ∧
      e.kind = .stf (fr * 65536 + va / 256 * 256 % 65536) ent.data s3.pl.space (some l.ref) l.lux ∧
      t.dv.mem = s3.dv.mem ∧ t.co = s3.co

/-- R319, R323, R128, R129: MARK adds one entry of one number to the LQ and the SQ, SFENCE one SQ entry of its scope;
VJOIN makes the target views of the covered banks' rows see the newest write; RSET sets a ring empty; RPUSH
publishes n more of its tiles. By inference: VJOIN, RSET and RPUSH make their arrival in the step that issues them (log
entry 46). -/
def Obligations.MarksJoinsAndRings : Prop :=
  (∀ (f : R0) (s : State), ∃ t a b, Local (.mark f) s t f.ar ∧
    t.pl = { s.pl with lq := s.pl.lq ++ [a], sq := s.pl.sq ++ [b] } ∧ a.mark = true ∧ b.kind = .mark ∧ a.id = b.id ∧
    b.arr = s.pl.owes f.ar) ∧
  (∀ (f : LSf) (s : State), ∃ t b, Local (.sfence f) s t f.ar ∧ t.pl = { s.pl with sq := s.pl.sq ++ [b] } ∧
    b.kind = .fence f.scope.toNat ∧ b.arr = s.pl.owes f.ar) ∧
  (∀ (f : LVj) (s : State),
    let first := (s.rdS f.sx).toNat
    let n := (s.rdS f.sy).toNat
    0 < n → first / 256 + n ≤ 65536 → first < 2 ^ 24 →
    ∃ t, Arrives (.vjoin f) s t f.ar ∧ t.pl = s.pl ∧ (∀ p, t.co.portRow p = s.co.portRow p) ∧
      ∀ p, let v := SMap.get viewReset s.co.views p
        (v.hist = [] ∨ v.hist.getLast? = some (s.co.portRow p) ∧ v.lin < v.hist.length ∧ v.swz < v.hist.length) →
        ∀ b : Bool, t.co.viewRow b p =
          if first / 256 / 128 ≤ p / 128 ∧ p / 128 ≤ (first / 256 + n - 1) / 128 ∧ f.dir.getLsbD (if b then 0 else 1)
          then s.co.portRow p else s.co.viewRow b p) ∧
  (∀ (f : LRs) (s : State),
    let base := (s.rdS f.sx).toNat
    let size := (s.rdS f.sy).toNat
    1 ≤ size → base + size ≤ 256 → (∀ k, base ≤ k → k < base + size → s.ownsSlot s.co.id k = true) →
    Quick (.rset f) s f.ar
      { s.pl with rg := vput s.pl.rg f.rg.toNat ⟨BitVec.ofNat 8 base, BitVec.ofNat 9 size, 0#8, 0#9⟩ } s.co) ∧
  ∀ (f : LRp) (s : State),
    let r := s.pl.ring f.rg.toNat
    let n := f.n.toNat + 1
    r.count.toNat + n ≤ r.size.toNat →
    Quick (.rpush f) s f.ar
      { s.pl with rg := vput s.pl.rg f.rg.toNat { r with count := BitVec.ofNat 9 (r.count.toNat + n) } } s.co

/-- R116, R319: the linear view numbers the rows as they stand, the swizzled one permutes each group of 128 within
itself by the group's number; a write is what its own view returns at once, the other view at the latest after a join;
the newest write of a row's record is the row at its port, in every state that scratchpad writes, promotions and joins
make. Model's choice: a promotion is seen by both views at once (log entry 18). -/
def Obligations.ViewsOfOneScratchpad : Prop :=
  (∀ a, physRow false a = a ∧ physRow true a = a / 128 * 128 + (a ^^^ a / 128) % 128 ∧ physRow true a / 128 = a / 128 ∧
    physRow true (physRow true a) = a) ∧
  let ok := fun (c : Core) => ∀ p, let v := SMap.get viewReset c.views p
    v.hist = [] ∨ (v.hist.getLast? = some (c.portRow p) ∧ v.lin < v.hist.length ∧ v.swz < v.hist.length)
  (∀ i, ok (Core.reset i)) ∧
  ∀ (c : Core) (swz : Bool) (p : Nat) (r : Row), ok c →
    ok (c.writeRow swz p r) ∧ ok (c.setRow p r) ∧ ok (c.joinRow swz p) ∧ (∀ i, ok (c.raiseView swz p i)) ∧
    (c.writeRow swz p r).viewRow swz p = r ∧ (c.writeRow swz p r).viewRow (!swz) p = c.viewRow (!swz) p ∧
    ((c.writeRow swz p r).joinRow (!swz) p).viewRow (!swz) p = r ∧ ∀ b, (c.setRow p r).viewRow b p = r

/-! ### The matrix engine -/

namespace Sys2Proof.Claim

/-- The engine takes M-slot instructions: no handler runs, and fewer than 8 wait for their start (R190, R193). -/
def Free (s : State) : Prop := s.pl.intrap = false ∧ (s.pl.m.filter fun e => e.start.isNone).length < Config.mWaitMax

/-- Rows `lo` to `lo + n − 1` lie in banks allocated to the executing plane (R196). -/
def OwnRows (s : State) (lo n : Nat) : Prop := ∀ r, lo ≤ r → r < lo + n → r < 8192 ∧ s.co.bankOf (r / 128) = some s.co.lit

/-- `i` completes by joining the engine's list as `e`, with its registers' values. -/
def Enters (i : Instr) (s t : State) (ar : BitVec 2) (e : MEnt) : Prop :=
  exec i s = .next t ∧ t.pl.m = s.pl.m ++ [e] ∧ e.ins = i ∧ e.issued = s.pl.tcount ∧ e.arr = s.pl.owes ar ∧ e.start = none ∧
    t.dv = { s.dv with bars := (s.owe ar).2.dv.bars, nextId := t.dv.nextId } ∧ t.others = s.others

/-- A tile that an instruction may claim, when the ring holds one: owned, with an entry that resolves (R192, R261). -/
def Claimable (s : State) (slot : Option Nat) : Prop := ∀ k, slot = some k → s.claimFault (some k) = none

/-- The accumulator, stream and column operands of a product in their ranges (R204, R210). -/
def Operands (x y z : Word) (maxM kf nf : Nat) (aux ch : Bool) : Prop :=
  let m := (y.extractLsb' 0 9).toNat
  x.toNat < 2 ^ 15 ∧ y.toNat < 2 ^ 26 ∧ y.getLsbD 23 = false ∧ y.getLsbD 9 = false ∧
    (aux = true ∨ y.extractLsb' 20 3 = 0#3) ∧ (ch = true ∨ y.extractLsb' 24 2 = 0#2) ∧ 1 ≤ m ∧ m ≤ maxM ∧
    (y.extractLsb' 10 10).toNat ≤ kf ∧ z.toNat < 2 ^ 10 ∧ z.toNat ≤ nf

/-- A product completes: it joins the list with M steps; when every tile it claims is published, with what those tiles
sampled to, the pops it will make and whether it is skipped, and else suppressed with RING_UNDERFLOW (R192, R203). -/
def Product (i : Instr) (s : State) (ar : BitVec 2) (x y z : Word) (idx : Row) (l : List Claim)
    (pops : List (Nat × Nat)) (skip : List TileRd → Bool) (popped : List Nat) : Prop :=
  ∃ t e, Enters i s t ar e ∧ t.pl = { s.pl with m := t.pl.m, popped := s.pl.popped ++ popped } ∧ t.co = s.co ∧
    e.x = x ∧ e.y = y ∧ e.z = z ∧ e.idx = idx ∧ e.steps = (y.extractLsb' 0 9).toNat ∧
    ((∀ c ∈ l, (s.pl.tileAt c.ring c.pos).isSome = true) → e.supp = none ∧ e.pops = pops ∧
      e.reads.map some = l.map (fun c => (s.pl.tileAt c.ring c.pos).map s.sampleTile) ∧ e.skip = skip e.reads) ∧
    ∀ c ∈ l, s.pl.tileAt c.ring c.pos = none → ∃ c' ∈ l, e.supp = some (ringEmpty c'.ring) ∧ e.pops = []

end Sys2Proof.Claim

/-- R205 to R208: MALLOC takes the lowest run of n free banks and gives its first, or −1 and takes none; MFREE releases its
banks and every band that meets them; MBAND enters, reassigns or deletes a band; MZERO's rows wait for its start. -/
def Obligations.MatrixAllocation : Prop :=
  (∀ (f : MBk) (s : State), Free s →
    let n := f.n.toNat + 1
    let free := fun b => ∀ i, b ≤ i → i < b + n → s.co.bankOf i = none
    ∃ t e r, Enters (.malloc f) s t f.ar e ∧ r.dest = .sreg f.sx ∧ r.due = s.pl.bcount + 1 ∧
      t.pl = { s.pl with m := t.pl.m, flight := s.pl.flight ++ [r] } ∧ t.co = { s.co with bank := t.co.bank } ∧
      (∀ b, b + n ≤ 64 → free b → (∀ b' < b, ¬free b') → r.val = BitVec.ofNat 2048 b ∧
        ∀ i, t.co.bankOf i = if b ≤ i ∧ i < b + n then some s.co.lit else s.co.bankOf i) ∧
      ((∀ b, b + n ≤ 64 → ¬free b) → r.val = (BitVec.allOnes 64).setWidth 2048 ∧ t.co = s.co)) ∧
  (∀ (f : MBk) (s : State), Free s →
    let x := (s.rdS f.sx).toNat
    let n := f.n.toNat + 1
    x < 64 → OwnRows s (128 * x) (128 * n) →
    ∃ t e, Enters (.mfree f) s t f.ar e ∧ t.pl = { s.pl with m := t.pl.m } ∧
      t.co = { s.co with bank := t.co.bank, bands := t.co.bands } ∧
      (∀ i, t.co.bankOf i = if x ≤ i ∧ i < x + n then none else s.co.bankOf i) ∧
      ∀ b, b ∈ t.co.bands ↔ b ∈ s.co.bands ∧ ¬(b.row < 128 * (x + n) ∧ 128 * x < b.row + b.count)) ∧
  (∀ (f : MBd) (s : State), Free s →
    let x := (s.rdS f.sx).toNat
    let n := (s.rdS f.sy).toNat
    let same := fun (b : Band) => b.row = x ∧ b.count = n
    1 ≤ n → n ≤ 8192 → OwnRows s x n →
    (if f.rel = 1#1 then ∃ b ∈ s.co.bands, same b
     else (∃ b ∈ s.co.bands, same b) ∨
      ((∀ b ∈ s.co.bands, ¬(b.row < x + n ∧ x < b.row + b.count)) ∧ s.co.bands.length < Config.bandMax)) →
    ∃ t e, Enters (.mband f) s t f.ar e ∧ t.pl = { s.pl with m := t.pl.m } ∧ t.co = { s.co with bands := t.co.bands } ∧
      ∀ b, b ∈ t.co.bands ↔ (b ∈ s.co.bands ∧ ¬same b) ∨ (f.rel = 0#1 ∧ b = ⟨x, n, s.pl.lid, f.pos.toNat⟩)) ∧
  ∀ (f : R2) (s : State), Free s →
    let n := (s.rdS f.sy).toNat
    1 ≤ n → n ≤ 8192 → OwnRows s (s.rdS f.sx).toNat n →
    ∃ t e, Enters (.mzero f) s t f.ar e ∧ t.pl = { s.pl with m := t.pl.m } ∧ t.co = s.co ∧ e.x = s.rdS f.sx ∧ e.y = s.rdS f.sy

/-- R187, R192, R203, R204, R209 to R216: the loads and products whose operands, buffer, banks and tiles pass their
checks join the engine's list with the tiles they claim, MLDW with its buffer's new properties. Of MMULG the tiles are
those below aux and those an index names. -/
def Obligations.MatrixProducts : Prop :=
  (∀ (f : MLd) (s : State), Free s →
    let x := (s.rdS f.sx).toNat
    let slot := s.pl.tileAt (x % 8) 0
    x % 256 < 8 → x < (if f.cb = 1#1 then 2 ^ 24 else 8) → Claimable s slot →
    ∃ t e, Enters (.mldw f) s t f.ar e ∧ t.pl = { s.pl with m := t.pl.m } ∧ e.x = s.rdS f.sx ∧ e.steps = 256 ∧
      (slot = none → t.co = s.co ∧ e.supp = some (ringEmpty (x % 8)) ∧ e.pops = []) ∧
      ∀ k, slot = some k →
        let rd := s.sampleTile k
        e.supp = none ∧ e.reads = [rd] ∧ e.pops = [(x % 8, 1)] ∧
        ∃ born,
          let prop : WProp := ⟨f.fmt, f.cb == 1#1, f.west == 1#1, rd.nf, rd.zero, born⟩
          t.co = { s.co with wprop := vput s.co.wprop f.buf.toNat (some prop) }) ∧
  (∀ (s : State), Free s →
    ∀ q ∈ ([(fun f => .mmul f, false), (fun f => .mmulc f, true)] : List ((MMu → Instr) × Bool)), ∀ (f : MMu) (p : WProp),
    let x := s.rdS f.sx
    let y := s.rdS f.sy
    let form := if q.2 then 1 else formOf f.fmt.toNat false
    Operands x y (s.rdS f.sz) 256 (kFull form) (nFull form) false false → (q.2 = true → x.getLsbD 0 = false) →
    s.bufProp (x.extractLsb' 14 1).toNat = some p → p.cb = q.2 → (q.2 = false → p.fmt = f.fmt) →
    OwnRows s (x.extractLsb' 0 13).toNat ((if q.2 then 2 else 1) * (y.extractLsb' 0 9).toNat) →
    Claimable s (s.pl.tileAt f.rg.toNat 0) →
    Product (q.1 f) s f.ar x y (s.rdS f.sz) 0#2048 [⟨f.rg.toNat, 0⟩] (if f.keep = 1#1 then [] else [(f.rg.toNat, 1)])
      (fun l => match l with | t :: _ => (t.zero && !p.nf) || (p.zero && !t.nf) | [] => false) []) ∧
  (∀ (f : MMu) (s : State) (p : WProp), Free s →
    let x := s.rdS f.sx
    let y := s.rdS f.sy
    let form := formOf f.fmt.toNat false
    let aux := (y.extractLsb' 20 3).toNat
    let l : List Claim := [⟨f.rg.toNat, 0⟩, ⟨aux, if aux = f.rg.toNat then 1 else 0⟩]
    Operands x y (s.rdS f.sz) 256 (kFull form) (nFull form) true false →
    s.bufProp (x.extractLsb' 14 1).toNat = some p → p.cb = false → p.fmt = f.fmt →
    OwnRows s (x.extractLsb' 0 13).toNat (y.extractLsb' 0 9).toNat → (∀ c ∈ l, Claimable s (s.pl.tileAt c.ring c.pos)) →
    Product (.mmulb f) s f.ar x y (s.rdS f.sz) 0#2048 l (if f.keep = 1#1 then [] else [(f.rg.toNat, 1), (aux, 1)])
      (fun _ => false) []) ∧
  (∀ (f : MMs) (s : State) (p : WProp), Free s →
    let x := s.rdS f.sx
    let y := s.rdS f.sy
    let form := formOf f.fmt.toNat false
    let aux := (y.extractLsb' 20 3).toNat
    let l : List Claim := [⟨f.rg.toNat, 0⟩, ⟨f.rg.toNat, 1⟩, ⟨aux, if aux = f.rg.toNat then 2 else 0⟩]
    Operands x y (s.rdS f.sz) 256 (2 * kFull form) (nFull form) true false →
    s.bufProp (x.extractLsb' 14 1).toNat = some p → p.cb = false → p.fmt = f.fmt → p.west = false →
    OwnRows s (x.extractLsb' 0 13).toNat (y.extractLsb' 0 9).toNat → (∀ c ∈ l, Claimable s (s.pl.tileAt c.ring c.pos)) →
    Product (.mmuls f) s f.ar x y (s.rdS f.sz) 0#2048 l [(f.rg.toNat, 2), (aux, 1)] (fun _ => false) []) ∧
  (∀ (f : MMg) (s : State) (p : WProp), Free s →
    let x := s.rdS f.sx
    let y := s.rdS f.sy
    let q := 16 * f.cl.toNat + f.q.toNat
    let idx := (s.pl.headOf q).data
    let m := (y.extractLsb' 0 9).toNat
    let aux := (y.extractLsb' 20 3).toNat
    let form := formOf p.fmt.toNat false
    let l : List Claim := (List.range aux ++ (List.range m).map fun j => lane 3 idx j / 256).eraseDups.map fun k => ⟨f.rg.toNat, k⟩
    Operands x y (s.rdS f.sz) 128 (kFull form) (nFull form) true false →
    s.bufProp (x.extractLsb' 14 1).toNat = some p → p.cb = false → s.pl.queue q ≠ [] →
    OwnRows s (x.extractLsb' 0 13).toNat m → (∀ c ∈ l, Claimable s (s.pl.tileAt c.ring c.pos)) →
    Product (.mmulg f) s f.ar x y (s.rdS f.sz) idx l (if aux = 0 then [] else [(f.rg.toNat, aux)]) (fun _ => false) [q]) ∧
  (∀ (f : MCh) (s : State) (p : WProp), Free s →
    let x := s.rdS f.sx
    let y := s.rdS f.sy
    let form := formOf f.fmt.toNat false
    Operands x y (s.rdS f.sz) 256 (kFull form) (nFull form) false true →
    s.bufProp (x.extractLsb' 14 1).toNat = some p → p.cb = false → p.fmt = f.fmt → (∀ e ∈ s.pl.m, e.open_ = false) →
    s.co.id % 4 + (y.extractLsb' 24 2).toNat + 1 ≤ 3 → OwnRows s (x.extractLsb' 0 13).toNat (y.extractLsb' 0 9).toNat →
    Claimable s (s.pl.tileAt f.rg.toNat 0) →
    Product (.mchain f) s f.ar x y (s.rdS f.sz) 0#2048 [⟨f.rg.toNat, 0⟩] [(f.rg.toNat, 1)] (fun _ => false) []) ∧
  (∀ (f : R3) (s : State) (p : WProp), Free s →
    let x := s.rdS f.sx
    let y := s.rdS f.sy
    let h := (y.extractLsb' 24 2).toNat + 1
    let rows := match s.chainSource h with | some e => (e.y.extractLsb' 0 9).toNat | none => 1
    x.toNat < 2 ^ 15 → y.toNat < 2 ^ 26 → y.toNat % 2 ^ 24 = 0 → h ≤ s.co.id % 4 → h ≤ 3 → (s.rdS f.sz).toNat ≤ 256 →
    (∀ e, s.chainSource h = some e → h ≤ (e.y.extractLsb' 24 2).toNat + 1) →
    s.bufProp (x.extractLsb' 14 1).toNat = some p → (∀ e ∈ s.pl.m, e.open_ = false) →
    OwnRows s (x.extractLsb' 0 13).toNat rows →
    ∃ t e, Enters (.mchainRecv f) s t f.ar e ∧ t.pl = { s.pl with m := t.pl.m } ∧ t.co = s.co ∧ e.x = x ∧ e.y = y ∧
      e.z = s.rdS f.sz) ∧
  ∀ (f : MCo) (s : State), Free s →
    let y := s.rdS f.sy
    let rg := fun k => (y.extractLsb' (8 * k) 3).toNat
    let l : List Claim := [⟨rg 0, 0⟩, ⟨rg 1, if rg 1 = rg 0 then 1 else 0⟩]
    let room := fun ring n => (s.pl.ring ring).count.toNat + s.pl.publishing ring + n ≤ (s.pl.ring ring).size.toNat
    y &&& 0x07070707#64 = y → room (rg 2) 1 → room (rg 3) (if rg 2 = rg 3 then 2 else 1) →
    (∀ c ∈ l, Claimable s (s.pl.tileAt c.ring c.pos)) →
    ∃ t e, Enters (.mcond f) s t f.ar e ∧ t.pl = { s.pl with m := t.pl.m } ∧ t.co = s.co ∧ e.y = y ∧ e.steps = 256 ∧
      ((∀ c ∈ l, (s.pl.tileAt c.ring c.pos).isSome = true) → e.supp = none ∧
        e.reads.map some = l.map (fun c => (s.pl.tileAt c.ring c.pos).map s.sampleTile) ∧
        e.pops = if rg 0 = rg 1 then [(rg 0, 2)] else [(rg 0, 1), (rg 1, 1)])

/-- R217, R218: MDRAIN of rows that its task may drain joins the list with the scale register it names, its vectors
reserved in mq, a remote one freezing the core for 4 cycles (R19, R198); MCHK joins it outside a handler, and inside one
gives the log one bundle on and clears it, for a bank's columns after 128 cycles. -/
def Obligations.MatrixDrainAndCheck : Prop :=
  (∀ (f : MDr) (s : State), Free s →
    let x := s.rdS f.sx
    let y := s.rdS f.sy
    let z := s.rdS f.sz
    let remote := x.getLsbD 16
    let c := s.co.id / 4 * 4 + (x.extractLsb' 14 2).toNat
    let lo := (x.extractLsb' 0 13).toNat
    let n := y.toNat
    let v := drainV f.fmt.toNat
    x.toNat < 2 ^ 17 → x.getLsbD 13 = false → (remote = true ∨ (x.extractLsb' 14 2).toNat = s.co.id % 4) →
    1 ≤ n → n ≤ 32 → n * v ≤ 32 → (∀ i < 64, z.getLsbD i = true → (i < 16 ∧ f.lux = 1#1) ∨ (16 ≤ i ∧ i < 19 ∧ f.q = 1#1)) →
    (∀ r, lo ≤ r → r < lo + n → r < 8192 ∧ s.drainOwner c r = true ∧
      (if remote then ((s.core c).bankOf (r / 128)).isSome = true else (s.core c).bankOf (r / 128) = some s.co.lit)) →
    (s.pl.queue 32).length + s.pl.reserved 32 + n * v ≤ qCap 32 →
    ∃ t e, exec (.mdrain f) s = .next t ∧ t.pl.m = s.pl.m ++ [e] ∧ e.ins = .mdrain f ∧ e.x = x ∧ e.y = y ∧ e.z = z ∧
      e.steps = n * v ∧ e.arr = s.pl.owes f.ar ∧ t.dv.mem = s.dv.mem ∧
      e.idx.setWidth 64 = (vget s.pl.ks (z.extractLsb' 16 3).toNat ⟨0#64, 0#32⟩).w ∧
      (remote = false → t.pl = { s.pl with m := t.pl.m } ∧ t.co = s.co) ∧
      (remote = true → t.pl = { s.pl with m := t.pl.m, cycle := s.pl.cycle + 4 } ∧
        t.co = { s.co with shadow := s.co.shadow.tick 4 })) ∧
  ∀ (f : MCk) (s : State), (f.col = 1#1 → (s.rdS f.sy).toNat < 64 ∧ OwnRows s (128 * (s.rdS f.sy).toNat) 128) →
    (s.pl.intrap = false → Free s →
      ∃ t e, Enters (.mchk f) s t f.ar e ∧ t.pl = { s.pl with m := t.pl.m } ∧ t.co = s.co ∧ e.y = s.rdS f.sy) ∧
    (s.pl.intrap = true → f.col = 0#1 →
      ∃ t r, exec (.mchk f) s = .next t ∧ t.pl = { s.pl with flight := s.pl.flight ++ [r] } ∧ t.co = { s.co with chk := 0#64 } ∧
        Due s r f.ar 1 (.sreg f.sx) ∧ r.val = s.co.chk.setWidth 2048) ∧
    (s.pl.intrap = true → f.col = 1#1 →
      ∃ t r, exec (.mchk f) s = .next t ∧ t.pl = { s.pl with flight := s.pl.flight ++ [r], cycle := s.pl.cycle + 128 } ∧
        t.co = { s.co with chk := 0#64, shadow := s.co.shadow.tick 128 } ∧ Due s r f.ar 1 (.sreg f.sx) ∧
        r.val = (s.co.checkCols (s.rdS f.sy).toNat s.co.chk).setWidth 2048)

/-- R195, R203, R210: an integer product adds to each of its rows' first n columns the exact sum over k below Kc of A
times B, modulo 2^32, to the old value, or to 0 where ow cleared the row; the other columns and rows keep theirs. -/
def Obligations.IntegerProductAccumulates : Prop :=
  ∀ (c : Core) (kc n row : Nat) (ow : Bool) (A : Nat → Int) (B : Nat → Nat → Int), n ≤ 256 →
    let t := c.applyProd ⟨true, kc, if ow then [row] else [], [(row, n, 0, fun k => some (Num.ofInt (A k)))],
      fun k j => some (Num.ofInt (B k j))⟩ (fun _ => true) (fun _ => true)
    let el := fun (x : Core) r j => ((x.accRow r).data.extractLsb' (32 * j) 32).toNat
    (∀ j < 256, el t row j =
      if j < n then wrap 32 ((if ow then 0 else (el c row j : Int)) + ((List.range kc).map fun k => A k * B k j).sum)
      else if ow then 0 else el c row j) ∧
    (t.accRow row).isInt = true ∧ ∀ r, r ≠ row → t.accRow r = c.accRow r

/-! ### The channel slot -/

namespace Sys2Proof.Claim

/-- `i` completes by queueing `c` behind its channel's commands, with what it reads at issue; nothing else changes but its
barrier's count and the device's next number (R332). -/
def Queues (i : Instr) (s : State) (ar : BitVec 2) (ch : BitVec 3) (pb emit : Bool) (x y z : Word) (blk : BitVec 512)
    (windows : List (Nat × Nat)) : Prop :=
  ∃ t c, exec i s = .next t ∧
    t = { s with
      co := { s.co with ch := vput s.co.ch ch.toNat (vget s.co.ch ch.toNat [] ++ [c]) },
      dv := { s.dv with bars := (s.owe ar).2.dv.bars, nextId := t.dv.nextId } } ∧
    c.ins = i ∧ c.x = x ∧ c.y = y ∧ c.z = z ∧ c.blk = blk ∧ c.lid = s.pl.lid ∧ c.rank = s.pl.rank ∧ c.space = s.pl.space ∧
    c.plane = s.co.lit ∧ c.st = .queued ∧ c.arr = s.pl.owes ar ∧ c.pb = pb ∧ c.emit = (emit && s.pl.jact) ∧ c.done = 0 ∧
    ((∀ w ∈ windows, s.opForeign w.1 w.2 = none) → c.result = none)

/-- A block-form command whose block can be read, whose header keeps R339 and whose fields keep the command's limits. -/
def BlockQueues (i : Instr) (s : State) (f : XBk) (emit : Bool) (ok : BitVec 512 → Prop)
    (windows : BitVec 512 → List (Nat × Nat)) : Prop :=
  let b := s.blockAt (s.rdS f.sx)
  s.rowFault (s.rdS f.sx).toNat = none → headerOk b = true → ok b →
  Queues i s f.ar f.ch (f.pb == 1#1) emit (s.rdS f.sx) 0#64 0#64 b (windows b)

end Sys2Proof.Claim

/-- R290, R332, R340 to R357: each channel command that keeps its limits queues on its channel with the registers, the
block and the task it reads at issue. A command's data are read at its start (log entry 43). -/
def Obligations.ChannelCommandsQueue : Prop :=
  ∀ s : State,
    (∀ f : XCp,
      let d := (s.rdS f.sx).toNat
      let b := (s.rdS f.sy).toNat
      let n := (s.rdS f.sz).toNat
      opAligned d [n] = true → opAligned b [n] = true → 0 < n → n % 32 = 0 → n < 2 ^ 40 →
      Queues (.xcopy f) s f.ar f.ch (f.pb == 1#1) (f.emit == 1#1) (s.rdS f.sx) (s.rdS f.sy) (s.rdS f.sz) 0#512 [(d, n), (b, n)]) ∧
    (∀ f : XFi,
      let r := s.rdS f.sx
      let n := (s.rdS f.sy).toNat
      refBad r = false → 1 ≤ n → n ≤ 2 ^ 24 → (f.kind = 0#3 ∨ 2 ≤ f.kind.toNat ∧ f.kind.toNat ≤ 5) → s.fillForeign r n = none →
      Queues (.xfill f) s f.ar f.ch (f.pb == 1#1) false r (s.rdS f.sy) (s.rdS f.sz) 0#512 []) ∧
    (∀ f : XAc,
      let z := (s.rdS f.sz).toNat
      (s.rdS f.sx).toNat % (if z % 2 = 1 then 8 else 4) = 0 → z < 4 → f.op.toNat < 12 →
      ¬(z % 2 = 1 ∧ (f.op.toNat = 1 ∨ f.op.toNat = 6 ∨ f.op.toNat = 7)) →
      Queues (.xacc f) s f.ar f.ch (f.pb == 1#1) false (s.rdS f.sx) (s.rdS f.sy) (s.rdS f.sz) 0#512 []) ∧
    (∀ f : XCa, (s.rdS f.sx).toNat % (if f.w64 = 1#1 then 8 else 4) = 0 →
      Queues (.xcas f) s f.ar f.ch (f.pb == 1#1) false (s.rdS f.sx) (s.rdS f.sy) (s.rdS f.sz) 0#512 []) ∧
    (∀ f : XSp, (s.rdS f.sx).toNat < 2 ^ 24 → f.sel ≠ 0#2 →
      Queues (.xspill f) s f.ar f.ch (f.pb == 1#1) false (s.rdS f.sx) (s.rdS f.sy) 0#64 0#512 []) ∧
    (∀ f : XSe, BlockQueues (.xsend f) s ⟨f.ar, f.sx, f.ch, f.pb⟩ (f.emit == 1#1)
      (fun b => let n := bF b 0x18 0 40
        0 < n ∧ n % 32 = 0 ∧ bF b 0x18 49 15 = 0 ∧ bF b 0x20 16 48 = 0 ∧ zeroed b 0x28 0x40 = true ∧
        opOk (bF b 0x10 0 64) [n] = true) fun b => [(bF b 0x10 0 64, bF b 0x18 0 40)]) ∧
    ∀ f : XBk,
      ((s.rdS f.sx).toNat < 2 ^ 24 →
        Queues (.xrecall f) s f.ar f.ch (f.pb == 1#1) false (s.rdS f.sx) 0#64 0#64 0#512 []) ∧
      BlockQueues (.xcopyt f) s f false (fun b => (shapeOf b).ok b = true) (fun b =>
        let h := shapeOf b
        let w := elemBits h.fmt
        rowSlots h.dst h.d0 h.dp h.outDims.1 (h.outDims.2 * w) ++ rowSlots h.src h.s0 h.sp h.rows (h.cols * w) ++
          [(h.aux, if h.mode ≥ 2 then 256 * h.rows else 0)]) ∧
      BlockQueues (.xpair f) s f false (fun b => let n := bF b 0x20 0 32
        1 ≤ n ∧ n ≤ 4096 ∧ zeroed b 0x24 0x40 = true ∧ opOk (bF b 0x10 0 64) [65536] = true ∧
        (s.pairStart s.pl.space b).isSome = true) (fun b => [(bF b 0x10 0 64, 65536 * bF b 0x20 0 32)]) ∧
      BlockQueues (.xgath f) s f false (fun b => (gatherOf b).ok b = true ∧ opOk (gatherOf b).src [(gatherOf b).pitch] = true)
        (fun b => let g := gatherOf b; [(g.dst, g.n * g.row), (g.src, g.row), (g.idx, 4 * g.n)]) ∧
      BlockQueues (.xscat f) s f false (fun b => (gatherOf b).ok b = true ∧ opOk (gatherOf b).dst [(gatherOf b).pitch] = true)
        (fun b => let g := gatherOf b; [(g.src, g.n * g.row), (g.dst, g.row), (g.idx, 4 * g.n)]) ∧
      BlockQueues (.xnear f) s f false (fun b => (nearOf b).ok b = true) (fun _ => []) ∧
      BlockQueues (.xpost f) s f false (fun b => let n := bF b 0x18 0 40
        0 < n ∧ n % 32 = 0 ∧ bF b 0x18 40 24 = 0 ∧ bF b 0x20 16 48 = 0 ∧ zeroed b 0x28 0x40 = true ∧
        opOk (bF b 0x10 0 64) [n] = true) (fun b => [(bF b 0x10 0 64, bF b 0x18 0 40)]) ∧
      BlockQueues (.xcoll f) s f false (fun b => let c := collOf b
        let m := dmrCount (s.pl.dmrAt c.level)
        c.ok b m = true ∧ ¬(c.order = 2 ∧ s.pl.jact = true) ∧ opOk c.src [c.n * c.bytes] = true ∧ opOk c.dst [c.outBytes m] = true)
        (fun b => let c := collOf b; [(c.src, c.n * c.bytes), (c.dst, c.outBytes (dmrCount (s.pl.dmrAt c.level)))]) ∧
      BlockQueues (.xmedia f) s f false (fun b => let fm := bF b 0x30 0 4
        bF b 0x18 40 4 ≤ 4 ∧ bF b 0x18 44 20 = 0 ∧ (fm = 1 ∨ fm = 6 ∨ fm = 8 ∨ fm = 10) ∧ bF b 0x30 4 12 = 0 ∧
        opOk (bF b 0x10 0 64) [bF b 0x18 0 40] = true ∧
        opOk (bF b 0x20 0 64) [s.dv.mg.ctxBytes (bF b 0x18 40 4)] = true ∧ opOk (bF b 0x28 0 64) [] = true)
        (fun b => [(bF b 0x10 0 64, bF b 0x18 0 40), (bF b 0x20 0 64, s.dv.mg.ctxBytes (bF b 0x18 40 4)),
          (bF b 0x28 0 64, 1)])

/-- R262 to R264, R325: XFENCE notes the commands on its channels and, with s, the plane's stores, and goes at once when
they are over; XHAND offers an owned slot to a task of the superstep's launch under a new generation and gives its
handle one bundle on; XTAKE sends its request and its result lands 96 bundles on. When a delivery is made: log entries
32 and 46. -/
def Obligations.FenceHandAndTake : Prop :=
  (∀ (f : XFe) (s : State),
    let a := (s.rdS f.sx).toNat
    a < 2 ^ 16 → ¬(a / 256 = 0 ∧ (f.q = 0#1 ∨ f.s = 1#1)) →
    ∃ t fn, exec (.xfence f) s = .next t ∧ fn.held = BitVec.ofNat 8 (a / 256) ∧ fn.plane = s.co.lit ∧
      fn.arr = s.pl.owes f.ar ∧ fn.stores = (if f.s = 1#1 then s.planeStores else []) ∧
      (∀ k c, (k, c) ∈ fn.cmds ↔ k < 8 ∧ a.testBit k = true ∧ ∃ x ∈ vget s.co.ch k [], x.seq = c) ∧
      let all := s.co.fences ++ [fn]
      t.co = { s.co with fences := all.filter fun g => !g.over ⟨t.pl, s.co⟩ s.dv } ∧
      t.dv.arrQ = s.dv.arrQ ++ (all.filter fun g => g.over ⟨t.pl, s.co⟩ s.dv).flatMap (fun g => g.arr.toList.map fun o => ⟨o, [], 0⟩) ∧
      t.pl = { s.pl with sq := s.pl.sq ++ if f.q = 1#1
        then [⟨fn.seq, .cmds fn.cmds, s.pl.lid, s.pl.rank, none, s.pl.tcount⟩] else [] } ∧ t.dv.mem = s.dv.mem) ∧
  (∀ (f : R3) (s : State),
    let a := (s.rdS f.sy).toNat
    let dest := (s.rdS f.sz).toNat
    let c := a / 256
    let k := a % 256
    let x := (s.core c).slot k
    a < 2 ^ 14 → s.taskOwns c k s.pl.lid s.pl.rank = true → dest < dmrCount (s.pl.dmrAt 3) → dest ≠ dmrRank (s.pl.dmrAt 3) →
    ∃ t r, exec (.xhand f) s = .next t ∧ t.pl = { s.pl with flight := s.pl.flight ++ [r] } ∧ r.due = s.pl.bcount + 1 ∧
      r.dest = .sreg f.sx ∧ r.val = (mkHandle (x.gen + 1#16) c k).setWidth 2048 ∧
      (t.core c).slot k = { x with st := .offered, trank := BitVec.ofNat 8 dest, gen := x.gen + 1#16, takeable := false,
                                   arr := s.pl.owes f.ar, since := s.dv.nextId } ∧
      (∀ c' k', (c', k') ≠ (c, k) → (t.core c').slot k' = (s.core c').slot k') ∧ t.dv.mem = s.dv.mem) ∧
  ∀ (f : XTk) (s : State),
    let a := (s.rdS f.sy).toNat
    let c := (((s.rdS f.sy).extractLsb' 8 6).toNat)
    (if f.free = 1#1 then a < 2 ^ 14 else a / 2 ^ 14 % 2 ^ 34 = 0 ∧ c < 48 ∧ s.dv.mg.cores.getLsbD c = true) →
    s.pl.lbUsed < Config.lbCap →
    ∃ t r, exec (.xtake f) s = .next t ∧ t.pl = { s.pl with flight := s.pl.flight ++ [r] } ∧ t.co = s.co ∧
      r.due = s.pl.bcount + 96 ∧ r.dest = .sreg f.sx ∧ r.known = false ∧ r.arr = s.pl.owes f.ar ∧
      t.dv.xtQ = s.dv.xtQ ++ [⟨c, a % 256, BitVec.ofNat 16 (a / 2 ^ 48), f.free == 1#1, s.co.id, s.co.lit, s.pl.lid, s.pl.rank, r.id⟩] ∧
      t.dv.mem = s.dv.mem

/-! ### The auxiliary slot -/

namespace Sys2Proof.Claim

/-- `i` completes from `s` with one scalar result one bundle on, `v` in `sd`; the machine is otherwise as in `u`, where
translation has marked what the instruction uses (R256), but for the plane as given besides and, when `frozen`, the
cycles that the core's tasks count while its sequencer is frozen (R19). -/
def GivesIn (i : Instr) (s u : State) (ar : BitVec 2) (sd : BitVec 5) (v : Word) (p : Plane) (frozen : Bool) : Prop :=
  ∃ t r n, exec i s = .next t ∧ Due s r ar 1 (.sreg sd) ∧ r.val = v.setWidth 2048 ∧ r.known = true ∧ r.flags = 0#5 ∧
    (frozen = false → n = 0 ∧ t.fresh = s.fresh) ∧
    t = { u with
      pl := { p with flight := s.pl.flight ++ [r], cycle := s.pl.cycle + n },
      co := { s.co with shadow := s.co.shadow.tick n }, fresh := t.fresh,
      dv := { u.dv with bars := (s.owe ar).2.dv.bars, nextId := t.dv.nextId } }

/-- The same where the instruction touches nothing else. -/
def Gives (i : Instr) (s : State) (ar : BitVec 2) (sd : BitVec 5) (v : Word) (p : Plane) (frozen : Bool) : Prop :=
  GivesIn i s s ar sd v p frozen

/-- `i` completes by sending a request and awaiting its result `lat` bundles on; the device is as given besides, and a
frozen sequencer's cycles are counted (R19). -/
def Asks (i : Instr) (s : State) (ar : BitVec 2) (dest : Dest) (lat : Nat) (dv : Nat → Dev) : Prop :=
  ∃ t r n, exec i s = .next t ∧ t.pl = { s.pl with flight := s.pl.flight ++ [r], cycle := s.pl.cycle + n } ∧
    t.co = { s.co with shadow := s.co.shadow.tick n } ∧
    r.due = s.pl.bcount + lat ∧ r.dest = dest ∧ r.arr = s.pl.owes ar ∧ r.known = false ∧
    t.dv = { dv r.id with bars := (s.owe ar).2.dv.bars, nextId := t.dv.nextId }

end Sys2Proof.Claim

/-- R122, R144, R145, R160, R309, R311, R338: QPOP takes the head of xq, or notes its absence in qf, or a drained
vector's tag; KBL and KBL.W write a latch, KXPAT a pattern; FLAGS gives an engine's flags and clears or enables; KSCALE
and KSCALEI land a scale register 3 bundles on. Model's choice: the cycles of a freeze (log entry 10). By inference: KBL,
KBL.W and KXPAT make their arrival in the step that issues them (log entry 46). -/
def Obligations.LatchesFlagsAndScales : Prop :=
  (∀ (f : KQp) (s : State),
    (f.q = 1#1 → s.pl.mq ≠ [] →
      Gives (.qpop f) s f.ar f.sx ((s.pl.headOf 32).tag.setWidth 64) { s.pl with popped := s.pl.popped ++ [32] } false) ∧
    (f.q = 0#1 → (f.w = 0#1 ∨ s.pl.xq ≠ []) →
      ∃ t r, Local (.qpop f) s t f.ar ∧ t.pl = { s.pl with flight := s.pl.flight ++ [r], xq := s.pl.xq.tail } ∧
        Due s r f.ar 1 (.sreg f.sx) ∧ r.val = (s.pl.xq.headD 0#64).setWidth 2048 ∧
        r.qfSet = if f.w = 1#1 then none else some (decide (s.pl.xq ≠ [])))) ∧
  (∀ (f : KBl) (s : State), ∃ row : Row,
    Quick (.kbl f) s f.ar { s.pl with bl := vput s.pl.bl f.cl.toNat row } s.co ∧
    (f.fmt = 15#4 → ∀ i < 2048, row.getLsbD i = (s.rdS f.sx).getLsbD (i % 64)) ∧
    (f.fmt ≠ 15#4 → ∀ e < laneCount f.fmt.toNat,
      lane f.fmt.toNat row e = toLane f.fmt.toNat (s.rdS f.sx).toNat % 2 ^ laneBits f.fmt.toNat)) ∧
  (∀ (f : KBw) (s : State), ∃ row : Row,
    Quick (.kblW f) s f.ar { s.pl with bl := vput s.pl.bl f.cl.toNat row } s.co ∧
    ∀ i < 2048, row.getLsbD i =
      if i / 64 = f.i.toNat then (s.rdS f.sx).getLsbD (i % 64) else (vget s.pl.bl f.cl.toNat 0#2048).getLsbD i) ∧
  (∀ (f : KXp) (s : State), let x : BitVec 128 := s.rdS f.sy ++ s.rdS f.sx
    (∀ j < patC x, patOff x j + patW x ≤ patP x) →
    Quick (.kxpat f) s f.ar { s.pl with xp := vput s.pl.xp f.xp.toNat x } s.co) ∧
  (∀ (f : KF1) (s : State),
    Gives (.flagsRd f) s f.ar f.sx ((vget s.pl.flags f.eng.toNat 0#16).setWidth 64) s.pl false) ∧
  (∀ (f : KF2) (s : State),
    let w := vget s.pl.flags f.eng.toNat 0#16
    let m := (s.rdS f.sy).setWidth 5
    Gives (.flagsClr f) s f.ar f.sx (w.setWidth 64)
      { s.pl with flags := vput s.pl.flags f.eng.toNat (w.extractLsb' 5 11 ++ (w.setWidth 5 &&& ~~~m)) } false ∧
    Gives (.flagsEn f) s f.ar f.sx (w.setWidth 64)
      { s.pl with flags := vput s.pl.flags f.eng.toNat (w.extractLsb' 13 3 ++ m ++ w.setWidth 8) } false) ∧
  (∀ (f : KSc) (s : State),
    let y := s.rdS f.sy
    let d := deriveScale ((s.dv.luxRec (s.rdS f.sx).toNat).sealed.extractLsb' 0 32).toNat (y.extractLsb' 0 4).toNat (y.getLsbD 4)
      (y.extractLsb' 5 2).toNat
    let word := fun (mode : BitVec 2) (scale : BitVec 32) =>
      (0#22 ++ y.extractLsb' 7 2 ++ y.extractLsb' 5 2 ++ mode ++ y.extractLsb' 0 4 ++ scale : BitVec 64)
    scaleTgtOk (y.extractLsb' 0 4).toNat = true → y.toNat < 512 →
    ((s.rdS f.sx).toNat < 2 ^ 16 →
      let r := (s.dv.luxRec (s.rdS f.sx).toNat).sealed
      let odd := r.extractLsb' 192 32 ≠ 0#32 ∨ r.extractLsb' 224 32 ≠ 0#32
      ∃ t r n, exec (.kscale f) s = .next t ∧
        t = { s with
          pl := { s.pl with flight := s.pl.flight ++ [r], cycle := s.pl.cycle + n },
          co := { s.co with shadow := s.co.shadow.tick n }, fresh := t.fresh,
          dv := { s.dv with bars := (s.owe f.ar).2.dv.bars, nextId := t.dv.nextId } } ∧
        Due s r f.ar 3 (.scale f.ks.toNat) ∧
        r.val.setWidth 64 = word (if y.getLsbD 4 then 1#2 else 0#2) (BitVec.ofNat 32 d.1) ∧ r.eng = 4 ∧
        r.flags = BitVec.ofNat 5 (if odd then d.2 ||| 16 else d.2)) ∧
    ((s.rdS f.sx).toNat < 2 ^ 32 → y.getLsbD 4 = false →
      ∃ t r, Local (.kscalei f) s t f.ar ∧ t.pl = { s.pl with flight := s.pl.flight ++ [r] } ∧
        Due s r f.ar 3 (.scale f.ks.toNat) ∧ r.val.setWidth 64 = word 2#2 ((s.rdS f.sx).setWidth 32) ∧
        r.val.extractLsb' 64 32 = BitVec.ofNat 32 (scaleRcp (s.rdS f.sx).toNat) ∧ r.flags = 0#5)) ∧
  deriveScale 0x40A00000 6 false 0 = (0x3C800000, 0) ∧ deriveScale 0x40A00000 6 false 1 = (0x3D000000, 0) ∧
  (deriveScale 0x40A00000 6 true 0).2 = 8 ∧ deriveScale 0 6 true 0 = (0x3F800000, 0)

/-- R302, R307, R312 to R314: KRBIND binds or unbinds a tile's record and with it sets cos; KREC, KRCLR and KSEAL send
their requests to the record's home, behind the merges of the task's earlier far stores, KREC's field landing 96 bundles
on; CKSUM gives the outcome of its tile's check.
Model's choice: the cycles of a freeze (log entry 10). An arrival is made at once (46). -/
def Obligations.RecordInstructions : Prop :=
  (∀ (f : KRb) (s : State) (l : TLoc),
    s.tileRefK (.krbind f) 18 false (s.rdS f.sx) = .ok l → l.isSlot = true → (s.rdS f.sy).toNat < 2 ^ 16 →
    ∃ t, Arrives (.krbind f) s t f.ar ∧ t.pl = { s.pl with cycle := t.pl.cycle } ∧
      ((t.core l.c).slot l.k).lux = (if f.unbind = 1#1 then none else some ((s.rdS f.sy).setWidth 16)) ∧
      (f.unbind = 0#1 → ((t.dv.luxRec (s.rdS f.sy).toNat).live.getLsbD 1864) = (f.cos == 1#1)) ∧ t.dv.mem = s.dv.mem) ∧
  (∀ (f : KRb) (s : State) (l : TLoc),
    s.tileRefK (.krbind f) 18 false (s.rdS f.sx) = .ok l → l.isSlot = false → refTile l.ref = 0 →
    s.descFault l.sp l.desc true = none → (s.rdS f.sy).toNat < 2 ^ 16 →
    ∃ t, Arrives (.krbind f) s t f.ar ∧ t.pl = { s.pl with cycle := t.pl.cycle } ∧ t.co = { s.co with shadow := t.co.shadow } ∧
      t.dv.mem = (s.dv.putDesc l.sp l.desc 0x20 4 (if f.unbind = 1#1 then 0 else 2 ^ 16 + (s.rdS f.sy).toNat)).mem) ∧
  (∀ (f : KRc) (s : State), (s.rdS f.sy).toNat < 2 ^ 16 → (f.fld = 8#4 → (s.rdS f.sz).toNat < 48) →
    s.pl.lbUsed < Config.lbCap →
    Asks (.krec f) s f.ar (.sreg f.sx) 96 fun id => { s.dv with luxQ := s.dv.luxQ ++
      [⟨(s.rdS f.sy).setWidth 16, s.pl.lid, s.pl.rank,
        .read (f.sealed == 1#1) f.fld.toNat ((s.rdS f.sz).toNat % 48) s.co.id s.co.lit id, none, s.queuedStfs, 0⟩] }) ∧
  (∀ (s : State) (i : Instr) (ar : BitVec 2) (sx : BitVec 5) (op : LuxOp),
    (∃ f : KRr, i = .krclr f ∧ ar = f.ar ∧ sx = f.sx ∧ op = .clear f.sel ∧ f.sel ≠ 0#2) ∨
    (∃ f : R1, i = .kseal f ∧ ar = f.ar ∧ sx = f.sx ∧ op = .seal) → (s.rdS sx).toNat < 2 ^ 16 →
    exec i s = .next { s with dv := { s.dv with
      bars := (s.owe ar).2.dv.bars,
      luxQ := s.dv.luxQ ++ [⟨(s.rdS sx).setWidth 16, s.pl.lid, s.pl.rank, op, s.pl.owes ar, s.queuedStfs, 0⟩] } }) ∧
  ∀ (f : R2) (s : State) (l : TLoc),
    s.tileRefK (.cksum f) 13 false (s.rdS f.sy) = .ok l → s.mapped (.ok l) = none → (s.tileWalkK false l).1 = none →
    let u := s.tileTouch (some false) l
    let e := u.entry l
    let k := classify l.fmt (u.storeRows (storeOf l e.1)) (u.side (storeOf l e.1))
    ∃ t r, exec (.cksum f) s = .next t ∧ t.pl = { s.pl with flight := s.pl.flight ++ [r], cycle := t.pl.cycle } ∧
      Due s r f.ar 1 (.sreg f.sx) ∧
      (entKind e.1 ≠ 1 → r.val = 4#2048 ∧ t.dv.mem = u.dv.mem) ∧
      (entKind e.1 = 1 → r.val = BitVec.ofNat 2048 (k.kind + k.row % 256 * 2 ^ 8 + k.col % 256 * 2 ^ 16) ∧
        (k.kind = 0 → t.dv.mem = u.dv.mem))

/-- R286 to R289: TTQ gives a word of the entry as it stands; TTSET writes the symbol, of a slot or of a tensor's tile,
keeping pgen; TTSETTLE settles the tiles of its run one after the other, each as State.settle says, and gives how many
changed kind; TTPROMO gives the former kind and leaves the tile, a slot's or a tensor's, STORED. What translation marks
on the way is in the states the clauses name (R256). Model's choice: the cycles of a freeze (log entry 10). An arrival
is made at once (46). -/
def Obligations.TileTableInstructions : Prop :=
  (∀ (f : KTq) (s : State) (l : TLoc), s.tileRefK (.ttq f) 13 false (s.rdS f.sy) = .ok l →
    let u := s.tileTouch none l
    let w1 := if l.isSlot then ((u.core l.c).slot l.k).winW1 else (u.entry l).2
    GivesIn (.ttq f) s u f.ar f.sx (if f.w1 = 1#1 then w1 else (u.entry l).1) s.pl true) ∧
  (∀ (f : KTs) (s : State) (l : TLoc) (w1 : Word), s.tileRefK (.ttset f) 18 true (s.rdS f.sx) = .ok l →
    s.symbol l f.kind.toNat f.fmt.toNat (s.rdS f.sy) = .ok w1 →
    ∃ t, Arrives (.ttset f) s t f.ar ∧ t.pl = { s.pl with cycle := t.pl.cycle } ∧
      (let e := t.entry l
       e.2 = w1 ∧ entKind e.1 = f.kind.toNat ∧ entFmt e.1 = f.fmt.toNat ∧ entPromoted e.1 = false ∧
       entDirty e.1 = false ∧ entFrame e.1 = 0 ∧ entPgen e.1 = entPgen ((s.markChain 1 l).entry l).1) ∧
      ∀ d ∈ (vget t.dv.dirty l.die []), d.sp = l.sp → d.ref ≠ l.ref) ∧
  (∀ (f : R3) (s : State) (l : TLoc) (n : Nat), s.tileRefK (.ttsettle f) 13 true (s.rdS f.sy) = .ok l →
    (s.rdS f.sz).toNat = n → 1 ≤ n → n ≤ 256 → s.runFits l n = true →
    (∀ j < n, ∃ l', s.tileRefK (.ttsettle f) 13 true (refPlus (s.rdS f.sy) j) = .ok l') →
    ∃ t r, exec (.ttsettle f) s = .next t ∧ t.pl = { s.pl with flight := s.pl.flight ++ [r], cycle := t.pl.cycle } ∧
      Due s r f.ar 1 (.sreg f.sx) ∧
      ∃ (at_ : Nat → State) (changed : Nat → Bool), at_ 0 = s ∧
        (∀ j < n, let now := at_ j
          (∀ l', now.tileRefK (.ttsettle f) 13 true (refPlus (s.rdS f.sy) j) = .ok l' →
            let u := now.markChain 1 l'
            at_ (j + 1) = (u.settle l').2 ∧
            (changed j = true ↔ entKind (u.entry l').1 ≠ entKind ((u.settle l').2.entry l').1)) ∧
          ((∀ l', now.tileRefK (.ttsettle f) 13 true (refPlus (s.rdS f.sy) j) ≠ .ok l') →
            at_ (j + 1) = now ∧ changed j = false)) ∧
        r.val = BitVec.ofNat 2048 ((List.range n).countP changed) ∧
        t.co = { (at_ n).co with shadow := t.co.shadow } ∧ t.others = (at_ n).others ∧ t.dv.mem = (at_ n).dv.mem ∧
        t.dv.far = (at_ n).dv.far ∧ t.dv.dirty = (at_ n).dv.dirty ∧ t.dv.release = (at_ n).dv.release) ∧
  ∀ (f : R2) (s : State) (l : TLoc), s.tileRefK (.ttpromo f) 13 true (s.rdS f.sy) = .ok l →
    let was := decide (entKind (s.entry l).1 = 1)
    let u := s.tileTouch (if was then none else some true) l
    let v := u.cancelOffload l
    (was = false → s.writeFault l = none ∧ (s.tileWalkK true l).1 = none) →
    (entKind (v.entry l).1 = 1 ∨ v.writeFault l = none) → (vget s.dv.dirty l.die []).length + 1 < Config.dirtyCap →
    ∃ t r, exec (.ttpromo f) s = .next t ∧ t.pl = { s.pl with flight := s.pl.flight ++ [r], cycle := t.pl.cycle } ∧
      Due s r f.ar 1 (.sreg f.sx) ∧ r.val = BitVec.ofNat 2048 (entKind (u.entry l).1) ∧ entKind (t.entry l).1 = 1

/-- R281, R282: settling a slot's STORED tile that remembers no former REPEAT changes no row of it, whichever symbol it
becomes. -/
def Obligations.SettlingKeepsContents : Prop :=
  ∀ (s : State) (sp c k : Nat),
    let l := s.slotLoc sp c k
    let t := (s.settle l).2
    entKind (s.entry l).1 = 1 → entPromoted (s.entry l).1 = false → s.box c ≠ none → c < 48 → k < 256 →
    (∀ i < 256, t.termRow (t.resolve (t.slotLoc sp c k)) i = s.termRow (s.resolve l) i) ∧
    entDirty (t.entry (t.slotLoc sp c k)).1 = false ∧ t.pl = s.pl

/-- R236, R358, R402, R403, R409, R411: JCBADD, JCBDONE and JCBQ send their request to the block's home; the journal's
instructions theirs to the controller, with the entry as R401 lays it out; CTAG writes its tensor's use count and cost,
RESQ gives its residency word. The journal's requests reach it in their order (log entry 42). By inference: CTAG makes
its arrival in the step that issues it (log entry 46). -/
def Obligations.JobJournalAndResidency : Prop :=
  (∀ (s s1 : State) (pa : Nat) (a : Word) (i : Instr) (ar : BitVec 2) (op : JOp) (st : List Nat),
    s.blockPa true a = (.ok (.at_ pa), s1) →
    (∃ f : KJa, i = .jcbadd f ∧ ar = f.ar ∧ a = s.rdS f.sx ∧ (s.rdS f.sy).toNat < 2 ^ 32 ∧ st = [] ∧
      op = .add ((s.rdS f.sy).setWidth 32) f.slot.toNat) ∨
    (∃ f : KJd, i = .jcbdone f ∧ ar = f.ar ∧ a = s.rdS f.sx ∧ st = s1.taskStores s1.pl ∧
      op = .done (some f.slot.toNat) (f.close == 1#1) (if f.err = 1#1 then some 0x30#8 else none)) →
    exec i s = .next { s1 with dv := { s1.dv with
      bars := (s1.owe ar).2.dv.bars,
      jcbQ := s1.dv.jcbQ ++ [⟨pa, s1.pl.lid, s1.pl.rank, op, st, s1.pl.owes ar⟩] } }) ∧
  (∀ (f : R2) (s s1 : State) (blk : Block), s.blockPa false (s.rdS f.sy) = (.ok blk, s1) → s.pl.lbUsed < Config.lbCap →
    ∃ t r, exec (.jcbq f) s = .next t ∧ t.pl = { s1.pl with flight := s1.pl.flight ++ [r] } ∧ r.due = s1.pl.bcount + 96 ∧
      r.dest = .sreg f.sx ∧ r.known = false ∧ r.arr = s1.pl.owes f.ar ∧
      (∀ pa, blk = .at_ pa → t.dv.jcbQ = s1.dv.jcbQ ++
        [⟨pa, s1.pl.lid, s1.pl.rank, .query s1.co.id s1.co.lit r.id, [], none⟩]) ∧
      (∀ b, blk = .row b → t.dv.jcbQ = s1.dv.jcbQ ++
        [⟨0, s1.pl.lid, s1.pl.rank, .queryRow b s1.co.id s1.co.lit r.id, [], none⟩]) ∧
      t.dv.mem = s1.dv.mem) ∧
  (∀ (s : State) (i : Instr) (f : R3) (e : BitVec 512),
    let b := s.blockAt (s.rdS f.sy)
    let latch := vget s.pl.bl 1 0#2048
    let ctr := latch.extractLsb' 64 128
    let head := fun (layer : BitVec 16) (gfmt : BitVec 4) (count : BitVec 8) (kind : BitVec 4) =>
      (0#22 ++ BitVec.ofNat 10 s.pl.stream ++ layer ++ gfmt ++ count ++ kind : BitVec 64)
    let entry := fun (h : BitVec 64) (payload : BitVec 320) => (payload ++ 0#64 ++ s.rdS f.sz ++ h : BitVec 512)
    let words := fun n => (b.setWidth 320 &&& (BitVec.allOnes 320 >>> (320 - 32 * n)))
    (∃ g : KJe, i = .jemit g ∧ f = ⟨g.ar, g.sx, g.sy, g.sz⟩ ∧ s.rowFault (s.rdS f.sy).toNat = none ∧ g.n.toNat ≤ 9 ∧
      e = entry (head 0 0 (BitVec.ofNat 8 (g.n.toNat + 1)) 0) (words (g.n.toNat + 1))) ∨
    (i = .jemitMark f ∧ s.rowFault (s.rdS f.sy).toNat = none ∧ e = entry (head 0 0 0 3) (b.setWidth 320)) ∨
    (∃ g : KJr, i = .jroute g ∧ f = ⟨g.ar, g.sx, g.sy, g.sz⟩ ∧ s.rowFault (s.rdS f.sy).toNat = none ∧ g.n.toNat ≤ 7 ∧
      e = entry (head (b.extractLsb' 256 16) (if g.gf = 1#1 then 8 else 6) (BitVec.ofNat 8 (g.n.toNat + 1)) 1)
        (words (g.n.toNat + 1))) ∨
    (i = .jgen f ∧ (s.rdS f.sy).toNat < 2 ^ 32 ∧
      e = entry (head 0 0 1 2) (latch.setWidth 64 ++ (ctr + BitVec.ofNat 128 (16 * (s.rdS f.sy).toNat)) ++ ctr)) →
    s.pl.jact = true → s.lstepNow ≤ (s.rdS f.sz).toNat → s.pl.stream < 1024 →
    Asks i s f.ar (.sreg f.sx) 1 fun id => { s.dv with jnl := { s.dv.jnl with reqs := s.dv.jnl.reqs ++
      [⟨s.pl.stream, s.pl.lid, s.pl.rank, s.pl.tcount, .append e s.co.id s.co.lit id, none⟩] } }) ∧
  (∀ (f : KJp) (s : State), s.pl.jact = true → s.pl.lbUsed < Config.lbCap →
    s.pl.pushFault (16 * f.cl.toNat + f.q.toNat) 1 [] = none →
    Asks (.jrpl f) s f.ar (.vq (16 * f.cl.toNat + f.q.toNat)) 96 fun id =>
      { s.dv with jnl := { s.dv.jnl with reqs := s.dv.jnl.reqs ++
        [⟨s.pl.stream, s.pl.lid, s.pl.rank, s.pl.tcount, .read f.kind.toNat s.co.id s.co.lit id, none⟩] } }) ∧
  (∀ (f : R1) (s : State), s.pl.jact = true →
    exec (.jtrunc f) s = .next { s with dv := { s.dv with
      bars := (s.owe f.ar).2.dv.bars,
      jnl := { s.dv.jnl with reqs := s.dv.jnl.reqs ++
        [⟨s.pl.stream, s.pl.lid, s.pl.rank, s.pl.tcount, .trunc (s.rdS f.sx).toNat, s.pl.owes f.ar⟩] } } }) ∧
  (∀ (f : R3) (s : State),
    let d := (s.rdS f.sx).toNat
    d < 2 ^ 24 → (s.rdS f.sy).toNat < 2 ^ 48 → (s.rdS f.sz).toNat < 2 ^ 16 → (s.dv.desc s.pl.space d).isSome = true →
    s.descFault s.pl.space d true = none →
    ∃ t, Arrives (.ctag f) s t f.ar ∧ t.pl = { s.pl with cycle := t.pl.cycle } ∧ t.co = { s.co with shadow := t.co.shadow } ∧
      t.dv.mem = (s.dv.putDesc s.pl.space d 0x28 8 ((s.rdS f.sz).toNat * 2 ^ 48 + (s.rdS f.sy).toNat)).mem) ∧
  ∀ (f : R2) (s : State) (x : Nat), (s.rdS f.sy).toNat < 2 ^ 24 → (s.dv.desc s.pl.space (s.rdS f.sy).toNat).isSome = true →
    s.descFault s.pl.space (s.rdS f.sy).toNat false = none →
    let u : State := { s with
      dv := s.dv.markUsed s.pl.space false ((SMap.get (0, 0) s.dv.descs s.pl.space).1 + 128 * (s.rdS f.sy).toNat) }
    u.dv.desc s.pl.space (s.rdS f.sy).toNat = some x →
    GivesIn (.resq f) s u f.ar f.sx (BitVec.ofNat 64 (x / 2 ^ (8 * 0x38) % 2 ^ 64)) s.pl true

/-! ### Events -/

namespace Sys2Proof.Claim

/-- The event `i` completes in a state with `P`. -/
def Ends (i : Instr) (s : State) (P : State → Prop) : Prop := ∃ t, exec i s = .next t ∧ P t

/-- Nothing of the machine changes but what `dv` gives of the device. -/
def OnDevice (i : Instr) (s : State) (dv : Dev) : Prop := exec i s = .next { s with dv := dv }

/-- A queue of records to which none can be written now: held, out of room, or the next in sequence not finished (R239). -/
def NoRecordDue (x : LQueue) : Prop :=
  x.heldRec = true ∨ x.hc + 2 ^ x.size.toNat ≤ x.chead ∨ ∀ r ∈ x.done, r.1 ≠ x.chead

end Sys2Proof.Claim

/-- R15 to R19, R31, R37, R189, R193, R199, R216, R217, R226, R227, R366, R367: what the events of a core do. Model's
choice: which of them happen inside a core's turn (log entry 27), the agenda (4). -/
def Obligations.CoreEvents : Prop :=
  (∀ (s : State) (g : Gathered), s.pl.grp = 0 → s.pl.intrap = false → s.pl.uncaptured = false → s.pl.tbase.getLsbD 63 = true →
    bestGathered s.gatherNext = some g →
    (g ∈ s.gatherNext ∧ ∀ h ∈ s.gatherNext, g.cause.code.toNat < h.cause.code.toNat ∨
      (g.cause.code = h.cause.code ∧ g.req.toNat ≤ h.req.toNat)) ∧
    Ends .deferredTrap s fun t => t.pl.intrap = true ∧ t.pl.ecause = g.cause.code ∧ t.pl.edetail = g.cause.detail ∧
      t.pl.ereq = g.req ∧ t.pl.epc = (s.pl.seg ++ s.pl.bun).setWidth 64 ∧ t.co = s.co ∧ t.dv = s.dv) ∧
  (∀ (s : State) (f : Flight), s.pl.flight.find? (fun f => decide (f.due ≤ s.pl.bcount)) = some f → f.arrived = true →
    exec (if f.lb = true then .timedLanding else .resultLanding) s =
      .next (State.land { s with pl := { s.pl with flight := s.pl.flight.filter fun x => decide (x.id ≠ f.id) } } f)) ∧
  (∀ (s : State) (c p rid : Nat), s.box c ≠ none →
    Ends (.farDataArrival c p rid) s fun t => t.dv = s.dv ∧ (t.plane c p).s = (s.plane c p).s ∧
      (t.plane c p).flight = (s.plane c p).flight.map fun f =>
        if f.id = rid ∧ f.known = true then { f with arrived := true } else f) ∧
  (∀ (s : State) (c p : Nat) (cu : SegBuf), (s.plane c p).live = true → (s.plane c p).enter = none →
    (s.plane c p).cur = some cu → (s.plane c p).nxt = none → (s.plane c p).resident = false → cu.next ≠ 0#64 → cu.err = none →
    cu.broken = false →
    let f := (s.plane c p).fetcher c
    let m := s.misses f cu
    let r := m.2.fetchSeg f cu.nidx none
    (m.1 = false → exec (.segmentFetchDone c p) s =
      .next (r.2.modPlane c p fun q => { q with nxt := some (heldSeg cu.nidx r.1), cur := some cu })) ∧
    (m.1 = true → exec (.segmentFetchDone c p) s =
      .next (m.2.modPlane c p fun q => { q with nxt := none, cur := some { cu with broken := true } }))) ∧
  (∀ (s : State) (w : Wait), s.pl.status = .ready → s.pl.wait = some w → s.waitHolds s.pl w = false → s.frozen = false →
    s.pl.m = [] →
    Ends .emptyBundle s fun t => t.pl.bcount = s.pl.bcount + 1 ∧ t.pl.cycle = s.pl.cycle + 1 ∧
      t.pl.tcount = (if s.pl.intrap = true then s.pl.tcount else s.pl.tcount + 1) ∧
      t.pl.flight = s.pl.flight.filter fun f => decide (s.pl.bcount < f.due)) ∧
  (∀ s : State, s.pl.wait = none → s.pl.canRun = false → s.co.shadow.canRun = true →
    Ends .eclipseSwap s fun t => t.pl = s.co.shadow.tick 4 ∧
      t.co = { s.co with shadow := s.pl.tick 4, lit := 1 - s.co.lit } ∧ t.dv = s.dv) ∧
  (∀ (s : State) (c p q : Nat) (d : BitVec 2048), p < 2 → q < 32 → (s.plane c p).live = true →
    Ends (.pushWindowWrite c (0x10000 * p + 0x1000 * (q / 16) + 0x100 * (q % 16)) (s.plane c p).lid d) s fun t =>
      (t.plane c p).pushes = (s.plane c p).pushes ++ [⟨q, d, 0⟩] ∧ t.dv = s.dv) ∧
  (∀ (s : State) (q n : Nat) (d : BitVec 2048) (rest : List Push), s.pl.grp = 0 → s.pl.pushes = ⟨q, d, n⟩ :: rest → q < 32 →
    (s.pl.queue q).length + s.pl.reserved q < 4 →
    Ends (.pushWindowAdmit s.co.id) s fun t => t.pl.queue q = s.pl.queue q ++ [⟨d, rowTag d⟩] ∧ t.pl.pushes = rest ∧
      t.dv = s.dv) ∧
  (∀ (s : State) (e : MEnt) (f : MMu), s.pl.intrap = false → s.pl.m = [e] → e.ins = .mmul f → e.supp = none → e.bad = none →
    e.start = none → e.issued + 1 ≤ s.pl.tcount →
    Ends .mInstructionStart s fun t => t.co = s.co ∧ t.dv = s.dv ∧
      t.pl = { s.pl with m := [{ e with
        start := some s.pl.tcount, retire := s.pl.tcount + if e.skip = true then 2 else e.steps + 261 }] }) ∧
  (∀ (s : State) (e : MEnt) (f : R2) (b : Nat), s.pl.intrap = false → s.pl.m = [e] → e.ins = .mzero f → e.supp = none →
    e.bad = none → e.pops = [] → e.start = some b → e.retire ≤ s.pl.tcount →
    Ends .mInstructionRetire s fun t => t.pl = { s.pl with m := [] } ∧ t.co = s.co ∧
      t.dv.arrQ = s.dv.arrQ ++ (e.arr.toList.map fun o => ⟨o, [], 0⟩)) ∧
  (∀ (s : State) (e : MEnt) (f : MDr) (b : Nat), s.pl.intrap = false → s.pl.m = [e] → e.ins = .mdrain f → e.start = some b →
    e.pushed < e.steps → e.pushed < e.cap.length → s.pl.tcount = b + 11 + e.pushed + (if e.x.getLsbD 16 then 4 else 0) →
    Ends .drainVectorPush s fun t => let r := (e.cap[e.pushed]?).getD 0#2048
      t.pl.mq = s.pl.mq ++ [⟨r, rowTag r⟩] ∧ t.pl.m = [{ e with pushed := e.pushed + 1 }] ∧ t.co = s.co ∧ t.dv = s.dv) ∧
  (∀ (s : State) (e : MEnt) (f : MCh), s.pl.m = [e] → e.ins = .mchain f → e.formed = false →
    (∀ h, 1 ≤ h → h ≤ (e.y.extractLsb' 24 2).toNat + 1 → ∃ b ∈ s.others, b.co.id = s.co.id + h ∧ b.pl.lid = s.pl.lid ∧
      ∃ x f', b.pl.m = [x] ∧ x.ins = .mchainRecv f' ∧ x.formed = false ∧ x.hop = h) →
    Ends (.chainForm s.co.id) s fun t => t.pl.m = [{ e with formed := true }] ∧ t.co = s.co ∧ t.dv = s.dv ∧
      ∀ b ∈ t.others, s.co.id < b.co.id → b.co.id ≤ s.co.id + ((e.y.extractLsb' 24 2).toNat + 1) →
        ∀ x ∈ b.pl.m, (∃ f', x.ins = .mchainRecv f') → x.formed = true) ∧
  ∀ (s : State) (c row : Nat) (d : BitVec 8192), s.box c ≠ none → s.winBusy c row = false → row < 8192 →
    Ends (.accWindowWrite c row d) s fun t => t.dv = s.dv ∧ ((t.core c).accRow row).data = d ∧
      ((t.core c).accRow row).isInt = false ∧ ((t.core c).accRow row).marks = 0#256 ∧
      (t.core c).colState (row / 128) = { (s.core c).colState (row / 128) with invalid := true } ∧
      ∀ r, r ≠ row → (t.core c).accRow r = (s.core c).accRow r

/-- R221, R239, R241, R244 to R247, R375 to R380, R389: what the dispatcher's events do. Model's choice: the save image
(log entry 25), the round-robin's start (78), the agenda (4). -/
def Obligations.DispatcherEvents : Prop :=
  (∀ (s : State) (q : Nat) (v : BitVec 64), q < 16 →
    Ends (.stWrite q v) s fun t =>
      (v.toNat < (s.dv.queue q).st → t = { s with dv := t.dv } ∧ t.dv.queues = s.dv.queues ∧
        t.dv.mg = { s.dv.mg with seqErrors := s.dv.mg.seqErrors + 1 }) ∧
      ((s.dv.queue q).st ≤ v.toNat → t.dv.queue q = { s.dv.queue q with
          st := v.toNat, en := (s.dv.queue q).en && decide (v.toNat ≤ (s.dv.queue q).dh + 2 ^ (s.dv.queue q).size.toNat) } ∧
        ∀ k, k < 16 → k ≠ q → t.dv.queue k = s.dv.queue k)) ∧
  (∀ (s : State) (q : Nat) (v : BitVec 64), q < 16 → (s.dv.queue q).hc ≤ v.toNat →
    Ends (.hcWrite q v) s fun t => t = { s with dv := { s.dv with queues := t.dv.queues } } ∧
      t.dv.queue q = { s.dv.queue q with hc := v.toNat }) ∧
  (∀ (s s1 s2 : State) (q : Nat) (b : List Byte), q < 16 → s.dv.mg.failed = false → s.dv.mg.power ≠ .low →
    let x := s.dv.queue q
    x.takes = true → s.infraRead q 2 (x.lring.toNat + 128 * (x.dh % 2 ^ x.size.toNat)) 128 = (.ok b, s1) →
    s1.rejects q (BitVec.ofNat 1024 (natOfBytes b)) = (0, s2) →
    exec (.launchRecordRead q) s = .next { s2 with
      dv := s2.dv.modQueue q fun x => { x with head := some (BitVec.ofNat 1024 (natOfBytes b)), raised := 0 } }) ∧
  (∀ (s s1 : State) (q : Nat) (c : Cause), q < 16 → s.dv.mg.failed = false → s.dv.mg.power ≠ .low →
    let x := s.dv.queue q
    x.takes = true → s.infraRead q 2 (x.lring.toNat + 128 * (x.dh % 2 ^ x.size.toNat)) 128 = (.error c, s1) →
    Ends (.launchRecordRead q) s fun t => (t.dv.queue q).en = false ∧ t.dv.faultQ = s1.dv.faultQ ++ [⟨s1.dv.mg.dispDie, 0, q, x.dh, c⟩] ∧
      t.dv.mg.events = s1.dv.mg.events ++ [.queueFault q]) ∧
  (∀ (s : State) (q v k base : Nat) (rc : BitVec 1024), s.dv.mg.failed = false → s.dv.mg.power ≠ .low →
    (s.dv.queue q).head = some rc →
    (s.dv.chosen = some (q, v) ∨ (s.dv.chosen = none ∧ s.choose = some q ∧ recNvar rc = 0 ∧ v = 0)) →
    s.dv.mg.spot s.planeFree (recT rc) (recCpc rc) (recOneDie rc) = some (k, base) →
    exec .launchPlace s = .next (s.placeAt q rc v k base)) ∧
  (∀ (s : State) (q : Nat) (rc : BitVec 1024), q < 16 → (s.dv.queue q).head = some rc → recAge rc ≠ 0 → recPrio rc ≠ 3 →
    s.eligible q = true →
    Ends (.agingTick q) s fun t => t = { s with dv := { s.dv with queues := t.dv.queues } } ∧
      t.dv.queue q = { s.dv.queue q with raised := (s.dv.queue q).raised + 1 }) ∧
  (∀ (s s1 : State) (c p : Nat) (l l1 : Launch), s.dv.mg.failed = false → s.box c ≠ none →
    let pl := s.plane c p
    s.launch? pl.lid = some l → l.preempt = true → l.status = 0 → pl.live = true → pl.savable = true →
    s.phaseBegun pl.lid = false →
    let co := s.core c
    let full := recClass l.rc = 1
    s.putParts l.q (l.imageAt pl.rank) (pl.image.imageParts c
      (co.bands.filter fun b => b.lid == pl.lid && co.bankOf (b.row / 128) == some p)
      (if full then co.wprop else Vector.replicate 2 none) (if full then co.w else Vector.replicate 2 none)) = (none, s1) → s1.launch? pl.lid = some l1 →
    (∃ t ∈ l1.tasks, t.rank ≠ pl.rank ∧ t.saved = false ∧ t.ended = false) → s1.box c ≠ none →
    Ends (.taskSave c p) s fun t => (t.plane c p).status = .empty ∧ t.dv.mem = s1.dv.mem ∧
      ∃ l2 i, t.launch? pl.lid = some l2 ∧ l2.images = l1.images ++ [i] ∧ i.rank = pl.rank ∧ i.pl = pl.image ∧
        ∀ t ∈ l2.tasks, t.rank = pl.rank → t.saved = true) ∧
  (∀ (s s1 : State) (lid header : Nat) (l : Launch) (i : TaskImg), s.dv.mg.failed = false → s.launch? lid = some l →
    l.saved = true → l.status = 0 → s.restorable l = true → s.readArea l = (.ok ([i], [], header), s1) → recClass l.rc ≠ 1 → i.pl.enter.isSome = true → s1.box (l.coreOf i.rank) ≠ none →
    Ends (.launchRestore lid) s fun t =>
      ∃ born, t.plane (l.coreOf i.rank) l.pset = i.pl.restored (s1.plane (l.coreOf i.rank) l.pset) born) ∧
  (∀ (s : State) (lid : Nat) (l : Launch), s.dv.mg.failed = false → s.launch? lid = some l →
    (∀ t ∈ l.tasks, t.ended = true) →
    let s0 := if l.limit = true then s.dropCmds lid else s
    s0.hasCmds lid = false → s0.hasStores lid = false → s0.hasUpdates lid = false → recDone l.rc = 0 → l.q < 16 →
    NoRecordDue { s.dv.queue l.q with done := (s.dv.queue l.q).done ++ [(l.seq, mkRecord l.seq (recTag l.rc) l.status l.err)] } →
    Ends (.launchComplete lid) s fun t => t.launch? lid = none ∧ t.pl = s.pl ∧
      t.dv.launches = s.dv.launches.filter (fun x => decide (x.lid ≠ lid)) ∧
      (t.dv.queue l.q).done = (s.dv.queue l.q).done ++ [(l.seq, mkRecord l.seq (recTag l.rc) l.status l.err)]) ∧
  (∀ (s : State) (q : Nat), q < 16 → s.dv.mg.failed = false → NoRecordDue { s.dv.queue q with heldRec := false } →
    Ends (.faultAck q) s fun t => t = { s with dv := { s.dv with queues := t.dv.queues } } ∧
      t.dv.queue q = { s.dv.queue q with heldRec := false }) ∧
  (∀ (s : State) (q : Nat) (rc : BitVec 1024), q < 16 → s.dv.mg.failed = false → (s.dv.queue q).head = some rc →
    (∃ a ∈ recDeps rc, s.depDone q a = false) → recDone rc = 0 →
    let x := s.dv.queue q
    let y := { x with dh := x.dh + 1, head := none, raised := 0, done := x.done ++
      [(x.dh, mkRecord x.dh (recTag rc) 3 (some (0, ⟨0x3F#8, 0#64⟩, 0#64)))] }
    NoRecordDue y → Ends (.dependenceWatchdog q) s fun t => t.dv.queue q = y ∧ t.pl = s.pl ∧ t.co = s.co) ∧
  (∀ (s : State) (lid : Nat) (l : Launch), s.dv.mg.failed = false → s.launch? lid = some l → l.status = 0 → l.saved = false →
    (∃ t ∈ l.tasks, t.ended = true ∨ t.saved = true ∨ (s.plane t.core t.plane).status ≠ .loaded ∨
        0 < (s.plane t.core t.plane).bcount) →
    (∃ t ∈ l.tasks, t.ended = false) →
    Ends (.runWatchdog lid) s fun t =>
      t.launch? lid = some { l with limit := true, status := 4, err := some (l.lowest, ⟨0x3F#8, 0#64⟩, 0#64) } ∧
      t.pl = (if s.pl.lid = lid ∧ s.pl.live = true then { s.pl with endReq := true } else s.pl) ∧ t.dv.mem = s.dv.mem) ∧
  (∀ s : State, OnDevice .dispatcherFailover s { s.dv with mg := { s.dv.mg with dispDie := 1 } }) ∧
  (∀ (s : State) (i : Nat) (a : Arr) (l : Launch), s.dv.arrQ[i]? = some a → s.storesSeen a.stores a.level = true →
    s.launch? a.owed.lid = some l →
    let o := a.owed
    let own := s.barOwner o.lid o.level
    let inst := s.barInst o.lid o.rank o.level
    let b := s.bar own o.level inst o.num
    (b.counts o.lid o.rank).d + 1 < 256 + b.phase →
    Ends (.arrivalDeliver i) s fun t => t.dv.arrQ = s.dv.arrQ.take i ++ s.dv.arrQ.drop (i + 1) ∧
      ((t.bar own o.level inst o.num).counts o.lid o.rank).d = (b.counts o.lid o.rank).d + 1 ∧
      ((t.bar own o.level inst o.num).counts o.lid o.rank).i = (b.counts o.lid o.rank).i ∧ t.dv.mem = s.dv.mem) ∧
  (∀ (s : State) (lid level inst : Nat), s.dv.mg.failed = false → level < 3 →
    let o := s.barOwner lid level
    let ms := s.members o.1 o.2 level inst
    let x := s.sstep o level inst
    (∃ m ∈ ms, m.2.2 = true) → (∀ m ∈ ms, m.2.2 = true → (m.1, m.2.1) ∈ x.marks) →
    s.phaseQuiet (ms.map fun m => (m.1, m.2.1)) level = true → (∀ l ∈ s.dv.dirty.toList, l = []) → s.dv.merged = [] →
    Ends (.communicationPhase lid level inst) s fun t =>
      (t.sstep o level inst).count = x.count + 1 ∧ (t.sstep o level inst).marks = [] ∧ t.dv.mem = s.dv.mem) ∧
  ∀ (s : State) (i : Nat) (r : JReq), s.dv.jcbQ[i]? = some r →
    (∀ e ∈ s.dv.jcbQ.take i, ¬(e.pa = r.pa ∧ e.lid = r.lid ∧ e.rank = r.rank)) → s.storesSeen r.stores 3 = true →
    let x := s.dv.portNat r.pa 64
    let b := jcbOf x
    Ends (.jcbApply i) s fun t => t.dv.jcbQ = s.dv.jcbQ.take i ++ s.dv.jcbQ.drop (i + 1) ∧
      (∀ n : Jcb, s.dv.far = [] →
        ((∃ inc slot, r.op = .add inc slot ∧ n = (b.add inc.toNat slot).evaluate) ∨
         ∃ slot close err, r.op = .done slot close err ∧ n = (b.finish slot close (err.map (·.toNat))).evaluate) →
        t.dv.mem = Memory.puts s.dv.mem r.pa (bytesOfNat 64 (n.put x))) ∧
      (∀ c p fid, r.op = .query c p fid → t.dv.mem = s.dv.mem ∧ ∀ f ∈ (t.plane c p).flight, f.id = fid → s.box c ≠ none →
        f.known = true ∧ f.val = BitVec.ofNat 2048 b.query) ∧
      ∀ blk c p fid, r.op = .queryRow blk c p fid → t.dv.mem = s.dv.mem ∧ ∀ f ∈ (t.plane c p).flight, f.id = fid →
        s.box c ≠ none → f.known = true ∧ f.val = BitVec.ofNat 2048 (jcbOf blk.toNat).query

namespace Sys2Proof.Claim

/-- The list without its element `i`. -/
def without {α : Type} (l : List α) (i : Nat) : List α := l.take i ++ l.drop (i + 1)

/-- The head of a channel of the focused core. -/
def Heads (s : State) (ch : Nat) (c : Cmd) : Prop := ch < 8 ∧ (vget s.co.ch ch []).head? = some c

end Sys2Proof.Claim

/-- R256, R257, R259, R263, R264, R280, R296, R306, R356: what the events of translation, of channel holds, of offers,
of frames and tile moves, and of records do. Model's choice: the agenda (log entry 4); when a frame is free (94) and
the agents of the walks (24) are read by inference. -/
def Obligations.TranslationOfferAndTileEvents : Prop :=
  (∀ (s : State) (die sp va : Nat) (write fetch : Bool), die < 2 → sp < 16 →
    Ends (.translationWalk die sp va write fetch) s fun t => t = { s with dv := t.dv } ∧
      ∀ pa, (s.dv.xlate die none sp write fetch va).1 = .ok pa →
        ∃ e ∈ t.dv.tcache, e.holder = dieHolder die ∧ e.space = sp ∧ e.va ≤ va ∧ va < e.va + e.size) ∧
  (∀ (s : State) (sp lo hi : Nat),
    Ends (.translationInvalidate sp lo hi) s fun t => t = { s with dv := { s.dv with tcache := t.dv.tcache } } ∧
      ∀ e, e ∈ t.dv.tcache ↔ e ∈ s.dv.tcache ∧ ¬(e.space = sp ∧ e.va < hi ∧ lo < e.va + e.size)) ∧
  (∀ (s : State) (ch : Nat) (c : Cmd), Heads s ch c → c.st = .held →
    Ends (.channelReplay s.co.id ch) s fun t => (vget t.co.ch ch []).head? = some { c with st := .running, result := none } ∧
      t.co.hold = s.co.hold &&& ~~~(1#8 <<< ch) ∧ t.pl = s.pl ∧ t.dv = s.dv) ∧
  (∀ (s : State) (ch : Nat) (c : Cmd), Heads s ch c → c.st = .held → bF c.blk 0 0 55 = 0 →
    Ends (.channelAbort s.co.id ch) s fun t =>
      vget t.co.ch ch [] = (vget s.co.ch ch []).filter (fun x => decide (x.seq ≠ c.seq)) ∧
      t.co.hold = s.co.hold &&& ~~~(1#8 <<< ch) ∧ t.dv.jcbQ = s.dv.jcbQ ∧
      t.pl = if c.plane = s.co.lit ∧ s.pl.live = true ∧ s.pl.lid = c.lid ∧ s.pl.rank = c.rank
        then { s.pl with flags := vput s.pl.flags 3 (vget s.pl.flags 3 0#16 ||| BitVec.ofNat 16 c.fl) } else s.pl) ∧
  (∀ (s : State) (c k : Nat), s.box c ≠ none →
    let x := (s.core c).slot k
    x.st = .offered → x.takeable = false → s.slotBusy c k x = false →
    Ends (.offerTakeable c k) s fun t => (t.core c).slot k = { x with takeable := true, arr := none } ∧
      t.dv.arrQ = s.dv.arrQ ++ (x.arr.toList.map fun o => ⟨o, [], 0⟩) ∧
      ∀ k', k' ≠ k → (t.core c).slot k' = (s.core c).slot k') ∧
  (∀ (s : State) (i : Nat) (r : XtReq), s.dv.xtQ[i]? = some r → s.alive r.lid r.rank = true → s.box r.core ≠ none →
    r.free = false →
    let x := (s.core r.core).slot r.slot
    x.gen = r.gen → x.st = .offered → x.lid = r.lid → x.trank.toNat = r.rank % 256 → x.takeable = true →
    Ends (.xtakeApply i) s fun t => t.dv.xtQ = without s.dv.xtQ i ∧
      t.dv.arrQ = s.dv.arrQ ++ (x.arr.toList.map fun o => ⟨o, [], 0⟩) ∧
      (t.core r.core).slot r.slot =
        { x with st := .owned, gen := x.gen + 1#16, core := r.icore, plane := r.iplane, lid := r.lid, rank := r.rank,
                 hidden := true, takeable := false, arr := none } ∧
      (s.box r.icore ≠ none → ∀ f ∈ (t.plane r.icore r.iplane).flight, f.id = r.fid →
        f.val = 0#2048 ∧ f.take = some (r.core, r.slot) ∧ f.known = true)) ∧
  (∀ (s : State) (i die f : Nat), s.dv.release[i]? = some (die, f) → die < 2 → s.frameBusy f = false →
    OnDevice (.frameReturn i) s { s.dv with
      release := without s.dv.release i, pool := vput s.dv.pool die (vget s.dv.pool die [] ++ [f]) }) ∧
  (∀ (s : State) (i : Nat) (m : Move), s.dv.moves[i]? = some m →
    (m.back = false → m.cmd = none →
      let r := (s.offloadDone m).2
      exec (.offloadDone i) s = .next { r with dv := { r.dv with moves := dropAt r.dv.moves i } }) ∧
    (m.back = true → let r := (s.recallNow none m.sp m.desc).2.2
      exec (.residencyRecallDone i) s = .next { r with dv := { r.dv with moves := dropAt r.dv.moves i } })) ∧
  (∀ (s : State) (sp : Nat) (ref : BitVec 64) (l : TLoc), s.refLoc sp ref = .ok l →
    (entKind (s.entry l).1 ≠ 1 → exec (.tileCheckRetry sp ref) s = .next s) ∧
    (entKind (s.entry l).1 = 1 →
      exec (.tileCheckRetry sp ref) s = .next (s.checkTile (storeOf l (s.entry l).1) l.fmt l.ref).2)) ∧
  ∀ (s : State) (i : Nat) (r : LuxReq), s.dv.luxQ[i]? = some r →
    (∀ e ∈ s.dv.luxQ.take i, e.rec_ = r.rec_ → e.lid = r.lid → e.rank = r.rank → r.before e = true) →
    (∀ e ∈ s.dv.luxQ, e.before r = false) → (∀ id ∈ r.after, s.inSq id = false) →
    let x := s.dv.luxRec r.rec_.toNat
    Ends (.luxMergeApply i) s fun t => t.dv.luxQ = without s.dv.luxQ i ∧ t.dv.mem = s.dv.mem ∧
      (∀ p, r.op = .merge p → t.dv.luxRec r.rec_.toNat = ⟨luxMerge x.live p, x.sealed⟩) ∧
      (∀ sel, r.op = .clear sel → t.dv.luxRec r.rec_.toNat =
        ⟨if sel.getLsbD 0 then luxClear x.live else x.live, if sel.getLsbD 1 then luxReset else x.sealed⟩) ∧
      (r.op = .seal → t.dv.luxRec r.rec_.toNat = luxSeal x 0 (luxF x.sealed 0xE0 48 + 1))

namespace Sys2Proof.Claim

/-- The engine of `w` finds the `n` bytes at an operand address, its translation at hand, in memory outside tensors at `pa`: in
host memory, or in one row of device memory that reads without an error. -/
def Plain (s : State) (w : Who) (write : Bool) (a n pa : Nat) : Prop :=
  0 < n ∧ a % 65536 + n ≤ 65536 ∧ pa % 65536 = a % 65536 ∧ s.place w write a n = (.ok (.virt a (.mem pa none)), s) ∧
  (hostBase ≤ pa ∨ (pa + n ≤ Config.queuePage ∧ pa % 256 + n ≤ 256 ∧ s.dv.badSect = [] ∧ s.dv.weakSect = [] ∧
    s.rowBad (.frame (pa / 65536)) 15 (pa % 65536 / 256) = false))

/-- At the port, `n` bytes from `pa` on are those of `b`, and every other byte is as before. -/
def Wrote (s t : State) (pa n : Nat) (b : Nat → Byte) : Prop :=
  ∀ a, t.dv.port a = if pa ≤ a ∧ a < pa + n then b (a - pa) else s.dv.port a

/-- The number that `n` bytes from `pa` on are to the engine of a command, which sees its own stores too (R316, R324). -/
def sees (s : State) (w : Who) (pa n : Nat) : Nat := natOfBytes ((upTo pa n).map (s.dv.seenAs w.agent w.id))

/-- A command at the head of a channel of the focused core that nothing holds: it starts, or goes on with its next piece. -/
def Runs (s : State) (ch : Nat) (c : Cmd) : Prop :=
  Heads s ch c ∧ s.dv.mg.failed = false ∧ (c.st = .queued ∨ c.st = .running) ∧ s.co.fences = [] ∧
  s.co.hold.getLsbD ch = false ∧ c.emit = false ∧ c.result = none ∧ s.accHeld c = false ∧ c.need = [] ∧ c.sub = 0

/-- A command whose piece has used the window rows it read. -/
def spent (c : Cmd) : Cmd := { c with reads := [], asked := [], need := [] }

/-- COMMAND_START leaves `k` at the head of the channel, its window rows used, and nothing on the core changed but its
channels. -/
def Moves (s : State) (ch : Nat) (k : Cmd) (P : State → Prop) : Prop :=
  Ends (.commandStart s.co.id ch) s fun t => t.pl = s.pl ∧ t.co = { s.co with ch := t.co.ch } ∧
    (vget t.co.ch ch []).head? = some (spent k) ∧ P t

/-- A command once a piece of `units` of its `total` positions, `done` of them counted, stands. -/
def on (c : Cmd) (units done total : Nat) : Cmd :=
  { c with st := if total ≤ c.pos + units then .moved else .running, pos := c.pos + units, done := c.done + done }

/-- XCOPY (R317, R320, R340): a piece of up to 64 KiB is read whole, as the channel's core sees it, and then written; a row of a
scratchpad window is read, or written, at its bank once it is accepted there; a piece without a source stops the command. -/
def CopyMoves : Prop :=
  ∀ (s : State) (ch : Nat) (c : Cmd) (f : XCp), Runs s ch c → c.ins = .xcopy f → opPush c.x.toNat = false →
    let w := c.who s.co.id ch clsCopy
    let a := c.y.toNat + c.pos
    let b := c.x.toNat + c.pos
    let k := min 65536 (c.z.toNat - c.pos)
    let row (pa : Nat) (swz : Bool) : Nat := physRow swz ((pa - windowBase) % 2 ^ 30 / 256)
    let own (pa : Nat) : Prop := pa % 256 = 0 ∧ s.co.id < 48 ∧ windowBase + s.co.id * 2 ^ 30 ≤ pa ∧
      pa < windowBase + s.co.id * 2 ^ 30 + wAcc
    (∀ src dst, Plain s w false a k src → Plain s w true b k dst →
      Moves s ch (on c k k c.z.toNat) fun t => Wrote s t dst k fun i => s.dv.seenAs w.agent w.id (src + i)) ∧
    (∀ e, 0 < k → a % 65536 + k ≤ 65536 → s.place w false a k = (.error e, s) →
      Moves s ch { c with st := .moved, result := some e } fun t => t.dv = s.dv) ∧
    (k = 256 → ∀ pa swz dst, own pa → a % 256 = 0 → s.place w false a k = (.ok (.win pa swz), s) → Plain s w true b k dst →
      let l := s.slotLoc c.space s.co.id (row pa swz / 256)
      (c.reads = [] → c.asked = [] → (∀ r, s.resolve l ≠ .bad r) →
        Ends (.commandStart s.co.id ch) s fun t => t.pl = s.pl ∧ t.dv = s.dv ∧
          t.co.engQ = s.co.engQ ++
            [⟨s.co.id, ch, c.seq, row pa swz, swz, 0#2048, c.lid, c.rank, some (s.resolve l), pa⟩] ∧
          (vget t.co.ch ch []).head? = some { c with st := .running, asked := [(pa, swz)] }) ∧
      (∀ r, c.reads = [⟨pa, swz, r, none⟩] →
        Moves s ch (on c k k c.z.toNat) fun t => Wrote s t dst k fun i => r.extractLsb' (8 * i) 8)) ∧
    (k = 256 → ∀ pa swz src, own pa → b % 256 = 0 → Plain s w false a k src → s.place w true b k = (.ok (.win pa swz), s) →
      entKind (s.entry (s.slotLoc c.space s.co.id (row pa swz / 256))).1 = 1 →
      Ends (.commandStart s.co.id ch) s fun t => t.pl = s.pl ∧ t.dv = s.dv ∧
        t.co.engQ = s.co.engQ ++
          [⟨s.co.id, ch, c.seq, row pa swz, swz, BitVec.ofNat 2048 (sees s w src k), c.lid, c.rank, none, pa⟩] ∧
        (vget t.co.ch ch []).head? = some (spent (on c k k c.z.toNat)))

/-- XCOPYT (R341): the next destination row gets its elements; those of a plain copy are the source row's, of a transpose the
source column's; an expanded one is the stored element whose metadata position it is, else 0. -/
def ShapedCopyMoves : Prop :=
  (∀ (s : State) (ch : Nat) (c : Cmd) (f : XBk) (vs : List Nat) (dst : Nat), Runs s ch c → c.ins = .xcopyt f →
    let w := c.who s.co.id ch clsCopy
    let h := shapeOf c.blk
    let n := elemBits h.fmt * vs.length
    let d := h.d0 + c.pos * h.dp
    s.shapeRow w h c.pos = (.ok (vs.map some, none), s) → d % 8 = 0 → n % 8 = 0 → Plain s w true (h.dst + d / 8) (n / 8) dst →
    Moves s ch { on c 1 0 h.outDims.1 with bits := c.bits + n, done := (c.bits + n + 7) / 8 } fun t =>
      Wrote s t dst (n / 8) fun i => BitVec.ofNat 8 (packs (elemBits h.fmt) vs >>> (8 * i))) ∧
  (∀ (s : State) (w : Who) (h : Shape) (k src : Nat),
    let bits := elemBits h.fmt
    let b := h.s0 + k * h.sp
    let n := (b % 8 + h.cols * bits + 7) / 8
    h.mode = 0 → Plain s w false (h.src + b / 8) n src →
    s.shapeRow w h k = (.ok ((elems bits h.cols (sees s w src n >>> (b % 8))).map some, none), s)) ∧
  (∀ (s : State) (w : Who) (h : Shape) (k : Nat) (src : Nat → Nat),
    let bits := elemBits h.fmt
    let b (i : Nat) : Nat := h.s0 + bits * k + i * h.sp
    let n (i : Nat) : Nat := (b i % 8 + 1 * bits + 7) / 8
    h.mode = 1 → (∀ i < h.rows, Plain s w false (h.src + b i / 8) (n i) (src i)) →
    s.shapeRow w h k =
      (.ok ((upTo 0 h.rows).map fun i => some ((sees s w (src i) (n i) >>> (b i % 8)) % 2 ^ bits), none), s)) ∧
  ∀ (size : Nat) (rows mt : List (Option (List Nat))) (k j : Nat),
    ((∀ i < rows.length, groupPos mt size i j ≠ k) → groupElem size rows mt k j = 0) ∧
    ∀ i l x, rows[i]? = some (some l) → l[j]? = some x → groupPos mt size i j = k → (∀ u < i, groupPos mt size u j ≠ k) →
      groupElem size rows mt k j = x

/-- XGATH and XSCAT (R345): the next row goes from where its index says, or to there; index 0xFFFFFFFF gathers zeros and scatters
nothing. -/
def GatherMoves : Prop :=
  ∀ (s : State) (ch : Nat) (c : Cmd) (f : XBk) (ip src dst : Nat), Runs s ch c →
    let w := c.who s.co.id ch clsCopy
    let g := gatherOf c.blk
    let i := sees s w ip 4
    let k := { on c 1 1 g.n with bits := c.bits + 8 * g.row }
    Plain s w false (g.idx + 4 * c.pos) 4 ip →
    (c.ins = .xgath f → Plain s w true (g.dst + c.pos * g.row) g.row dst →
      (i = 0xFFFFFFFF → Moves s ch k fun t => Wrote s t dst g.row fun _ => 0#8) ∧
      (i ≠ 0xFFFFFFFF → Plain s w false (g.src + i * g.pitch) g.row src →
        Moves s ch k fun t => Wrote s t dst g.row fun j => s.dv.seenAs w.agent w.id (src + j))) ∧
    (c.ins = .xscat f →
      (i = 0xFFFFFFFF → Moves s ch (on c 1 0 g.n) fun t => t.dv = s.dv) ∧
      (i ≠ 0xFFFFFFFF → Plain s w false (g.src + c.pos * g.row) g.row src → Plain s w true (g.dst + i * g.pitch) g.row dst →
        Moves s ch k fun t => Wrote s t dst g.row fun j => s.dv.seenAs w.agent w.id (src + j)))

/-- XFILL, XPAIR and XNEAR (R290, R343, R348): the next tile's entry becomes the symbol; a tile and its partner get rows and their
transpose with one new generation; the next element is what the kernel makes of its inputs. -/
def TileAndNearMoves : Prop :=
  (∀ (s u : State) (ch : Nat) (c : Cmd) (f : XFi) (l : TLoc) (v : Word), Runs s ch c → c.ins = .xfill f →
    let w := c.who s.co.id ch clsCopy
    (refDesc c.x = descSlots → refTile c.x % 256 + c.pos < 256) → s.refLoc w.space (refPlus c.x c.pos) = .ok l →
    s.fillPlace w l = (none, u) → u.pl = s.pl → u.co = s.co → u.symbol l f.kind.toNat l.fmt c.z = .ok v →
    Ends (.commandStart s.co.id ch) s fun t => t.pl = s.pl ∧
      (vget t.co.ch ch []).head? = some (spent (on c 1 1 c.y.toNat)) ∧
      let e := t.entry l
      e.2 = v ∧ entKind e.1 = f.kind.toNat ∧ entFmt e.1 = l.fmt % 16 ∧ entPromoted e.1 = false ∧ entDirty e.1 = false ∧
      entFrame e.1 = 0 ∧ entPgen e.1 = entPgen (u.entry l).1) ∧
  (∀ (s u a b : State) (ch : Nat) (c : Cmd) (f : XBk) (l p : TLoc) (plain : Bool) (bs : List Byte), Runs s ch c →
    c.ins = .xpair f →
    let w := c.who s.co.id ch clsCopy
    let rows := (elems 2048 256 (natOfBytes bs)).map (BitVec.ofNat 2048)
    let g := (entPgen (u.entry l).1 + 1) % 256
    s.refLoc w.space (refPlus (BitVec.ofNat 64 (bF c.blk 0x18 0 64)) c.pos) = .ok l → s.pairOf l = some (plain, p) →
    s.opRead w (bF c.blk 0x10 0 64 + 65536 * c.pos) 65536 = (.ok bs, u) → u.putPair w l rows g = (none, a) →
    a.putPair w p (transposeTile rows) g = (none, b) → b.pl = s.pl → b.co = s.co →
    Moves s ch (on c 1 1 (bF c.blk 0x20 0 32)) fun t => t.dv = b.dv) ∧
  (∀ (w : Who) (s t : State) (l : TLoc) (rows : List Row) (g : Nat), l.isSlot = false → s.putPair w l rows g = (none, t) →
    entPgen (t.entry l).1 = g % 256) ∧
  (∀ (rows : List Row) (i j : Nat) (r : Row), rows.length = 256 → j < 256 → rows[i]? = some r →
    ((transposeTile rows)[j]?.getD 0#2048).extractLsb' (8 * i) 8 = r.extractLsb' (8 * j) 8) ∧
  ∀ (s : State) (ch : Nat) (c : Cmd) (f : XBk) (pa pb : Nat), Runs s ch c → c.ins = .xnear f → 0 < c.pos →
    let x := nearOf c.blk
    let n := x.bytes
    let d := c.unit.getD 0
    let at_ (v p : Nat) : Prop := p % 256 = v % 256 ∧ v % 256 + n ≤ 256 ∧ p + n ≤ Config.queuePage ∧
      s.rowBad (.frame (p / 65536)) 15 (p % 65536 / 256) = false ∧
      ∃ v0 m q p0, c.cur.find? (fun y => y.1 ≤ v && v + n ≤ y.1 + y.2.1) = some (v0, m, .virt q (.mem p0 none)) ∧
        p = p0 + (v - v0)
    let w := { c.who s.co.id ch clsNear with agent := agentDie d }
    let r := nearElem x (decodeN x.fmt (if x.kernel = 0 then 0 else sees s w pa n))
      (decodeN x.fmt (if x.kernel = 0 then 0 else sees s w pb n)) []
    x.kernel ≤ 3 → s.dv.badSect = [] → s.dv.weakSect = [] → at_ (x.a + n * c.pos) pa →
    (x.kernel ≠ 0 → at_ (x.b + n * c.pos) pb) →
    Moves s ch { on c 1 1 x.n with fl := c.fl ||| r.1.2 ||| (x.store r.1.1).2 } fun t =>
      Wrote s t pa n fun i => BitVec.ofNat 8 ((x.store r.1.1).1 >>> (8 * i))

/-- What a collective or an XMEDIA has yet to place goes out piece by piece (R259, R353, R354); a die without a decoder refuses an
XMEDIA, which then places nothing. -/
def PiecesPlaced : Prop :=
  ∀ (s : State) (ch : Nat) (c : Cmd) (f : XBk), Runs s ch c →
    (∀ k rest dst, c.out = k :: rest → (c.ins = .xcoll f ∨ c.ins = .xmedia f) →
      let w := if c.ins = .xcoll f then c.who s.co.id ch clsCopy
        else { c.who s.co.id ch clsDecoder with agent := agentDie (dieOf s.co.id) }
      Plain s w true k.at_ k.data.length dst →
      Moves s ch { c with st := if rest = [] then .moved else .running, out := rest, done := c.done + k.units, fl := c.fl ||| k.fl }
        fun t => Wrote s t dst k.data.length fun i => k.data.getD i 0#8) ∧
    (c.ins = .xmedia f → c.out = [] → s.dv.mg.decoderFor s.co.id = none →
      Moves s ch { c with st := .moved, result := some (engDenied 1 0) } fun t => t.dv = s.dv) ∧
    ((∃ g, c.ins = .xacc g) ∨ (∃ g, c.ins = .xcas g) ∨ (c.ins = .xcoll f ∧ c.out = []) →
      Moves s ch { c with st := .posted } fun t => t.dv = s.dv)

/-- XACC and XCAS at the port (R326, R346, R347): the old value is the coherence-latest one, the new one is visible to every agent
at once, and a compare that fails writes nothing. -/
def AtomicsApply : Prop :=
  ∀ (s : State) (ch : Nat) (c : Cmd) (pa n : Nat), Heads s ch c → s.dv.mg.failed = false → c.st = .posted →
    Plain s { c.who s.co.id ch clsCopy with level := 4 } true c.x.toNat n pa → pa % 256 + n ≤ 256 →
    let old := s.dv.portNat pa n
    let puts (v : Nat) (t : State) : Prop := Wrote s t pa n (fun i => BitVec.ofNat 8 (v >>> (8 * i))) ∧
      ∀ agent i, i < n → t.dv.seen agent (pa + i) = BitVec.ofNat 8 (v >>> (8 * i))
    let ends (k : Cmd) (P : State → Prop) : Prop := Ends (.atomicApply s.co.id ch) s fun t => t.pl = s.pl ∧
      (vget t.co.ch ch []).head? = some { k with st := .moved, done := 1, err := none } ∧ P t
    (∀ f, c.ins = .xacc f → n = (if c.z.getLsbD 0 then 8 else 4) →
      let r := accNew f.op.toNat (8 * n) old (c.y.toNat % 2 ^ (8 * n))
      ends { c with fl := r.2, extra := if c.z.getLsbD 1 then some (BitVec.ofNat 64 old) else none } (puts r.1)) ∧
    ∀ f, c.ins = .xcas f → n = (if f.w64 = 1#1 then 8 else 4) →
      ends { c with extra := some (BitVec.ofNat 64 old) } fun t =>
        (old = c.y.toNat % 2 ^ (8 * n) → puts (c.z.toNat % 2 ^ (8 * n)) t) ∧
        (old ≠ c.y.toNat % 2 ^ (8 * n) → ∀ a, t.dv.port a = s.dv.port a)

/-- A message of another device (R350, R351): it is placed in the oldest buffer of its space and tag, whose XPOST completes with the
sender's index; one longer than that buffer changes nothing. -/
def MessageArrives : Prop :=
  ∀ (s : State) (src sp tag : Nat) (data : List Byte) (p : Posted) (c : Cmd), s.dv.mg.failed = false →
    s.dv.postedFor sp tag = some p → s.cmd? p.core p.ch p.seq = some c →
    (bF c.blk 0x18 0 40 < data.length → exec (.fabricMessageArrive src sp tag data) s = .next s) ∧
    (data.length ≤ bF c.blk 0x18 0 40 → ∀ dst,
      Plain (s.unpost p) (c.who p.core p.ch clsCopy) true (bF c.blk 0x10 0 64) data.length dst →
      Ends (.fabricMessageArrive src sp tag data) s fun t =>
        Wrote s t dst data.length (fun i => data.getD i 0#8) ∧
        t.dv.posted = s.dv.posted.filter (fun x => !(x.core == p.core && x.ch == p.ch && x.seq == p.seq)) ∧
        t.cmd? p.core p.ch p.seq = some { c with
          st := .moved, done := data.length, err := none, extra := some (BitVec.ofNat 64 (src % 512)) })

/-- COLLECTIVE_MATCH of a domain of this device (R352, R353): until every member has posted it changes nothing; members that
disagree all fail with reason 6; else each one's elements are folded, and each command has its result to place. -/
def CollectiveMatches : Prop :=
  (∀ (s : State) (lid level inst id : Nat), s.dv.mg.failed = false →
    let o := s.barOwner lid level
    let ms := s.members o.1 o.2 level inst
    let found := ms.filterMap fun m => s.collOf m.1 m.2.1 level id
    let ps := found.insertionSort fun a b => a.2.2.2 ≤ b.2.2.2
    let key (c : Cmd) := let k := Machine.collOf c.blk; (k.kind, k.combine, k.fmt, k.n, k.order)
    (ms = [] ∨ found.length ≠ ms.length → exec (.collectiveMatch lid level inst id) s = .next s) ∧
    (ms ≠ [] → found.length = ms.length → o.1 = false → (ps.Pairwise fun a b => a.2.2.2 ≠ b.2.2.2) →
      (∀ p ∈ ps, s.cmd? p.1 p.2.1 p.2.2.1.seq = some p.2.2.1) →
      ((∃ p ∈ ps, ∃ q ∈ ps, key p.2.2.1 ≠ key q.2.2.1) →
        Ends (.collectiveMatch lid level inst id) s fun t => t.dv = s.dv ∧
          ∀ p ∈ ps, t.cmd? p.1 p.2.1 p.2.2.1.seq =
            some { p.2.2.1 with st := .moved, result := some (engDenied 6 0) }) ∧
      ∀ at_ : Nat → Nat, (∀ p ∈ ps, ∀ q ∈ ps, key p.2.2.1 = key q.2.2.1) →
        let who (p : Nat × Nat × Cmd × Nat) : Who := p.2.2.1.who p.1 p.2.1 clsCopy
        let k (p : Nat × Nat × Cmd × Nat) : Coll := Machine.collOf p.2.2.1.blk
        (∀ p ∈ ps, p.2.2.1.need = [] ∧ Plain s (who p) false (k p).src ((k p).n * (k p).bytes) (at_ p.2.2.2)) →
        let all : List CMem := ps.map fun (p : Nat × Nat × Cmd × Nat) => (⟨p.2.2.2, s.dv.mg.index,
          dmrRank (s.dmrOf p.2.2.1.lid p.2.2.1.rank 3),
          elems (8 * (k p).bytes) (k p).n (sees s (who p) (at_ p.2.2.2) ((k p).n * (k p).bytes)),
          some (p.1, p.2.1, p.2.2.1)⟩ : CMem)
        Ends (.collectiveMatch lid level inst id) s fun t => t.dv = s.dv ∧
          ∀ (i : Nat) (p : Nat × Nat × Cmd × Nat), ps[i]? = some p → t.cmd? p.1 p.2.1 p.2.2.1.seq = some (spent { p.2.2.1 with
            st := .running
            out := chunksOf (k p).dst (k p).bytes true
              ((collResult (k p) level (s.fresh + 1) i all).map fun x => (bytesOfNat (k p).bytes x.1, x.2)) }))) ∧
  (∀ (combine : Nat) (x : Nat × Nat) (xs : List (Nat × Nat)), (∀ y ∈ x :: xs, y.2 < 2 ^ 32) →
    let v := (foldElems 4 combine false (x :: xs)).1
    (combine = 0 → v = ((x :: xs).map (·.2)).sum % 2 ^ 32) ∧
    (combine = 1 → (∃ y ∈ x :: xs, v = y.2) ∧ ∀ y ∈ x :: xs, sgn 32 y.2 ≤ sgn 32 v) ∧
    (combine = 2 → (∃ y ∈ x :: xs, v = y.2) ∧ ∀ y ∈ x :: xs, sgn 32 v ≤ sgn 32 y.2)) ∧
  (∀ (d3 : List Nat) (m n e fresh k : Nat), k < m →
    (foldOrder 0 d3 m n e fresh)[k]? = some ((e / ((n + m - 1) / m) + 1 + k) % m) ∧
    (foldOrder 1 [] m n e fresh)[k]? = some k) ∧
  ∀ (d3 : List Nat) (m n e fresh : Nat), d3.length = m → (foldOrder 1 d3 m n e fresh).Perm (List.range m) ∧
    (foldOrder 1 d3 m n e fresh).Pairwise fun a b => d3.getD a 0 < d3.getD b 0 ∨ (d3.getD a 0 = d3.getD b 0 ∧ a < b)

/-- An engine's access performs at its bank when no earlier one to its row is left (R276, R299, R317, R320): a write stores its row, a
read gives its command the row as its view stands; of a slot that its task may no longer touch nothing is written. -/
def BankAccess : Prop :=
  ∀ (s : State) (i : Nat) (e : EngAcc), s.co.engQ[i]? = some e → (∀ x ∈ s.co.engQ.take i, x.row ≠ e.row) →
    let u : State := { s with co := { s.co with engQ := without s.co.engQ i } }
    let k := e.row / 256
    let l := s.slotLoc 0 s.co.id k
    let bad := s.rowBad (.slot s.co.id k) l.fmt (e.row % 256)
    (e.src = none → s.mayUse e.lid e.rank e.seq s.co.id k = false → exec (.engineAccessPerform s.co.id i) s = .next u) ∧
    (e.src = none → s.mayUse e.lid e.rank e.seq s.co.id k = true → bad = false →
      Ends (.engineAccessPerform s.co.id i) s fun t => t.pl = s.pl ∧ t.co.engQ = without s.co.engQ i ∧
        ∀ r, t.co.portRow r = if r = e.row then e.data else s.co.portRow r) ∧
    ∀ x f nf, e.src = some (.stored true s.co.id x f nf) → s.mayUse e.lid e.rank e.seq s.co.id k = true →
      (x = k → entKind (s.entry l).1 = 1 → bad = false) →
      Ends (.engineAccessPerform s.co.id i) s fun t => t.pl = s.pl ∧ t.dv = s.dv ∧ t.co.spad = s.co.spad ∧
        t.cmd? e.core e.ch e.seq = (s.cmd? e.core e.ch e.seq).map fun c => { c with
          reads := c.reads ++ [⟨e.pa, e.swz, s.co.viewRow e.swz (256 * x + e.row % 256), none⟩] }

end Sys2Proof.Claim

/-- R319, R320, R321, R322, R324, R326, R340, R341, R345, R351, R352, R353: what the events of the ordering machine and of
the channels do. A started command moves a piece: XCOPY, XCOPYT, XGATH and XSCAT read their source as their core sees it
and write the destination's bytes, a scratchpad row at its bank; XFILL writes entries, XPAIR a pair, XNEAR elements in
place, a collective and XMEDIA what they have to place. Atomics give the old value and make the new one visible to all;
a message lands in its buffer and completes it; a matched collective gives each member its folded result, a mismatch
fails every one. With R290, R317, R323, R342, R343, R346 to R348, R350, R354. Model's choice: the agenda (log entry 4), a
command's pieces (43), the fold of an arrival order (22), a message to another device (23), peers of a collective (16),
NEAR's stack (66); how far copies' sums and errors go is read by inference (99). -/
def Obligations.OrderingEvents : Prop :=
  (∀ (s : State) (e : LqEnt) (rest : List LqEnt) (row : Row), s.pl.lq = e :: rest → e.mark = false → e.sym = some row →
    Ends (.lqPerform s.co.id s.co.lit) s fun t => t.dv = s.dv ∧ t.pl.sq = s.pl.sq ∧
      (∃ k, t.pl.lq = rest.drop k ∧ ∀ x ∈ rest.take k, x.mark = true) ∧
      ∀ f ∈ t.pl.flight, f.id = e.fid → f.known = true ∧ f.val = row) ∧
  (∀ (s : State) (e : SqEnt) (rest : List SqEnt), s.pl.sq = e :: rest → (e.kind = .mark ∨
      (∃ l, e.kind = .fence l ∧ ∀ f ∈ s.dv.far, f.core = s.co.id → f.plane = s.co.lit → f.lid ≠ 0 → l ≤ f.level) ∨
      ∃ w, e.kind = .cmds w ∧ w.all s.co.cmdDone = true) →
    Ends (.sqLeave s.co.id s.co.lit) s fun t => t.pl.sq = rest ∧ t.dv.far = s.dv.far ∧
      t.dv.arrQ = s.dv.arrQ ++ (e.arr.toList.map fun o => ⟨o, [], 0⟩)) ∧
  (∀ (s : State) (e : SqEnt) (rest : List SqEnt) (pa sp : Nat) (data : Row), s.pl.sq = e :: rest →
    e.kind = .stf pa data sp none none → s.pl.lq = [] → pa < Config.queuePage → pa % 256 = 0 → s.dv.badSect = [] →
    s.rowBad (.frame (pa / 65536)) 15 (pa % 65536 / 256) = false →
    Ends (.sqLeave s.co.id s.co.lit) s fun t => t.pl.sq = rest ∧
      ∀ a, t.dv.port a = if pa ≤ a ∧ a < pa + 256 then data.extractLsb' (8 * (a - pa)) 8 else s.dv.port a) ∧
  (∀ (s : State) (i : Nat) (f : Far), s.dv.far[i]? = some f → f.level < 4 →
    Ends (.scopePropagate i) s fun t => (∀ a, t.dv.port a = s.dv.port a) ∧
      (f.level < 3 → { f with level := f.level + 1 } ∈ t.dv.far) ∧ t.pl = s.pl) ∧
  (∀ (s : State) (c row idx : Nat), s.box c ≠ none → row < 65536 → ∀ view, view < 2 →
    let v := SMap.get viewReset (s.core c).views row
    idx < v.hist.length →
    Ends (.viewSeenRaise c row view idx) s fun t => t.dv = s.dv ∧ (t.core c).spad = (s.core c).spad ∧
      (t.core c).views = SMap.set viewReset (s.core c).views row
        (RowView.trim ⟨v.hist, if view = 1 then v.lin else max v.lin idx, if view = 1 then max v.swz idx else v.swz⟩)) ∧
  BankAccess ∧ CopyMoves ∧ ShapedCopyMoves ∧ GatherMoves ∧ TileAndNearMoves ∧ PiecesPlaced ∧ AtomicsApply ∧ MessageArrives ∧
  CollectiveMatches ∧
  (∀ (s : State) (ch : Nat) (c : Cmd), Heads s ch c → s.dv.mg.failed = false → c.st = .moved →
    s.cmdVisible s.co.id ch c = true → c.plane = s.co.lit → s.pl.live = true → s.pl.lid = c.lid → s.pl.rank = c.rank →
    s.alive c.lid c.rank = true →
    c.result = none → c.err = none → c.fl = 0 → bF c.blk 0 0 55 = 0 → (∀ f, c.ins = .xcopy f → f.quiet = 0#1) →
    c.done < 2 ^ 40 → s.pl.xq.length + 1 + c.extra.toList.length ≤ Config.xqCap →
    Ends (.commandComplete s.co.id ch) s fun t =>
      vget t.co.ch ch [] = (vget s.co.ch ch []).filter (fun x => decide (x.seq ≠ c.seq)) ∧
      t.pl = { s.pl with xq := t.pl.xq } ∧
      ∃ w : Word, t.pl.xq = s.pl.xq ++ w :: c.extra.toList ∧ w.extractLsb' 56 8 = 0#8 ∧ w.getLsbD 55 = c.extra.isSome ∧
        w.getLsbD 54 = false ∧ (w.extractLsb' 51 3).toNat = ch ∧ (w.extractLsb' 40 8).toNat = bF c.blk 8 0 8 ∧
        (w.extractLsb' 0 40).toNat = c.done) ∧
  ∀ (s : State) (die view tile : Nat) (v : View), die < 2 → view < 64 →
    s.dv.views.find? (fun x => x.1 == die * 64 + view) = some (die * 64 + view, v) → tile * 65536 < v.size →
    s.viewFault v tile = none →
    Ends (.viewCacheFill die view tile) s fun t => t = { s with dv := { s.dv with vcache := t.dv.vcache } } ∧
      ∃ x ∈ t.dv.vcache, x.die = die ∧ x.view = view ∧ x.tile = tile

/-- R265, R266, R381, R382, R385, R387, R390, R393 to R397: what the outside world does to the device; once failed it
issues no bundle. Model's choice: the offsets of the management region (log entry 14), the arguments events carry
(101); by inference: the reason of a refused write (97), what peers reach (89), what a device reset (95) and an exit
from LOW (90) keep, the images that exit verifies (90), power requests (91). -/
def Obligations.DeviceEvents : Prop :=
  (∀ (s : State) (write : Bool) (pa n sp : Nat) (data : List Byte) (r : Nat),
    (s.outerFault 4 0 write pa (if write then data.length else n) = some r → OnDevice (.hostAccess write pa n data) s
      { s.dv with mg := { s.dv.mg with hostResp := some (BitVec.ofNat 4 r) } }) ∧
    (s.outerFault 5 sp write pa (if write then data.length else n) = some r →
      OnDevice (.fabricPeerRequest write pa n sp data) s
        { s.dv with mg := { s.dv.mg with peerResp := some (BitVec.ofNat 4 r) } })) ∧
  (∀ (s : State) (pa n sp : Nat),
    (s.outerFault 4 0 false pa n = none → OnDevice (.hostAccess false pa n []) s
      { s.dv with mg := { s.dv.mg with hostResp := none, hostData := s.paBytes 51 pa n } }) ∧
    (s.outerFault 5 sp false pa n = none → OnDevice (.fabricPeerRequest false pa n sp []) s
      { s.dv with mg := { s.dv.mg with peerResp := none, peerData := s.paBytes 51 pa n } })) ∧
  (∀ (s : State) (pa sp : Nat) (data : List Byte), s.dv.far = [] → pa % 65536 + data.length ≤ 65536 → data ≠ [] →
    s.dv.badSect = [] → pa + data.length ≤ Config.queuePage → s.dv.frameTile (pa / 65536) = none →
    (s.outerFault 4 0 true pa data.length = none →
      Ends (.hostAccess true pa 0 data) s fun t => t.dv.mem = Memory.puts s.dv.mem pa data ∧ t.pl = s.pl ∧ t.co = s.co ∧
        t.dv.mg = { s.dv.mg with hostResp := none }) ∧
    (s.outerFault 5 sp true pa data.length = none →
      Ends (.fabricPeerRequest true pa 0 sp data) s fun t => t.dv.mem = Memory.puts s.dv.mem pa data ∧ t.pl = s.pl ∧
        t.co = s.co ∧ t.dv.mg = { s.dv.mg with peerResp := none })) ∧
  (∀ (s : State) (off : Nat) (v : BitVec 64),
    (∀ s1, s.mgmtWrite off v.toNat = some s1 → exec (.managementWrite off v) s =
      .next { s1 with dv := { s1.dv with mg := { s1.dv.mg with hostResp := none } } }) ∧
    (s.mgmtWrite off v.toNat = none →
      OnDevice (.managementWrite off v) s { s.dv with mg := { s.dv.mg with hostResp := some 2#4 } })) ∧
  (∀ s : State,
    exec .linkFlitResend s = .next s ∧ (s.dv.mg.failed = true → s.agenda = [] → step s = .next s.settled) ∧
    Ends .deviceFailed s (fun t => t.dv.mg.failed = true ∧ t.pl = s.pl ∧ t.co = s.co ∧ t.dv.mem = s.dv.mem ∧
      (s.dv.mg.failed = false → t.dv.mg.events = s.dv.mg.events ++ [.deviceFailed])) ∧
    Ends .deviceReset s (fun t => t.dv.mg.failed = false ∧ t.dv.queues = Vector.replicate 16 LQueue.reset ∧
      t.pl = Plane.reset ∧ t.dv.launches = [] ∧ t.dv.mg.epoch ≠ 0#32 ∧
      (s.dv.mg.epoch ≠ BitVec.allOnes 32 → t.dv.mg.epoch = s.dv.mg.epoch + 1#32) ∧ t.dv.mg.cores = s.dv.mg.cores) ∧
    (s.dv.mg.power = .low → Ends .lowExit s fun t => t.dv.mg.power ≠ .low ∧ t.dv.queues = Vector.replicate 16 LQueue.reset ∧
      (∀ a, Memory.byte t.dv.mem a = if a < 2 ^ 40 then 0#8 else Memory.byte s.dv.mem a) ∧ t.dv.mg.epoch ≠ 0#32 ∧
      t.dv.mg.monitors = s.dv.mg.monitors ∧
      (s.dv.mg.bootStage = 1 → t.dv.mg.bootStage = 1) ∧
      (s.dv.mg.bootStage ≠ 1 →
        let found (i : Nat) : Verdict := (firmwareOf (Config.bootImage s.fresh i)).verdict s.dv.mg.rootDigest
        let ok (i : Nat) : Bool := (found i).key && (found i).sig &&
          decide ((vget s.dv.mg.rollback (i - 1) 0#32).toNat ≤ (found i).version.toNat)
        t.dv.mg.bootStage = if ok 2 = false then 2 else if ok 3 = false then 3 else 0)) ∧
    (s.dv.mg.power = .active → s.dv.launches = [] → OnDevice .idleEntry s { s.dv with mg := { s.dv.mg with power := .idle } }) ∧
    (s.dv.launches = [] → (∀ q ∈ s.dv.queues.toList, q.en = false) →
      OnDevice (.powerStateRequest 2#2) s { s.dv with mg := { s.dv.mg with power := .low } }) ∧
    ((s.dv.launches ≠ [] ∨ ∃ q ∈ s.dv.queues.toList, q.en = true) → exec (.powerStateRequest 2#2) s = .next s) ∧
    (1100 ≤ s.dv.mg.clock → OnDevice .clockStepDown s { s.dv with mg := { s.dv.mg with clock := s.dv.mg.clock - 100 } }) ∧
    (s.dv.mg.clock ≤ 1900 → OnDevice .clockStepUp s { s.dv with mg := { s.dv.mg with clock := s.dv.mg.clock + 100 } }) ∧
    (s.dv.mg.clock = 1000 → Ends .criticalTemperature s fun t => t.dv.mg.failed = true) ∧
    (s.dv.mg.clock ≠ 1000 → exec .criticalTemperature s = .next s) ∧
    (s.dv.mg.attPending = true → Ends .attestReportDone s fun t => t.dv.mg.attDone = true ∧ t.dv.mg.attPending = false ∧
      t.dv.mg.report.extractLsb' 0 32 = 1#32 ∧ t.dv.mg.report.extractLsb' 32 32 = s.dv.mg.epoch ∧
      t.dv.mg.report.extractLsb' 128 256 = s.dv.mg.nonce) ∧
    ∀ up : Bool, OnDevice (.dieLinkRetrain up) s { s.dv with mg := { s.dv.mg with linkUp := up } }) ∧
  (∀ (s : State) (p : Nat), p < 18 →
    Ends (.fabricPortFailure p) s fun t => t = { s with dv := { s.dv with mg := { s.dv.mg with
        portsFailed := t.dv.mg.portsFailed } } } ∧
      ∀ q < 18, t.dv.mg.portsFailed.getLsbD q = (decide (q = p) || s.dv.mg.portsFailed.getLsbD q)) ∧
  (∀ (s : State) (n : BitVec 256), OnDevice (.attestNonceWrite n) s
    { s.dv with mg := { s.dv.mg with nonce := n, attPending := true, attDone := false } }) ∧
  (∀ (s : State) (k g : BitVec 3) (v : Fin 3 → BitVec 32) (d : Fin 3 → BitVec 256),
    let good := fun i : Fin 3 => k.getLsbD i = true ∧ g.getLsbD i = true ∧
      (vget s.dv.mg.rollback i 0#32).toNat ≤ (v i).toNat
    Ends (.secureBoot k g (v 0) (v 1) (v 2) (d 0) (d 1) (d 2)) s fun t => t.pl = s.pl ∧ t.dv.mem = s.dv.mem ∧
      (t.dv.mg.bootStage = 0 ↔ good 0 ∧ good 1 ∧ good 2) ∧
      (good 0 ∧ good 1 ∧ good 2 → t.dv.mg.bootReason = 0#2 ∧
        ∀ i : Fin 3, vget t.dv.mg.versions i 0#32 = v i ∧ vget t.dv.mg.digests i 0#256 = d i) ∧
      ∀ i : Fin 3, ¬good i → (∀ j < i, good j) → t.dv.mg.bootStage = i + 1 ∧
        t.dv.mg.bootReason = if k.getLsbD i = false then 1#2 else if g.getLsbD i = false then 2#2 else 3#2) ∧
  ∀ (s : State) (i : Nat) (margin : BitVec 16) (remaining : BitVec 32), i < 74 →
    let x := vget s.dv.mg.monitors i 0#128
    Ends (.ageingUpdate i margin remaining) s fun t => let y := vget t.dv.mg.monitors i 0#128
      y.extractLsb' 0 32 = remaining ∧ y.extractLsb' 32 16 = margin ∧ y.extractLsb' 48 16 = x.extractLsb' 48 16 ∧
      y.extractLsb' 64 64 = x.extractLsb' 64 64 + 1#64 ∧
      (let limit := vget s.dv.mg.ageLimit (x.extractLsb' 48 16).toNat 0#32
       t.dv.mg.events = if remaining.toNat < limit.toNat then s.dv.mg.events ++ [.ageing i] else s.dv.mg.events)

/-- R399, R400, R403, R404, R407, R408: what the events of the journal do: the controller numbers a request of which none
of its task is earlier; a mirror frees, writes and answers; mode and verify are written at the page, an illegal mode is
refused; a replay copies its source's entries from cursor to end. By inference: which task's request arrives first is
free (log entry 42), entries below the cursor (56), a new mirror (92), the source of a replay (96). Model's choice: what
a mirror knows of tstep, and whether it has said that its ring is full (86). -/
def Obligations.JournalEvents : Prop :=
  (∀ s : State, s.dv.mg.failed = false → s.dv.jnl.reqs ≠ [] →
    (∀ r ∈ s.dv.jnl.reqs, (∃ e c p fid, r.op = .append e c p fid) ∧ (s.dv.stream r.stream).replaying = false) →
    Ends .journalAppendAssign s fun t => ∃ i r e c p fid, s.dv.jnl.reqs[i]? = some r ∧ r.op = .append e c p fid ∧
      (∀ q ∈ s.dv.jnl.reqs.take i, ¬(q.lid = r.lid ∧ q.rank = r.rank)) ∧ t.dv.jnl.reqs = without s.dv.jnl.reqs i ∧
      let n := (s.dv.stream r.stream).last + 1
      (t.dv.stream r.stream).last = n ∧ (t.dv.stream r.stream).lstep = (e.extractLsb' 64 64).toNat ∧
      (s.dv.jnl.buf.length < Config.journalCap → s.dv.jnl.waiting = [] → n < 2 ^ 64 →
        ∃ j, t.dv.jnl.buf = s.dv.jnl.buf ++ [j] ∧ j.seq = n ∧ j.acked = false ∧
          j.entry = (e.extractLsb' 192 320 ++ BitVec.ofNat 64 n ++ e.extractLsb' 0 128 : BitVec 512)) ∧
      ((Config.journalCap ≤ s.dv.jnl.buf.length ∨ s.dv.jnl.waiting ≠ []) → t.dv.jnl.buf = s.dv.jnl.buf ∧
        t.dv.jnl.waiting.length = s.dv.jnl.waiting.length + 1)) ∧
  (∀ (s : State) (src : Nat) (entry : BitVec 512),
    let ring := (SMap.get [] s.dv.jnl.rings src).filter fun e => Config.peerTstep s.fresh src (jStream e) < jStep e
    let rest := ring.filter fun e => !(jStream e == jStream entry && jSeq e == jSeq entry)
    let full := decide (Config.ringCap ≤ rest.length)
    Ends (.mirrorEntryWrite src entry) s fun t =>
      (∀ k, k ≠ src → SMap.get [] t.dv.jnl.rings k = SMap.get [] s.dv.jnl.rings k) ∧
      SMap.get [] t.dv.jnl.rings src = (if full then ring else rest ++ [entry]) ∧
      t.dv.jnl.answers = s.dv.jnl.answers ++ [⟨src, jStream entry, jSeq entry, !full⟩] ∧
      t.dv.mg.events = if full then s.dv.mg.events ++ [.journalFull src] else s.dv.mg.events) ∧
  (∀ (s : State) (e : JEnt), s.dv.jnl.jm.getLsbD 63 = true → s.dv.jnl.buf = [e] → e.acked = false → s.dv.jnl.waiting = [] →
    let x := s.dv.stream e.stream
    e.seq = x.ack + 1 → x.durable = [] →
    Ends (.mirrorAck e.stream e.seq) s fun t => (t.dv.stream e.stream).ack = e.seq ∧
      t.dv.jnl.buf = if e.step ≤ x.tstep then [] else [{ e with acked := true }]) ∧
  (∀ (s : State) (stream : Nat), (∃ e ∈ s.dv.jnl.buf, e.stream = stream ∧ e.acked = false) → s.dv.jnl.jm.getLsbD 62 = false →
    exec (.mirrorLost stream) s = .next { s with
      fresh := s.fresh + 1
      dv := if Config.mirrorFull s.fresh then s.dv else { s.dv with
        jnl := { s.dv.jnl with jm := s.dv.jnl.jm ||| 0x4000000000000000#64 },
        mg := { s.dv.mg with events := s.dv.mg.events ++ [.mirrorLost stream] } } }) ∧
  (∀ (s : State) (v : BitVec 64), v.getLsbD 63 = false →
    OnDevice (.jmirrorWrite v) s { s.dv with jnl := { s.dv.jnl with
      jm := (v &&& 0x1FF#64) ||| (s.dv.jnl.jm &&& v &&& 0x4000000000000000#64) } }) ∧
  (∀ (s : State) (v : BitVec 64), v.getLsbD 63 = true → s.dv.jnl.waiting = [] →
    Ends (.jmirrorWrite v) s fun t => t.dv.jnl.jm = (v &&& 0x1FF#64) ||| 0x8000000000000000#64 ∧
      (∀ e, e ∈ s.dv.jnl.buf → (s.dv.stream e.stream).tstep < e.step →
        { e with acked := false } ∈ t.dv.jnl.buf ∧ e.entry ∈ t.dv.jnl.transit) ∧
      ∀ e ∈ t.dv.jnl.buf, e.acked = false) ∧
  (∀ (s : State) (k : Nat) (v : BitVec 64), 1 ≤ k → k < 1024 →
    let x := s.dv.stream k
    (v.toNat % 4 < 2 → Ends (.managementWrite (0x11_0000 + 0x40 * k) v) s fun t =>
      t.dv.stream k = { x with mode := BitVec.ofNat 2 v.toNat, verify := v.getLsbD 2, gap := x.gap && v.getLsbD 3 } ∧
      t.dv.mg.hostResp = none) ∧
    (2 ≤ v.toNat % 4 → OnDevice (.managementWrite (0x11_0000 + 0x40 * k) v) s
      { s.dv with mg := { s.dv.mg with hostResp := some 2#4 } })) ∧
  ∀ (s : State) (stream : Nat) (src : List (BitVec 512)), 1 ≤ stream → stream ≤ 1023 → s.dv.jnl.jm.getLsbD 63 = true →
    let x := s.dv.stream stream
    let source := if src = [] then s.dv.jnl.rings.flatMap (·.2) else src
    x.cursor ≤ x.stop → s.dv.jnl.waiting = [] → s.dv.jnl.buf.length + source.length ≤ Config.journalCap →
    Ends (.replayStart stream src) s fun t => (t.dv.stream stream).mode = 1#2 ∧
      (t.dv.stream stream).cursor = x.cursor ∧
      ∀ e ∈ source, jStream e = stream → x.cursor ≤ jSeq e → jSeq e ≤ x.stop →
        ∃ j ∈ t.dv.jnl.buf, j.stream = stream ∧ j.seq = jSeq e

/-! ### Reset, flags and memory -/

/-- R26, R260, R265, R272, R303, R389, R390, R400: what reset leaves where the spec gives it, and what a task finds in
its plane at its start. The arrival registers of a task's start are read by inference (log entry 100). -/
def Obligations.ResetAndTaskStart : Prop :=
  (∀ c k, c < 48 → k < 256 →
    let x := (State.reset.core c).slot k
    x.st = .free ∧ x.gen = 0#16 ∧ x.trank = 0#8 ∧ x.plane = 0 ∧ x.core = 0 ∧
      x.w0.extractLsb' 61 3 = 2#3 ∧ x.w0.extractLsb' 0 61 = 0#61) ∧
  (∀ q < 16, let x := State.reset.dv.queue q
    x.lring = 0#55 ∧ x.cring = 0#55 ∧ x.size = 0#5 ∧ x.en = false ∧ x.st = 0 ∧ x.dh = 0 ∧ x.chead = 0 ∧ x.hc = 0) ∧
  State.reset.dv.mg.epoch = 1#32 ∧ State.reset.dv.jnl.jm = 0#64 ∧ State.reset.dv.jnl.timeout = 10#16 ∧
  (∀ k, let x := State.reset.dv.stream k
    x.mode = 0#2 ∧ x.verify = false ∧ x.gap = false ∧ x.last = 0 ∧ x.ack = 0 ∧ x.held = 0 ∧ x.cursor = 0 ∧ x.stop = 0 ∧
      x.tstep = 0 ∧ x.lstep = 0) ∧
  (∀ r, (State.reset.dv.luxRec r).live = 0x7F800000#2048 <<< 32 ∧ (State.reset.dv.luxRec r).sealed = 0x7F800000#2048 <<< 32) ∧
  (∀ target cls sp : Nat, ∀ write, cls < 8 → sp < 16 → ∀ lo hi, lo ≤ hi → hi < 2 ^ 36 →
    (State.reset.dv.allowed target cls sp write lo hi = true ↔ cls = 4 ∨ cls = 7)) ∧
  ∀ (m : Mgmt) (old : Plane) (q lid base entry t born : Nat) (rc : BitVec 1024),
    let p := loadedPlane m old q lid rc base entry t born
    (∀ r : BitVec 5, p.rdS r = if r = 1#5 then rc.extractLsb' 128 64 else 0#64) ∧ (∀ k < 33, p.queue k = []) ∧
      (∀ k < 8, vget p.pr k 0#256 = 0#256) ∧ p.loops = [] ∧ p.rets = [] ∧ p.flight = [] ∧ p.pending = [] ∧
      (∀ n < 8, vget p.ks n ⟨0#64, 0#32⟩ = ⟨0#64, 0#32⟩) ∧ (∀ n < 4, vget p.xp n 0#128 = 0#128) ∧
      (∀ e < 5, vget p.flags e 0#16 = 0#16) ∧ p.seg = BitVec.ofNat 32 entry ∧ p.bun = 0#12 ∧ p.intrap = false ∧
      p.status = .loaded

/-- R142 to R144: at the end of a bundle every flag that a result of the bundle raised is set in its engine's word, no flag
and no enable is cleared, nothing else is set, and an enabled flag defers FP_EXCEPTION of its engine. -/
def Obligations.FlagsAreSticky : Prop :=
  ∀ (s : State),
    let t := s.setFlags
    (∀ e < 5, ∀ i < 16, (vget t.pl.flags e 0#16).getLsbD i = true ↔
      (vget s.pl.flags e 0#16).getLsbD i = true ∨ ∃ x ∈ s.pl.newFlags, x.1 = e ∧ x.2.1.getLsbD i = true) ∧
    (∀ x ∈ s.pl.newFlags, x.1 < 5 → x.2.2.2 = false → s.pl.intrap = false →
      (∃ i < 5, x.2.1.getLsbD i = true ∧ (vget s.pl.flags x.1 0#16).getLsbD (8 + i) = true) →
      ∃ d ∈ t.pl.deferred, d.due = s.pl.tcount ∧ d.req = x.2.2.1 ∧ d.cause.code = 0x29#8 ∧
        (d.cause.detail.extractLsb' 0 3).toNat = x.1 ∧
        ∀ i < 5, d.cause.detail.getLsbD (8 + i) = (x.2.1.getLsbD i && (vget s.pl.flags x.1 0#16).getLsbD (8 + i))) ∧
    t.pl = { s.pl with flags := t.pl.flags, deferred := t.pl.deferred, hdefer := t.pl.hdefer, newFlags := [] } ∧
    t = { s with pl := t.pl }

/-- R315, R316, R322, R326: a store of bytes takes the last coherence position at each: the port reads it; so does every
agent whose domain with the storer is within its level, and no other; every other byte reads as before to everyone. -/
def Obligations.StoresReadBack : Prop :=
  ∀ (d : Dev) (id agent level a : Nat) (bs : List Byte) (lid rank plane : Nat),
    let t := d.store id agent level a bs lid rank plane
    (∀ x, t.port x = if a ≤ x ∧ x < a + bs.length then bs.getD (x - a) 0#8 else d.port x) ∧
    ∀ viewer x, t.seen viewer x =
      if a ≤ x ∧ x < a + bs.length ∧ commonLevel agent viewer ≤ level then bs.getD (x - a) 0#8 else d.seen viewer x
end

