-- ==== Sys2Proof/Laws/Bits.lean ====
section
/-!
SUPPORT. Bit fields and packed elements: what a field read or replaced holds, bit by bit, and what each element of a
packed number is.
-/

namespace Sys2Proof.Machine

/-- A bit of a field. -/
theorem testBit_bitsOf (x lo n i : Nat) : (bitsOf x lo n).testBit i = (decide (i < n) && x.testBit (lo + i)) := by
  simp [bitsOf, Nat.testBit_mod_two_pow, Nat.testBit_shiftRight]

/-- A number split at a field. -/
theorem bitsPut_eq (x lo n v : Nat) :
    bitsPut x lo n v = 2 ^ lo * (2 ^ n * (x / 2 ^ (lo + n)) + v % 2 ^ n) + x % 2 ^ lo := by
  unfold bitsPut bitsOf
  rw [Nat.shiftLeft_eq, Nat.shiftLeft_eq, Nat.shiftRight_eq_div_pow]
  have h1 : x = 2 ^ lo * (x / 2 ^ lo) + x % 2 ^ lo := (Nat.div_add_mod x (2 ^ lo)).symm
  have h2 : x / 2 ^ lo = 2 ^ n * (x / 2 ^ (lo + n)) + x / 2 ^ lo % 2 ^ n := by
    rw [Nat.pow_add, ← Nat.div_div_eq_div_mul]
    exact (Nat.div_add_mod _ _).symm
  generalize x / 2 ^ lo % 2 ^ n = mid at *
  generalize x / 2 ^ (lo + n) = hi at *
  generalize x % 2 ^ lo = low at *
  rw [h2] at h1
  have h3 : 2 ^ lo * (2 ^ n * hi + mid) = 2 ^ lo * (2 ^ n * hi) + mid * 2 ^ lo := by ring
  have h4 : 2 ^ lo * (2 ^ n * hi + v % 2 ^ n) = 2 ^ lo * (2 ^ n * hi) + v % 2 ^ n * 2 ^ lo := by ring
  omega

/-- A bit of a number with a field replaced. -/
theorem testBit_bitsPut (x lo n v i : Nat) :
    (bitsPut x lo n v).testBit i = if lo ≤ i ∧ i < lo + n then v.testBit (i - lo) else x.testBit i := by
  rw [bitsPut_eq, Nat.testBit_two_pow_mul_add _ (Nat.mod_lt _ (Nat.two_pow_pos lo))]
  by_cases h : i < lo
  · have : ¬(lo ≤ i ∧ i < lo + n) := by omega
    simp [h, this, Nat.testBit_mod_two_pow]
  · rw [if_neg h, Nat.testBit_two_pow_mul_add _ (Nat.mod_lt _ (Nat.two_pow_pos n))]
    by_cases h2 : i - lo < n
    · have : lo ≤ i ∧ i < lo + n := by omega
      simp [h2, this, Nat.testBit_mod_two_pow]
    · have : ¬(lo ≤ i ∧ i < lo + n) := by omega
      rw [if_neg h2, if_neg this, Nat.testBit_div_two_pow]
      congr 1; omega

/-- The number of elements split off. -/
@[simp] theorem length_elems (w n x : Nat) : (elems w n x).length = n := by
  induction n generalizing x with
  | zero => rfl
  | succ n ih => simp [elems, ih]

/-- Each element split off a number. -/
theorem getD_elems (w n x i d : Nat) (h : i < n) : (elems w n x).getD i d = x / 2 ^ (w * i) % 2 ^ w := by
  induction n generalizing x i with
  | zero => omega
  | succ n ih =>
    cases i with
    | zero => simp [elems]
    | succ j =>
      have := ih (x >>> w) j (by omega)
      rw [elems, List.getD_cons_succ, this, Nat.shiftRight_eq_div_pow, Nat.div_div_eq_div_mul, ← Nat.pow_add]
      congr 3; ring

/-- Packed elements stay below their total width. -/
theorem packs_lt (w : Nat) (l : List Nat) : packs w l < 2 ^ (w * l.length) := by
  induction l with
  | nil => simp [packs]
  | cons x t ih =>
    have h1 : x % 2 ^ w < 2 ^ w := Nat.mod_lt _ (Nat.two_pow_pos w)
    have h2 : 2 ^ w * (packs w t + 1) ≤ 2 ^ w * 2 ^ (w * t.length) := Nat.mul_le_mul_left _ ih
    have h3 : 2 ^ w * 2 ^ (w * t.length) = 2 ^ (w * (x :: t).length) := by rw [← Nat.pow_add]; congr 1; simp; ring
    have h4 : 2 ^ w * (packs w t + 1) = packs w t * 2 ^ w + 2 ^ w := by ring
    rw [packs, Nat.shiftLeft_eq]
    omega

/-- Each element of packed ones. -/
theorem packs_elem (w : Nat) (l : List Nat) (i : Nat) :
    packs w l / 2 ^ (w * i) % 2 ^ w = l.getD i 0 % 2 ^ w := by
  induction l generalizing i with
  | nil => simp [packs]
  | cons x t ih =>
    cases i with
    | zero => simp [packs, Nat.shiftLeft_eq]
    | succ j =>
      rw [packs, Nat.shiftLeft_eq, List.getD_cons_succ, ← ih j, show w * (j + 1) = w + w * j by ring, Nat.pow_add,
        ← Nat.div_div_eq_div_mul, Nat.add_mul_div_right _ _ (Nat.two_pow_pos w),
        Nat.div_eq_of_lt (Nat.mod_lt _ (Nat.two_pow_pos w)), Nat.zero_add]

/-- Consecutive numbers, each. -/
theorem upTo_eq (a n : Nat) : upTo a n = List.range' a n := by
  induction n generalizing a with
  | zero => rfl
  | succ n ih => simp [upTo, ih, List.range'_succ]

@[simp] theorem length_upTo (a n : Nat) : (upTo a n).length = n := by simp [upTo_eq]

@[simp] theorem mem_upTo (a n i : Nat) : i ∈ upTo a n ↔ a ≤ i ∧ i < a + n := by simp [upTo_eq]

end Sys2Proof.Machine
end

