-- ==== Sys2Proof/Laws/Memory.lean ====
section
/-!
SUPPORT. Sparse tables and memory: every operation keeps the canonical form, and a read after a write.
-/

namespace Sys2Proof.Machine

variable {α : Type}

/-- A key taken out of a table reads as the default there and as before elsewhere. -/
theorem SMap.get_filter (d : α) (m : SMap α) (a b : Nat) :
    SMap.get d (m.filter fun p => p.1 ≠ a) b = if b = a then d else SMap.get d m b := by
  induction m with
  | nil => simp [SMap.get]
  | cons p t ih =>
    by_cases h : p.1 = a
    · rw [List.filter_cons_of_neg (by simpa using h), ih]
      by_cases hb : b = a
      · simp [hb]
      · rw [if_neg hb, if_neg hb]; simp only [SMap.get, if_neg (show b ≠ p.1 by omega)]
    · rw [List.filter_cons_of_pos (by simpa using h)]
      simp only [SMap.get, ih]
      by_cases hb : b = a
      · simp [hb, show a ≠ p.1 from fun e => h e.symm]
      · simp [hb]

/-- A table with a key written, at that key and at every other. -/
theorem SMap.get_set [DecidableEq α] (d : α) (m : SMap α) (a b : Nat) (x : α) :
    SMap.get d (SMap.set d m a x) b = if b = a then x else SMap.get d m b := by
  induction m with
  | nil => unfold SMap.set; split <;> simp_all [SMap.get]
  | cons p t ih =>
    obtain ⟨k, v⟩ := p
    unfold SMap.set
    split
    · dsimp only
      split
      · rw [SMap.get_filter]; simp_all
      · simp only [SMap.get, SMap.get_filter]
        split <;> simp_all
    · split
      · rw [ih]; simp only [SMap.get]; split <;> simp_all
      · simp only [SMap.get, ih]
        by_cases hb : b = k
        · simp [hb, show k ≠ a by omega]
        · simp [hb]

/-- A key of a written table is the written one or was listed. -/
theorem SMap.mem_set [DecidableEq α] (d : α) (m : SMap α) (a : Nat) (x : α) :
    ∀ p ∈ SMap.set d m a x, p = (a, x) ∨ p ∈ m := by
  induction m with
  | nil => intro p hp; unfold SMap.set at hp; split at hp <;> simp_all
  | cons q t ih =>
    obtain ⟨k, v⟩ := q
    intro p hp
    unfold SMap.set at hp
    split at hp
    · dsimp only at hp
      split at hp
      · exact .inr (List.mem_filter.1 hp).1
      · rcases List.mem_cons.1 hp with h | h
        · exact .inl h
        · exact .inr (List.mem_filter.1 h).1
    · split at hp
      · rcases ih p hp with h | h <;> simp [h]
      · rcases List.mem_cons.1 hp with h | h
        · simp [h]
        · rcases ih p h with h | h <;> simp [h]

/-- A write keeps the canonical form. -/
theorem SMap.wf_set [DecidableEq α] (d : α) (m : SMap α) (a : Nat) (x : α) (h : SMap.wf d m) :
    SMap.wf d (SMap.set d m a x) := by
  induction m with
  | nil => unfold SMap.set SMap.wf; split <;> simp_all
  | cons q t ih =>
    obtain ⟨k, v⟩ := q
    obtain ⟨hp, hd⟩ := h
    have hk : ∀ q ∈ t, k < q.1 := (List.pairwise_cons.1 hp).1
    have ht : SMap.wf d t := ⟨(List.pairwise_cons.1 hp).2, fun q hq => hd q (by simp [hq])⟩
    unfold SMap.set
    split
    · dsimp only
      have hf : SMap.wf d (((k, v) :: t).filter fun p => p.1 ≠ a) :=
        ⟨hp.filter _, fun q hq => hd q (List.mem_filter.1 hq).1⟩
      split
      · exact hf
      · refine ⟨List.pairwise_cons.2 ⟨?_, hf.1⟩, ?_⟩
        · intro q hq
          rcases List.mem_cons.1 (List.mem_filter.1 hq).1 with h | h
          · simp [h]; assumption
          · exact Nat.lt_trans ‹a < k› (hk q h)
        · intro q hq
          rcases List.mem_cons.1 hq with h | h
          · simpa [h]
          · exact hf.2 q h
    · have hi := ih ht
      split
      · exact hi
      · refine ⟨List.pairwise_cons.2 ⟨?_, hi.1⟩, ?_⟩
        · intro q hq
          rcases SMap.mem_set d t a x q hq with h | h
          · simp [h]; omega
          · exact hk q h
        · intro q hq
          rcases List.mem_cons.1 hq with h | h
          · exact hd q (by simp [h])
          · exact hi.2 q h

/-- One byte written, at its address and at every other. -/
theorem Memory.byte_put (m : List Host.Cell) (a b : Nat) (x : Byte) :
    Memory.byte (Memory.put m a x) b = if b = a then x else Memory.byte m b :=
  SMap.get_set memDefault m a b x

/-- Writing one byte keeps the canonical form. -/
theorem Memory.wf_put (m : List Host.Cell) (a : Nat) (x : Byte) (h : Memory.wf m) : Memory.wf (Memory.put m a x) :=
  SMap.wf_set memDefault m a x h

/-- Writing consecutive bytes keeps the canonical form. -/
theorem Memory.wf_puts (m : List Host.Cell) (a : Nat) (bs : List Byte) (h : Memory.wf m) :
    Memory.wf (Memory.puts m a bs) := by
  induction bs generalizing m a with
  | nil => exact h
  | cons b t ih => exact ih _ _ (Memory.wf_put m a b h)

/-- A byte outside a run of written ones. -/
theorem Memory.byte_puts_other (m : List Host.Cell) (a : Nat) (bs : List Byte) (b : Nat)
    (hb : b < a ∨ a + bs.length ≤ b) : Memory.byte (Memory.puts m a bs) b = Memory.byte m b := by
  induction bs generalizing m a with
  | nil => rfl
  | cons x t ih =>
    simp only [List.length_cons] at hb
    show Memory.byte (Memory.puts (Memory.put m a x) (a + 1) t) b = _
    rw [ih _ _ (by omega), Memory.byte_put, if_neg (by omega)]

/-- A byte of a run of written ones. -/
theorem Memory.byte_puts (m : List Host.Cell) (a : Nat) (bs : List Byte) (i : Nat)
    (hi : i < bs.length) : Memory.byte (Memory.puts m a bs) (a + i) = bs.getD i 0#8 := by
  induction bs generalizing m a i with
  | nil => simp at hi
  | cons x t ih =>
    show Memory.byte (Memory.puts (Memory.put m a x) (a + 1) t) (a + i) = _
    cases i with
    | zero =>
      rw [Memory.byte_puts_other _ _ _ _ (by omega), Memory.byte_put]
      simp
    | succ j =>
      have := ih (Memory.put m a x) (a + 1) j (by simpa using hi)
      rw [show a + (j + 1) = a + 1 + j by omega, this]
      simp

/-- Joining visible stores to memory keeps the canonical form. -/
theorem foldFar_wf (m : List Host.Cell) (l : List Far) (h : Memory.wf m) : Memory.wf (foldFar m l).1 := by
  induction l generalizing m with
  | nil => exact h
  | cons f t ih =>
    unfold foldFar
    split
    · exact ih _ (Memory.wf_puts _ _ _ h)
    · exact h

/-- Folding keeps memory's canonical form. -/
theorem Dev.fold_wf (d : Dev) (h : Memory.wf d.mem) : Memory.wf d.fold.mem := foldFar_wf _ _ h

/-- A store keeps memory's canonical form. -/
theorem Dev.store_wf (d : Dev) (id ag lv a : Nat) (bs : List Byte) (l r p : Nat) (h : Memory.wf d.mem) :
    Memory.wf (d.store id ag lv a bs l r p).mem := by
  unfold Dev.store
  split
  · exact Memory.wf_puts _ _ _ h
  · exact Dev.fold_wf _ h

/-- An atomic write keeps memory's canonical form. -/
theorem Dev.atomic_wf (d : Dev) (id ag a : Nat) (bs : List Byte) (h : Memory.wf d.mem) :
    Memory.wf (d.atomic id ag a bs).mem :=
  Dev.store_wf _ _ _ _ _ _ _ _ _ h

/-- Memory after reset is in canonical form: it lists nothing. -/
theorem reset_memory_wf : Memory.wf State.reset.dv.mem := by decide

end Sys2Proof.Machine
end

