-- ==== Sys2Proof/Laws/Far.lean ====
section
/-!
SUPPORT. Bytes and numbers, and what the far stores of the ordering machine hide and show.
-/

namespace Sys2Proof.Machine

/-! ### Bytes of a number (R5) -/

/-- As many bytes as asked. -/
@[simp] theorem length_bytesOfNat (n x : Nat) : (bytesOfNat n x).length = n := by
  induction n generalizing x with
  | zero => rfl
  | succ n ih => simp [bytesOfNat, ih]

/-- A byte of a number. -/
theorem getD_bytesOfNat (n x i : Nat) (h : i < n) (d : Byte) :
    (bytesOfNat n x).getD i d = BitVec.ofNat 8 (x >>> (8 * i)) := by
  induction n generalizing x i with
  | zero => omega
  | succ n ih =>
    cases i with
    | zero => simp [bytesOfNat]
    | succ j =>
      rw [show bytesOfNat (n + 1) x = BitVec.ofNat 8 x :: bytesOfNat n (x / 256) from rfl, List.getD_cons_succ,
        ih _ _ (by omega)]
      congr 1
      simp only [Nat.shiftRight_eq_div_pow]
      rw [show (256 : Nat) = 2 ^ 8 from rfl, Nat.div_div_eq_div_mul, ← Nat.pow_add]
      congr 2
      omega

/-- A number read from its bytes, byte by byte. -/
theorem byte_natOfBytes (l : List Byte) (i : Nat) :
    BitVec.ofNat 8 (natOfBytes l >>> (8 * i)) = l.getD i 0#8 := by
  induction l generalizing i with
  | nil => simp [natOfBytes]
  | cons b t ih =>
    have hb := b.isLt
    cases i with
    | zero =>
      apply BitVec.eq_of_toNat_eq
      simp only [natOfBytes, Nat.mul_zero, Nat.shiftRight_zero, List.getD_cons_zero, BitVec.toNat_ofNat]
      omega
    | succ j =>
      rw [List.getD_cons_succ, ← ih j]
      congr 1
      simp only [natOfBytes, Nat.shiftRight_eq_div_pow]
      rw [show 8 * (j + 1) = 8 + 8 * j by omega, Nat.pow_add, ← Nat.div_div_eq_div_mul]
      congr 1
      omega

/-- The number of `l` bytes. -/
theorem natOfBytes_lt (l : List Byte) : natOfBytes l < 2 ^ (8 * l.length) := by
  induction l with
  | nil => simp [natOfBytes]
  | cons b t ih =>
    have hb := b.isLt
    simp only [natOfBytes, List.length_cons]
    rw [show 8 * (t.length + 1) = 8 + 8 * t.length by omega, Nat.pow_add]
    omega

/-! ### Coherence order (R315, R316, R322) -/

/-- The newest of a list's stores, from its tail. -/
theorem newest_cons (p : Far → Bool) (x : Nat) (f : Far) (t : List Far) :
    newest p x (f :: t) = (newest p x t).or (if f.covers x && p f then some f else none) := by
  conv_lhs => unfold newest
  cases newest p x t <;> rfl

/-- A store that follows another in coherence order hides it. -/
theorem newest_append (p : Far → Bool) (x : Nat) (l k : List Far) :
    newest p x (l ++ k) = (newest p x k).or (newest p x l) := by
  induction l with
  | nil => exact (Option.or_none).symm
  | cons f t ih => rw [List.cons_append, newest_cons, newest_cons, ih, Option.or_assoc]

/-- A byte through a list of stores over memory. -/
theorem byte_fold (p : Far → Bool) (x : Nat) (l : List Far) (m : List Host.Cell)
    (h : ∀ f ∈ l, 4 ≤ f.level → p f = true) :
    ((newest p x (foldFar m l).2).map fun f => f.byte x).getD (Memory.byte (foldFar m l).1 x) =
      ((newest p x l).map fun f => f.byte x).getD (Memory.byte m x) := by
  induction l generalizing m with
  | nil => rfl
  | cons f t ih =>
    unfold foldFar
    by_cases h4 : f.level ≥ 4
    · rw [if_pos h4, ih _ fun g hg => h g (List.mem_cons_of_mem _ hg), newest_cons]
      have hp : p f = true := h f List.mem_cons_self h4
      cases newest p x t with
      | some g => rfl
      | none =>
        simp only [hp, Bool.and_true, Option.none_or]
        by_cases hc : f.covers x = true
        · rw [if_pos hc]
          have hr : f.addr ≤ x ∧ x < f.addr + f.len := by simpa [Far.covers] using hc
          obtain ⟨i, rfl⟩ := Nat.exists_eq_add_of_le hr.1
          simp only [Option.map_none, Option.getD_none, Option.map_some, Option.getD_some]
          rw [Memory.byte_puts _ _ _ _ (by simp [Far.bytes]; omega)]
          unfold Far.bytes Far.byte
          rw [getD_bytesOfNat _ _ _ (by omega)]
          simp
        · rw [if_neg hc]
          have hr : x < f.addr ∨ f.addr + f.len ≤ x := by
            by_contra hn
            exact hc (by simp [Far.covers]; omega)
          simp [Memory.byte_puts_other _ _ _ _ (show x < f.addr ∨ f.addr + f.bytes.length ≤ x by simp [Far.bytes]; omega)]
    · rw [if_neg h4]

/-- What an agent reads, through a list of stores. -/
theorem Dev.seen_eq (d : Dev) (v x : Nat) :
    d.seen v x = ((newest (fun f => f.seenBy v) x d.far).map fun f => f.byte x).getD (Memory.byte d.mem x) := by
  unfold Dev.seen
  cases newest (fun f => f.seenBy v) x d.far <;> rfl

/-- What the port holds, through a list of stores. -/
theorem Dev.port_eq (d : Dev) (x : Nat) :
    d.port x = ((newest (fun _ => true) x d.far).map fun f => f.byte x).getD (Memory.byte d.mem x) := by
  unfold Dev.port
  cases newest (fun _ => true) x d.far <;> rfl

/-- No domain lies beyond level 4. -/
theorem commonLevel_le (a b : Nat) : commonLevel a b ≤ 4 := by
  unfold commonLevel
  repeat' split
  all_goals omega

/-- Folding visible stores into memory changes what no agent reads. -/
theorem Dev.seen_fold (d : Dev) (v x : Nat) : d.fold.seen v x = d.seen v x := by
  rw [Dev.seen_eq, Dev.seen_eq]
  refine byte_fold _ _ _ _ fun f _ h => ?_
  have := commonLevel_le f.core v
  simp only [Far.seenBy, decide_eq_true_eq]
  omega

/-- Folding visible stores into memory changes nothing at the port. -/
theorem Dev.port_fold (d : Dev) (x : Nat) : d.fold.port x = d.port x := by
  rw [Dev.port_eq, Dev.port_eq]
  exact byte_fold _ _ _ _ fun _ _ _ => rfl

end Sys2Proof.Machine
end

