-- ==== Sys2Proof/Laws/State.lean ====
section
/-!
SUPPORT. What each update of the state leaves and sets: one lemma per field, true by definition.
-/

namespace Sys2Proof.Machine


/-! ### Changing the executing plane -/

@[simp] theorem State.modPl_pl (s : State) (g : Plane → Plane) :
    (s.modPl g).pl = g s.pl := rfl

@[simp] theorem State.modPl_co (s : State) (g : Plane → Plane) :
    (s.modPl g).co = s.co := rfl

@[simp] theorem State.modPl_others (s : State) (g : Plane → Plane) :
    (s.modPl g).others = s.others := rfl

@[simp] theorem State.modPl_dv (s : State) (g : Plane → Plane) :
    (s.modPl g).dv = s.dv := rfl

@[simp] theorem State.modPl_agenda (s : State) (g : Plane → Plane) :
    (s.modPl g).agenda = s.agenda := rfl

@[simp] theorem State.modPl_fresh (s : State) (g : Plane → Plane) :
    (s.modPl g).fresh = s.fresh := rfl


/-! ### Changing the device -/

@[simp] theorem State.modDev_pl (s : State) (g : Dev → Dev) :
    (s.modDev g).pl = s.pl := rfl

@[simp] theorem State.modDev_co (s : State) (g : Dev → Dev) :
    (s.modDev g).co = s.co := rfl

@[simp] theorem State.modDev_others (s : State) (g : Dev → Dev) :
    (s.modDev g).others = s.others := rfl

@[simp] theorem State.modDev_dv (s : State) (g : Dev → Dev) :
    (s.modDev g).dv = g s.dv := rfl

@[simp] theorem State.modDev_agenda (s : State) (g : Dev → Dev) :
    (s.modDev g).agenda = s.agenda := rfl

@[simp] theorem State.modDev_fresh (s : State) (g : Dev → Dev) :
    (s.modDev g).fresh = s.fresh := rfl


/-! ### A bundle's transfer -/

@[simp] theorem State.xferTo_pl (s : State) (x : Xfer) :
    (s.xferTo x).pl = { s.pl with xfer := some x } := rfl

@[simp] theorem State.xferTo_co (s : State) (x : Xfer) :
    (s.xferTo x).co = s.co := rfl

@[simp] theorem State.xferTo_others (s : State) (x : Xfer) :
    (s.xferTo x).others = s.others := rfl

@[simp] theorem State.xferTo_dv (s : State) (x : Xfer) :
    (s.xferTo x).dv = s.dv := rfl

@[simp] theorem State.xferTo_agenda (s : State) (x : Xfer) :
    (s.xferTo x).agenda = s.agenda := rfl

@[simp] theorem State.xferTo_fresh (s : State) (x : Xfer) :
    (s.xferTo x).fresh = s.fresh := rfl


/-! ### Cycles without a bundle -/

@[simp] theorem State.pass_pl (s : State) (n : Nat) :
    (s.pass n).pl = { s.pl with cycle := s.pl.cycle + n } := rfl

@[simp] theorem State.pass_co (s : State) (n : Nat) :
    (s.pass n).co = { s.co with shadow := s.co.shadow.tick n } := rfl

@[simp] theorem State.pass_others (s : State) (n : Nat) :
    (s.pass n).others = s.others := rfl

@[simp] theorem State.pass_dv (s : State) (n : Nat) :
    (s.pass n).dv = s.dv := rfl

@[simp] theorem State.pass_agenda (s : State) (n : Nat) :
    (s.pass n).agenda = s.agenda := rfl

@[simp] theorem State.pass_fresh (s : State) (n : Nat) :
    (s.pass n).fresh = s.fresh := rfl


/-! ### Freezing -/

@[simp] theorem State.freeze_pl (s : State) :
    s.freeze.pl = { s.pl with cycle := s.pl.cycle + Config.freezeCycles s.fresh } := rfl

@[simp] theorem State.freeze_co (s : State) :
    s.freeze.co = { s.co with shadow := s.co.shadow.tick (Config.freezeCycles s.fresh) } := rfl

@[simp] theorem State.freeze_others (s : State) :
    s.freeze.others = s.others := rfl

@[simp] theorem State.freeze_dv (s : State) :
    s.freeze.dv = s.dv := rfl

@[simp] theorem State.freeze_agenda (s : State) :
    s.freeze.agenda = s.agenda := rfl

@[simp] theorem State.freeze_fresh (s : State) :
    s.freeze.fresh = s.fresh + 1 := rfl


/-! ### Fresh numbers -/

@[simp] theorem State.takeId_fst (s : State) :
    s.takeId.1 = s.dv.nextId := rfl

@[simp] theorem State.takeId_pl (s : State) :
    s.takeId.2.pl = s.pl := rfl

@[simp] theorem State.takeId_co (s : State) :
    s.takeId.2.co = s.co := rfl

@[simp] theorem State.takeId_others (s : State) :
    s.takeId.2.others = s.others := rfl

@[simp] theorem State.takeId_dv (s : State) :
    s.takeId.2.dv = { s.dv with nextId := s.dv.nextId + 1 } := rfl

@[simp] theorem State.takeId_agenda (s : State) :
    s.takeId.2.agenda = s.agenda := rfl

@[simp] theorem State.takeId_fresh (s : State) :
    s.takeId.2.fresh = s.fresh := rfl


/-! ### A result in flight -/

@[simp] theorem State.result_pl (s : State) (slot lat : Nat) (d : Dest) (v : Row) (tag : Sum24) (eng : Nat) (fl : BitVec 5)
    (arr : Option Owed) :
    (s.result slot lat d v tag eng fl arr).pl = { s.pl with flight := s.pl.flight ++
      [{ id := s.dv.nextId, due := s.pl.bcount + lat, dest := d, val := v, tag := tag, flags := fl, eng := eng,
         arr := arr, lb := false, known := true, arrived := true, raised := false, slot := slot,
         issued := s.pl.tcount, take := none, qfSet := none }] } := rfl

@[simp] theorem State.result_co (s : State) (slot lat : Nat) (d : Dest) (v : Row) (tag : Sum24) (eng : Nat) (fl : BitVec 5)
    (arr : Option Owed) :
    (s.result slot lat d v tag eng fl arr).co = s.co := rfl

@[simp] theorem State.result_others (s : State) (slot lat : Nat) (d : Dest) (v : Row) (tag : Sum24) (eng : Nat) (fl : BitVec 5)
    (arr : Option Owed) :
    (s.result slot lat d v tag eng fl arr).others = s.others := rfl

@[simp] theorem State.result_dv (s : State) (slot lat : Nat) (d : Dest) (v : Row) (tag : Sum24) (eng : Nat) (fl : BitVec 5)
    (arr : Option Owed) :
    (s.result slot lat d v tag eng fl arr).dv = { s.dv with nextId := s.dv.nextId + 1 } := rfl

@[simp] theorem State.result_agenda (s : State) (slot lat : Nat) (d : Dest) (v : Row) (tag : Sum24) (eng : Nat) (fl : BitVec 5)
    (arr : Option Owed) :
    (s.result slot lat d v tag eng fl arr).agenda = s.agenda := rfl

@[simp] theorem State.result_fresh (s : State) (slot lat : Nat) (d : Dest) (v : Row) (tag : Sum24) (eng : Nat) (fl : BitVec 5)
    (arr : Option Owed) :
    (s.result slot lat d v tag eng fl arr).fresh = s.fresh := rfl


/-! ### An awaited result -/

@[simp] theorem State.await_fst (s : State) (slot lat : Nat) (d : Dest) (lb : Bool) (arr : Option Owed) :
    (s.await slot lat d lb arr).1 = s.dv.nextId := rfl

@[simp] theorem State.await_pl (s : State) (slot lat : Nat) (d : Dest) (lb : Bool) (arr : Option Owed) :
    (s.await slot lat d lb arr).2.pl = { s.pl with flight := s.pl.flight ++
      [{ id := s.dv.nextId, due := s.pl.bcount + lat, dest := d, val := 0#2048, tag := 0#24, flags := 0#5, eng := 7,
         arr := arr, lb := lb, known := false, arrived := false, raised := false, slot := slot,
         issued := s.pl.tcount, take := none, qfSet := none }] } := rfl

@[simp] theorem State.await_co (s : State) (slot lat : Nat) (d : Dest) (lb : Bool) (arr : Option Owed) :
    (s.await slot lat d lb arr).2.co = s.co := rfl

@[simp] theorem State.await_others (s : State) (slot lat : Nat) (d : Dest) (lb : Bool) (arr : Option Owed) :
    (s.await slot lat d lb arr).2.others = s.others := rfl

@[simp] theorem State.await_dv (s : State) (slot lat : Nat) (d : Dest) (lb : Bool) (arr : Option Owed) :
    (s.await slot lat d lb arr).2.dv = { s.dv with nextId := s.dv.nextId + 1 } := rfl

@[simp] theorem State.await_agenda (s : State) (slot lat : Nat) (d : Dest) (lb : Bool) (arr : Option Owed) :
    (s.await slot lat d lb arr).2.agenda = s.agenda := rfl

@[simp] theorem State.await_fresh (s : State) (slot lat : Nat) (d : Dest) (lb : Bool) (arr : Option Owed) :
    (s.await slot lat d lb arr).2.fresh = s.fresh := rfl


/-! ### One barrier -/

@[simp] theorem State.setBar_pl (s : State) (b : Bar) :
    (s.setBar b).pl = s.pl := rfl

@[simp] theorem State.setBar_co (s : State) (b : Bar) :
    (s.setBar b).co = s.co := rfl

@[simp] theorem State.setBar_others (s : State) (b : Bar) :
    (s.setBar b).others = s.others := rfl

@[simp] theorem State.setBar_dv (s : State) (b : Bar) :
    (s.setBar b).dv = { s.dv with bars := b :: s.dv.bars.filter fun x => !x.is (b.grp, b.own) b.level b.inst b.num } := rfl

@[simp] theorem State.setBar_agenda (s : State) (b : Bar) :
    (s.setBar b).agenda = s.agenda := rfl

@[simp] theorem State.setBar_fresh (s : State) (b : Bar) :
    (s.setBar b).fresh = s.fresh := rfl


/-! ### One superstep barrier -/

@[simp] theorem State.setSStep_pl (s : State) (x : SStep) :
    (s.setSStep x).pl = s.pl := rfl

@[simp] theorem State.setSStep_co (s : State) (x : SStep) :
    (s.setSStep x).co = s.co := rfl

@[simp] theorem State.setSStep_others (s : State) (x : SStep) :
    (s.setSStep x).others = s.others := rfl

@[simp] theorem State.setSStep_dv (s : State) (x : SStep) :
    (s.setSStep x).dv = { s.dv with steps := x :: s.dv.steps.filter fun y => !y.is (x.grp, x.own) x.level x.inst } := rfl

@[simp] theorem State.setSStep_agenda (s : State) (x : SStep) :
    (s.setSStep x).agenda = s.agenda := rfl

@[simp] theorem State.setSStep_fresh (s : State) (x : SStep) :
    (s.setSStep x).fresh = s.fresh := rfl


/-! ### Every core -/

@[simp] theorem State.mapCores_pl (s : State) (g : Core → Core) :
    (s.mapCores g).pl = s.pl := rfl

@[simp] theorem State.mapCores_co (s : State) (g : Core → Core) :
    (s.mapCores g).co = g s.co := rfl

@[simp] theorem State.mapCores_others (s : State) (g : Core → Core) :
    (s.mapCores g).others = s.others.map fun b => { b with co := g b.co } := rfl

@[simp] theorem State.mapCores_dv (s : State) (g : Core → Core) :
    (s.mapCores g).dv = s.dv := rfl

@[simp] theorem State.mapCores_agenda (s : State) (g : Core → Core) :
    (s.mapCores g).agenda = s.agenda := rfl

@[simp] theorem State.mapCores_fresh (s : State) (g : Core → Core) :
    (s.mapCores g).fresh = s.fresh := rfl


/-! ### One launch -/

@[simp] theorem State.modLaunch_pl (s : State) (lid : Nat) (g : Launch → Launch) :
    (s.modLaunch lid g).pl = s.pl := rfl

@[simp] theorem State.modLaunch_co (s : State) (lid : Nat) (g : Launch → Launch) :
    (s.modLaunch lid g).co = s.co := rfl

@[simp] theorem State.modLaunch_others (s : State) (lid : Nat) (g : Launch → Launch) :
    (s.modLaunch lid g).others = s.others := rfl

@[simp] theorem State.modLaunch_dv (s : State) (lid : Nat) (g : Launch → Launch) :
    (s.modLaunch lid g).dv = { s.dv with launches := s.dv.launches.map fun l => if l.lid = lid then g l else l } := rfl

@[simp] theorem State.modLaunch_agenda (s : State) (lid : Nat) (g : Launch → Launch) :
    (s.modLaunch lid g).agenda = s.agenda := rfl

@[simp] theorem State.modLaunch_fresh (s : State) (lid : Nat) (g : Launch → Launch) :
    (s.modLaunch lid g).fresh = s.fresh := rfl


/-! ### One launch queue -/

@[simp] theorem Dev.modQueue_queues (d : Dev) (q : Nat) (g : LQueue → LQueue) :
    (d.modQueue q g).queues = vput d.queues q (g (d.queue q)) := rfl

/-- A queue's change leaves the rest of the device. -/
theorem Dev.modQueue_eq (d : Dev) (q : Nat) (g : LQueue → LQueue) :
    d.modQueue q g = { d with queues := (d.modQueue q g).queues } := rfl

@[simp] theorem State.seqError_pl (s : State) :
    s.seqError.pl = s.pl := rfl

@[simp] theorem State.seqError_co (s : State) :
    s.seqError.co = s.co := rfl

@[simp] theorem State.seqError_others (s : State) :
    s.seqError.others = s.others := rfl

@[simp] theorem State.seqError_dv (s : State) :
    s.seqError.dv = { s.dv with mg := { s.dv.mg with seqErrors := s.dv.mg.seqErrors + 1 } } := rfl

@[simp] theorem State.seqError_agenda (s : State) :
    s.seqError.agenda = s.agenda := rfl

@[simp] theorem State.seqError_fresh (s : State) :
    s.seqError.fresh = s.fresh := rfl


/-! ### A deferred cause -/

@[simp] theorem State.defer_pl (s : State) (slot lat : Nat) (c : Cause) :
    (s.defer slot lat c).pl = s.pl.deferAt lat c (reqId slot s.pl.tcount) := rfl

@[simp] theorem State.defer_co (s : State) (slot lat : Nat) (c : Cause) :
    (s.defer slot lat c).co = s.co := rfl

@[simp] theorem State.defer_others (s : State) (slot lat : Nat) (c : Cause) :
    (s.defer slot lat c).others = s.others := rfl

@[simp] theorem State.defer_dv (s : State) (slot lat : Nat) (c : Cause) :
    (s.defer slot lat c).dv = s.dv := rfl

@[simp] theorem State.defer_agenda (s : State) (slot lat : Nat) (c : Cause) :
    (s.defer slot lat c).agenda = s.agenda := rfl

@[simp] theorem State.defer_fresh (s : State) (slot lat : Nat) (c : Cause) :
    (s.defer slot lat c).fresh = s.fresh := rfl


/-! ### Waiting and arriving -/

@[simp] theorem State.owe_co (s : State) (ar : BitVec 2) : (s.owe ar).2.co = s.co := by
  unfold State.owe; split <;> rfl

@[simp] theorem State.owe_pl (s : State) (ar : BitVec 2) : (s.owe ar).2.pl = s.pl := by
  unfold State.owe; split <;> rfl

@[simp] theorem State.owe_others (s : State) (ar : BitVec 2) : (s.owe ar).2.others = s.others := by
  unfold State.owe; split <;> rfl

@[simp] theorem State.owe_agenda (s : State) (ar : BitVec 2) : (s.owe ar).2.agenda = s.agenda := by
  unfold State.owe; split <;> rfl

@[simp] theorem State.owe_fresh (s : State) (ar : BitVec 2) : (s.owe ar).2.fresh = s.fresh := by
  unfold State.owe; split <;> rfl

/-- Counting an arrival's issue moves only the barriers of the device. -/
theorem State.owe_dv (s : State) (ar : BitVec 2) :
    (s.owe ar).2.dv = { s.dv with bars := (s.owe ar).2.dv.bars } := by
  unfold State.owe; split <;> rfl

@[simp] theorem State.owe_fst (s : State) (ar : BitVec 2) : (s.owe ar).1 = s.pl.owes ar := by
  unfold State.owe; split <;> simp_all

/-- What AR issue changes: the device's barriers and nothing else (R230). -/
theorem State.owe_eq (s : State) (ar : BitVec 2) :
    (s.owe ar).2 = { s with dv := { s.dv with bars := (s.owe ar).2.dv.bars } } := by
  unfold State.owe; split <;> rfl

/-- An arrival at its retire point only joins the queue of arrivals (R230). -/
theorem State.arrive_eq (s : State) (o : Option Owed) (st : List Nat) (lv : Nat) :
    s.arrive o st lv =
      { s with dv := { s.dv with arrQ := s.dv.arrQ ++ (o.map fun o => (⟨o, st, lv⟩ : Arr)).toList } } := by
  cases o <;> simp [State.arrive, State.modDev]

end Sys2Proof.Machine
end

