-- ==== Sys2Proof/Laws/Focus.lean ====
section
/-!
SUPPORT. Reaching a core or a plane by its number: what a change to one shows there, and that it shows nowhere else.
-/

namespace Sys2Proof.Machine

/-- A box found by a core's number is that core's. -/
theorem State.box_id {s : State} {c : Nat} {b : CoreBox} (h : s.box c = some b) : b.co.id = c := by
  unfold State.box at h
  split at h
  · rename_i e; cases h; exact e
  · simpa using List.find?_some h

/-- The focused core's box. -/
@[simp] theorem State.box_focus (s : State) : s.box s.co.id = some ⟨s.pl, s.co⟩ := by simp [State.box]

/-- Lists of boxes with one core's replaced. -/
theorem find_replaced (l : List CoreBox) (c : Nat) (b b' : CoreBox) (hb : b'.co.id = c)
    (h : l.find? (fun o => o.co.id == c) = some b) :
    (l.map fun o => if o.co.id = c then b' else o).find? (fun o => o.co.id == c) = some b' := by
  induction l with
  | nil => simp at h
  | cons o t ih =>
    rw [List.map_cons, List.find?_cons]
    by_cases ho : o.co.id = c
    · simp [ho, hb]
    · rw [List.find?_cons] at h
      have e : (o.co.id == c) = false := by simpa using ho
      simp only [ho, if_false, e] at h ⊢
      exact ih h

/-- Lists of boxes with another core's replaced. -/
theorem find_replaced_other (l : List CoreBox) (c d : Nat) (b' : CoreBox) (hb : b'.co.id = c) (h : d ≠ c) :
    (l.map fun o => if o.co.id = c then b' else o).find? (fun o => o.co.id == d) = l.find? fun o => o.co.id == d := by
  induction l with
  | nil => rfl
  | cons o t ih =>
    rw [List.map_cons, List.find?_cons, List.find?_cons, ih]
    by_cases ho : o.co.id = c
    · have e : (c == d) = false := by simpa using Ne.symm h
      simp [ho, hb, e]
    · simp [ho]

/-- A box put back is found. -/
theorem State.box_setBox {s : State} {c : Nat} {b : CoreBox} (b' : CoreBox) (h : s.box c = some b) (hb : b'.co.id = c) :
    (s.setBox b').box c = some b' := by
  unfold State.box at h
  unfold State.setBox
  subst hb
  by_cases e : s.co.id = b'.co.id
  · simp [State.box, e]
  · rw [if_neg e] at h
    rw [if_neg e]
    show (if s.co.id = b'.co.id then _ else _) = _
    rw [if_neg e]
    exact find_replaced _ _ _ _ rfl h

/-- A box put back leaves every other core's. -/
theorem State.box_setBox_other (s : State) (d : Nat) (b' : CoreBox) (h : d ≠ b'.co.id) : (s.setBox b').box d = s.box d := by
  unfold State.setBox
  by_cases e : s.co.id = b'.co.id
  · rw [if_pos e]
    show (if b'.co.id = d then _ else _) = (if s.co.id = d then _ else _)
    rw [if_neg (Ne.symm h), if_neg (by rw [e]; exact Ne.symm h)]
  · rw [if_neg e]
    show (if s.co.id = d then _ else _) = (if s.co.id = d then _ else _)
    split
    · rfl
    · exact find_replaced_other _ _ _ _ rfl h

/-- A box put back leaves the device. -/
@[simp] theorem State.setBox_dv (s : State) (b : CoreBox) : (s.setBox b).dv = s.dv := by
  unfold State.setBox; split <;> rfl

/-- A change to one plane leaves the device. -/
@[simp] theorem State.modPlane_dv (s : State) (c p : Nat) (f : Plane → Plane) : (s.modPlane c p f).dv = s.dv := by
  unfold State.modPlane
  split
  · split <;> exact State.setBox_dv _ _
  · rfl

/-- A change to one core leaves the device. -/
@[simp] theorem State.modCore_dv (s : State) (c : Nat) (f : Core → Core) : (s.modCore c f).dv = s.dv := by
  unfold State.modCore
  split
  · exact State.setBox_dv _ _
  · rfl

/-- A change to a plane shows there. -/
theorem State.plane_modPlane (s : State) (c p : Nat) (f : Plane → Plane) (h : s.box c ≠ none) :
    (s.modPlane c p f).plane c p = f (s.plane c p) := by
  obtain ⟨b, hb⟩ := Option.ne_none_iff_exists'.1 h
  have hid := State.box_id hb
  unfold State.modPlane State.plane
  simp only [hb]
  by_cases e : p = b.co.lit
  · rw [if_pos e, State.box_setBox ⟨f b.pl, b.co⟩ hb hid]; simp [e]
  · rw [if_neg e, State.box_setBox ⟨b.pl, { b.co with shadow := f b.co.shadow }⟩ hb hid]; simp [e]

/-- A change to a plane shows on no other core. -/
theorem State.box_modPlane_other (s : State) (c d p : Nat) (f : Plane → Plane) (h : d ≠ c) :
    (s.modPlane c p f).box d = s.box d := by
  unfold State.modPlane
  cases hb : s.box c with
  | none => rfl
  | some b =>
    have hid := State.box_id hb
    dsimp only
    split <;> exact State.box_setBox_other _ _ _ (by simpa [hid] using h)

/-- A change to a core shows there. -/
theorem State.box_modCore {s : State} {c : Nat} {b : CoreBox} (f : Core → Core) (h : s.box c = some b) :
    (s.modCore c f).box c = some { b with co := { f b.co with id := c } } := by
  unfold State.modCore
  rw [h]
  exact State.box_setBox _ h rfl

/-- A change to a core shows there, in what that core holds. -/
theorem State.core_modCore (s : State) (c : Nat) (f : Core → Core) (h : s.box c ≠ none) :
    (s.modCore c f).core c = { f (s.core c) with id := c } := by
  obtain ⟨b, hb⟩ := Option.ne_none_iff_exists'.1 h
  unfold State.core
  rw [State.box_modCore f hb, hb]
  rfl

/-- A change to a core shows on no other core. -/
theorem State.box_modCore_other (s : State) (c d : Nat) (f : Core → Core) (h : d ≠ c) :
    (s.modCore c f).box d = s.box d := by
  unfold State.modCore
  cases hb : s.box c with
  | none => rfl
  | some b => exact State.box_setBox_other _ _ _ h

end Sys2Proof.Machine
end

