-- ==== Sys2Proof/Laws/Ops.lean ====
section
/-!
SUPPORT. What the shared operations can do, said once: a meaning behind its checks, the lowest cause, landing, and the
issue of an arrival.
-/

namespace Sys2Proof.Machine

/-! ### Checks (R14, R61) -/

/-- No failing check is left when every check passes. -/
theorem filterMap_none (l : List (Option Cause)) (h : ∀ c ∈ l, c = none) : l.filterMap id = [] := by
  rw [List.filterMap_eq_nil_iff]
  exact h

/-- Behind checks that all pass a meaning has its effect, in every mode. -/
theorem State.guarded_pass (s : State) (slot : Nat) (l : List (Option Cause)) (eff : State → State)
    (h : ∀ c ∈ l, c = none) : s.guarded slot l eff = .next (eff s) := by
  have := filterMap_none l h
  unfold State.guarded
  split
  · rfl
  · rw [this]; rfl
  · rw [this]

/-- A meaning without checks has its effect. -/
theorem State.guarded_nil (s : State) (slot : Nat) (eff : State → State) : s.guarded slot [] eff = .next (eff s) :=
  s.guarded_pass slot [] eff (by simp)

/-- In the direct mode the lowest failing cause is a precise trap. -/
theorem State.guarded_trap (s : State) (slot : Nat) (l : List (Option Cause)) (eff : State → State) (c : Cause)
    (hm : s.pl.mode = .direct) (h : lowest (l.filterMap id) = some c) :
    s.guarded slot l eff = .next (s.preciseTrap c) := by
  unfold State.guarded
  rw [hm]
  simp only [h]

/-- A meaning behind checks always goes on. -/
theorem State.guarded_next (s : State) (slot : Nat) (l : List (Option Cause)) (eff : State → State) :
    ∃ t, s.guarded slot l eff = .next t := by
  unfold State.guarded
  split
  · exact ⟨_, rfl⟩
  · split <;> exact ⟨_, rfl⟩
  · split <;> exact ⟨_, rfl⟩

/-- A check passes exactly when its condition holds. -/
@[simp] theorem need_none (b : Bool) (c : Cause) : need b c = none ↔ b = true := by
  unfold need; split <;> simp_all

/-- A result is no error. -/
@[simp] theorem errOf_ok {α : Type} (x : α) : errOf (.ok x : Except Cause α) = none := rfl

/-- A pop or peek fails exactly on an empty queue (R30). -/
theorem Plane.popFault_none (p : Plane) (q : Nat) (pk : Bool) : p.popFault q pk = none ↔ p.queue q ≠ [] := by
  unfold Plane.popFault
  split <;> simp_all

/-! ### Landing (R15, R25) -/

/-- s0 reads as zero. -/
@[simp] theorem State.rdS_zero (s : State) : s.rdS 0#5 = 0#64 := rfl

/-- A scalar register written. -/
theorem Plane.rdS_wrS (p : Plane) (r q : BitVec 5) (v : Word) :
    (p.wrS r v).rdS q = if q = r ∧ r ≠ 0#5 then v else p.rdS q := by
  unfold Plane.wrS Plane.rdS
  by_cases h0 : r = 0#5
  · simp [h0]
  · by_cases hq : q = 0#5
    · subst hq
      simp [h0, Ne.symm h0]
    · simp only [h0, if_false, hq]
      by_cases h : q = r
      · subst h
        have : q.toNat < 32 := q.isLt
        simp [vget, vput, this, h0]
      · have : q.toNat ≠ r.toNat := fun e => h (BitVec.eq_of_toNat_eq e)
        simp [vget, vput, Ne.symm this, h]

/-- An element of a vector replaced. -/
theorem vget_vput {α : Type} {n : Nat} (v : Vector α n) (i j : Nat) (x d : α) :
    vget (vput v i x) j d = if i = j ∧ i < n then x else vget v j d := by
  unfold vget vput
  by_cases h : i = j
  · subst h
    by_cases hn : i < n
    · simp [hn]
    · simp [hn]
  · simp [h]

end Sys2Proof.Machine
end

