-- ==== Sys2Proof/Laws/Lanes.lean ====
section
/-!
SUPPORT. Vector entries lane by lane, what the element maps give at each element, and what a vector instruction behind
its checks leaves.
-/

namespace Sys2Proof.Machine

/-! ### Lanes (R131, R153) -/

/-- A lane is 8, 16 or 32 bits wide. -/
theorem laneBits_cases (m : Nat) : laneBits m = 8 ∨ laneBits m = 16 ∨ laneBits m = 32 := by
  unfold laneBits; split
  · simp
  · split <;> simp

/-- The lanes fill an entry. -/
theorem laneBits_mul_count (m : Nat) : laneBits m * laneCount m = 2048 := by
  unfold laneCount
  rcases laneBits_cases m with h | h | h <;> simp [h]

@[simp] theorem length_lanes (m : Nat) (r : Row) : (lanes m r).length = laneCount m := by simp [lanes]

@[simp] theorem length_codes (m : Nat) (r : Row) : (codes m r).length = laneCount m := by simp [codes]

/-- A lane of an entry. -/
theorem getD_lanes (m : Nat) (r : Row) (e d : Nat) (h : e < laneCount m) :
    (lanes m r).getD e d = r.toNat / 2 ^ (laneBits m * e) % 2 ^ laneBits m :=
  getD_elems _ _ _ _ _ h

/-- A lane of an entry, as an element of the list. -/
theorem getElem_lanes (m : Nat) (r : Row) (e : Nat) (h : e < (lanes m r).length) :
    (lanes m r)[e] = r.toNat / 2 ^ (laneBits m * e) % 2 ^ laneBits m := by
  rw [← getD_lanes m r e 0 (by simpa using h), List.getD_eq_getElem _ _ h]

/-- The code of an element. -/
theorem getElem_codes (m : Nat) (r : Row) (e : Nat) (h : e < (codes m r).length) :
    (codes m r)[e] = r.toNat / 2 ^ (laneBits m * e) % 2 ^ laneBits m % 2 ^ elemBits m := by
  simp [codes, laneCode, getElem_lanes]

/-- The number an entry made of lanes holds. -/
theorem toNat_ofLanes (m : Nat) (l : List Nat) (h : l.length ≤ laneCount m) :
    (ofLanes m l).toNat = packs (laneBits m) l := by
  rw [ofLanes, BitVec.toNat_ofNat]
  refine Nat.mod_eq_of_lt (Nat.lt_of_lt_of_le (packs_lt _ _) (Nat.pow_le_pow_right (by decide) ?_))
  rw [← laneBits_mul_count m]
  exact Nat.mul_le_mul_left _ h

/-- A lane of an entry made of lanes. -/
theorem lane_ofLanes (m : Nat) (l : List Nat) (h : l.length ≤ laneCount m) (e : Nat) :
    (ofLanes m l).toNat / 2 ^ (laneBits m * e) % 2 ^ laneBits m = l.getD e 0 % 2 ^ laneBits m := by
  rw [toNat_ofLanes m l h, packs_elem]

/-! ### Predicates (R161) -/

@[simp] theorem length_activeAt (b n : Nat) (q : Pred) : (activeAt b n q).length = n := by simp [activeAt]

/-- Whether an element is active. -/
theorem getElem_activeAt (b n : Nat) (q : Pred) (e : Nat) (h : e < (activeAt b n q).length) :
    (activeAt b n q)[e] = q.getLsbD (e * b) := by
  simp [activeAt, upTo_eq]

@[simp] theorem length_active (m : Nat) (q : Pred) : (active m q).length = laneCount m := by simp [active]

/-- Whether an element of a format is active. -/
theorem getElem_active (m : Nat) (q : Pred) (e : Nat) (h : e < (active m q).length) :
    (active m q)[e] = q.getLsbD (e * (laneBits m / 8)) := by
  simp [active, getElem_activeAt]

/-- A bit of the predicate made of one bit per element. -/
theorem getLsbD_predOf (b : Nat) (l : List Bool) (e j : Nat) (hb : j < b) (hl : b * l.length ≤ 256)
    (he : e < l.length) : (predOf b l).getLsbD (e * b + j) = l[e] := by
  have hlt : e * b + j < 256 := by
    have : b * (e + 1) ≤ b * l.length := Nat.mul_le_mul_left _ he
    have : b * (e + 1) = e * b + b := by ring
    omega
  have h1 := packs_elem b (l.map fun b' => if b' then 2 ^ b - 1 else 0) e
  rw [predOf, BitVec.getLsbD_ofNat, decide_eq_true hlt, Bool.true_and,
    show e * b + j = b * e + j by ring, Nat.add_comm, ← Nat.testBit_div_two_pow]
  have h2 : (packs b (l.map fun b' => if b' then 2 ^ b - 1 else 0) / 2 ^ (b * e)).testBit j =
      (packs b (l.map fun b' => if b' then 2 ^ b - 1 else 0) / 2 ^ (b * e) % 2 ^ b).testBit j := by
    rw [Nat.testBit_mod_two_pow]; simp [hb]
  rw [h2, h1, List.getD_eq_getElem _ _ (by simpa using he), List.getElem_map, Nat.testBit_mod_two_pow]
  cases l[e] <;> simp [hb, Nat.testBit_two_pow_sub_one]

/-! ### Element maps (R156) -/

/-- What `pick` gives at each element, and the flags it gathers. -/
theorem pick_spec (on : List Bool) (keep : List Nat) (res : List Elem) (n : Nat) (ho : on.length = n)
    (hk : keep.length = n) (hr : res.length = n) :
    (pick on keep res).1.length = n ∧
    (∀ e, e < n → (pick on keep res).1.getD e 0 =
      if on.getD e false then (res.getD e (0, 0)).1 else keep.getD e 0) ∧
    ∀ k, (pick on keep res).2.testBit k = true ↔
      ∃ e, e < n ∧ on.getD e false = true ∧ (res.getD e (0, 0)).2.testBit k = true := by
  induction n generalizing on keep res with
  | zero =>
    rw [List.length_eq_zero_iff] at ho; subst ho
    simp [pick]
  | succ n ih =>
    obtain ⟨o, on, rfl⟩ := List.exists_cons_of_length_eq_add_one ho
    obtain ⟨x, keep, rfl⟩ := List.exists_cons_of_length_eq_add_one hk
    obtain ⟨r, res, rfl⟩ := List.exists_cons_of_length_eq_add_one hr
    obtain ⟨h1, h2, h3⟩ := ih on keep res (by simpa using ho) (by simpa using hk) (by simpa using hr)
    have split : ∀ k, (∃ e, e < n + 1 ∧ (o :: on).getD e false = true ∧ ((r :: res).getD e (0, 0)).2.testBit k = true) ↔
        (o = true ∧ r.2.testBit k = true) ∨
          ∃ e, e < n ∧ on.getD e false = true ∧ (res.getD e (0, 0)).2.testBit k = true := by
      intro k
      constructor
      · rintro ⟨e, he, ha, hb⟩
        cases e with
        | zero => left; exact ⟨by simpa using ha, by simpa using hb⟩
        | succ e => right; exact ⟨e, by omega, by simpa using ha, by simpa using hb⟩
      · rintro (⟨ha, hb⟩ | ⟨e, he, ha, hb⟩)
        · exact ⟨0, by omega, by simpa using ha, by simpa using hb⟩
        · exact ⟨e + 1, by omega, by simpa using ha, by simpa using hb⟩
    cases o with
    | true =>
      refine ⟨by simp [pick, h1], ?_, ?_⟩
      · intro e he
        cases e with
        | zero => simp [pick]
        | succ e => simpa [pick] using h2 e (by omega)
      · intro k
        rw [split]
        simp [pick, Nat.testBit_or, h3]
    | false =>
      refine ⟨by simp [pick, h1], ?_, ?_⟩
      · intro e he
        cases e with
        | zero => simp [pick]
        | succ e => simpa [pick] using h2 e (by omega)
      · intro k
        rw [split]
        simp [pick, h3]

/-- A result of `pick`, lane by lane and flag by flag. -/
theorem VRes.of_pick (m : Nat) (on : List Bool) (keep : List Nat) (res : List Elem) (ho : on.length = laneCount m)
    (hk : keep.length = laneCount m) (hr : res.length = laneCount m) :
    let v := VRes.of m (pick on keep res)
    v.tag = none ∧ v.cause = none ∧
    (∀ e, e < laneCount m → v.row.toNat / 2 ^ (laneBits m * e) % 2 ^ laneBits m =
      (if on.getD e false then (res.getD e (0, 0)).1 else keep.getD e 0) % 2 ^ laneBits m) ∧
    ∀ k, v.fl.testBit k = true ↔
      ∃ e, e < laneCount m ∧ on.getD e false = true ∧ (res.getD e (0, 0)).2.testBit k = true := by
  obtain ⟨h1, h2, h3⟩ := pick_spec on keep res (laneCount m) ho hk hr
  refine ⟨rfl, rfl, fun e he => ?_, h3⟩
  show (ofLanes m (pick on keep res).1).toNat / 2 ^ (laneBits m * e) % 2 ^ laneBits m = _
  rw [lane_ofLanes _ _ (by omega), h2 e he]

/-! ### A vector instruction (R155) -/

/-- A vector instruction whose queue checks pass leaves one result in flight and its pops, and a deferred cause when it
has one. -/
theorem State.vector_pass (s : State) (slot : Nat) (ar : BitVec 2) (srcs : List Src) (own : Option Nat) (dest : Dest)
    (lat : Nat) (f : Plane → VRes)
    (h1 : ∀ x ∈ srcs, ∀ q, srcQueue (slot - 2) x.code = some q → s.pl.queue q ≠ [])
    (h2 : ∀ q, own = some q → s.pl.queue q ≠ [])
    (h3 : ∀ q, dest = .vq q → s.pl.pushFault q 1 (own.toList ++ popsOf (slot - 2) srcs) = none) :
    s.vector slot ar srcs own dest lat f = .next
      (let n := lat + (srcs.map fun x => crossLat x.code).foldl max 0
       let r := f s.pl
       let o := s.owe ar
       let s1 := (o.2.modPl fun p => { p with popped := p.popped ++ (own.toList ++ popsOf (slot - 2) srcs) }).result slot n
         dest r.row (r.tag.getD (rowTag r.row)) (slot - 2) (BitVec.ofNat 5 r.fl) o.1
       match r.cause with
       | some c => s1.defer slot n c
       | none => s1) := by
  unfold State.vector
  refine State.guarded_pass _ _ _ _ fun c hc => ?_
  simp only [List.mem_append, List.mem_map, Option.mem_toList, Option.map_eq_some_iff, List.mem_singleton] at hc
  rcases hc with (⟨q, hq, rfl⟩ | ⟨x, hx, rfl⟩) | rfl
  · exact (Plane.popFault_none _ _ _).2 (h2 q hq)
  · split
    · exact (Plane.popFault_none _ _ _).2 (h1 x hx _ ‹_›)
    · rfl
  · split
    · exact h3 _ rfl
    · rfl

end Sys2Proof.Machine
end

