-- ==== Sys2Proof/Tests/Slice0.lean ====
section
/-!
SUPPORT. The model's own tests: words written out from the spec's encodings, one step of an instruction on a small state with
the result the spec gives, and, for every statement with hypotheses, a state and operands that meet them.
-/

namespace Sys2Proof.Tests

open Sys2Proof Sys2Proof.Machine Sys2Proof.Claim

set_option Elab.async false

/-- A task of launch 1, rank 0, on core 0: eight bundles of one absent word, control at bundle 3. -/
def task (f : Plane → Plane) : State :=
  { State.reset with pl := f { Plane.reset with
      status := .ready, lid := 1, nseg := 2, bun := 3#12,
      cur := some ⟨0, List.replicate 8 (oneWord 0 0#32), 0#64, 0, none, none, false⟩ } }

/-- A queue entry whose tag is its sum. -/
def ent (r : Row) : Entry := ⟨r, rowTag r⟩

/-- The task with scalar registers. -/
def regs (l : List (Nat × Word)) : State := task fun p => { p with s := l.foldl (fun v x => vput v x.1 x.2) p.s }

/-- The next state, where there is one. -/
def after (o : Host.Outcome State Fault Refusal) : State :=
  match o with
  | .next s => s
  | _ => State.reset

/-- The value of the last result that an instruction sends off, with the bundles it takes. -/
def result (i : Instr) (s : State) : Option (Nat × Nat) :=
  ((after (exec i s)).pl.flight.getLast?).map fun f => (f.due - s.pl.bcount, f.val.toNat)

/-! ### Encoding -/

/-- The well-formedness checks refuse an ill-formed term of each layout that has a check. -/
theorem test_wf_scalar : (Instr.bfx ⟨0#2, 1#5, 2#5, 60#6, 8#7⟩).wf = false ∧ (Instr.mfli ⟨0#2, 1#5, 6#3⟩).wf = false := by
  decide +kernel

/-- R47, R94: the field limits of the control layouts. -/
theorem test_wf_control :
    ([.brp ⟨1#1, 0#1, 0#2, 0#1, 0#2, 0#16⟩, .brp ⟨1#1, 0#1, 1#2, 0#1, 3#2, 0#16⟩, .brkl ⟨1#1, 6#3⟩, .waitb ⟨1#1, 0#3, 0#5⟩,
      .arrive ⟨1#1, 5#3, 0#5⟩, .arwait ⟨1#1, 4#3, 8#5⟩, .sstep ⟨1#1, 5#3⟩, .mfsr ⟨1#1, 1#5, 3#12⟩,
      .mtsr ⟨1#1, 1#5, 0x00A#12⟩] : List Instr).all (fun i => !i.wf) = true := by decide +kernel

/-- R46: the field limits of the scalar layouts. -/
theorem test_wf_field :
    ([.bfi ⟨0#2, 1#5, 2#5, 0#6, 65#7⟩, .bfi ⟨0#2, 1#5, 2#5, 0#6, 0#7⟩, .bfx ⟨0#2, 1#5, 2#5, 1#6, 64#7⟩,
      .mflc ⟨0#2, 1#5, 7#3⟩] : List Instr).all (fun i => !i.wf) = true ∧ (Instr.bfx ⟨0#2, 1#5, 2#5, 0#6, 64#7⟩).wf = true := by
  decide +kernel

/-- R52, R154, R158, R59: the field and format limits of the vector layouts. -/
theorem test_wf_vector :
    ([.vadd ⟨0#1, 0#2, 1#4, 2#5, 3#5, 0#1, 0#1, 4#3, 4#4⟩, .vadd ⟨0#1, 0#2, 1#4, 28#5, 3#5, 0#1, 0#1, 0#3, 4#4⟩,
      .vadd ⟨0#1, 0#2, 1#4, 2#5, 28#5, 0#1, 0#1, 0#3, 4#4⟩, .vadd ⟨0#1, 0#2, 1#4, 25#5, 3#5, 1#1, 0#1, 0#3, 4#4⟩,
      .vadd ⟨0#1, 0#2, 1#4, 2#5, 25#5, 0#1, 1#1, 0#3, 4#4⟩, .vadd ⟨0#1, 0#2, 1#4, 2#5, 3#5, 0#1, 0#1, 0#3, 6#4⟩,
      .vand ⟨0#1, 0#2, 1#4, 2#5, 3#5, 0#1, 0#1, 0#3, 12#4⟩, .vabs ⟨0#1, 0#2, 1#4, 2#5, 0#1, 0#3, 1#4⟩,
      .vcmp ⟨0#1, 0#2, 0#2, 0#2, 2#5, 3#5, 0#1, 0#1, 0#3, 4#4⟩, .vfadd ⟨0#1, 0#2, 1#4, 2#5, 3#5, 0#1, 0#1, 0#3, 9#4⟩,
      .vrcp ⟨0#1, 0#2, 1#4, 2#5, 0#1, 0#3, 12#4⟩, .vrng ⟨0#2, 1#4, 0#3, 4#4⟩, .vcvt ⟨0#1, 0#2, 1#4, 2#5, 15#4, 0#1, 0#3, 4#4⟩,
      .vcvt ⟨0#1, 0#2, 1#4, 2#5, 4#4, 0#1, 0#3, 15#4⟩, .psetn ⟨0#1, 0#2, 1#2, 2#5, 0#1, 6#4⟩, .pand ⟨0#1, 0#2, 0#2, 1#2, 1#2⟩,
      .vperm ⟨0#1, 0#2, 1#4, 2#5, 3#5, 0#1, 0#1, 0#3, 13#4⟩, .visect ⟨0#1, 0#2, 1#4, 2#5, 3#5, 0#1, 0#1, 6#4⟩,
      .vcsw ⟨0#1, 0#2, 1#4, 2#5, 3#5, 0#1, 0#1, 0#3, 12#4⟩] : List Instr).all (fun i => !i.wf) = true ∧
    (Instr.vrcp ⟨1#1, 0#2, 1#4, 2#5, 0#1, 0#3, 12#4⟩).wf = true := by decide +kernel

/-- R53 to R56, R209, R285, R311, R333: the limits of the matrix, load and store, channel and auxiliary layouts; an event has no
word. -/
theorem test_wf_others :
    ([.mband ⟨0#2, 1#5, 2#5, 1#1, 1#2⟩, .mldw ⟨0#2, 1#5, 0#1, 0#1, 0#1, 12#4⟩, .mldw ⟨0#2, 1#5, 1#1, 0#1, 0#1, 10#4⟩,
      .mmul ⟨0#2, 1#5, 2#5, 3#5, 0#1, 0#3, 4#4⟩, .mmuls ⟨0#2, 1#5, 2#5, 3#5, 0#1, 0#3, 13#4⟩,
      .mmulc ⟨0#2, 1#5, 2#5, 3#5, 0#1, 0#3, 7#4⟩, .mcond ⟨0#2, 1#5, 2#5, 14#4⟩, .mdrain ⟨0#2, 1#5, 2#5, 3#5, 0#1, 0#1, 0#1, 0#1, 15#4⟩,
      .mchk ⟨0#2, 1#5, 2#5, 0#1⟩, .ldx ⟨0#2, 1#5, 2#5, 0#1, 0#4, 0#1, 0#2, 6#4⟩, .ldf ⟨0#2, 1#5, 0#1, 0#4, 95#12⟩,
      .sfence ⟨0#2, 5#3⟩, .vjoin ⟨0#2, 1#5, 2#5, 0#2⟩, .xfill ⟨0#2, 1#5, 2#5, 3#5, 0#3, 0#1, 1#3⟩,
      .xacc ⟨0#2, 1#5, 2#5, 3#5, 0#3, 0#1, 12#4⟩, .xspill ⟨0#2, 1#5, 0#5, 0#3, 0#1, 0#2⟩, .xspill ⟨0#2, 1#5, 2#5, 0#3, 0#1, 2#2⟩,
      .flagsRd ⟨0#2, 1#5, 5#3⟩, .krbind ⟨0#2, 1#5, 2#5, 1#1, 0#1⟩, .krec ⟨0#2, 1#5, 2#5, 0#5, 0#1, 9#4⟩,
      .krec ⟨0#2, 1#5, 2#5, 3#5, 0#1, 7#4⟩, .krclr ⟨0#2, 1#5, 0#2⟩, .ttset ⟨0#2, 1#5, 2#5, 0#4, 1#3⟩,
      .ttset ⟨0#2, 1#5, 2#5, 10#4, 4#3⟩, .deviceFailed] : List Instr).all (fun i => !i.wf) = true ∧
    (Instr.ldf ⟨0#2, 1#5, 0#1, 0#4, 96#12⟩).wf = true := by decide +kernel

/-- R110, R237, R373: the words the spec prints for the control slot. -/
theorem test_decode_control :
    decodeSlot 0 0x80000000#32 = .ok (.nop ⟨1#1⟩) ∧ decodeSlot 0 0x06000000#32 = .ok (.safe ⟨0#1⟩) ∧
    decodeSlot 0 0x88000000#32 = .ok (.halt ⟨1#1⟩) ∧ decodeSlot 0 0x88800102#32 = .ok (.waitb ⟨1#1, 1#3, 2#5⟩) ∧
    decodeSlot 0 0x09000205#32 = .ok (.arrive ⟨0#1, 2#3, 5#5⟩) ∧ decodeSlot 0 0x89800103#32 = .ok (.arwait ⟨1#1, 1#3, 3#5⟩) ∧
    decodeSlot 0 0x8A000003#32 = .ok (.sstep ⟨1#1, 3#3⟩) ∧ decodeSlot 0 0x8A800000#32 = .ok (.eclipse ⟨1#1⟩) ∧
    decodeSlot 0 0x8B000000#32 = .ok (.yield ⟨1#1⟩) ∧ decodeSlot 0 0x8BA40000#32 = .ok (.waitj ⟨1#1, 9#5⟩) ∧
    decodeSlot 0 0x84806001#32 = .ok (.loopi ⟨1#1, 3#10, 0#1, 1#12⟩) := by decide +kernel

/-- R66, R110: addi s3, s3, 1 and srai s6, s6, 63. -/
theorem test_decode_scalar :
    decodeSlot 1 0x100C6001#32 = .ok (.addi ⟨0#2, 3#5, 3#5, 1#13⟩) ∧
    decodeSlot 1 0x1318C03F#32 = .ok (.srai ⟨0#2, 6#5, 6#5, 63#6⟩) := by decide +kernel

/-- Chapter 7's words: a compare into pa1, a select under it, and the two top-k words. -/
theorem test_decode_vector :
    decodeSlot 2 0x1048750C#32 = .ok (.vfcmp ⟨0#1, 0#2, 2#2, 1#2, 1#5, 26#5, 1#1, 0#1, 0#3, 12#4⟩) ∧
    decodeSlot 2 0x201E841C#32 = .ok (.vsel ⟨0#1, 0#2, 3#4, 26#5, 2#5, 0#1, 0#1, 1#3, 12#4⟩) ∧
    decodeSlot 2 0x2A28450A#32 = .ok (.vcsw ⟨0#1, 0#2, 5#4, 1#5, 2#5, 1#1, 0#1, 0#3, 10#4⟩) ∧
    decodeSlot 3 0x2AAC648A#32 = .ok (.vcswx ⟨1#1, 0#2, 5#4, 17#5, 18#5, 0#1, 1#1, 0#3, 10#4⟩) := by decide +kernel

/-- Chapter 10's words. -/
theorem test_decode_matrix :
    decodeSlot 4 0x00880001#32 = .ok (.malloc ⟨0#2, 2#5, 1#6⟩) ∧
    decodeSlot 4 0x0400000A#32 = .ok (.mldw ⟨0#2, 0#5, 0#1, 0#1, 0#1, 10#4⟩) ∧
    decodeSlot 4 0x0490A61A#32 = .ok (.mmul ⟨0#2, 4#5, 5#5, 6#5, 0#1, 1#3, 10#4⟩) ∧
    decodeSlot 4 0x0801000C#32 = .ok (.mdrain ⟨0#2, 0#5, 8#5, 0#5, 0#1, 0#1, 0#1, 0#1, 12#4⟩) := by decide +kernel

/-- Chapters 5 and 15's words: the load and store slot. -/
theorem test_decode_load_store :
    decodeSlot 5 0x010C0000#32 = .ok (.stv ⟨0#2, 3#5, 0#5, 0#1, 0#4, 0#1, 0#1, 0#1⟩) ∧
    decodeSlot 5 0x020CC002#32 = .ok (.sts ⟨0#2, 3#5, 6#5, 0#1, 0#1, 2#2⟩) ∧
    decodeSlot 5 0x028CA410#32 = .ok (.ldx ⟨0#2, 3#5, 5#5, 0#1, 4#4, 0#1, 1#2, 0#4⟩) ∧
    decodeSlot 5 0x04800000#32 = .ok (.mark ⟨0#2⟩) ∧ decodeSlot 5 0x05000003#32 = .ok (.sfence ⟨0#2, 3#3⟩) ∧
    decodeSlot 5 0x058C8001#32 = .ok (.vjoin ⟨0#2, 3#5, 4#5, 1#2⟩) := by decide +kernel

/-- Chapters 12, 13, 15 and 17's words: the channel slot. -/
theorem test_decode_channel :
    decodeSlot 6 0x02296C44#32 = .ok (.xfill ⟨0#2, 10#5, 11#5, 12#5, 2#3, 0#1, 4#3⟩) ∧
    decodeSlot 6 0x06940000#32 = .ok (.xfence ⟨0#2, 5#5, 0#1, 0#1⟩) ∧ decodeSlot 6 0x06980001#32 = .ok (.xfence ⟨0#2, 6#5, 0#1, 1#1⟩) ∧
    decodeSlot 6 0x0714C700#32 = .ok (.xhand ⟨0#2, 5#5, 6#5, 7#5⟩) ∧ decodeSlot 6 0x07A12001#32 = .ok (.xtake ⟨0#2, 8#5, 9#5, 1#1⟩) ∧
    decodeSlot 6 0x039D0946#32 = .ok (.xacc ⟨0#2, 7#5, 8#5, 9#5, 2#3, 0#1, 6#4⟩) ∧
    decodeSlot 6 0x040C8508#32 = .ok (.xcas ⟨0#2, 3#5, 4#5, 5#5, 0#3, 0#1, 1#1⟩) ∧
    decodeSlot 6 0x04A80040#32 = .ok (.xnear ⟨0#2, 10#5, 2#3, 0#1⟩) ∧ decodeSlot 6 0x06300090#32 = .ok (.xcoll ⟨0#2, 12#5, 4#3, 1#1⟩) ∧
    decodeSlot 6 0x08900062#32 = .ok (.xspill ⟨0#2, 4#5, 0#5, 3#3, 0#1, 2#2⟩) := by decide +kernel

/-- The auxiliary slot's words, from chapters 5, 6, 7, 11, 13, 14, 17 and 21. -/
theorem test_decode_auxiliary :
    decodeSlot 7 0x021C0001#32 = .ok (.kxpat ⟨0#2, 7#5, 0#5, 1#2⟩) ∧ decodeSlot 7 0x02900001#32 = .ok (.flagsRd ⟨0#2, 4#5, 1#3⟩) ∧
    decodeSlot 7 0x01880004#32 = .ok (.kbl ⟨0#2, 2#5, 0#1, 4#4⟩) ∧ decodeSlot 7 0x00940080#32 = .ok (.qpop ⟨0#2, 5#5, 1#1, 0#1⟩) ∧
    decodeSlot 7 0x0C10A007#32 = .ok (.jcbadd ⟨0#2, 4#5, 5#5, 7#6⟩) ∧ decodeSlot 7 0x0C900047#32 = .ok (.jcbdone ⟨0#2, 4#5, 0#1, 1#1, 7#6⟩) ∧
    decodeSlot 7 0x0D188000#32 = .ok (.jcbq ⟨0#2, 6#5, 4#5⟩) ∧ decodeSlot 7 0x0818E000#32 = .ok (.ttq ⟨0#2, 6#5, 7#5, 0#1⟩) ∧
    decodeSlot 7 0x0890A003#32 = .ok (.ttset ⟨0#2, 4#5, 5#5, 0#4, 3#3⟩) ∧ decodeSlot 7 0x090D0900#32 = .ok (.ttsettle ⟨0#2, 3#5, 8#5, 9#5⟩) ∧
    decodeSlot 7 0x09888000#32 = .ok (.ttpromo ⟨0#2, 2#5, 4#5⟩) ∧ decodeSlot 7 0x070CE000#32 = .ok (.cksum ⟨0#2, 3#5, 7#5⟩) ∧
    decodeSlot 7 0x0410A002#32 = .ok (.kscale ⟨0#2, 4#5, 5#5, 2#3⟩) ∧ decodeSlot 7 0x05212001#32 = .ok (.krbind ⟨0#2, 8#5, 9#5, 0#1, 1#1⟩) ∧
    decodeSlot 7 0x06100001#32 = .ok (.krclr ⟨0#2, 4#5, 1#2⟩) ∧ decodeSlot 7 0x1410A600#32 = .ok (.ctag ⟨0#2, 4#5, 5#5, 6#5⟩) ∧
    decodeSlot 7 0x149C8000#32 = .ok (.resq ⟨0#2, 7#5, 4#5⟩) := by decide +kernel

/-- KREC and the journal's words, from chapters 14 and 21. -/
theorem test_decode_journal :
    decodeSlot 7 0x05988080#32 = .ok (.krec ⟨0#2, 6#5, 4#5, 0#5, 1#1, 0#4⟩) ∧
    decodeSlot 7 0x1014C703#32 = .ok (.jemit ⟨0#2, 5#5, 6#5, 7#5, 3#3⟩) ∧
    decodeSlot 7 0x1094C70F#32 = .ok (.jroute ⟨0#2, 5#5, 6#5, 7#5, 1#1, 7#3⟩) ∧
    decodeSlot 7 0x11150700#32 = .ok (.jgen ⟨0#2, 5#5, 8#5, 7#5⟩) ∧ decodeSlot 7 0x11800093#32 = .ok (.jrpl ⟨0#2, 2#2, 1#1, 3#4⟩) ∧
    decodeSlot 7 0x121C0000#32 = .ok (.jtrunc ⟨0#2, 7#5⟩) := by decide +kernel

/-- R64, R65: the two-slot bundle of the spec's loop example as stored bytes: mask 3, then both words. -/
theorem test_take_bundle :
    takeBundle [3#8, 0x00#8, 0x00#8, 0x00#8, 0x80#8, 0x01#8, 0xA0#8, 0x14#8, 0x10#8, 7#8] =
      some (bundleOf [0x80000000#32, 0x1014A001#32, 0#32, 0#32, 0#32, 0#32, 0#32, 0#32], [7#8]) := by decide +kernel

/-- DecodeReadsBackEncode and RefusedWords: their premises at the ends of their ranges. -/
theorem witness_encoding :
    (Instr.add ⟨3#2, 31#5, 31#5, 31#5⟩).wf = true ∧ (Instr.jgen ⟨0#2, 0#5, 0#5, 0#5⟩).wf = true ∧
    0x1A ≤ ((0x0D000000#32).extractLsb' 23 7).toNat ∧ 0x30 ≤ ((0x18000000#32).extractLsb' 23 7).toNat ∧
    0x13 ≤ ((0x09800000#32).extractLsb' 23 7).toNat ∧ 0x0E ≤ ((0x07000000#32).extractLsb' 23 7).toNat ∧
    0x2A ≤ ((0xFFFFFFFF#32).extractLsb' 23 7).toNat := by decide +kernel

/-! ### The step and the scalar slot -/

/-- A task about to issue trap 0x12 alone. -/
def stepState : State := State.reset.withFetchWord 32 0x86800012

/-- StepRunsDecodedInstruction, at the start of a group: the premises hold for `trap 0x12`. -/
theorem witness_step_first :
    let s := stepState
    s.agenda = [] ∧ s.dv.mg.failed = false ∧ s.pl.status = .ready ∧ s.pl.soft = false ∧ s.pl.lbErr = false ∧
    s.limitNow = false ∧ s.pl.endReq = false ∧ s.pl.wait = none ∧ s.pl.enter = none ∧ s.frozen = false ∧ s.xqHeld = false ∧
    s.pl.grp = 0 ∧ s.groupBlind s.pl.placedGroup s.pl.group.1.length = false ∧ s.raised s.preciseCause = none ∧
    s.saveNow = false ∧ s.groupHeld s.pl.placedGroup = false ∧ s.ringHeld s.pl.placedGroup = false ∧
    ((s.pl.cur.map (·.bundles)).getD [])[s.pl.bun.toNat]? = some (oneWord 0 0x86800012#32) ∧
    (oneWord 0 0x86800012#32).toList = [0x86800012#32, 0#32, 0#32, 0#32, 0#32, 0#32, 0#32, 0#32] ∧
    decodeSlot 0 0x86800012#32 = .ok (.trap ⟨1#1, 0x12#16⟩) := by decide +kernel

/-- The same in the middle of a group: `add s3, s1, s2` in the second of two bundles, its group ended by slot 0's NOP. -/
theorem witness_step_later :
    let s : State := { State.reset with pl := { Plane.reset with
      status := .ready, lid := 1, nseg := 1, bun := 1#12, grp := 1, gEnd := 2,
      cur := some ⟨0, [oneWord 0 0#32, oneWord 1 0x008C2200#32], 0#64, 0, none, none, false⟩ } }
    s.agenda = [] ∧ s.dv.mg.failed = false ∧ s.pl.status = .ready ∧ s.pl.soft = false ∧ s.pl.lbErr = false ∧
    s.limitNow = false ∧ s.pl.endReq = false ∧ s.pl.wait = none ∧ s.pl.enter = none ∧ s.frozen = false ∧ s.xqHeld = false ∧
    s.pl.grp = 1 ∧ ((s.pl.cur.map (·.bundles)).getD [])[s.pl.bun.toNat]? = some (oneWord 1 0x008C2200#32) ∧
    (oneWord 1 0x008C2200#32).toList = [0x80000000#32, 0x008C2200#32, 0#32, 0#32, 0#32, 0#32, 0#32, 0#32] ∧
    decodeSlot 1 0x008C2200#32 = .ok (.add ⟨0#2, 3#5, 1#5, 2#5⟩) := by decide +kernel

/-- R96, R98: one step runs `trap 0x12`; with no handler the task ends. -/
theorem test_step_trap : (after (step stepState)).pl.status = .ready ∧
    (after (step stepState)).pl.held = some ⟨0x30#8, 0x12#64⟩ := by decide +kernel

/-- StepsLoseNoWakeup and ArrivalsAreDelivered: after reset no task waits; an arrival whose store is under way stays. -/
theorem witness_invariants :
    (∀ b ∈ State.reset.boxes, b.pl.status ≠ .parked ∧ b.co.shadow.status ≠ .parked) ∧
    (let s : State := { State.reset with dv := { Dev.reset with
        far := [⟨5, 0, 64, 1, 0#256, 0, 1, 0, 0⟩], arrQ := [⟨⟨1, 0, 2, 0, 0⟩, [5], 2⟩] } }
     (after (step s)).dv.arrQ = [⟨⟨1, 0, 2, 0, 0⟩, [5], 2⟩]) := by decide +kernel

/-- R15's example: mul s3 of 6 and 7 is 42 after three bundles. -/
theorem test_mul : result (.mul ⟨0#2, 3#5, 1#5, 2#5⟩) (regs [(1, 6#64), (2, 7#64)]) = some (3, 42) := by decide +kernel

/-- R105, R106: SRA takes the sign in; MULH of −1 and 1 is −1; CLZ of 0 is 64; ABS of −2^63 stays. -/
theorem test_scalar_corners :
    result (.sra ⟨0#2, 3#5, 1#5, 2#5⟩) (regs [(1, 0x8000000000000000#64), (2, 127#64)]) = some (1, 2 ^ 64 - 1) ∧
    result (.mulh ⟨0#2, 3#5, 1#5, 2#5⟩) (regs [(1, -1#64), (2, 1#64)]) = some (3, 2 ^ 64 - 1) ∧
    result (.clz ⟨0#2, 3#5, 1#5⟩) (regs []) = some (1, 64) ∧
    result (.abs ⟨0#2, 3#5, 1#5⟩) (regs [(1, 0x8000000000000000#64)]) = some (1, 2 ^ 63) := by decide +kernel

/-- R107, R109: bfx s2, s9, 12, 8 and lit. -/
theorem test_fields :
    result (.bfx ⟨0#2, 2#5, 9#5, 12#6, 8#7⟩) (regs [(9, 0xABCDE#64)]) = some (1, 0xAB) ∧
    result (.lit ⟨0#2, 4#5, 0x8000#16⟩) (regs [(4, 0x1234#64)]) = some (1, 0x8000000000001234) := by decide +kernel

/-- JumpsChooseTarget: a jump to bundle 0 and to the segment's last bundle; both outcomes of BR and of BRP. -/
theorem witness_jumps :
    let s := regs [(1, 7#64), (2, 8#64)]
    (3 : Int) + (0x7FFFFD#23).toInt = (0 : Nat) ∧ InSegment s.pl 0 ∧ InSegment s.pl 7 ∧ ¬InSegment s.pl 8 ∧ s.pl.endFault = none ∧
    s.pl.rets.length < 16 ∧ InSegment s.pl (s.rdS 1#5).toNat ∧ (s.rdS 0#5) = 0#64 ∧ (s.rdS 1#5) ≠ 0#64 ∧
    (∀ e < 256 / 2 ^ 2, (s.pl.pred 0 1).getLsbD (e * 2 ^ 2) = false) ∧
    (∀ e < 256 / 2 ^ 0, (s.pl.pred 1 0).getLsbD (e * 2 ^ 0) = true) := by
  decide +kernel

/-- ReturnsSegmentsAndLoops: a return entry, a segment of the table, a loop at the deepest place and one of count 0, a level
to leave. -/
theorem witness_returns :
    let s := task fun p => { p with
      rets := [0x0000100005#44], gEnd := 1, loops := List.replicate 5 ⟨2#32, 0#32, 0#32, 4#12, 6#12, false⟩ }
    (s.pl.liveRets = [0x0000100005#44] ∧ s.pl.endFault = none ∧ ((1#16).setWidth 64 + s.rdS 0#5).toNat < s.pl.nseg ∧
      s.pl.bun.toNat - s.pl.grp + s.pl.gEnd ≤ s.pl.bun.toNat + 3 ∧ InSegment s.pl (s.pl.bun.toNat + 3)) ∧
    (∀ l, s.pl.levelHere = some l → s.pl.bun.toNat + 3 ≤ l.stop.toNat) ∧ s.pl.loops.length < 6 ∧
    (0#10).setWidth 32 = 0#32 ∧ s.pl.liveLoops[4]? = some ⟨2#32, 0#32, 0#32, 4#12, 6#12, false⟩ := by
  intro s
  refine ⟨by decide +kernel, ?_, by decide +kernel⟩
  have h : s.pl.levelHere = some ⟨2#32, 0#32, 0#32, 4#12, 6#12, false⟩ := by decide +kernel
  intro l hl
  rw [h] at hl
  cases hl
  decide

/-- SystemRegisterAccess: registers of the list's ends that are read and written, and words whose register is not in the list. -/
theorem witness_system_registers :
    (Instr.mfsr ⟨1#1, 1#5, 0x000#12⟩).wf = true ∧ (Instr.mfsr ⟨1#1, 1#5, 0x030#12⟩).wf = true ∧
    (Instr.mtsr ⟨1#1, 1#5, 0x009#12⟩).wf = true ∧ (Instr.mfsr ⟨1#1, 1#5, 0x025#12⟩).wf = false ∧
    (Instr.mtsr ⟨1#1, 1#5, 0x00D#12⟩).wf = false := by decide +kernel

/-- R101, R102: mfsr of coreid of core 0 in a task and of seqdepth with one level and one return entry; mtsr of tbase keeps the
on bit and the bundle address. -/
theorem test_system_registers :
    let s := task fun p => { p with rets := [0#44], loops := [⟨2#32, 0#32, 0#32, 2#12, 3#12, false⟩], s := vput p.s 5 (-1#64) }
    result (.mfsr ⟨1#1, 3#5, 0x018#12⟩) (s.focusOn 1) = some (1, 1) ∧ result (.mfsr ⟨1#1, 3#5, 0x001#12⟩) s = some (1, 0x101) ∧
    (after (exec (.mtsr ⟨1#1, 5#5, 0x008#12⟩) s)).pl.tbase = 0x80000FFFFFFFFFFF#64 := by decide +kernel

/-- SequencerInstructions: ERET in a handler; BarriersAndWaits: a block that translates. -/
theorem witness_sequencer :
    let s := task fun p => { p with intrap := true }
    s.pl.intrap = true ∧ s.pl.endFault = none ∧
    (let u : State := { State.reset with dv := { Dev.reset with atab := [], roots := [] } }
     (u.blockPa false 64#64).1.toOption = none) := by decide +kernel

/-- R91: the end distance field 1 of loopi 3 (0x8480_6001) reaches two bundles on: a level of count 3 over bundles 4 and 5. -/
theorem test_loopi :
    let s := task fun p => { p with gEnd := 1 }
    (after (exec (.loopi ⟨1#1, 3#10, 0#1, 1#12⟩) s)).pl.loopNew = some ⟨3#32, 0#32, 0#32, 4#12, 5#12, false⟩ := by decide +kernel

/-- R87: a mixed predicate traps NONUNIFORM_BRANCH with its count of set elements. -/
theorem test_brp_mixed :
    let s := task fun p => { p with pr := vput p.pr 1 0xFF#256, tbase := 0x8000000000000000#64 }
    (after (exec (.brp ⟨1#1, 0#1, 1#2, 0#1, 0#2, 1#16⟩) s)).pl.ecause = 6#8 ∧
    (after (exec (.brp ⟨1#1, 0#1, 1#2, 0#1, 0#2, 1#16⟩) s)).pl.edetail = 0x408#64 := by decide +kernel

/-- EndProcessingFollowsLoops: no level; a level elsewhere; one with more iterations; a last iteration. -/
theorem witness_loops :
    let l : Loop := ⟨1#32, 4#32, 0#32, 2#12, 3#12, false⟩
    let s := task fun p => { p with loops := [l] }
    ((task id).pl.liveLoops = [] ∧ s.pl.liveLoops = [l] ∧ l.stop.toNat = 3 ∧ l.count = 1#32 ∧ s.pl.xfer = none ∧
      s.pl.skipTo = none) ∧ (∃ c, s.pl.cur = some c ∧ c.err = none ∧ c.idx = s.pl.seg.toNat ∧ c.bundles.length ≤ 4096 ∧
      (s.pl.endProc s.pl.seg s.pl.bun.toNat).1 < c.bundles.length) := by
  exact ⟨by decide +kernel, _, rfl, rfl, by decide +kernel⟩

/-- R92: a level of count 2 at its end goes back to its start with count 1 and index 1. -/
theorem test_end_processing :
    let s := task fun p => { p with loops := [⟨2#32, 0#32, 0#32, 2#12, 3#12, false⟩] }
    (s.pl.endProc 0#32 3).1 = 2 ∧ (s.pl.endProc 0#32 3).2.loops = [⟨1#32, 1#32, 0#32, 2#12, 3#12, false⟩] := by decide +kernel

/-- A task whose launch the dispatcher knows. -/
def launched (f : Plane → Plane) : State :=
  let s := task f
  { s with dv := { s.dv with launches := [⟨1, 0, 0, 0#1024, 0, 0, 0, 0, [⟨0, 0, 0, false, false⟩], false, false, 0, none, [], [], false⟩] } }

/-- TrapEntryRecordsAndVectors, TrapWithoutHandlerEndsTask and EretRestores. -/
theorem witness_traps :
    (let s := task fun p => { p with tbase := 0x8000000000001002#64 }
     s.pl.intrap = false ∧ s.pl.tbase.getLsbD 63 = true) ∧
    (let s := launched id
     s.pl.tbase.getLsbD 63 = false ∧ ∃ l, s.launch? s.pl.lid = some l ∧ l.status = 0 ∧ l.err = none) ∧
    (let s := launched fun p => { p with intrap := true, tbase := 0x8000000000001002#64 }
     s.pl.intrap = true ∧ (s.launch? s.pl.lid).isSome = true) ∧
    (task fun p => { p with epc := 0x0000000000002000#64 }).pl.epcBad = true ∧
    (task fun p => { p with epc := 0x0000000000000007#64 }).pl.epcBad = false := by
  exact ⟨by decide +kernel, ⟨by decide +kernel, _, rfl, rfl, rfl⟩, by decide +kernel⟩

/-- FailingChecksTrap: a group at its boundary whose check fails, with its first bundle and what RET's check finds there. -/
theorem witness_failing_group :
    let s := task fun p => { p with
      cur := some ⟨0, List.replicate 8 (oneWord 0 (encode (.ret ⟨0#1⟩))), 0#64, 0, none, none, false⟩ }
    AtBoundary s ∧ s.preciseCause = some ⟨0x08#8, 3#64⟩ ∧ s.gather = [] ∧ s.pl.tbase.getLsbD 63 = false ∧
    s.pl.cur.bind (·.err) = none ∧ InSegment s.pl s.pl.bun.toNat ∧ s.ringHeld s.pl.placedGroup = false ∧
    (match s.pl.groupBundles with
     | f :: r => r.isEmpty && (placed f.1 f.2).any fun x => decide (⟨⟨0x08#8, 3#64⟩, 0, 0⟩ ∈ (State.enterBundle
         { s with pl := { s.pl with gEnd := s.pl.group.1.length, looks := [] } } (placed f.1 f.2) f.1 .run).causesOf x)
     | [] => false) = true ∧
    (task fun p => { p with mode := .check }).pl.mode = .check := by
  exact ⟨⟨by decide +kernel, by decide +kernel, by decide +kernel, by decide +kernel, by decide +kernel, by decide +kernel,
    by decide +kernel, by decide +kernel, by decide +kernel, by decide +kernel, by decide +kernel, by decide +kernel⟩,
    by decide +kernel⟩

/-- FailingChecksTrap: a state for each check. -/
theorem witness_failing_checks :
    let s := task fun p => { p with rets := [], loops := [] }
    s.pl.mode = .direct ∧ srcQueue 0 3 = some 3 ∧ s.pl.queue 3 = [] ∧ s.pl.liveRets = [] ∧ s.pl.intrap = false ∧
    (task fun p => { p with rets := List.replicate 16 0#44 }).pl.rets.length = 16 ∧
    (let t := task fun p => { p with loops := [⟨2#32, 0#32, 0#32, 2#12, 3#12, false⟩] }
     t.pl.liveLoops = [⟨2#32, 0#32, 0#32, 2#12, 3#12, false⟩] ∧ t.pl.seg = 0#32 ∧ t.pl.bun = 3#12) ∧
    (let t := task fun p => { p with gEnd := 1, loops := List.replicate 6 ⟨2#32, 0#32, 0#32, 4#12, 6#12, false⟩ }
     t.pl.loops.length = 6 ∧ t.pl.levelHere = some ⟨2#32, 0#32, 0#32, 4#12, 6#12, false⟩ ∧
     t.pl.bun.toNat - t.pl.grp + t.pl.gEnd ≤ t.pl.bun.toNat + (2#12).toNat + 1 ∧ InSegment t.pl (t.pl.bun.toNat + 3)) ∧
    s.pl.liveLoops.length ≤ (0#3).toNat ∧ (task fun p => { p with intrap := true }).pl.intrap = true := by decide +kernel

/-! ### Vector instructions -/

/-- An entry of 32-bit elements. -/
def i32s (l : List Nat) : Row := BitVec.ofNat 2048 (packs 32 l)

/-- The task with entries at the heads of qa1, qa2 and qb1. -/
def vecs (a b c : Row) : State :=
  task fun p => { p with vq := vput (vput (vput p.vq 1 [ent a]) 2 [ent b]) 17 [ent c] }

/-- Elements of the last result, from the lowest. -/
def lanesOut (m n : Nat) (i : Instr) (s : State) : List Nat :=
  match result i s with
  | some r => (List.range n).map fun e => r.2 / 2 ^ (laneBits m * e) % 2 ^ laneBits m
  | none => []

/-- The premises of `Vec` for two sources and a destination: qa1 and qa2 hold entries, qa5 has room, its own addend stands
in qa1 too. -/
theorem witness_vector :
    let s := vecs (i32s [1]) (i32s [2]) (i32s [3])
    (∀ x ∈ ([(1#5, 0#1), (2#5, 1#1)] : List (BitVec 5 × BitVec 1)), ∀ q, srcQueue 0 x.1.toNat = some q → s.pl.queue q ≠ []) ∧
    (∀ q ∈ ([1] : List Nat), s.pl.queue q ≠ []) ∧ (∀ q, Dest.vq 5 = .vq q → s.pl.pushFault q 1 [1] = none) ∧
    (∀ q, Dest.pred 1 = .vq q → s.pl.pushFault q 1 [1] = none) := by
  refine ⟨?_, by decide +kernel, ?_, ?_⟩
  · intro x hx q hq
    simp only [List.mem_cons, List.not_mem_nil, or_false] at hx
    rcases hx with rfl | rfl <;> simp only [srcQueue] at hq <;> cases hq <;> decide +kernel
  · intro q hq; cases hq; decide +kernel
  · intro q hq; cases hq

/-- R164: saturating and wrapping sums of .i32 at the top of the range; VMULH of −1 and 1. -/
theorem test_vadd :
    let s := vecs (i32s [0x7FFFFFFF, 5]) (i32s [1, 6]) 0#2048
    lanesOut 4 2 (.vadd ⟨0#1, 0#2, 5#4, 1#5, 2#5, 0#1, 0#1, 0#3, 4#4⟩) s = [0x80000000, 11] ∧
    lanesOut 4 2 (.vadds ⟨0#1, 0#2, 5#4, 1#5, 2#5, 0#1, 0#1, 0#3, 4#4⟩) s = [0x7FFFFFFF, 11] ∧
    lanesOut 4 2 (.vmulh ⟨0#1, 0#2, 5#4, 1#5, 2#5, 0#1, 0#1, 0#3, 4#4⟩) s = [0, 0] := by decide +kernel

/-- R156: an inactive element keeps va's lane; VCMP's predicate covers the element's four bytes. -/
theorem test_predicated :
    let s0 := vecs (i32s [7, 8]) (i32s [1, 1]) 0#2048
    let s : State := { s0 with pl := { s0.pl with pr := vput s0.pl.pr 1 1#256 } }
    lanesOut 4 2 (.vsub ⟨0#1, 0#2, 5#4, 1#5, 2#5, 0#1, 0#1, 1#3, 4#4⟩) s = [6, 8] ∧
    (result (.vcmp ⟨0#1, 0#2, 2#2, 2#2, 2#5, 1#5, 0#1, 0#1, 0#3, 4#4⟩) s).map (fun r => (r.1, r.2 % 256)) = some (2, 0xFF) := by
  decide +kernel

/-- Chapter 7's top-k table: pairs 0 to 3 of VCSW with .bf16. -/
theorem test_vcsw :
    let s := vecs (i32s [0x3FC00003, 0x7FC10002, 0x8000000C, 0x40000001]) (i32s [0x3FC00007, 0xC0800009, 5, 0x3F000000]) 0#2048
    lanesOut 4 4 (.vcsw ⟨0#1, 0#2, 5#4, 1#5, 2#5, 0#1, 0#1, 0#3, 10#4⟩) s = [0x3FC00003, 0xC0800009, 0x00000005, 0x40000001] ∧
    lanesOut 4 4 (.vcswx ⟨0#1, 0#2, 5#4, 1#5, 2#5, 0#1, 0#1, 0#3, 10#4⟩) s = [0x3FC00007, 0x7FC00002, 0x8000000C, 0x3F000000] := by
  decide +kernel

/-- R165: 1.0 + 2.0 in FP32 is 3.0, after 4 bundles, 5 with an operand of the other cluster (R155). -/
theorem test_vfadd :
    let s := vecs (i32s [0x3F800000]) (i32s [0x40000000]) (i32s [0x40000000])
    (result (.vfadd ⟨0#1, 0#2, 5#4, 1#5, 2#5, 0#1, 0#1, 0#3, 12#4⟩) s).map (fun r => (r.1, r.2 % 2 ^ 32)) = some (4, 0x40400000) ∧
    (result (.vfadd ⟨0#1, 0#2, 5#4, 1#5, 17#5, 0#1, 0#1, 0#3, 12#4⟩) s).map (fun r => (r.1, r.2 % 2 ^ 32)) = some (5, 0x40400000) := by
  decide +kernel

/-- R177, R178: VRADD into lane 0; VPFX's exclusive prefix sums from vb's first element. -/
theorem test_reduce_prefix :
    let s := vecs (i32s [1, 2, 3, 4]) (i32s [10]) 0#2048
    lanesOut 4 2 (.vradd ⟨0#1, 0#2, 5#4, 1#5, 0#1, 0#3, 4#4⟩) s = [10, 0] ∧
    lanesOut 4 4 (.vpfx ⟨0#1, 0#2, 5#4, 1#5, 2#5, 0#1, 0#1, 0#3, 4#4⟩) s = [10, 11, 13, 16] := by decide +kernel

/-- R176: VROT by 17 takes byte 17 of va first. -/
theorem test_vrot :
    let s0 := vecs (BitVec.ofNat 2048 (0xAB <<< 136)) 0#2048 0#2048
    let s : State := { s0 with pl := { s0.pl with bl := vput s0.pl.bl 0 17#2048 } }
    lanesOut 15 1 (.vrot ⟨0#1, 0#2, 5#4, 1#5, 2#5, 0#1, 0#1⟩) s = [0xAB] := by decide +kernel

/-- A scale register that converts to FP8 with scale 1 and no trap bit. -/
def scaled (w : Word) (a : Row) : State :=
  let s := vecs a 0#2048 0#2048
  { s with pl := { s.pl with ks := vput s.pl.ks 0 ⟨w, 0x3F800000#32⟩ } }

/-- VectorConversionResults: a target that VQNT and VDQNT accept, without and with an offending element. -/
theorem witness_conversions :
    let s := scaled 0x0000003F800000#64 (i32s [0x3F800000])
    let k := vget s.pl.ks 0 ⟨0#64, 0#32⟩
    scaleTgtOk (k.w.extractLsb' 32 4).toNat = true ∧ s.pl.intrap = false ∧ s.pl.queue 1 ≠ [] ∧ s.pl.pushFault 5 1 [1] = none ∧
    (quantise 12 0 0x3F800000 0x3F800000 0 true 0x3F800000).2 = false ∧
    (quantise 12 0 0x3F800000 0x3F800000 0 true 0x44000000).2 = true := by decide +kernel

/-- VectorGeneratorResults: the three formats of VRNG. -/
theorem witness_vrng : ((5#4 : BitVec 4) = 5#4 ∨ (5#4 : BitVec 4) = 12#4) ∧ ((12#4 : BitVec 4) = 5#4 ∨ (12#4 : BitVec 4) = 12#4) ∧ (15#4 : BitVec 4) = 15#4 := by
  decide

/-- VectorReductionResults and SparseResults: formats at the ends of their ranges. -/
theorem witness_reductions : ((0#4).toNat ≤ 5 ∧ (5#4).toNat ≤ 5) ∧ ((10#4).toNat = 10 ∧ (12#4).toNat = 12) := by decide

/-- R169: the first Philox word of key 0 and counter 0. -/
theorem test_vrng :
    lanesOut 5 2 (.vrng ⟨0#2, 5#4, 0#3, 5#4⟩) (task id) = [0x6627E8D5, 0xE169C58D] := by decide +kernel

/-! ### The load and store slot -/

/-- A slot of launch 1, rank 0, on core 0. -/
def ownSlot (w0 w1 : Word) : Slot := ⟨w0, w1, .owned, 1#16, 0#8, 0, 0, 1, 0, false, false, none, none, 0⟩

/-- The task owning slot 0, ZERO, slot 1, STORED in .i32, and slot 255, STORED in .i8; s1 to s5 address them. -/
def slots (f : Plane → Plane) : State :=
  let s := task fun p => f { p with s := vput (vput (vput (vput (vput p.s 1 0#64) 2 0x10000#64) 3 0xFFFFFF#64) 4 0x1007F#64) 5 2#64 }
  { s with co := { s.co with slots := [(0, ownSlot 0x4000000000000000#64 0#64), (1, ownSlot 0x2000040000000000#64 0#64),
                                       (255, ownSlot 0x2000000000000000#64 0#64)] } }

/-- ScratchpadLoads: a symbolic slot's first row, a stored one's, and the last byte of the scratchpad. -/
theorem witness_loads :
    let s := slots id
    s.rowFault (s.rdS 1#5 + s.rdS 0#5).toNat = none ∧ RowAt s false 0 0#2048 ∧ s.rowFault (s.rdS 3#5).toNat = none ∧
    RowAt s true 65535 0#2048 ∧ RowAt s false 65535 0#2048 ∧ RowAt s false 256 0#2048 ∧
    NoEngine s 1#1 (physRow true 65535) ∧ s.pl.pushFault 17 1 [] = none := by
  refine ⟨by decide +kernel, ?_, by decide +kernel, ?_, ?_, ?_, ?_, by decide +kernel⟩
  · have h : slotTerm (slots id) (physRow false 0) = .sym 0x4000000000000000#64 0#64 0 := by decide +kernel
    simp only [RowAt, h]; decide +kernel
  · have h : slotTerm (slots id) (physRow true 65535) = .stored true 0 255 0 false := by decide +kernel
    simp only [RowAt, h]; decide +kernel
  · have h : slotTerm (slots id) (physRow false 65535) = .stored true 0 255 0 false := by decide +kernel
    simp only [RowAt, h]; decide +kernel
  · have h : slotTerm (slots id) (physRow false 256) = .stored true 0 1 0 false := by decide +kernel
    simp only [RowAt, h]; decide +kernel
  · right; intro e he; cases he

/-- A slot's row may be stored to. -/
theorem writable_slot (p : Nat) (h : p = 0 ∨ p = 256 ∨ p = 257 ∨ p = 65535) : Writable (slots id) p := by
  refine ⟨?_, by rcases h with rfl | rfl | rfl | rfl <;> decide +kernel⟩
  intro c k f nf e _
  rcases h with rfl | rfl | rfl | rfl
  · have : slotTerm (slots id) 0 = .sym 0x4000000000000000#64 0#64 0 := by decide +kernel
    rw [this] at e; cases e
  all_goals decide +kernel

/-- ScratchpadStores: a source with its tag, and rows that may be stored to. -/
theorem witness_stores :
    let s := slots fun p => { p with vq := vput p.vq 1 [ent 5#2048] }
    (s.rowFault (s.rdS 1#5 + s.rdS 0#5).toNat = none ∧ s.rowFault (s.rdS 3#5).toNat = none ∧ s.pl.queue 1 ≠ [] ∧
      rowTag (s.pl.headOf 1).data = (s.pl.headOf 1).tag ∧ physRow false ((s.rdS 2#5).toNat / 256) = 256) ∧
    NoEngine s 0#1 256 ∧ Writable (slots id) 256 :=
  ⟨by decide +kernel, Or.inl rfl, writable_slot 256 (by simp)⟩

/-- R113, R120: sts.i32 of s3 to the third word of row 256, and its byte back by lds.i8, sign-extended. -/
theorem test_sts_lds :
    let s := slots fun p => { p with s := vput (vput p.s 6 0x1000B#64) 7 0xFFFFFF80#64 }
    let t := after (exec (.sts ⟨0#2, 6#5, 7#5, 0#1, 0#1, 2#2⟩) s)
    (t.co.portRow 256).toNat = 0xFFFFFF80 <<< 64 ∧
    (result (.lds ⟨0#2, 6#5, 9#5, 0#1, 0#1, 1#1, 0#2⟩) t) = some (6, 2 ^ 64 - 1) := by decide +kernel

/-- R116's table of row mappings. -/
theorem test_swizzle :
    ([0, 128, 129, 385, 65535].map (physRow true)) = [0, 129, 128, 386, 65408] := by decide +kernel

/-- A pattern of one field of 8 bits, two apart in the next. -/
def patterned (f : Plane → Plane) : State :=
  slots fun p => f { p with xp := vput (vput p.xp 1 0x204#128) 2 0x204#128 }

/-- FieldAccesses: the window of rows 256 and 257, of which both are touched or only the first. -/
theorem witness_fields :
    let s := patterned fun p => { p with vq := vput p.vq 1 [ent 5#2048] }
    ((s.rdS 2#5).toNat / 256 = 256 ∧ s.rowFault (s.rdS 2#5).toNat = none ∧ s.rowFault (257 * 256) = none ∧
      s.pl.pushFault 3 1 [] = none ∧ s.pl.queue 1 ≠ [] ∧ rowTag (s.pl.headOf 1).data = (s.pl.headOf 1).tag) ∧
    Writable (slots id) 256 ∧ Writable (slots id) 257 :=
  ⟨by decide +kernel, writable_slot _ (by simp), writable_slot _ (by simp)⟩

/-- Bytes of a number at an address, without zeros. -/
def cells (a n x : Nat) : List Host.Cell :=
  (List.range n).filterMap fun i => let b := BitVec.ofNat 8 (x / 256 ^ i); if b = 0#8 then none else some (a + i, b)

/-- A descriptor of one tile of 64 columns and 256 rows of .i32 at 0x100000, with its entry at 0x20000. -/
def descWord : Nat :=
  0x100000 + (64 + 256 * 2 ^ 32) * 2 ^ 64 + 4 * 2 ^ 128 + 2048 * 2 ^ 160 + 0x20000 * 2 ^ 192

/-- The slots' task in a space that maps every address to itself, with one tensor, whose tile is ZERO, and free frames. -/
def mapped (f : Plane → Plane) : State :=
  let s := slots f
  { s with dv := { s.dv with
      mem := cells 0 8 0xCF ++ cells 0x10000 128 descWord ++ cells 0x20000 8 0x4000040000000000,
      rootEn := 1#16, descs := [(0, (0x10000, 1))],
      atab := [(1, BitVec.ofNat 128 ((2 ^ 36 - 1) * 2 ^ 64 + 0xFFFF * 2 ^ 48 + 0xFF * 2 ^ 40 + 7 * 2 ^ 37))],
      pool := vput s.dv.pool 0 [0x30, 0x31] } }

/-- FarAccesses: a load and a store of plain memory. -/
theorem witness_far :
    let s := mapped fun p => { p with vq := vput p.vq 1 [ent 5#2048], s := vput (vput p.s 8 0x40000#64) 9 0x100000#64 }
    (s.farSample false (s.rdS 8#5)).1.toOption = some (.mem 0x40000 none, none) ∧
    (s.farSample true (s.rdS 8#5)).1.toOption = some (.mem 0x40000 none, none) ∧
    s.pl.pushFault 3 1 [] = none ∧ s.pl.lbUsed < Config.lbCap ∧ s.pl.queue 1 ≠ [] ∧
    rowTag (s.pl.headOf 1).data = (s.pl.headOf 1).tag ∧
    (s.farSample true (s.rdS 8#5)).2.rowBad (.frame (0x40000 / 65536)) 15 (0x40000 % 65536 / 256) = false := by decide +kernel

/-- FarAccesses: a load and a store of the symbolic tile, whose promotion finds a frame; the frame here is
another device's, so that no sum of this device's memory is in question. -/
theorem witness_far_symbolic :
    let s := mapped fun p => { p with vq := vput p.vq 1 [ent 5#2048], s := vput p.s 9 0x100000#64 }
    let l : TLoc := ⟨0, tileRef 0 0, false, 0, 0, 0, 0x20000, 4, none⟩
    (s.farSample false (s.rdS 9#5)).1.toOption = some (.sym l (.sym 0x4000040000000000#64 0#64 4), none) ∧
    (s.farSample true (s.rdS 9#5)).1.toOption = some (.sym l (.sym 0x4000040000000000#64 0#64 4), none) ∧
    (let s1 := (s.farSample true (s.rdS 9#5)).2
     let u : State := { s1 with dv := { s1.dv with pool := vput s1.dv.pool 0 [0x4000001] } }
     (match (u.popSrc 1 0#1).readyWith l 1 0 none with
      | .ok (.frame fr, _) => decide (2 ^ 24 ≤ fr)
      | _ => false) = true) := by decide +kernel

/-- FarAccesses: a load of a view of that tensor, and one that its group looked up before. -/
theorem witness_far_view :
    let v : View := ⟨0, 0x200000, 0x10000, 0, true, 4#4, 0#32⟩
    let s1 := mapped fun p => { p with s := vput p.s 9 0x20FF00#64 }
    let s : State := { s1 with dv := { s1.dv with views := [(63, v)] } }
    let u : State := { s with pl := { s.pl with mode := .run, looks := [⟨0, false, 0x20FF00#64, .view 63 v, none⟩] } }
    (s.farSample false (s.rdS 9#5)).1.toOption = some (.view 63 v, none) ∧ (u.farSample false (u.rdS 9#5)).1.toOption = some (.view 63 v, none) ∧
    s.pl.lbUsed < Config.lbCap := by decide +kernel

/-- MarksJoinsAndRings: a join to the scratchpad's last row; a ring of the last slot; room for eight tiles. -/
theorem witness_rings :
    let s := slots fun p => { p with s := vput (vput p.s 6 255#64) 7 1#64, rg := vput p.rg 1 ⟨0#8, 9#9, 0#8, 1#9⟩ }
    (0 < (s.rdS 7#5).toNat ∧ (s.rdS 3#5).toNat / 256 + (s.rdS 7#5).toNat ≤ 65536 ∧ (s.rdS 3#5).toNat < 2 ^ 24 ∧
      1 ≤ (s.rdS 7#5).toNat ∧ (s.rdS 6#5).toNat + (s.rdS 7#5).toNat ≤ 256) ∧
    (∀ k, (s.rdS 6#5).toNat ≤ k → k < (s.rdS 6#5).toNat + (s.rdS 7#5).toNat → s.ownsSlot s.co.id k = true) ∧
    (s.pl.ring 1).count.toNat + ((7#3).toNat + 1) ≤ (s.pl.ring 1).size.toNat := by
  refine ⟨by decide +kernel, ?_, by decide +kernel⟩
  intro k h1 h2
  have a : ((slots fun p => { p with s := vput (vput p.s 6 255#64) 7 1#64, rg := vput p.rg 1 ⟨0#8, 9#9, 0#8, 1#9⟩ }).rdS 6#5).toNat = 255 := by
    decide +kernel
  have b : ((slots fun p => { p with s := vput (vput p.s 6 255#64) 7 1#64, rg := vput p.rg 1 ⟨0#8, 9#9, 0#8, 1#9⟩ }).rdS 7#5).toNat = 1 := by
    decide +kernel
  rw [a] at h1 h2
  rw [b] at h2
  obtain rfl : k = 255 := by omega
  decide +kernel

/-- R129: the ninth tile of a full ring traps QUEUE_OVERFLOW with the ring's mark. -/
theorem test_rpush_full :
    let s := slots fun p => { p with rg := vput p.rg 1 ⟨0#8, 8#9, 0#8, 1#9⟩, tbase := 0x8000000000000000#64 }
    (after (exec (.rpush ⟨0#2, 7#3, 1#3⟩) s)).pl.ecause = 5#8 ∧ (after (exec (.rpush ⟨0#2, 7#3, 1#3⟩) s)).pl.edetail = 0x101#64 := by
  decide +kernel

/-- ViewsOfOneScratchpad: the premise holds with a row written through one view. -/
theorem witness_views :
    let c := (Core.reset 0).writeRow true 129 5#2048
    let v := SMap.get viewReset c.views 129
    v.hist.getLast? = some (c.portRow 129) ∧ v.lin < v.hist.length ∧ v.swz < v.hist.length ∧ v.lin ≠ v.swz := by decide +kernel

/-! ### The matrix engine -/

/-- The slots' task with accumulator banks 0 and 63, rings 1 (slots 0 and 1), 2 (slot 1) and 3 (empty), a BF16 buffer w0 and a
codebook buffer w1. -/
def engine (f : Plane → Plane) : State :=
  let s := slots fun p => f { p with
    rg := vput (vput (vput p.rg 1 ⟨0#8, 2#9, 0#8, 2#9⟩) 2 ⟨1#8, 1#9, 0#8, 1#9⟩) 3 ⟨0#8, 2#9, 0#8, 0#9⟩ }
  { s with co := { s.co with
      bank := [(0, 1), (63, 1)], bands := [⟨8064, 2, 1, 0⟩],
      wprop := vput (vput s.co.wprop 0 (some ⟨10#4, false, false, false, false, 0⟩)) 1 (some ⟨6#4, true, false, false, false, 0⟩) } }

/-- Rows of one bank belong to a plane that holds the bank. -/
theorem ownRows_bank (s : State) (b lo n : Nat) (hb : b < 64) (h1 : 128 * b ≤ lo) (h2 : lo + n ≤ 128 * b + 128)
    (h : s.co.bankOf b = some s.co.lit) : OwnRows s lo n := by
  intro r hr hr'
  refine ⟨by omega, ?_⟩
  have : r / 128 = b := by omega
  rw [this]; exact h

/-- MatrixAllocation: a free run, none, banks to free, the band table's three cases, rows to clear. -/
theorem witness_allocation :
    let s := engine id
    s.pl.intrap = false ∧ (s.pl.m.filter fun e => e.start.isNone).length < Config.mWaitMax ∧
    (1 + 62 ≤ 64 ∧ (∀ i < 62, s.co.bankOf (1 + i) = none) ∧ s.co.bankOf 0 ≠ none) ∧
    (let t : State := { s with co := { s.co with bank := (List.range 64).map fun i => (i, 1) } }
     ∀ b < 64, t.co.bankOf b ≠ none) ∧
    (63 < 64 ∧ OwnRows s (128 * 63) (128 * 1)) ∧ (OwnRows s 8064 2 ∧ ∃ b ∈ s.co.bands, b.row = 8064 ∧ b.count = 2) ∧
    (OwnRows s 8191 1 ∧ (∀ b ∈ s.co.bands, ¬(b.row < 8191 + 1 ∧ 8191 < b.row + b.count)) ∧ s.co.bands.length < Config.bandMax) ∧
    OwnRows s 0 128 := by
  have hm : (engine id).pl.intrap = false ∧ ((engine id).pl.m.filter fun e => e.start.isNone).length < Config.mWaitMax := by
    decide +kernel
  refine ⟨hm.1, hm.2, by decide +kernel, by decide +kernel, ⟨by decide, ownRows_bank _ 63 _ _ (by decide) (by decide) (by decide) (by decide +kernel)⟩,
    ⟨ownRows_bank _ 63 _ _ (by decide) (by decide) (by decide) (by decide +kernel), by decide +kernel⟩,
    ⟨ownRows_bank _ 63 _ _ (by decide) (by decide) (by decide) (by decide +kernel), by decide +kernel, by decide +kernel⟩,
    ownRows_bank _ 0 _ _ (by decide) (by decide) (by decide) (by decide +kernel)⟩

/-- R205: malloc of 62 banks gives bank 1; of 63, −1. -/
theorem test_malloc :
    result (.malloc ⟨0#2, 2#5, 61#6⟩) (engine id) = some (1, 1) ∧
    result (.malloc ⟨0#2, 2#5, 62#6⟩) (engine id) = some (1, 2 ^ 64 - 1) := by decide +kernel

/-- MatrixProducts: MLDW from a published tile and from an empty ring. -/
theorem witness_mldw :
    let s := engine id
    s.pl.tileAt 1 0 = some 0 ∧ s.claimFault (some 0) = none ∧ s.pl.tileAt 0 0 = none ∧ (1 : Nat) < 8 ∧ 0xFFFF01 % 256 < 8 ∧
    0xFFFF01 < 2 ^ 24 := by decide +kernel

/-- The operands of a product of one row: full K and N of each form, the last tile its ring publishes. -/
theorem witness_products :
    let s := engine id
    Operands 0#64 (1#64 + 128#64 <<< 10) 256#64 256 (kFull 16) (nFull 16) false false ∧
    Operands 0x4000#64 (1#64 + 256#64 <<< 10) 512#64 256 (kFull 1) (nFull 1) false false ∧ (0x4000#64).getLsbD 0 = false ∧
    Operands 0#64 (1#64 + 128#64 <<< 10 + 2#64 <<< 20) 256#64 256 (kFull 16) (nFull 16) true false ∧
    Operands 0#64 (1#64 + 256#64 <<< 10 + 2#64 <<< 20) 256#64 256 (2 * kFull 16) (nFull 16) true false ∧
    Operands 127#64 (1#64 + 128#64 <<< 10 + 1#64 <<< 20) 256#64 128 (kFull 16) (nFull 16) true false ∧
    Operands 0#64 (1#64 + 128#64 <<< 10 + 2#64 <<< 24) 256#64 256 (kFull 16) (nFull 16) false true ∧
    s.bufProp 0 = some ⟨10#4, false, false, false, false, 0⟩ ∧ s.bufProp 1 = some ⟨6#4, true, false, false, false, 0⟩ ∧
    (s.pl.tileAt 1 1).isSome = true ∧ s.claimFault (s.pl.tileAt 1 1) = none ∧ s.claimFault (s.pl.tileAt 2 0) = none ∧
    s.pl.tileAt 1 2 = none ∧ s.pl.tileAt 2 1 = none ∧ (∀ e ∈ s.pl.m, e.open_ = false) ∧ s.co.id % 4 + 2 + 1 ≤ 3 ∧
    (0x4000#64).extractLsb' 14 1 = 1#1 := by
  refine ⟨?_, ?_, by decide, ?_, ?_, ?_, ?_, by decide +kernel⟩
  all_goals
    unfold Operands
    refine ⟨?_, ?_, ?_, ?_, ?_, ?_, ?_, ?_, ?_, ?_, ?_⟩ <;> decide

/-- The rows of those products, and the queue MMULG takes its indices from. -/
theorem witness_products_rows :
    OwnRows (engine id) 0 1 ∧ OwnRows (engine id) 0 2 ∧ OwnRows (engine id) 127 1 ∧
    (engine fun p => { p with vq := vput p.vq 1 [ent 0#2048] }).pl.queue 1 ≠ [] :=
  ⟨ownRows_bank _ 0 _ _ (by decide) (by decide) (by decide) (by decide +kernel),
   ownRows_bank _ 0 _ _ (by decide) (by decide) (by decide) (by decide +kernel),
   ownRows_bank _ 0 _ _ (by decide) (by decide) (by decide) (by decide +kernel), by decide +kernel⟩

/-- The receiver of a chain on core 1, no source having issued; and MCOND with room for both of its tiles in one ring. -/
theorem witness_chain_and_cond :
    (let s0 := State.reset.focusOn 1
     let s : State := { s0 with co := { s0.co with
       bank := [(0, 1)], wprop := vput s0.co.wprop 0 (some ⟨10#4, false, false, false, false, 0⟩) } }
     s.chainSource 1 = none ∧ 1 ≤ s.co.id % 4 ∧ s.bufProp 0 ≠ none ∧ s.co.bankOf 0 = some s.co.lit ∧
     (∀ e ∈ s.pl.m, e.open_ = false)) ∧
    (let s := engine id
     let y := 0x03030101#64
     y &&& 0x07070707#64 = y ∧ (s.pl.ring 3).count.toNat + s.pl.publishing 3 + 2 ≤ (s.pl.ring 3).size.toNat ∧
     s.claimFault (s.pl.tileAt 1 0) = none ∧ s.claimFault (s.pl.tileAt 1 1) = none) := by decide +kernel

/-- MatrixDrainAndCheck: a local drain of the last row with every option, a remote one of a band, a column check. -/
theorem witness_drain :
    (let s := engine id
     (0x1FFF#64 : Word).toNat < 2 ^ 17 ∧ (0x1FFF#64 : Word).getLsbD 16 = false ∧ s.co.id % 4 = 0 ∧ 1 * drainV 12 ≤ 32 ∧
     s.drainOwner 0 8191 = true ∧ (s.core 0).bankOf 63 = some s.co.lit ∧
     (∀ i < 64, (0x7FFFF#64 : Word).getLsbD i = true → (i < 16 ∧ (1#1 : BitVec 1) = 1#1) ∨ (16 ≤ i ∧ i < 19 ∧ (1#1 : BitVec 1) = 1#1)) ∧
     (s.pl.queue 32).length + s.pl.reserved 32 + 1 * drainV 12 ≤ qCap 32) ∧
    (let s0 := engine id
     let s := s0.modCore 1 fun c => { c with bank := [(0, 2)], bands := [⟨5, 1, 1, 0⟩] }
     (0x14005#64 : Word).getLsbD 16 = true ∧ ((0x14005#64 : Word).extractLsb' 14 2).toNat = 1 ∧ s.drainOwner 1 5 = true ∧
     ((s.core 1).bankOf 0).isSome = true) ∧
    OwnRows (engine id) (128 * 63) 128 ∧ (engine fun p => { p with intrap := true }).pl.intrap = true := by
  exact ⟨by decide +kernel, by decide +kernel, ownRows_bank _ 63 _ _ (by decide) (by decide) (by decide) (by decide +kernel), by
    decide +kernel⟩

/-- IntegerProductAccumulates: its bound on the columns at the full width; R195: one column of −1 times 2 onto 1 is −1. -/
theorem test_integer_product :
    (256 : Nat) ≤ 256 ∧
    (let c := (Core.reset 0).applyProd ⟨true, 1, [], [(7, 1, 0, fun _ => some (Num.ofInt 1))], fun _ _ => some (Num.ofInt 1)⟩ (fun _ => true) (fun _ => true)
     let t := c.applyProd ⟨true, 1, [], [(7, 1, 0, fun _ => some (Num.ofInt (-1)))], fun _ _ => some (Num.ofInt 2)⟩ (fun _ => true) (fun _ => true)
     (t.accRow 7).data = 0xFFFFFFFF#8192 ∧ (t.accRow 7).isInt = true) := by decide +kernel

/-! ### The channel and auxiliary slots -/

/-- A number from fields: byte offset, bit, value. -/
def block (l : List (Nat × Nat × Nat)) : Nat := l.foldl (fun a x => a + x.2.2 * 2 ^ (8 * x.1 + x.2.1)) 0

/-- The mapped task with a command block in the first 64 bytes of slot 1, at s2. -/
def withBlock (l : List (Nat × Nat × Nat)) : State :=
  let s := mapped id
  { s with co := { s.co with spad := [(256, BitVec.ofNat 2048 (block l))] } }

/-- The block of a state, and whether it can be read with a header that keeps R339. -/
def readable (s : State) : Bool := (s.rowFault (s.rdS 2#5).toNat).isNone && headerOk (s.blockAt (s.rdS 2#5))

/-- ChannelCommandsQueue: copies, fills and atomics at the ends of their ranges. -/
theorem witness_commands :
    let s := mapped id
    opAligned 0x40000 [32] = true ∧ opAligned 0x60000 [32] = true ∧ 32 % 32 = 0 ∧ (2 ^ 40 - 32) % 32 = 0 ∧
    refBad (tileRef 0 0) = false ∧ s.fillForeign (tileRef 0 0) 1 = none ∧ s.fillForeign (slotRef 0 255) 1 = none ∧
    refBad (slotRef 0 255) = false ∧ 0x1004 % 4 = 0 ∧ 0x1008 % 8 = 0 ∧ ¬(3 % 2 = 1 ∧ (2 = 1 ∨ 2 = 6 ∨ 2 = 7)) ∧
    s.opForeign 0x40000 32 = none ∧ (s.rdS 3#5).toNat < 2 ^ 24 := by decide +kernel

/-- Blocks of the block-form commands that keep every limit: XSEND and XPOST, XCOPYT, XGATH and XSCAT, XNEAR, XCOLL, XMEDIA. -/
theorem witness_blocks :
    (let s := withBlock [(0x10, 0, 0x40000), (0x18, 0, 256), (0x20, 0, 7)]
     let b := s.blockAt (s.rdS 2#5)
     readable s = true ∧ 0 < bF b 0x18 0 40 ∧ bF b 0x18 0 40 % 32 = 0 ∧ bF b 0x18 49 15 = 0 ∧ bF b 0x18 40 24 = 0 ∧
     bF b 0x20 16 48 = 0 ∧ zeroed b 0x28 0x40 = true ∧ opOk (bF b 0x10 0 64) [256] = true) ∧
    (let s := withBlock [(0x10, 0, 0x40000), (0x18, 0, 0x60000), (0x20, 0, 4), (0x20, 32, 64), (0x28, 0, 2048), (0x28, 32, 2048), (0x30, 0, 4)]
     readable s = true ∧ (shapeOf (s.blockAt (s.rdS 2#5))).ok (s.blockAt (s.rdS 2#5)) = true) ∧
    (let s := withBlock [(0x10, 0, 0x40000), (0x18, 0, 0x60000), (0x20, 0, 0x80000), (0x28, 0, 4), (0x28, 32, 64), (0x30, 0, 64)]
     let g := gatherOf (s.blockAt (s.rdS 2#5))
     readable s = true ∧ g.ok (s.blockAt (s.rdS 2#5)) = true ∧ opOk g.src [g.pitch] = true ∧ opOk g.dst [g.pitch] = true) ∧
    (let s := withBlock [(0x20, 0, 5), (0x20, 8, 12), (0x24, 0, 1), (0x28, 0, 0x40000), (0x30, 0, 0x60000), (0x38, 0, 0x80000)]
     readable s = true ∧ (nearOf (s.blockAt (s.rdS 2#5))).ok (s.blockAt (s.rdS 2#5)) = true) ∧
    (let s0 := withBlock [(0x10, 0, 0x40000), (0x18, 0, 0x60000), (0x20, 0, 8), (0x20, 32, 12), (0x20, 36, 1), (0x20, 40, 1)]
     let s : State := { s0 with pl := { s0.pl with dmr := vput s0.pl.dmr 1 0x20000#64 } }
     let c := collOf (s.blockAt (s.rdS 2#5))
     let m := dmrCount (s.pl.dmrAt c.level)
     readable s = true ∧ m = 2 ∧ c.ok (s.blockAt (s.rdS 2#5)) m = true ∧ c.order ≠ 2 ∧ opOk c.src [c.n * c.bytes] = true ∧
     opOk c.dst [c.outBytes m] = true) ∧
    (let s := withBlock [(0x10, 0, 0x40000), (0x18, 0, 256), (0x18, 40, 4), (0x20, 0, 0x60000), (0x28, 0, 0x80000), (0x30, 0, 1)]
     let b := s.blockAt (s.rdS 2#5)
     readable s = true ∧ bF b 0x18 40 4 = 4 ∧ bF b 0x18 44 20 = 0 ∧ bF b 0x30 0 4 = 1 ∧ bF b 0x30 4 12 = 0 ∧
     opOk (bF b 0x10 0 64) [] = true ∧ opOk (bF b 0x20 0 64) [] = true ∧ opOk (bF b 0x28 0 64) [] = true) := by decide +kernel

/-- Two .i8 tensors of one tile that are each other's pair. -/
def pairedAs (e0 e1 : Nat) : State :=
  let s := withBlock [(0x10, 0, 0x40000), (0x20, 0, 1)]
  let d (base ent other : Nat) := base + (256 + 256 * 2 ^ 32) * 2 ^ 64 + 2048 * 2 ^ 160 + ent * 2 ^ 192 + (2 ^ 31 + other) * 2 ^ 384
  { s with dv := { s.dv with
      mem := cells 0 8 0xCF ++ cells 0x10000 128 (d 0x100000 0x20000 1) ++ cells 0x10080 128 (d 0x110000 0x20010 0) ++
        cells 0x20000 8 e0 ++ cells 0x20010 8 e1,
      descs := [(0, (0x10000, 2))] } }

/-- A pair of tensors of symbols. -/
def paired : State := pairedAs 0x4000000000000000 0x4000000000000000

/-- XPAIR: the plain tile of a pair. -/
theorem witness_pair :
    let b := paired.blockAt (paired.rdS 2#5)
    readable paired = true ∧ 1 ≤ bF b 0x20 0 32 ∧ zeroed b 0x24 0x40 = true ∧ opOk (bF b 0x10 0 64) [65536] = true ∧
    (paired.pairStart paired.pl.space b).isSome = true := by decide +kernel

/-- FenceHandAndTake: a fence of every channel with holds, an owned slot and the other rank of a launch of two, both XTAKE forms. -/
theorem witness_ownership :
    let s := slots fun p => { p with dmr := vput p.dmr 3 0x20000#64 }
    0xFFFF < 2 ^ 16 ∧ ¬(0xFFFF / 256 = 0 ∧ (1 = 0 ∨ 1 = 1)) ∧ ¬(0x00FF / 256 = 0 ∧ (false = true)) ∧
    s.taskOwns 0 255 s.pl.lid s.pl.rank = true ∧ 1 < dmrCount (s.pl.dmrAt 3) ∧ 1 ≠ dmrRank (s.pl.dmrAt 3) ∧
    (0x0007000000000409#64).toNat / 2 ^ 14 % 2 ^ 34 = 0 ∧ s.dv.mg.cores.getLsbD ((0x0007000000000409#64).extractLsb' 8 6).toNat = true ∧
    ((0x0007000000000409#64).extractLsb' 8 6).toNat < 48 ∧ (0x3FFF#64).toNat < 2 ^ 14 ∧ s.pl.lbUsed < Config.lbCap := by
  decide +kernel

/-- Chapter 12's example: handing slot 9 of core 4 gives the handle of its new generation. -/
theorem test_handle : mkHandle 7#16 4 9 = 0x0007000000000409#64 := by decide +kernel

/-- LatchesFlagsAndScales: heads of mq and xq, a pattern at its limit, targets that KSCALE accepts. -/
theorem witness_latches :
    let s := task fun p => { p with mq := [ent 1#2048], xq := [5#64] }
    s.pl.mq ≠ [] ∧ s.pl.xq ≠ [] ∧ (let x := 0x204#128; ∀ j < patC x, patOff x j + patW x ≤ patP x) ∧ (15#4 : BitVec 4) = 15#4 ∧
    (0#4 : BitVec 4) ≠ 15#4 ∧ scaleTgtOk ((0x106#64 : Word).extractLsb' 0 4).toNat = true ∧ (0x106#64 : Word).toNat < 512 ∧
    (0x106#64 : Word).getLsbD 4 = false := by decide +kernel

/-- R144, R338: flags.clr gives the word as it stood and clears; QPOP without .w of an empty queue notes it. -/
theorem test_flags_qpop :
    (let s := regs [(6, 0x8#64)]
     let t : State := { s with pl := { s.pl with flags := vput s.pl.flags 1 0x0818#16 } }
     result (.flagsClr ⟨0#2, 4#5, 6#5, 1#3⟩) t = some (1, 0x818) ∧
     vget (after (exec (.flagsClr ⟨0#2, 4#5, 6#5, 1#3⟩) t)).pl.flags 1 0#16 = 0x810#16) ∧
    ((after (exec (.qpop ⟨0#2, 5#5, 0#1, 0#1⟩) (task id))).pl.flight.getLast?).map (·.qfSet) = some (some false) := by
  decide +kernel

/-- RecordInstructions and TileTableInstructions: references to a slot and to a tensor's tile, whose descriptor may be written. -/
theorem witness_tiles :
    let s := mapped id
    let r := slotRef 0 1
    let q := tileRef 0 0
    let l := s.slotLoc 0 0 1
    let m : TLoc := ⟨0, q, false, 0, 0, 0, 0x20000, 4, none⟩
    let k : KRb := ⟨0#2, 8#5, 9#5, 0#1, 1#1⟩
    let u : R3 := ⟨0#2, 3#5, 8#5, 9#5⟩
    (s.tileRefK (.krbind k) 18 false r).toOption = some l ∧ l.isSlot = true ∧ (s.tileRefK (.krbind k) 18 false q).toOption = some m ∧
    refTile m.ref = 0 ∧ s.descFault m.sp m.desc true = none ∧ s.mapped (.ok l) = none ∧
    (s.symbol l 4 4 0x300020001#64).toOption = some 0x300020001#64 ∧
    (s.tileRefK (.ttsettle u) 13 true r).toOption = some l ∧ s.runFits l 1 = true ∧ s.runFits (s.slotLoc 0 0 255) 2 = false ∧
    (s.tileRefK (.ttsettle u) 13 true (refPlus r 0)).toOption = some l ∧ s.writeFault m = none ∧
    (vget s.dv.dirty l.die []).length + 1 < Config.dirtyCap ∧ s.dv.desc s.pl.space 0 = some descWord := by decide +kernel

/-- TileTableInstructions: a tensor's tile for each instruction, and a run of two slots. -/
theorem witness_tensor_tiles :
    let s := mapped id
    let q := tileRef 0 0
    let m : TLoc := ⟨0, q, false, 0, 0, 0, 0x20000, 4, none⟩
    let u := s.tileTouch (some true) m
    (s.tileRefK (.ttq ⟨0#2, 3#5, 8#5, 1#1⟩) 13 false q).toOption = some m ∧
    (s.tileRefK (.ttset ⟨0#2, 8#5, 9#5, 4#4, 4#3⟩) 18 true q).toOption = some m ∧
    (s.symbol m 4 4 0x300020001#64).toOption = some 0x300020001#64 ∧
    (s.tileRefK (.ttpromo ⟨0#2, 3#5, 8#5⟩) 13 true q).toOption = some m ∧ entKind (s.entry m).1 ≠ 1 ∧ s.writeFault m = none ∧
    (s.tileWalkK true m).1 = none ∧ (u.cancelOffload m).writeFault m = none ∧
    (let t : State := { s with co := { s.co with slots := s.co.slots ++ [(2, ownSlot 0x4000000000000000#64 0#64)] } }
     t.runFits (t.slotLoc 0 0 1) 2 = true ∧
     (t.tileRefK (.ttsettle ⟨0#2, 3#5, 8#5, 9#5⟩) 13 true (refPlus (slotRef 0 1) 0)).toOption = some (t.slotLoc 0 0 1) ∧
     (t.tileRefK (.ttsettle ⟨0#2, 3#5, 8#5, 9#5⟩) 13 true (refPlus (slotRef 0 1) 1)).toOption = some (t.slotLoc 0 0 2)) := by
  decide +kernel

/-- R287, R289's example: ttset.ramp writes the symbol into slot 12, and TTQ gives its word 0. -/
theorem test_ttset :
    let s0 := slots id
    let s : State := { s0 with co := { s0.co with slots := [(12, ownSlot 0x4000000000000000#64 0#64)] },
                               pl := { s0.pl with s := vput (vput s0.pl.s 4 0x00000CFFFFFF0000#64) 5 0x000000030002FFFF#64 } }
    let t := after (exec (.ttset ⟨0#2, 4#5, 5#5, 2#4, 4#3⟩) s)
    result (.ttq ⟨0#2, 7#5, 4#5, 0#1⟩) t = some (1, 0x8000020000000000) ∧ ((t.core 0).slot 12).w1 = 0x000000030002FFFF#64 := by
  decide +kernel

/-- SettlingKeepsContents: a stored slot without a former REPEAT. -/
theorem witness_settling :
    let s := slots id
    let l := s.slotLoc 0 0 1
    entKind (s.entry l).1 = 1 ∧ entPromoted (s.entry l).1 = false ∧ s.box 0 ≠ none := by decide +kernel

/-- JobJournalAndResidency: a block that may be read and written, an emitting task with the block's row, an active descriptor. -/
theorem witness_journal_slots :
    let s := mapped fun p => { p with jact := true, stream := 5, s := vput (vput p.s 6 1#64) 8 0x40000#64 }
    (s.blockPa true (s.rdS 8#5)).1.toOption = some (.at_ 0x40000) ∧ (s.blockPa false (s.rdS 8#5)).1.toOption = some (.at_ 0x40000) ∧
    (s.rdS 6#5).toNat < 2 ^ 32 ∧ s.rowFault (s.rdS 2#5).toNat = none ∧ s.pl.jact = true ∧ s.lstepNow ≤ (s.rdS 6#5).toNat ∧
    s.pl.stream < 1024 ∧ s.pl.lbUsed < Config.lbCap ∧ s.pl.pushFault 19 1 [] = none ∧ (s.dv.desc s.pl.space 0).isSome = true ∧
    s.descFault s.pl.space 0 false = none ∧ s.descFault s.pl.space 0 true = none ∧
    ((s.dv.markUsed s.pl.space false ((SMap.get (0, 0) s.dv.descs s.pl.space).1 + 128 * 0)).desc s.pl.space 0).isSome = true ∧
    (s.blockPa false 0x100000#64).1.toOption = some (.row 0#512) := by decide +kernel

/-- R276, R237: BarriersAndWaits' blocks, in memory and of a symbolic tile. -/
theorem witness_waitj : ((mapped id).blockPa false 0x40000#64).1.toOption = some (.at_ 0x40000) ∧
    ((mapped id).blockPa false 0x100000#64).1.toOption = some (.row 0#512) := by decide +kernel

/-! ### Events -/

/-- A result in flight to s3. -/
def flightTo (due : Nat) (arrived : Bool) : Flight :=
  ⟨9, due, .sreg 3#5, 42#2048, 0#24, 0#5, 0, none, false, true, arrived, false, 1, 0, none, none⟩

/-- An issued M-slot instruction. -/
def ment (i : Instr) (y : Word) (steps : Nat) (start : Option Nat) (retire : Nat) (cap : List Row) : MEnt :=
  ⟨i, 0#64, y, 0#64, 0#2048, 0, none, none, [], [], [], false, steps, start, retire, cap, [], 0, false, none, []⟩

/-- CoreEvents: traps, landings, fetches and empty bundles. -/
theorem witness_core_events :
    (let s := task fun p => { p with tbase := 0x8000000000000000#64, deferred := [⟨⟨0x20#8, 5#64⟩, 0, 7#64⟩] }
     s.pl.grp = 0 ∧ s.pl.intrap = false ∧ s.pl.uncaptured = false ∧ s.pl.tbase.getLsbD 63 = true ∧
     (bestGathered s.gatherNext).isSome = true) ∧
    (let s := task fun p => { p with flight := [flightTo 0 true, flightTo 5 true] }
     s.pl.flight.find? (fun f => decide (f.due ≤ s.pl.bcount)) = some (flightTo 0 true)) ∧
    State.reset.box 47 ≠ none ∧
    (let s := task fun p => { p with cur := some ⟨0, [], 0x40000#64, 1, none, none, false⟩ }
     (s.plane 0 0).live = true ∧ (s.plane 0 0).enter = none ∧ (s.plane 0 0).nxt = none ∧ (s.plane 0 0).resident = false ∧
     (s.misses ((s.plane 0 0).fetcher 0) ⟨0, [], 0x40000#64, 1, none, none, false⟩).1 = false ∧
     (s.misses ((s.plane 0 0).fetcher 0) ⟨0, [], 0x40000#64, 2, none, none, false⟩).1 = true) ∧
    (let s := task fun p => { p with wait := some (.bar 1 0 1) }
     s.pl.status = .ready ∧ s.waitHolds s.pl (.bar 1 0 1) = false ∧ s.frozen = false ∧ s.pl.m = []) ∧
    (let s : State := { State.reset with co := { Core.reset 0 with shadow := { Plane.reset with status := .loaded } } }
     s.pl.wait = none ∧ s.pl.canRun = false ∧ s.co.shadow.canRun = true) := by decide +kernel

/-- CoreEvents: window pushes and accumulator rows. -/
theorem witness_windows :
    (1 < 2 ∧ 31 < 32 ∧ ((task id).plane 0 0).live = true) ∧
    (let s := task fun p => { p with pushes := [⟨31, 5#2048, 0⟩] }
     s.pl.grp = 0 ∧ (s.pl.queue 31).length + s.pl.reserved 31 < 4) ∧
    (task id).winBusy 47 8191 = false ∧ (task id).box 47 ≠ none := by decide +kernel

/-- CoreEvents: an instruction to start, one to retire, a drain's first vector. -/
theorem witness_matrix_events :
    (let e := ment (.mmul ⟨0#2, 0#5, 0#5, 0#5, 0#1, 0#3, 10#4⟩) 1#64 1 none 0 []
     let s := task fun p => { p with m := [e], tcount := 1 }
     s.pl.intrap = false ∧ s.pl.m = [e] ∧ e.supp = none ∧ e.bad = none ∧ e.start = none ∧ e.issued + 1 ≤ s.pl.tcount) ∧
    (let e := ment (.mzero ⟨0#2, 0#5, 0#5⟩) 1#64 1 (some 1) 3 []
     let s := task fun p => { p with m := [e], tcount := 3 }
     s.pl.m = [e] ∧ e.supp = none ∧ e.bad = none ∧ e.pops = [] ∧ e.retire ≤ s.pl.tcount) ∧
    (let e := ment (.mdrain ⟨0#2, 0#5, 0#5, 0#5, 0#1, 0#1, 0#1, 0#1, 12#4⟩) 1#64 4 (some 1) 9 [7#2048, 8#2048]
     let s := task fun p => { p with m := [e], tcount := 12 }
     s.pl.intrap = false ∧ s.pl.m = [e] ∧ e.pushed < e.steps ∧ e.pushed < e.cap.length ∧
     s.pl.tcount = 1 + 11 + e.pushed + (if e.x.getLsbD 16 then 4 else 0)) := by decide +kernel

/-- CoreEvents: a chain of one hop whose receiver waits on the next core. -/
theorem witness_chain_event :
    let e := ment (.mchain ⟨0#2, 0#5, 0#5, 0#5, 0#3, 10#4⟩) 1#64 1 none 0 []
    let x := ment (.mchainRecv ⟨0#2, 0#5, 0#5, 0#5⟩) 0#64 1 none 0 []
    let s0 := task fun p => { p with m := [e] }
    let s := s0.modPlane 1 0 fun p => { p with lid := 1, m := [x] }
    s.pl.m = [e] ∧ e.formed = false ∧ ((1#64 : Word).extractLsb' 24 2).toNat + 1 = 1 ∧
    ∃ b ∈ s.others, b.co.id = s.co.id + 1 ∧ b.pl.lid = s.pl.lid ∧ b.pl.m = [x] := by decide +kernel

/-- A launch record of one task of one segment, its table at 0x40000. -/
def record : Nat := 0x40000 + (1 + 2 ^ 16) * 2 ^ 64

/-- The mapped machine with that record in queue 0's ring, and queue 1 enabled with an empty ring. -/
def queued (f : LQueue → LQueue) : State :=
  let s := mapped id
  let q : LQueue := { LQueue.reset with lring := 0x50000#55, size := 4#5, en := true, st := 1 }
  { s with dv := { s.dv with mem := s.dv.mem ++ cells 0x50000 16 record, queues := vput s.dv.queues 0 (f q) } }

/-- DispatcherEvents: writes of ST below and at its value, of HC, and a record that reads and is not rejected. -/
theorem witness_queue_writes :
    let s := queued id
    (0#64 : Word).toNat < (s.dv.queue 0).st ∧ (s.dv.queue 0).st ≤ (1#64 : Word).toNat ∧ (s.dv.queue 0).hc ≤ (0#64 : Word).toNat ∧
    (∀ r ∈ (s.dv.queue 0).done, r.1 ≠ (s.dv.queue 0).chead) ∧ s.dv.mg.failed = false ∧ s.dv.mg.power ≠ .low ∧
    (s.dv.queue 0).takes = true := by decide +kernel

theorem witness_record_read :
    let s := queued id
    let r := s.infraRead 0 2 0x50000 128
    (match r.1 with
     | .ok b => decide (natOfBytes b = record) && decide ((r.2.rejects 0 (BitVec.ofNat 1024 record)).1 = 0)
     | .error _ => false) = true := by decide +kernel

/-- DispatcherEvents: a ring that cannot be read, for want of a translation. -/
theorem witness_record_unreadable :
    let s0 := queued id
    let s : State := { s0 with dv := { s0.dv with rootEn := 0#16 } }
    (s.dv.queue 0).takes = true ∧ (s.infraRead 0 2 0x50000 128).1 = .error (xlatCause 10 1 false false 0x50000) := by decide +kernel

/-- DispatcherEvents: a head that is chosen and has a place; one with an age limit; one that waits for an incomplete block. -/
theorem witness_placement :
    (let s := queued fun q => { q with head := some (BitVec.ofNat 1024 record) }
     s.dv.chosen = none ∧ s.choose = some 0 ∧ recNvar (BitVec.ofNat 1024 record) = 0 ∧
     s.dv.mg.spot s.planeFree (recT (BitVec.ofNat 1024 record)) (recCpc (BitVec.ofNat 1024 record)) false = some (0, 1)) ∧
    (let rc := BitVec.ofNat 1024 (record + 2 ^ 96)
     let s := queued fun q => { q with head := some rc }
     recAge rc ≠ 0 ∧ recPrio rc ≠ 3 ∧ s.eligible 0 = true) ∧
    (let rc := BitVec.ofNat 1024 (record + 0x60000 * 2 ^ 256)
     let s := queued fun q => { q with head := some rc }
     (∃ a ∈ recDeps rc, s.depDone 0 a = false) ∧ recDone rc = 0) := by decide +kernel

/-- A launch of two tasks, the first on core 0, under pre-emption. -/
def pair2 (l : Launch → Launch) (f : Plane → Plane) : State :=
  let s := mapped f
  { s with dv := { s.dv with descs := [], launches := [l ⟨1, 0, 0, BitVec.ofNat 1024 (record + 0x100000 * 2 ^ 768 + 1), 0, 0, 0, 0,
      [⟨0, 0, 0, false, false⟩, ⟨1, 1, 0, false, false⟩], true, false, 0, none, [], [], false⟩] } }

/-- DispatcherEvents: a task at a safe point, whose image can be written, at addresses that lead to host memory. -/
theorem witness_save :
    let s0 := pair2 (fun l => { l with rc := BitVec.ofNat 1024 (record + 2 ^ 42 * 2 ^ 768) }) fun p => { p with wait := some .save }
    let s : State := { s0 with dv := { s0.dv with mem := cells 8 8 (hostBase + 0xCF) } }
    let pl := s.plane 0 0
    (s.launch? pl.lid).isSome = true ∧ pl.live = true ∧ pl.savable = true ∧ s.phaseBegun pl.lid = false ∧
    (match s.launch? pl.lid with
     | some l =>
       let w := s.putParts l.q (l.imageAt pl.rank) (pl.image.imageParts 0 [] (Vector.replicate 2 none) (Vector.replicate 2 none))
       w.1.isNone && (w.2.box 0).isSome && (w.2.launch? 1).any fun l => l.tasks.any fun t => t.rank == 1 && !t.saved && !t.ended
     | none => false) = true := by decide +kernel

/-- DispatcherEvents: a saved launch of one parked task whose area, at addresses that lead to host memory, can be read. -/
theorem witness_restore :
    let i : TaskImg := ⟨0, { Plane.reset with status := .loaded, enter := some ⟨0, 0, .jump⟩ }, [], [], [], [],
      Vector.replicate 2 none, Vector.replicate 2 none⟩
    let s0 := pair2 id id
    let l : Launch := ⟨1, 0, 0, BitVec.ofNat 1024 (record + 2 ^ 42 * 2 ^ 768), 0, 0, 0, 0, [⟨0, 0, 0, false, true⟩], true, true, 0,
      none, [i], [], false⟩
    let s : State := { s0 with pl := Plane.reset, dv := { s0.dv with launches := [l], mem := cells 8 8 (hostBase + 0xCF) } }
    s.launch? 1 = some l ∧ s.restorable l = true ∧ recClass l.rc ≠ 1 ∧
    (match s.readArea l with
     | (.ok ([j], [], _), s1) => j.pl.enter.isSome && (s1.box (l.coreOf j.rank)).isSome
     | _ => false) = true := by decide +kernel

/-- DispatcherEvents: a launch whose tasks have ended with nothing under way; one that still runs. -/
theorem witness_completion :
    (let s := pair2 (fun l => { l with tasks := [⟨0, 0, 0, true, false⟩] }) id
     (∀ l, s.launch? 1 = some l → (∀ t ∈ l.tasks, t.ended = true)) ∧ s.hasCmds 1 = false ∧ s.hasStores 1 = false ∧ s.hasUpdates 1 = false) ∧
    (let s := pair2 id id
     ∃ l, s.launch? 1 = some l ∧ l.status = 0 ∧ l.saved = false ∧ (∃ t ∈ l.tasks, (s.plane t.core t.plane).status ≠ .loaded) ∧
       ∃ t ∈ l.tasks, t.ended = false) := by
  refine ⟨⟨?_, by decide +kernel, by decide +kernel⟩, _, rfl, rfl, rfl, by decide +kernel, by decide +kernel⟩
  intro l hl
  have h : (pair2 (fun l => { l with tasks := [⟨0, 0, 0, true, false⟩] }) id).launch? 1 = some l := hl
  cases h
  decide

/-- DispatcherEvents: records of a later launch, the queue's next being unfinished, are not written yet. -/
theorem witness_record_order :
    NoRecordDue { (queued id).dv.queue 0 with done := [(1, mkRecord 1 0 0 none)] } ∧
    NoRecordDue { (queued fun q => { q with heldRec := true }).dv.queue 0 with heldRec := false } ∧
    NoRecordDue { (queued fun q => { q with dh := 1 }).dv.queue 0 with
      dh := 2, head := none, raised := 0, done := [(1, mkRecord 1 0 3 (some (0, ⟨0x3F#8, 0#64⟩, 0#64)))] } :=
  ⟨Or.inr (Or.inr (by decide +kernel)), Or.inr (Or.inr (by decide +kernel)), Or.inr (Or.inr (by decide +kernel))⟩

/-- DispatcherEvents: an arrival to deliver; a phase whose members have all marked; a block update to apply. -/
theorem witness_units :
    (let s0 := pair2 id id
     let s : State := { s0 with dv := { s0.dv with arrQ := [⟨⟨1, 0, 2, 31, 0⟩, [], 2⟩] } }
     s.storesSeen [] 2 = true ∧ (s.launch? 1).isSome = true ∧
     ((s.bar (s.barOwner 1 2) 2 (s.barInst 1 0 2) 31).counts 1 0).d + 1 < 256 + (s.bar (s.barOwner 1 2) 2 (s.barInst 1 0 2) 31).phase) ∧
    (let s0 := pair2 id id
     let o := s0.barOwner 1 1
     let s : State := { s0 with dv := { s0.dv with steps := [⟨o.1, o.2, 1, 0, 0, [(1, 0), (1, 1)]⟩] } }
     let ms := s.members o.1 o.2 1 0
     (∃ m ∈ ms, m.2.2 = true) ∧ (∀ m ∈ ms, m.2.2 = true → (m.1, m.2.1) ∈ (s.sstep o 1 0).marks) ∧
     s.phaseQuiet (ms.map fun m => (m.1, m.2.1)) 1 = true ∧ (∀ l ∈ s.dv.dirty.toList, l = []) ∧ s.dv.merged = []) ∧
    (let s0 := mapped id
     let s : State := { s0 with dv := { s0.dv with jcbQ := [⟨0x40000, 1, 0, .add 1#32 0, [], none⟩] } }
     s.storesSeen [] 3 = true ∧ (∀ e ∈ s.dv.jcbQ.take 0, ¬(e.pa = 0x40000 ∧ e.lid = 1 ∧ e.rank = 0)) ∧ s.dv.far = []) := by
  decide +kernel

/-- A channel command of the focused task. -/
def cmd (i : Instr) (st : CmdSt) : Cmd :=
  ⟨i, 0x40000#64, 0#64, 0#64, 0#512, 3, 1, 0, 0, 0, false, 0, 0, none, false, false, none, false, st, none, none, 0, 0, none, 0, none, [], 0, 0, none, [], [], [], []⟩

/-- The mapped task with one command at the head of channel 7. -/
def channel (c : Cmd) : State :=
  let s := mapped id
  { s with co := { s.co with ch := vput s.co.ch 7 [c] } }

/-- TranslationOfferAndTileEvents: a walk that succeeds; held commands; an offer to make takeable. -/
theorem witness_translation :
    let x : XAc := ⟨0#2, 0#5, 0#5, 0#5, 7#3, 0#1, 0#4⟩
    ((mapped id).dv.xlate 1 none 0 true false 0x40000).1 = .ok 0x40000 ∧
    Heads (channel (cmd (.xacc x) .held)) 7 (cmd (.xacc x) .held) ∧ bF (cmd (.xacc x) .held).blk 0 0 55 = 0 ∧
    (let s := slots id
     let y : Slot := { ownSlot 0x4000000000000000#64 0#64 with st := .offered }
     let t : State := { s with co := { s.co with slots := [(255, y)] } }
     t.box 0 ≠ none ∧ ((t.core 0).slot 255).st = .offered ∧ ((t.core 0).slot 255).takeable = false ∧
     t.slotBusy 0 255 ((t.core 0).slot 255) = false) := by
  refine ⟨by decide +kernel, ⟨by decide, by decide +kernel⟩, by decide +kernel, by decide +kernel⟩

/-- TranslationOfferAndTileEvents: an XTAKE that matches, a frame to return, both kinds of moves, records' requests. -/
theorem witness_requests :
    (let s0 := pair2 id id
     let y : Slot := { ownSlot 0x4000000000000000#64 0#64 with st := .offered, takeable := true, trank := 1#8 }
     let s : State := { s0 with co := { s0.co with slots := [(9, y)] },
                                dv := { s0.dv with xtQ := [⟨0, 9, 1#16, false, 1, 0, 1, 1, 4⟩] } }
     s.alive 1 1 = true ∧ s.box 0 ≠ none ∧ ((s.core 0).slot 9).gen = 1#16 ∧ ((s.core 0).slot 9).st = .offered ∧
     ((s.core 0).slot 9).lid = 1 ∧ ((s.core 0).slot 9).trank.toNat = 1 % 256 ∧ ((s.core 0).slot 9).takeable = true) ∧
    (let s0 := mapped id
     let s : State := { s0 with dv := { s0.dv with
       release := [(1, 0x30)], moves := [⟨0, 0, false, 0, 0, 0, [], none⟩, ⟨0, 0, true, 0, 0, 0, [], none⟩], luxQ := [⟨65535#16, 1, 0, .seal, none, [7], 0⟩] } }
     s.dv.release[0]? = some (1, 0x30) ∧ s.frameBusy 0x30 = false ∧ (s.dv.moves[0]?).map (·.back) = some false ∧
     (s.dv.moves[1]?).map (·.back) = some true ∧ (s.dv.moves[0]?).map (·.cmd) = some none ∧
     s.dv.luxQ.take 0 = [] ∧ (∀ r ∈ s.dv.luxQ, ∀ e ∈ s.dv.luxQ, e.before r = false) ∧ s.inSq 7 = false) ∧
    ((mapped id).refLoc 0 (tileRef 0 0)).toOption.isSome = true := by
  refine ⟨by decide +kernel, by decide +kernel, by decide +kernel⟩

/-- OrderingEvents: heads of LQ and SQ of each kind, and a store that leaves for plain memory. -/
theorem witness_queues :
    (let e : LqEnt := ⟨1, false, 9, 0, some 5#2048, none, none⟩
     let s := task fun p => { p with lq := [e, ⟨2, true, 0, 0, none, none, none⟩] }
     s.pl.lq = [e, ⟨2, true, 0, 0, none, none, none⟩] ∧ e.mark = false ∧ e.sym = some 5#2048) ∧
    (let s := task fun p => { p with sq := [⟨1, .fence 4, 1, 0, none, 0⟩] }
     ∀ f ∈ s.dv.far, f.core = s.co.id → f.plane = s.co.lit → f.lid ≠ 0 → 4 ≤ f.level) ∧
    ([(7, 3)] : List (Nat × Nat)).all (task id).co.cmdDone = true ∧
    (let s := task fun p => { p with sq := [⟨1, .stf 0xFFFFFFEF00 7#2048 0 none none, 1, 0, none, 0⟩] }
     s.pl.lq = [] ∧ 0xFFFFFFEF00 < Config.queuePage ∧ 0xFFFFFFEF00 % 256 = 0 ∧ s.dv.badSect = [] ∧
     s.rowBad (.frame (0xFFFFFFEF00 / 65536)) 15 (0xFFFFFFEF00 % 65536 / 256) = false) := by decide +kernel

/-- OrderingEvents: a store to move outward, a lagging view, engine traffic, a view's tile. -/
theorem witness_ordering :
    (let s : State := { State.reset with dv := { Dev.reset with far := [⟨5, 0, 64, 1, 0#256, 3, 1, 0, 0⟩] } }
     (s.dv.far[0]?).map (·.level) = some 3) ∧
    (let s := (task id).modCore 0 fun c => c.writeRow true 65535 5#2048
     s.box 0 ≠ none ∧ 65535 < 65536 ∧ 1 < (SMap.get viewReset (s.core 0).views 65535).hist.length) ∧
    (let e : EngAcc := ⟨0, 7, 3, 256, false, 5#2048, 1, 0, none, 0⟩
     let s0 := task id
     let s : State := { s0 with co := { s0.co with engQ := [e] } }
     s.co.engQ[0]? = some e ∧ ∀ x ∈ s.co.engQ.take 0, x.row ≠ e.row) ∧
    (let s0 := mapped id
     let v : View := ⟨0, 0x200000, 0x10000, 0, true, 4#4, 0#32⟩
     let s : State := { s0 with dv := { s0.dv with views := [(127, v)] } }
     s.dv.views.find? (fun x => x.1 == 1 * 64 + 63) = some (1 * 64 + 63, v) ∧ 0 * 65536 < v.size ∧ s.viewFault v 0 = none) := by decide +kernel

/-- R353: element 0 of 4 of a ring of four starts at member 1; the torus takes members of equal rank in a device by their order. -/
theorem test_fold_order :
    foldOrder 0 [] 4 4 0 0 = [1, 2, 3, 0] ∧ foldOrder 1 [1, 0, 1, 0] 4 4 0 0 = [1, 3, 0, 2] := by decide +kernel

/-- OrderingEvents: an atomic to start, one to apply, a copy to complete, a message that its buffer holds. -/
theorem witness_channel_events :
    let x : XAc := ⟨0#2, 0#5, 0#5, 0#5, 7#3, 0#1, 0#4⟩
    let y : XCp := ⟨0#2, 0#5, 0#5, 0#5, 7#3, 0#1, 1#1, 0#1⟩
    (let c := cmd (.xacc x) .queued
     let s := channel c
     s.dv.mg.failed = false ∧ s.co.fences = [] ∧ s.co.hold.getLsbD 7 = false ∧ c.emit = false ∧ s.accHeld c = false) ∧
    (let c := cmd (.xcopy y) .moved
     let s := channel c
     s.cmdVisible s.co.id 7 c = true ∧ c.plane = s.co.lit ∧ s.pl.live = true ∧ s.pl.lid = c.lid ∧ s.pl.rank = c.rank ∧ c.result = none ∧
     c.err = none ∧ y.quiet = 0#1 ∧ c.fl = 0 ∧ bF c.blk 0 0 55 = 0 ∧ c.done < 2 ^ 40 ∧ s.pl.xq.length + 1 + c.extra.toList.length ≤ Config.xqCap) ∧
    Heads (channel (cmd (.xacc x) .posted)) 7 (cmd (.xacc x) .posted) ∧
    (let c := { cmd (.xpost ⟨0#2, 0#5, 7#3, 0#1⟩) .posted with blk := BitVec.ofNat 512 (256 * 2 ^ 192) }
     let s0 := channel c
     let s : State := { s0 with dv := { s0.dv with posted := [⟨0, 5, 0, 7, 3⟩] } }
     s.dv.postedFor 0 5 = some ⟨0, 5, 0, 7, 3⟩ ∧ s.cmd? 0 7 3 = some c ∧ 256 ≤ bF c.blk 0x18 0 40) := by
  refine ⟨by decide +kernel, by decide +kernel, ⟨by decide, by decide +kernel⟩, by decide +kernel⟩

/-- DeviceEvents: host and peer accesses that are refused and that are not, the power states, boot images. -/
theorem witness_device :
    (let s := mapped id
     s.outerFault 4 0 false (2 ^ 40) 1 = some 1 ∧ s.outerFault 4 0 false 0x50000 256 = none ∧ s.outerFault 4 0 true 0x50000 256 = none ∧
     s.outerFault 5 1 false 0x40800 1 = some 0 ∧ s.outerFault 5 1 true 0x40000 1 = none ∧ s.dv.far = [] ∧ s.dv.badSect = [] ∧
     0x5FF00 % 65536 + 256 ≤ 65536 ∧ 0x5FF00 + 256 ≤ Config.queuePage ∧ s.dv.frameTile 5 = none) ∧
    ((State.reset.mgmtWrite 0xFFFFFF 0).isNone = true) ∧ State.reset.dv.mg.power = .active ∧ State.reset.dv.launches = [] ∧
    (∀ q ∈ State.reset.dv.queues.toList, q.en = false) ∧ 1100 ≤ State.reset.dv.mg.clock ∧
    (vget State.reset.dv.mg.rollback 2 0#32).toNat ≤ (0#32).toNat ∧
    ({ State.reset.dv.mg with power := .low }).power = .low := by decide +kernel

/-- JournalEvents: an append with room and one without, a full ring, an acknowledgement, the mirror lost and named, a replay. -/
theorem witness_journal :
    (let s : State := { State.reset with dv := { Dev.reset with jnl := { Journal.reset with
       reqs := [⟨5, 1, 0, 0, .append 1#512 0 0 9, none⟩] } } }
     s.dv.mg.failed = false ∧ (s.dv.stream 5).replaying = false ∧ s.dv.jnl.buf.length < Config.journalCap ∧ s.dv.jnl.waiting = [] ∧
     (s.dv.stream 5).last + 1 < 2 ^ 64) ∧
    (let w : State := { State.reset with dv := { Dev.reset with jnl := { Journal.reset with
       waiting := [⟨⟨5, 1, 1, 0#512, false⟩, 0, 0, 9⟩] } } }
     w.dv.jnl.waiting ≠ []) ∧
    ([] : List (BitVec 512)).length < Config.ringCap ∧
    (let e : JEnt := ⟨5, 1, 1, 1#512, false⟩
     let s : State := { State.reset with dv := { Dev.reset with jnl := { Journal.reset with jm := 0x8000000000000001#64, buf := [e] } } }
     s.dv.jnl.jm.getLsbD 63 = true ∧ s.dv.jnl.buf = [e] ∧ e.seq = (s.dv.stream 5).ack + 1 ∧ (s.dv.stream 5).durable = [] ∧
     s.dv.jnl.jm.getLsbD 62 = false ∧ (∃ x ∈ s.dv.jnl.buf, x.stream = 5 ∧ x.acked = false) ∧
     (s.dv.stream 1023).cursor ≤ (s.dv.stream 1023).stop ∧ s.dv.jnl.waiting = []) ∧
    ((0x1FF#64 : Word).getLsbD 63 = false ∧ (0x8000000000000002#64 : Word).getLsbD 63 = true) ∧
    ((0xD#64 : Word).toNat % 4 < 2 ∧ 2 ≤ (2#64 : Word).toNat % 4) := by decide +kernel

/-- R404: a mirror writes an entry into its sender's ring and acknowledges it. -/
theorem test_mirror_entry :
    let e (seq step : Nat) : BitVec 512 := BitVec.ofNat 512 (5 <<< 32 + step <<< 64 + seq <<< 128)
    let s : State := { State.reset with dv := { Dev.reset with jnl := { Journal.reset with rings := [(9, [e 2 2])] } } }
    (match exec (.mirrorEntryWrite 7 (e 1 1)) s with
     | .next t => decide (SMap.get [] t.dv.jnl.rings 7 = [e 1 1]) && decide (t.dv.jnl.answers = [⟨7, 5, 1, true⟩])
     | _ => false) = true := by decide +kernel

/-- FlagsAreSticky: an enabled flag that a result of the bundle raises. -/
theorem witness_flags :
    let s := task fun p => { p with flags := vput p.flags 4 0x0800#16, newFlags := [(4, 8#5, 7#64, false)] }
    (4, 8#5, 7#64, false) ∈ s.pl.newFlags ∧ s.pl.intrap = false ∧ (8#5 : BitVec 5).getLsbD 3 = true ∧
    (vget s.pl.flags 4 0#16).getLsbD (8 + 3) = true := by decide +kernel

/-- R142, R143: that flag is set and FP_EXCEPTION of engine 4 waits with its detail. -/
theorem test_flags_trap :
    let s := task fun p => { p with flags := vput p.flags 4 0x0800#16, newFlags := [(4, 8#5, 7#64, false)] }
    vget s.setFlags.pl.flags 4 0#16 = 0x0808#16 ∧ s.setFlags.pl.deferred = [⟨⟨0x29#8, 0x804#64⟩, 0, 7#64⟩] := by decide +kernel

/-- R322: a store visible at its core's domain is read by its own core and by no other. -/
theorem test_store_levels :
    let d := Dev.reset.store 5 0 0 64 [7#8] 1 0 0
    d.seen 0 64 = 7#8 ∧ d.seen 1 64 = 0#8 ∧ d.port 64 = 7#8 := by decide +kernel

/-- R390, R399, R400: after reset the epoch is 1 and the journal's timeout 10 ms. -/
theorem test_reset : State.reset.dv.mg.epoch = 1#32 ∧ State.reset.dv.jnl.timeout = 10#16 := by decide +kernel

/-! ### Started commands -/

/-- The slots' task with a command at the head of channel 7, whose TLB holds the space's two leaves: addresses below 4 TiB are their
own, the 4 TiB from there on are the host's. -/
def started (c : Cmd) (d : Dev → Dev) : State :=
  let s := channel c
  let open_ := BitVec.ofNat 128 ((2 ^ 36 - 1) * 2 ^ 64 + 0xFFFF * 2 ^ 48 + 0xFF * 2 ^ 40 + 7 * 2 ^ 37)
  { s with dv := d { s.dv with
      descs := [], mem := cells 0 8 0xCF ++ cells 8 8 (hostBase + 0xCF),
      tcache := [⟨9, 0, 0, 2 ^ 42, 0xCF#64⟩, ⟨9, 0, 2 ^ 42, 2 ^ 42, BitVec.ofNat 64 (hostBase + 0xCF)⟩],
      atab := [(1, open_), (16385, open_), (19457, open_)] } }

/-- A command over three operands. -/
def copy (i : Instr) (x y z : Nat) : Cmd :=
  { cmd i .queued with x := BitVec.ofNat 64 x, y := BitVec.ofNat 64 y, z := BitVec.ofNat 64 z }

/-- An answer by its two parts. -/
theorem pair_eq {α β γ : Type} {x : Except α β × γ} {p : β} {s : γ} (h : x.1.toOption = some p) (h2 : x.2 = s) : x = (.ok p, s) := by
  obtain ⟨_ | _, _⟩ := x <;> simp_all [Except.toOption]

/-- What failed of an answer. -/
def failure {α β : Type} : Except α β → Option α
  | .error e => some e
  | .ok _ => none

/-- A failing answer by its two parts. -/
theorem fault_eq {α β γ : Type} {x : Except α β × γ} {e : α} {s : γ} (h : failure x.1 = some e) (h2 : x.2 = s) :
    x = (.error e, s) := by
  obtain ⟨_ | _, _⟩ := x <;> simp_all [failure]

/-- CopyMoves: 64 bytes from a row of device memory to the host's. -/
theorem witness_copy :
    let y : XCp := ⟨0#2, 0#5, 0#5, 0#5, 7#3, 0#1, 0#1, 0#1⟩
    let c := copy (.xcopy y) (2 ^ 42 + 0x2000) 0x40000 64
    let s := started c id
    let w := c.who s.co.id 7 clsCopy
    Runs s 7 c ∧ opPush c.x.toNat = false ∧ Plain s w false (c.y.toNat + c.pos) 64 0x40000 ∧
    Plain s w true (c.x.toNat + c.pos) 64 (hostBase + 0x2000) := by
  refine ⟨⟨⟨by decide, by decide +kernel⟩, by decide +kernel, by decide, by decide +kernel⟩, by decide +kernel,
    ⟨by decide, by decide, by decide, pair_eq (by decide +kernel) (by decide +kernel), .inr (by decide +kernel)⟩,
    ⟨by decide, by decide, by decide, pair_eq (by decide +kernel) (by decide +kernel), .inl (by decide +kernel)⟩⟩

/-- CopyMoves: a source that has no translation. -/
theorem witness_copy_fault :
    let y : XCp := ⟨0#2, 0#5, 0#5, 0#5, 7#3, 0#1, 0#1, 0#1⟩
    let c := copy (.xcopy y) (2 ^ 42) (2 ^ 43) 64
    let s := started c id
    Runs s 7 c ∧ (2 ^ 43) % 65536 + 64 ≤ 65536 ∧
    s.place (c.who s.co.id 7 clsCopy) false (2 ^ 43) 64 = (.error (xlatCause 0 1 false false (2 ^ 43)), s) := by
  refine ⟨⟨⟨by decide, by decide +kernel⟩, by decide +kernel, by decide, by decide +kernel⟩, by decide, ?_⟩
  exact fault_eq (by decide +kernel) (by decide +kernel)

/-- CopyMoves: row 0 of the stored slot 1, read for the host and written from it. -/
theorem witness_copy_window :
    let y : XCp := ⟨0#2, 0#5, 0#5, 0#5, 7#3, 0#1, 0#1, 0#1⟩
    let pa := windowBase + 0x10000
    (let c := copy (.xcopy y) (2 ^ 42) (2 ^ 63 + pa) 256
     let s := started c id
     let w := c.who s.co.id 7 clsCopy
     Runs s 7 c ∧ s.co.id < 48 ∧ pa < windowBase + s.co.id * 2 ^ 30 + wAcc ∧ c.reads = [] ∧ c.asked = [] ∧
     s.place w false (2 ^ 63 + pa) 256 = (.ok (.win pa false), s) ∧ Plain s w true (2 ^ 42) 256 hostBase ∧
     s.resolve (s.slotLoc c.space s.co.id (physRow false ((pa - windowBase) % 2 ^ 30 / 256) / 256)) = .stored true 0 1 0 false ∧
     (let c1 := { c with st := .running, reads := [⟨pa, false, 5#2048, none⟩] }
      let s1 := started c1 id
      Runs s1 7 c1 ∧ s1.place w false (2 ^ 63 + pa) 256 = (.ok (.win pa false), s1) ∧ Plain s1 w true (2 ^ 42) 256 hostBase)) ∧
    (let c := copy (.xcopy y) (2 ^ 63 + pa) (2 ^ 42) 256
     let s := started c id
     let w := c.who s.co.id 7 clsCopy
     Runs s 7 c ∧ opPush c.x.toNat = false ∧ Plain s w false (2 ^ 42) 256 hostBase ∧
     s.place w true (2 ^ 63 + pa) 256 = (.ok (.win pa false), s) ∧
     entKind (s.entry (s.slotLoc c.space s.co.id (physRow false ((pa - windowBase) % 2 ^ 30 / 256) / 256))).1 = 1) := by
  refine ⟨⟨⟨⟨by decide, by decide +kernel⟩, by decide +kernel, by decide, by decide +kernel⟩, by decide +kernel, by decide +kernel,
    by decide, by decide, pair_eq (by decide +kernel) (by decide +kernel),
    ⟨by decide, by decide, by decide, pair_eq (by decide +kernel) (by decide +kernel), .inl (by decide +kernel)⟩, by decide +kernel,
    ⟨⟨by decide, by decide +kernel⟩, by decide +kernel, by decide, by decide +kernel⟩,
    pair_eq (by decide +kernel) (by decide +kernel),
    ⟨by decide, by decide, by decide, pair_eq (by decide +kernel) (by decide +kernel), .inl (by decide +kernel)⟩⟩,
    ⟨⟨by decide, by decide +kernel⟩, by decide +kernel, by decide, by decide +kernel⟩, by decide +kernel,
    ⟨by decide, by decide, by decide, pair_eq (by decide +kernel) (by decide +kernel), .inl (by decide +kernel)⟩,
    pair_eq (by decide +kernel) (by decide +kernel), by decide +kernel⟩

/-- ShapedCopyMoves: rows of 4 .i8 elements from the host to the host, as they are and transposed; a stored element's position. -/
theorem witness_shaped :
    let h (mode : Nat) := BitVec.ofNat 512 (block
      [(0x10, 0, 2 ^ 42 + 0x1000), (0x18, 0, 2 ^ 42 + 0x2000), (0x20, 0, 4), (0x20, 32, 4), (0x28, 0, 256), (0x28, 32, 256), (0x30, 4, mode)])
    let c (mode : Nat) := { cmd (.xcopyt ⟨0#2, 0#5, 7#3, 0#1⟩) .queued with blk := h mode }
    let s := started (c 0) id
    let w := (c 0).who s.co.id 7 clsCopy
    Runs s 7 (c 0) ∧ elemBits (shapeOf (h 0)).fmt * [1, 2, 3, 4].length = 32 ∧ (shapeOf (h 0)).mode = 0 ∧ (shapeOf (h 1)).mode = 1 ∧
    Plain s w true ((shapeOf (h 0)).dst + 0) 4 (hostBase + 0x1000) ∧ Plain s w false ((shapeOf (h 0)).src + 0) 4 (hostBase + 0x2000) ∧
    (∀ i < (shapeOf (h 1)).rows, Plain s w false ((shapeOf (h 1)).src + (0 + 8 * 0 + i * 256) / 8) 1 (hostBase + 0x2000 + 32 * i)) ∧
    groupPos [some [2]] 4 0 0 = 2 ∧ groupPos [some [2]] 4 0 0 ≠ 1 := by
  refine ⟨⟨⟨by decide, by decide +kernel⟩, by decide +kernel, by decide, by decide +kernel⟩, by decide +kernel, by decide +kernel,
    by decide +kernel,
    ⟨by decide, by decide +kernel, by decide +kernel, pair_eq (by decide +kernel) (by decide +kernel), .inl (by decide +kernel)⟩,
    ⟨by decide, by decide +kernel, by decide +kernel, pair_eq (by decide +kernel) (by decide +kernel), .inl (by decide +kernel)⟩,
    ?_, by decide, by decide⟩
  intro i hi
  have h4 : (shapeOf (BitVec.ofNat 512 (block
      [(0x10, 0, 2 ^ 42 + 0x1000), (0x18, 0, 2 ^ 42 + 0x2000), (0x20, 0, 4), (0x20, 32, 4), (0x28, 0, 256), (0x28, 32, 256), (0x30, 4, 1)]))).rows = 4 := by
    decide +kernel
  have hi4 : i < 4 := lt_of_lt_of_eq hi h4
  obtain rfl | rfl | rfl | rfl : i = 0 ∨ i = 1 ∨ i = 2 ∨ i = 3 := by omega
  all_goals exact
    ⟨by decide, by decide +kernel, by decide +kernel, pair_eq (by decide +kernel) (by decide +kernel), .inl (by decide +kernel)⟩

/-- GatherMoves: row 3 of the host's source, and an index that names none. -/
theorem witness_gather :
    let b := BitVec.ofNat 512 (block
      [(0x10, 0, 2 ^ 42 + 0x1000), (0x18, 0, 2 ^ 42 + 0x2000), (0x20, 0, 0x40000), (0x28, 0, 2), (0x28, 32, 32), (0x30, 0, 32)])
    let g (i : XBk → Instr) := { cmd (i ⟨0#2, 0#5, 7#3, 0#1⟩) .queued with blk := b }
    let s (i : XBk → Instr) (x : Nat) := started (g i) fun d => { d with mem := d.mem ++ cells 0x40000 4 x }
    let w := (g .xgath).who 0 7 clsCopy
    Runs (s .xgath 0) 7 (g .xgath) ∧ Runs (s .xscat 0) 7 (g .xscat) ∧
    Plain (s .xgath 0) w false 0x40000 4 0x40000 ∧ sees (s .xgath 3) w 0x40000 4 = 3 ∧
    Plain (s .xgath 0) w false (2 ^ 42 + 0x2000) 32 (hostBase + 0x2000) ∧
    Plain (s .xgath 0) w true (2 ^ 42 + 0x1000) 32 (hostBase + 0x1000) ∧ sees (s .xgath 0xFFFFFFFF) w 0x40000 4 = 0xFFFFFFFF := by
  refine ⟨⟨⟨by decide, by decide +kernel⟩, by decide +kernel, by decide, by decide +kernel⟩,
    ⟨⟨by decide, by decide +kernel⟩, by decide +kernel, by decide, by decide +kernel⟩,
    ⟨by decide, by decide, by decide, pair_eq (by decide +kernel) (by decide +kernel), .inr (by decide +kernel)⟩, by decide +kernel,
    ⟨by decide, by decide, by decide, pair_eq (by decide +kernel) (by decide +kernel), .inl (by decide +kernel)⟩,
    ⟨by decide, by decide, by decide, pair_eq (by decide +kernel) (by decide +kernel), .inl (by decide +kernel)⟩, by decide +kernel⟩

/-- TileAndNearMoves: a RAMP for slot 1; the second element of an AXPY in one row of device memory, its ranges translated before. -/
theorem witness_fill_near :
    (let c := { copy (.xfill ⟨0#2, 0#5, 0#5, 0#5, 7#3, 0#1, 4#3⟩) 0 1 0x300020001 with x := slotRef 0 1 }
     let s := started c id
     let l := s.slotLoc 0 0 1
     Runs s 7 c ∧ refTile c.x % 256 + c.pos < 256 ∧ (s.refLoc 0 (refPlus c.x c.pos)).toOption = some l ∧
     (s.fillPlace (c.who s.co.id 7 clsCopy) l).1 = none ∧ (s.fillPlace (c.who s.co.id 7 clsCopy) l).2 = s ∧
     (s.symbol l 4 l.fmt c.z).toOption = some 0x300020001#64) ∧
    (let b := BitVec.ofNat 512 (block [(0x10, 0, 0x3F800000), (0x20, 0, 1), (0x20, 8, 12), (0x24, 0, 4), (0x28, 0, 0x40000), (0x30, 0, 0x60000)])
     let at_ (a : Nat) : Nat × Nat × Place := (a, 16, .virt a (.mem a none))
     let c := { cmd (.xnear ⟨0#2, 0#5, 7#3, 0#1⟩) .running with blk := b, pos := 1, cur := [at_ 0x40000, at_ 0x60000] }
     let s := started c id
     let x := nearOf b
     Runs s 7 c ∧ x.kernel = 1 ∧ x.n = 4 ∧ s.dv.badSect = [] ∧ s.dv.weakSect = [] ∧ x.a + x.bytes * c.pos = 0x40004 ∧
     x.b + x.bytes * c.pos = 0x60004 ∧ 0x40004 % 256 + x.bytes ≤ 256 ∧ 0x60004 + x.bytes ≤ Config.queuePage ∧
     s.rowBad (.frame 4) 15 0 = false ∧ s.rowBad (.frame 6) 15 0 = false ∧
     c.cur.find? (fun y => y.1 ≤ 0x40004 && 0x40004 + x.bytes ≤ y.1 + y.2.1) = some (at_ 0x40000) ∧
     c.cur.find? (fun y => y.1 ≤ 0x60004 && 0x60004 + x.bytes ≤ y.1 + y.2.1) = some (at_ 0x60000)) := by
  refine ⟨⟨⟨⟨by decide, by decide +kernel⟩, by decide +kernel, by decide, by decide +kernel⟩, by decide +kernel, by decide +kernel,
    by decide +kernel, by decide +kernel, by decide +kernel⟩,
    ⟨⟨by decide, by decide +kernel⟩, by decide +kernel, by decide, by decide +kernel⟩, by decide +kernel⟩

/-- PiecesPlaced: the rest of a collective and of an XMEDIA; a die without a decoder; an atomic to post. -/
theorem witness_pieces :
    let k : Chunk := ⟨2 ^ 42 + 0x1000, [1#8, 2#8, 3#8, 4#8], 0, 4⟩
    let f : XBk := ⟨0#2, 0#5, 7#3, 0#1⟩
    let c (i : XBk → Instr) := { cmd (i f) .running with out := [k] }
    let s (i : XBk → Instr) := started (c i) id
    let d := started (cmd (.xmedia f) .queued) fun d => { d with mg := { d.mg with dec := 0#16 } }
    let a := cmd (.xacc ⟨0#2, 0#5, 0#5, 0#5, 7#3, 0#1, 0#4⟩) .queued
    Runs (s .xcoll) 7 (c .xcoll) ∧ Runs (s .xmedia) 7 (c .xmedia) ∧
    Plain (s .xcoll) ((c .xcoll).who 0 7 clsCopy) true k.at_ 4 (hostBase + 0x1000) ∧
    Plain (s .xmedia) { (c .xmedia).who 0 7 clsDecoder with agent := agentDie 0 } true k.at_ 4 (hostBase + 0x1000) ∧
    Runs d 7 (cmd (.xmedia f) .queued) ∧ d.dv.mg.decoderFor d.co.id = none ∧ Runs (started a id) 7 a := by
  refine ⟨⟨⟨by decide, by decide +kernel⟩, by decide +kernel, by decide, by decide +kernel⟩,
    ⟨⟨by decide, by decide +kernel⟩, by decide +kernel, by decide, by decide +kernel⟩,
    ⟨by decide, by decide, by decide, pair_eq (by decide +kernel) (by decide +kernel), .inl (by decide +kernel)⟩,
    ⟨by decide, by decide, by decide, pair_eq (by decide +kernel) (by decide +kernel), .inl (by decide +kernel)⟩,
    ⟨⟨by decide, by decide +kernel⟩, by decide +kernel, by decide, by decide +kernel⟩, by decide +kernel,
    ⟨⟨by decide, by decide +kernel⟩, by decide +kernel, by decide, by decide +kernel⟩⟩

/-- AtomicsApply: XACC and XCAS of four bytes of device memory, whose compare holds, and fails. -/
theorem witness_atomics :
    let a := { copy (.xacc ⟨0#2, 0#5, 0#5, 0#5, 7#3, 0#1, 0#4⟩) 0x40000 1 2 with st := .posted }
    let x := { copy (.xcas ⟨0#2, 0#5, 0#5, 0#5, 7#3, 0#1, 0#1⟩) 0x40000 0 9 with st := .posted }
    let s (c : Cmd) := started c id
    Heads (s a) 7 a ∧ Heads (s x) 7 x ∧ (s a).dv.mg.failed = false ∧ 4 = (if a.z.getLsbD 0 then 8 else 4) ∧
    Plain (s a) { a.who 0 7 clsCopy with level := 4 } true 0x40000 4 0x40000 ∧
    Plain (s x) { x.who 0 7 clsCopy with level := 4 } true 0x40000 4 0x40000 ∧
    (s x).dv.portNat 0x40000 4 = x.y.toNat % 2 ^ 32 ∧ (s { x with y := 1#64 }).dv.portNat 0x40000 4 ≠ 1 % 2 ^ 32 := by
  refine ⟨⟨by decide, by decide +kernel⟩, ⟨by decide, by decide +kernel⟩, by decide +kernel, by decide,
    ⟨by decide, by decide, by decide, pair_eq (by decide +kernel) (by decide +kernel), .inr (by decide +kernel)⟩,
    ⟨by decide, by decide, by decide, pair_eq (by decide +kernel) (by decide +kernel), .inr (by decide +kernel)⟩,
    by decide +kernel, by decide +kernel⟩

/-- R326, R346: adding 1 to four zero bytes gives 1 for every agent, and the old value is kept for the record. -/
theorem test_xacc :
    let a := { copy (.xacc ⟨0#2, 0#5, 0#5, 0#5, 7#3, 0#1, 0#4⟩) 0x40000 1 2 with st := .posted }
    let t := after (exec (.atomicApply 0 7) (started a id))
    t.dv.seenNat 51 0x40000 4 = 1 ∧ ((vget t.co.ch 7 []).head?).map (·.extra) = some (some 0#64) := by decide +kernel

/-- MessageArrives: a message of 4 bytes for a buffer of 256 in host memory. -/
theorem witness_message :
    let c := { cmd (.xpost ⟨0#2, 0#5, 7#3, 0#1⟩) .posted with
      blk := BitVec.ofNat 512 (block [(0x10, 0, 2 ^ 42 + 0x1000), (0x18, 0, 256)]) }
    let s := started c fun d => { d with posted := [⟨0, 5, 0, 7, 3⟩] }
    let p : Posted := ⟨0, 5, 0, 7, 3⟩
    s.dv.postedFor 0 5 = some p ∧ s.cmd? p.core p.ch p.seq = some c ∧ bF c.blk 0x18 0 40 = 256 ∧
    Plain (s.unpost p) (c.who 0 7 clsCopy) true (bF c.blk 0x10 0 64) [1#8, 2#8, 3#8, 4#8].length (hostBase + 0x1000) := by
  refine ⟨by decide +kernel, by decide +kernel, by decide +kernel,
    ⟨by decide, by decide +kernel, by decide +kernel, pair_eq (by decide +kernel) (by decide +kernel), .inl (by decide +kernel)⟩⟩

/-- BankAccess: a write to the stored slot 1, whose row reads without an error, one to a slot that is not the task's, and a read. -/
theorem witness_bank :
    let e (row : Nat) (src : Option Term) : EngAcc := ⟨0, 7, 3, row, false, 5#2048, 1, 0, src, 0⟩
    let s0 := slots id
    let s (x : EngAcc) : State := { s0 with co := { s0.co with engQ := [x] } }
    (s (e 256 none)).mayUse 1 0 3 0 1 = true ∧ (s (e 512 none)).mayUse 1 0 3 0 2 = false ∧
    (s (e 256 none)).rowBad (.slot 0 1) ((s (e 256 none)).slotLoc 0 0 1).fmt 0 = false ∧
    (e 256 (some (.stored true 0 1 0 false))).src = some (.stored true (s0.co.id) 1 0 false) := by decide +kernel

/-- The command of task `rank` in a collective of two over the host's memory, element format `fmt`. -/
def collCmd (rank fmt : Nat) : Cmd :=
  { cmd (.xcoll ⟨0#2, 0#5, 7#3, 0#1⟩) .posted with
    rank := rank
    blk := BitVec.ofNat 512 (block [(0x10, 0, 2 ^ 42 + 0x1000 * rank), (0x18, 0, 2 ^ 42 + 0x8000), (0x20, 0, 2), (0x20, 32, fmt), (0x20, 40, 1)]) }

/-- Both tasks of a launch on one cluster, each with its collective posted on channel 7 of its core. -/
def gathered (fmt : Nat) : State :=
  let s := started (collCmd 0 4) fun d => { d with
    tcache := d.tcache ++ [⟨17, 0, 2 ^ 42, 2 ^ 42, BitVec.ofNat 64 (hostBase + 0xCF)⟩],
    launches := [⟨1, 0, 0, BitVec.ofNat 1024 (record + (1 + 2 ^ 8) * 2 ^ 64), 0, 0, 0, 0,
      [⟨0, 0, 0, false, false⟩, ⟨1, 1, 0, false, false⟩], false, false, 0, none, [], [], false⟩] }
  s.modCore 1 fun co => { co with ch := vput co.ch 7 [collCmd 1 fmt] }

/-- CollectiveMatches: two members that agree, on .i32 sums, and two whose formats differ; no member at another identifier. -/
theorem witness_collective :
    (∀ fmt ∈ [4, 12], let s := gathered fmt
      let ms := s.members (s.barOwner 1 1).1 (s.barOwner 1 1).2 1 0
      let ps := (ms.filterMap fun m => s.collOf m.1 m.2.1 1 0).insertionSort fun a b => a.2.2.2 ≤ b.2.2.2
      s.dv.mg.failed = false ∧ (s.barOwner 1 1).1 = false ∧ ms.length = 2 ∧
      ps = [(0, 7, collCmd 0 4, 0), (1, 7, collCmd 1 fmt, 1)] ∧
      s.cmd? 0 7 3 = some (collCmd 0 4) ∧ s.cmd? 1 7 3 = some (collCmd 1 fmt) ∧
      (ms.filterMap fun m => s.collOf m.1 m.2.1 1 5).length = 0) := by decide +kernel

/-- CollectiveMatches: where those members' elements stand. -/
theorem witness_collective_sources :
    let s := gathered 4
    Plain s ((collCmd 0 4).who 0 7 clsCopy) false (2 ^ 42) 8 hostBase ∧
    Plain s ((collCmd 1 4).who 1 7 clsCopy) false (2 ^ 42 + 0x1000) 8 (hostBase + 0x1000) ∧ (collCmd 0 4).need = [] := by
  refine ⟨⟨by decide, by decide, by decide, pair_eq (by decide +kernel) (by decide +kernel), .inl (by decide +kernel)⟩,
    ⟨by decide, by decide, by decide, pair_eq (by decide +kernel) (by decide +kernel), .inl (by decide +kernel)⟩, by decide⟩

/-- R352, R353: of two members that agree each has a result to place; of two that do not, each fails with reason 6. -/
theorem test_collective :
    (let t := after (exec (.collectiveMatch 1 1 0 0) (gathered 4))
     (t.cmd? 1 7 3).map (fun c => (c.st, c.out.map (·.at_))) = some (.running, [2 ^ 42 + 0x8000])) ∧
    (let t := after (exec (.collectiveMatch 1 1 0 0) (gathered 12))
     (t.cmd? 1 7 3).map (fun c => (c.st, c.result)) = some (.moved, some (engDenied 6 0))) := by decide +kernel

/-- OrderingEvents: the task whose command completes is alive. -/
theorem witness_complete_alive : (gathered 4).alive 1 0 = true := by decide +kernel

/-- TileAndNearMoves: the first tile of a pair of stored tiles, from plain memory. -/
def pairing : State :=
  let s := pairedAs 0x2000000000000030 0x2000000000000031
  let c := { cmd (.xpair ⟨0#2, 0#5, 7#3, 0#1⟩) .running with blk := BitVec.ofNat 512 (block [(0x10, 0, 0x40000), (0x20, 0, 1)]) }
  let open_ := BitVec.ofNat 128 ((2 ^ 36 - 1) * 2 ^ 64 + 0xFFFF * 2 ^ 48 + 0xFF * 2 ^ 40 + 7 * 2 ^ 37)
  { s with co := { s.co with ch := vput s.co.ch 7 [c] }
           dv := { s.dv with atab := s.dv.atab ++ (upTo 0 32).map fun k => (64 * k, open_) } }

/-- TileAndNearMoves: that tile and its partner are found, and each takes rows with a generation. -/
theorem witness_pairing :
    let s := pairing
    let c := (vget s.co.ch 7 []).headD (cmd (.xpair ⟨0#2, 0#5, 7#3, 0#1⟩) .running)
    let w := c.who s.co.id 7 clsCopy
    Runs s 7 c ∧ c.ins = .xpair ⟨0#2, 0#5, 7#3, 0#1⟩ ∧
    (match s.refLoc w.space (refPlus (BitVec.ofNat 64 (bF c.blk 0x18 0 64)) c.pos) with
     | .ok l =>
       (match s.pairOf l with
        | some (plain, p) =>
          let a := s.putPair w l [] 1
          let b := a.2.putPair w p [] 1
          plain && !l.isSlot && a.1.isNone && b.1.isNone && b.2.pl == s.pl && b.2.co == s.co &&
            (s.place w false (bF c.blk 0x10 0 64) 65536).1.toOption.isSome
        | none => false)
     | .error _ => false) = true := by
  refine ⟨⟨⟨by decide, by decide +kernel⟩, by decide +kernel, by decide, by decide +kernel⟩, by decide +kernel, by decide +kernel⟩

end Sys2Proof.Tests
end

section
/-!
PROOFS. What the shared operations on a plane do, said once: landing, the pops of a bundle, and what each leaves unchanged.
-/

namespace Sys2Proof.Machine

/-! ### Changing a core leaves the executing plane -/

/-- A change to one core, the focused one or another, leaves the executing plane. -/
@[simp] theorem State.modCore_pl (s : State) (c : Nat) (f : Core → Core) : (s.modCore c f).pl = s.pl := by
  unfold State.modCore
  cases hb : s.box c with
  | none => rfl
  | some b =>
    have hid := State.box_id hb
    unfold State.box at hb
    unfold State.setBox
    by_cases h : s.co.id = c
    · rw [if_pos h] at hb
      cases hb
      simp [h]
    · simp [h]

/-- An arrival that waits for delivery leaves the executing plane. -/
@[simp] theorem State.arrive_pl (s : State) (o : Option Owed) (st : List Nat) (lv : Nat) : (s.arrive o st lv).pl = s.pl := by
  rw [State.arrive_eq]

/-! ### Landing (R15, R17, R22, R25) -/

/-- A scalar register written leaves the predicates. -/
@[simp] theorem Plane.wrS_pr (p : Plane) (r : BitVec 5) (v : Word) : (p.wrS r v).pr = p.pr := by
  unfold Plane.wrS; split <;> rfl

/-- A scalar register written leaves the scale registers. -/
@[simp] theorem Plane.wrS_ks (p : Plane) (r : BitVec 5) (v : Word) : (p.wrS r v).ks = p.ks := by
  unfold Plane.wrS; split <;> rfl

/-- A scalar register written leaves the vector queues. -/
@[simp] theorem Plane.wrS_vq (p : Plane) (r : BitVec 5) (v : Word) : (p.wrS r v).vq = p.vq := by
  unfold Plane.wrS; split <;> rfl

/-- A scalar register written leaves mq. -/
@[simp] theorem Plane.wrS_mq (p : Plane) (r : BitVec 5) (v : Word) : (p.wrS r v).mq = p.mq := by
  unfold Plane.wrS; split <;> rfl

/-- A plane with a landing result written to its destination. -/
def Plane.deliver (p : Plane) (f : Flight) : Plane :=
  match f.dest with
  | .none => p
  | .sreg r => p.wrS r (f.val.setWidth 64)
  | .pred k => { p with pr := vput p.pr k (f.val.setWidth 256) }
  | .scale n => { p with ks := vput p.ks n ⟨f.val.setWidth 64, (f.val >>> 64).setWidth 32⟩ }
  | .vq k => { p with vq := vput p.vq k (vget p.vq k [] ++ [⟨f.val, f.tag⟩]) }
  | .mq => { p with mq := p.mq ++ [⟨f.val, f.tag⟩] }

/-- What a landing leaves of the executing plane: the destination written, its flags noted, and qf. -/
theorem State.land_pl (s : State) (f : Flight) :
    (s.land f).pl = { s.pl.deliver f with newFlags := (s.land f).pl.newFlags, qf := (s.land f).pl.qf } := by
  obtain ⟨id, due, dest, val, tag, flags, eng, arr, lb, known, arrived, raised, slot, issued, take, qfSet⟩ := f
  unfold State.land Plane.deliver
  cases take <;> simp only [State.arrive_pl, State.modCore_pl] <;> cases qfSet <;> dsimp only <;> split <;> rfl

/-- A delivery moves registers and queues only. -/
theorem Plane.deliver_frame (p : Plane) (f : Flight) :
    p.deliver f = { p with s := (p.deliver f).s, pr := (p.deliver f).pr, ks := (p.deliver f).ks,
                           vq := (p.deliver f).vq, mq := (p.deliver f).mq } := by
  unfold Plane.deliver Plane.wrS
  split
  case h_2 => split <;> rfl
  all_goals rfl

/-- A landing moves registers, queues, qf and noted flags only. -/
theorem State.land_frame (s : State) (f : Flight) :
    (s.land f).pl = { s.pl with s := (s.land f).pl.s, pr := (s.land f).pl.pr, ks := (s.land f).pl.ks,
                                vq := (s.land f).pl.vq, mq := (s.land f).pl.mq,
                                newFlags := (s.land f).pl.newFlags, qf := (s.land f).pl.qf } := by
  rw [State.land_pl, Plane.deliver_frame]

/-- A scalar register after a delivery. -/
theorem Plane.rdS_deliver (p : Plane) (f : Flight) (r : BitVec 5) :
    (p.deliver f).rdS r = if f.dest = .sreg r ∧ r ≠ 0#5 then f.val.setWidth 64 else p.rdS r := by
  unfold Plane.deliver
  cases hd : f.dest with
  | sreg q =>
    simp only [Plane.rdS_wrS, Dest.sreg.injEq]
    by_cases h : r = q
    · simp [h]
    · simp [h, Ne.symm h]
  | _ => simp [Plane.rdS]

/-- A predicate after a delivery. -/
theorem Plane.pr_deliver (p : Plane) (f : Flight) (k : Nat) (hk : k < 8) :
    vget (p.deliver f).pr k 0#256 = if f.dest = .pred k then f.val.setWidth 256 else vget p.pr k 0#256 := by
  unfold Plane.deliver
  cases hd : f.dest with
  | pred j =>
    rw [vget_vput]
    by_cases h : j = k
    · subst h; simp [hk]
    · simp [h]
  | _ => simp

/-- A scale register's word after a delivery. -/
theorem Plane.ks_deliver (p : Plane) (f : Flight) (n : Nat) (hn : n < 8) :
    (vget (p.deliver f).ks n ⟨0#64, 0#32⟩).w =
      if f.dest = .scale n then f.val.setWidth 64 else (vget p.ks n ⟨0#64, 0#32⟩).w := by
  unfold Plane.deliver
  cases hd : f.dest with
  | scale j =>
    rw [vget_vput]
    by_cases h : j = n
    · subst h; simp [hn]
    · simp [h]
  | _ => simp

/-- A vector queue after a delivery. -/
theorem Plane.vq_deliver (p : Plane) (f : Flight) (q : Nat) (hq : q < 32) :
    (p.deliver f).queue q = if f.dest = .vq q then p.queue q ++ [⟨f.val, f.tag⟩] else p.queue q := by
  have h32 : q ≠ 32 := by omega
  unfold Plane.deliver
  cases hd : f.dest with
  | vq k =>
    simp only [Plane.queue, h32, if_false, vget_vput, Dest.vq.injEq]
    by_cases h : k = q
    · subst h; simp [hq]
    · simp [h]
  | _ => simp [Plane.queue, h32]

/-- mq after a delivery. -/
theorem Plane.mq_deliver (p : Plane) (f : Flight) :
    (p.deliver f).queue 32 = if f.dest = .mq then p.queue 32 ++ [⟨f.val, f.tag⟩] else p.queue 32 := by
  unfold Plane.deliver
  cases hd : f.dest with
  | _ => simp [Plane.queue]

/-- What a run of landings leaves unchanged: every part of the plane that one landing leaves. -/
theorem foldl_land_frame (l : List Flight) (s : State) :
    (l.foldl State.land s).pl =
      { s.pl with s := (l.foldl State.land s).pl.s, pr := (l.foldl State.land s).pl.pr, ks := (l.foldl State.land s).pl.ks,
                  vq := (l.foldl State.land s).pl.vq, mq := (l.foldl State.land s).pl.mq,
                  newFlags := (l.foldl State.land s).pl.newFlags, qf := (l.foldl State.land s).pl.qf } := by
  induction l generalizing s with
  | nil => rfl
  | cons f t ih =>
    rw [List.foldl_cons, ih (s.land f)]
    conv_lhs => rw [State.land_frame s f]

/-- The landings at a bundle's start: those due leave the flight, and nothing changes but registers, queues, qf and noted
flags (R15, R17). -/
theorem State.landDue_pl (s : State) :
    s.landDue.pl =
      { s.pl with flight := s.pl.flight.filter fun f => decide (s.pl.bcount < f.due)
                  s := s.landDue.pl.s, pr := s.landDue.pl.pr, ks := s.landDue.pl.ks, vq := s.landDue.pl.vq,
                  mq := s.landDue.pl.mq, newFlags := s.landDue.pl.newFlags, qf := s.landDue.pl.qf } := by
  have hf : (s.pl.flight.filter fun f => !decide (f.due ≤ s.pl.bcount)) =
      s.pl.flight.filter fun f => decide (s.pl.bcount < f.due) :=
    List.filter_congr fun f _ => by simp only [← Nat.not_le, decide_not]
  rw [← hf]
  exact foldl_land_frame _ _

/-- Settles O12: what lands is written to its destination alone, by the rule of each register file and queue. -/
theorem landingWritesDestination : Obligations.LandingWritesDestination := by
  refine ⟨fun s => by rw [State.landDue_pl], State.rdS_zero, fun s f => ?_⟩
  have hrd : ∀ r, (s.land f).rdS r = (s.pl.deliver f).rdS r := fun r => by
    unfold State.rdS; rw [State.land_pl]; rfl
  have hqueue : ∀ q, (s.land f).pl.queue q = (s.pl.deliver f).queue q := fun q => by
    rw [State.land_pl]; rfl
  refine ⟨fun r hr => ?_, fun r hr => ?_, fun k hk => ?_, fun n hn => ?_, fun q hq => ?_, ?_⟩
  · rw [hrd, Plane.rdS_deliver]
    by_cases h : r = 0#5
    · subst h; simp [Plane.rdS]
    · simp [hr, h]
  · rw [hrd, Plane.rdS_deliver, if_neg fun h => hr h.1]; rfl
  · rw [State.land_pl]; exact Plane.pr_deliver _ _ _ hk
  · rw [State.land_pl]; exact Plane.ks_deliver _ _ _ hn
  · rw [hqueue]; exact Plane.vq_deliver _ _ _ hq
  · rw [hqueue]; exact Plane.mq_deliver _ _

/-! ### The pops of a bundle (R28, R29) -/

/-- A queue of a plane without its head. -/
def Plane.popHead (p : Plane) (q : Nat) : Plane :=
  if q = 32 then { p with mq := p.mq.tail } else { p with vq := vput p.vq q (vget p.vq q []).tail }

/-- The pops of a bundle take each noted queue's head once. -/
theorem State.doPops_pl (s : State) :
    s.doPops.pl = { s.pl.popped.eraseDups.foldl Plane.popHead s.pl with popped := [] } := rfl

/-- A queue after one pop. -/
theorem Plane.queue_popHead (p : Plane) (q k : Nat) (hk : k ≤ 32) :
    (p.popHead q).queue k = if k = q then (p.queue k).tail else p.queue k := by
  unfold Plane.popHead Plane.queue
  by_cases hq : q = 32
  · subst hq
    by_cases h : k = 32 <;> simp [h]
  · simp only [hq, if_false, vget_vput]
    by_cases h : k = q
    · subst h
      have : k < 32 := by omega
      simp [hq, this]
    · simp [h, Ne.symm h]

/-- A queue after pops of different queues. -/
theorem Plane.queue_popHeads (l : List Nat) (hl : l.Nodup) (p : Plane) (k : Nat) (hk : k ≤ 32) :
    (l.foldl Plane.popHead p).queue k = if k ∈ l then (p.queue k).tail else p.queue k := by
  induction l generalizing p with
  | nil => simp
  | cons q t ih =>
    obtain ⟨hq, ht⟩ := List.nodup_cons.1 hl
    rw [List.foldl_cons, ih ht, Plane.queue_popHead _ _ _ hk]
    by_cases h : k = q
    · subst h; simp [hq]
    · simp [h]

/-- A list without its repetitions names nothing twice. -/
theorem nodup_eraseDups (l : List Nat) : l.eraseDups.Nodup := by
  induction h : l.length using Nat.strong_induction_on generalizing l with
  | _ n ih =>
    cases l with
    | nil => simp
    | cons a t =>
      rw [List.eraseDups_cons, List.nodup_cons]
      refine ⟨by simp [List.mem_eraseDups], ih _ ?_ _ rfl⟩
      have := List.length_filter_le (fun b => !b == a) t
      simp only [List.length_cons] at h
      omega

/-- Settles O24: the queues a bundle notes, their repetitions gone, each lose one head. -/
theorem bundlePopsOncePerQueue : Obligations.BundlePopsOncePerQueue := by
  intro s q hq
  refine ⟨?_, rfl⟩
  have h := Plane.queue_popHeads _ (nodup_eraseDups s.pl.popped) s.pl q hq
  simp only [List.mem_eraseDups] at h
  rw [State.doPops_pl]
  exact h

end Sys2Proof.Machine
end

section
/-!
PROOFS. What reset and the start of a task leave (R26, R260, R265, R272, R303, R389, R390, R400).
-/

namespace Sys2Proof.Machine

/-! ### The cores at reset -/

/-- The box of every core at reset holds an empty plane and a core at reset. -/
theorem State.box_reset (c : Nat) (hc : c < 48) : State.reset.box c = some ⟨Plane.reset, Core.reset c⟩ := by
  have h : ∀ c < 48, State.reset.box c = some ⟨Plane.reset, Core.reset c⟩ := by decide +kernel
  exact h c hc

/-- Every slot at reset is free, with a ZERO entry (R260, R272). -/
theorem State.slot_reset (c k : Nat) (hc : c < 48) : (State.reset.core c).slot k = slotReset := by
  unfold State.core
  rw [State.box_reset c hc]
  rfl

/-! ### The device at reset -/

/-- The first `n` entries of a vector of equal ones. -/
@[simp] theorem vget_replicate {α : Type} (n i : Nat) (x : α) : vget (Vector.replicate n x) i x = x := by
  unfold vget
  by_cases h : i < n <;> simp [h]

/-- A table's entry 0 at reset stands as R265 gives it, and every other entry allows nothing. -/
theorem atabEntry_reset (target i : Nat) :
    State.reset.dv.atabEntry target i = if i = 0 then atabReset.toNat else 0 := rfl

/-- The fields of entry 0 of a table at reset (R265). -/
theorem atabReset_fields :
    bitsOf atabReset.toNat 37 1 = 1 ∧ bitsOf atabReset.toNat 38 1 = 1 ∧ bitsOf atabReset.toNat 39 1 = 1 ∧
      bitsOf atabReset.toNat 0 36 = 0 ∧ bitsOf atabReset.toNat 64 36 = 2 ^ 36 - 1 ∧
      bitsOf atabReset.toNat 40 8 = 0x90 ∧ bitsOf atabReset.toNat 48 16 = 0xFFFF := by decide +kernel

/-- A table entry of 0 allows nothing. -/
theorem entryAllows_zero (cls sp : Nat) (write : Bool) (lo hi : Nat) : entryAllows 0 cls sp write lo hi = false := by
  simp [entryAllows, bitsOf]

/-- Entry 0 of a table at reset allows classes 4 and 7 the whole target, in every space and both directions (R265). -/
theorem entryAllows_reset (cls sp : Nat) (write : Bool) (lo hi : Nat) (hc : cls < 8) (hs : sp < 16) (hh : hi < 2 ^ 36) :
    entryAllows atabReset.toNat cls sp write lo hi = true ↔ cls = 4 ∨ cls = 7 := by
  obtain ⟨h37, h38, h39, hlo, hhi, hcls, hsp⟩ := atabReset_fields
  have hclass : ∀ c < 8, Nat.testBit 0x90 c = decide (c = 4 ∨ c = 7) := by decide
  have hspace : ∀ p < 16, Nat.testBit 0xFFFF p = true := by decide
  have hle : hi ≤ 68719476735 := by omega
  unfold entryAllows
  rw [h37, h38, h39, hlo, hhi, hcls, hsp, hclass cls hc, hspace sp hs]
  simp [hle]

/-- An access at reset is allowed to classes 4 and 7 only: entry 0 decides (R265, R266). -/
theorem allowed_reset (target cls sp : Nat) (write : Bool) (lo hi : Nat) (hc : cls < 8) (hs : sp < 16) (hh : hi < 2 ^ 36) :
    State.reset.dv.allowed target cls sp write lo hi = true ↔ cls = 4 ∨ cls = 7 := by
  rw [← entryAllows_reset cls sp write lo hi hc hs hh]
  unfold Dev.allowed
  rw [List.any_eq_true]
  constructor
  · rintro ⟨i, -, hi⟩
    rw [atabEntry_reset] at hi
    split at hi
    · exact hi
    · rw [entryAllows_zero] at hi; cases hi
  · intro h
    exact ⟨0, by simp, by rw [atabEntry_reset]; exact h⟩

/-! ### A task's start (R26) -/

/-- The scalar registers at a task's start: s1 holds the argument's address, every other is 0. -/
theorem rdS_loadedPlane (m : Mgmt) (old : Plane) (q lid : Nat) (rc : BitVec 1024) (base entry t born : Nat) (r : BitVec 5) :
    (loadedPlane m old q lid rc base entry t born).rdS r = if r = 1#5 then rc.extractLsb' 128 64 else 0#64 := by
  have harg : BitVec.ofNat 64 (recF rc 0x10 0 64) = rc.extractLsb' 128 64 := by
    apply BitVec.eq_of_toNat_eq
    simp [recF, bitsOf]
  unfold Plane.rdS
  show (if r = 0#5 then 0#64 else vget (vput Plane.reset.s 1 (BitVec.ofNat 64 (recF rc 0x10 0 64))) r.toNat 0#64) = _
  rw [vget_vput, harg]
  have hreset : vget Plane.reset.s r.toNat 0#64 = 0#64 := vget_replicate 32 _ _
  by_cases h1 : r = 1#5
  · subst h1; rfl
  · have hne : 1 ≠ r.toNat := fun e => h1 (BitVec.eq_of_toNat_eq e.symm)
    simp [h1, hne, hreset]

/-- Settles O58: each part from the reset state's own fields; the access tables by their entry 0. -/
theorem resetAndTaskStart : Obligations.ResetAndTaskStart := by
  refine ⟨fun c k hc _ => ?_, fun q hq => ?_, rfl, rfl, rfl, fun k => ?_, fun r => ?_, ?_, ?_⟩
  · rw [State.slot_reset c k hc]
    exact ⟨rfl, rfl, rfl, rfl, rfl, by decide, by decide⟩
  · have h : State.reset.dv.queue q = LQueue.reset := vget_replicate 16 _ _
    rw [h]
    exact ⟨rfl, rfl, rfl, rfl, rfl, rfl, rfl, rfl⟩
  · exact ⟨rfl, rfl, rfl, rfl, rfl, rfl, rfl, rfl, rfl, rfl⟩
  · have h : luxReset = 0x7F800000#2048 <<< 32 := by decide +kernel
    exact ⟨h, h⟩
  · intro target cls sp write hc hs lo hi _ hh
    exact allowed_reset target cls sp write lo hi hc hs hh
  · intro m old q lid base entry t born rc
    refine ⟨rdS_loadedPlane m old q lid rc base entry t born, fun k hk => ?_, fun k hk => vget_replicate 8 _ _, rfl, rfl, rfl, rfl,
      fun n hn => vget_replicate 8 _ _, fun n hn => vget_replicate 4 _ _, fun e he => vget_replicate 5 _ _, rfl, rfl, rfl, rfl⟩
    unfold Plane.queue
    split
    · rfl
    · exact vget_replicate 32 _ _

end Sys2Proof.Machine
end

section
/-!
PROOFS. A lookup of far accesses leaves the executing plane (R126): address translation, tile entries, residency and frames
are the device's and the cores'.
-/

namespace Sys2Proof.Machine

/-! ### What folds leave -/

/-- A run of changes that each leave the executing plane leaves it. -/
theorem foldl_pl {α : Type} (f : State → α → State) (hf : ∀ s x, (f s x).pl = s.pl) (l : List α) (s : State) :
    (l.foldl f s).pl = s.pl := by
  induction l generalizing s with
  | nil => rfl
  | cons x t ih => rw [List.foldl_cons, ih, hf]

/-! ### Tile entries and frames -/

/-- A tile entry written leaves the executing plane. -/
@[simp] theorem State.setEntry_pl (s : State) (l : TLoc) (w0 w1 : Word) : (s.setEntry l w0 w1).pl = s.pl := by
  unfold State.setEntry
  split
  · exact State.modCore_pl _ _ _
  · rfl

/-- A chain of entries marked as used leaves the executing plane. -/
@[simp] theorem State.markChain_pl (n : Nat) (s : State) (l : TLoc) : (s.markChain n l).pl = s.pl := by
  induction n generalizing s l with
  | zero => rfl
  | succ n ih =>
    unfold State.markChain
    split
    · rfl
    · dsimp only
      split
      · split
        · rw [ih]; rfl
        · rfl
      · rfl

/-- A tile's frame released leaves the executing plane. -/
@[simp] theorem State.dropFrame_pl (s : State) (l : TLoc) (w0 : Word) : (s.dropFrame l w0).pl = s.pl := by
  unfold State.dropFrame
  split <;> rfl

/-- Unmapping tiles leaves the executing plane. -/
@[simp] theorem State.unmapTiles_pl (s : State) (sp i x : Nat) (ts : List Nat) : (s.unmapTiles sp i x ts).pl = s.pl := by
  refine foldl_pl _ (fun s t => ?_) ts s
  split
  · simp [State.undirty]
  · rfl

/-- An eviction leaves the executing plane. -/
@[simp] theorem State.evict_pl (s : State) (sp i x : Nat) : (s.evict sp i x).pl = s.pl := by
  unfold State.evict
  dsimp only
  split
  · simp
  · rfl

/-- The residency unit's reaction leaves the executing plane. -/
@[simp] theorem State.residency_pl (s : State) (die : Nat) : (s.residency die).pl = s.pl := by
  unfold State.residency
  split
  · refine foldl_pl _ (fun s c => ?_) _ s
    split
    · exact State.evict_pl _ _ _ _
    · rfl
  · rfl

/-- A frame claimed leaves the executing plane. -/
@[simp] theorem State.claimFrame_pl (s : State) (die f : Nat) : (s.claimFrame die f).pl = s.pl := by
  unfold State.claimFrame
  simp

/-! ### Lookups (R126) -/

/-- An access's lookup leaves the executing plane. -/
@[simp] theorem State.lookIn_pl (s : State) (die : Nat) (tlb : Option Nat) (sp asp cls : Nat) (write : Bool) (va n : Nat)
    (frame : Bool) : (s.lookIn die tlb sp asp cls write va n frame).2.pl = s.pl := by
  unfold State.lookIn
  split
  · split
    · rfl
    · dsimp only
      split
      · rfl
      · split <;> rfl
  · dsimp only
    split
    · rfl
    · split
      · split <;> rfl
      · split
        · rfl
        · rfl
        · split
          · simp
          · split
            · split <;> simp
            · split
              · split <;> simp
              · simp

/-- A far access's lookup leaves the executing plane. -/
@[simp] theorem State.farLook_pl (s : State) (write : Bool) (va : Word) : (s.farLook write va).2.pl = s.pl := by
  unfold State.farLook State.look
  dsimp only
  split
  · split <;> exact State.lookIn_pl _ _ _ _ _ _ _ _ _ _
  · exact State.lookIn_pl _ _ _ _ _ _ _ _ _ _

/-- A far access looked up before its group issues leaves the executing plane but for the cycles of a walk (R19). -/
theorem State.lookAhead_pl (s : State) (x : Looked) :
    (s.lookAhead x).pl = { s.pl with cycle := (s.lookAhead x).pl.cycle } := by
  unfold State.lookAhead
  dsimp only
  split <;> split <;> simp

/-- The group's far accesses looked up leave the executing plane but for what they found and the cycles of their walks. -/
theorem State.lookUp_pl (s : State) :
    s.lookUp.pl = { s.pl with cycle := s.lookUp.pl.cycle, looks := s.lookUp.pl.looks } := by
  have hfold : ∀ (l : List Looked) (s : State),
      (l.foldl State.lookAhead s).pl = { s.pl with cycle := (l.foldl State.lookAhead s).pl.cycle } := by
    intro l
    induction l with
    | nil => intro s; rfl
    | cons x t ih =>
      intro s
      rw [List.foldl_cons, ih (s.lookAhead x)]
      conv_lhs => rw [State.lookAhead_pl s x]
  unfold State.lookUp
  split
  · simp only [State.modPl_pl]
    conv_lhs => rw [hfold]
  · rfl

end Sys2Proof.Machine
end

section
/-!
PROOFS. One turn of a core that can issue: what a boundary does, and the issue of a bundle with one instruction (R11 to R15,
R44, R126).
-/

namespace Sys2Proof.Machine

open Sys2Proof

/-! ### Turns -/

/-- A ready task with no soft error, no limit passed and no wait goes on with its next bundle. -/
theorem State.turn_advance (s : State) (hf : s.dv.mg.failed = false) (hst : s.pl.status = .ready) (hsoft : s.pl.soft = false)
    (hlb : s.pl.lbErr = false) (hlim : s.limitNow = false) (hend : s.pl.endReq = false) (hw : s.pl.wait = none) :
    s.turn = s.advance := by
  have hhalt : s.halting = s := by simp [State.halting, hend]
  unfold State.turn State.runReady
  rw [hhalt]
  simp [hf, hsoft, hlb, hst, hlim, hw]

/-- A task that stands at its group's start, neither entering a segment nor frozen, comes to its boundary. -/
theorem State.advance_boundary (s : State) (he : s.pl.enter = none) (hz : s.frozen = false) (hg : s.pl.grp = 0) :
    s.advance = s.boundary := by
  simp [State.advance, he, hz, hg]

/-- A task within its group, neither entering a segment nor held, issues its next bundle. -/
theorem State.advance_issue (s : State) (he : s.pl.enter = none) (hz : s.frozen = false) (hg : s.pl.grp ≠ 0)
    (hx : s.xqHeld = false) : s.advance = s.issueBundle := by
  simp [State.advance, he, hz, hg, hx]

/-- A boundary at which no cause is raised and nothing holds the group starts it. -/
theorem State.boundary_start (s : State) (hb : s.groupBlind s.pl.placedGroup s.pl.group.1.length = false)
    (hr : s.raised s.preciseCause = none) (hs : s.saveNow = false) (hh : s.groupHeld s.pl.placedGroup = false)
    (hx : s.xqHeld = false) (hring : s.ringHeld s.pl.placedGroup = false) : s.boundary = s.startGroup := by
  simp [State.boundary, hb, hr, hs, hh, hx, hring]

/-! ### A bundle with one instruction (R11, R44) -/

/-- NOP does nothing (R44). -/
theorem exec_nop (f : CN) (s : State) : exec (.nop f) s = .next s := State.guarded_nil s 0 id

/-- A word that carries nothing but slot 0's G bit is a NOP, in every slot (R44). -/
theorem decodeSlot_empty (j : Nat) (w : BitVec 32) (h : w = 0#32 ∨ (j = 0 ∧ w = 0x80000000#32)) :
    ∃ f, decodeSlot j w = .ok (.nop f) := by
  rcases h with rfl | ⟨rfl, rfl⟩
  · exact ⟨⟨0#1⟩, by unfold decodeSlot decodeNop; split <;> rfl⟩
  · exact ⟨⟨1#1⟩, by decide⟩

/-- The words of a bundle that decode, by slot number. -/
theorem placed_eq (pos : Nat) (b : Bundle) :
    placed pos b = (upTo 0 8).filterMap fun j =>
      match decodeSlot j (b.toList.getD j 0#32) with
      | .ok i => some ⟨pos, j, i⟩
      | .error _ => none := by
  have hz : slotWords b = (upTo 0 8).map fun j => (j, b.toList.getD j 0#32) := by
    refine List.ext_getElem (by simp [slotWords]) fun j h1 h2 => ?_
    have hj : j < 8 := by simpa using h2
    simp [slotWords, upTo_eq, hj]
  unfold placed
  rw [hz, List.filterMap_map]
  rfl

/-- The decoded words of a slot of a bundle: the one that stands there. -/
theorem placed_slot (pos : Nat) (b : Bundle) (k : Nat) (i : Instr) (hk : k < 8)
    (hi : decodeSlot k (b.toList.getD k 0#32) = .ok i) :
    ((placed pos b).filter fun y => y.slot == k) = [⟨pos, k, i⟩] := by
  have hone : ∀ x : Placed, ((upTo 0 8).filterMap fun j => if j = k then some x else none) = [x] := by
    intro x; interval_cases k <;> rfl
  rw [placed_eq, List.filter_filterMap, ← hone ⟨pos, k, i⟩]
  refine List.filterMap_congr fun j _ => ?_
  by_cases hj : j = k
  · subst hj; rw [hi]; simp
  · cases decodeSlot j (b.toList.getD j 0#32) <;> simp [hj]

/-- A decoded word of a bundle stands in its slot. -/
theorem decode_of_mem_placed {pos : Nat} {b : Bundle} {y : Placed} (h : y ∈ placed pos b) :
    y.slot < 8 ∧ decodeSlot y.slot (b.toList.getD y.slot 0#32) = .ok y.ins := by
  rw [placed_eq, List.mem_filterMap] at h
  obtain ⟨j, hj, hy⟩ := h
  split at hy
  · cases hy
    exact ⟨by simpa using hj, ‹_›⟩
  · cases hy

/-- Every instruction of a list but one of its slot is NOP: the list runs that one. -/
theorem runSlots_single (k : Nat) (x : Placed) (l : List Placed) (s t : State) (hx : exec x.ins s = .next t)
    (hk : (l.filter fun y => y.slot == k) = [x]) (hn : ∀ y ∈ l, y.slot ≠ k → ∃ f, y.ins = .nop f) :
    runSlots l s = .next t := by
  have hnops : ∀ (m : List Placed) (u : State), (∀ y ∈ m, ∃ f, y.ins = .nop f) → runSlots m u = .next u := by
    intro m
    induction m with
    | nil => intro u _; rfl
    | cons y m ih =>
      intro u h
      obtain ⟨f, hf⟩ := h y (by simp)
      rw [runSlots, hf, exec_nop]
      exact ih u fun z hz => h z (by simp [hz])
  induction l with
  | nil => cases hk
  | cons y m ih =>
    by_cases hy : y.slot = k
    · rw [List.filter_cons_of_pos (by simpa using hy)] at hk
      obtain ⟨rfl, hm⟩ := List.cons.inj hk
      rw [runSlots, hx]
      refine hnops m t fun z hz => hn z (by simp [hz]) fun hzk => ?_
      have : z ∈ m.filter fun y => y.slot == k := List.mem_filter.2 ⟨hz, by simpa using hzk⟩
      rw [hm] at this
      cases this
    · rw [List.filter_cons_of_neg (by simpa using hy)] at hk
      obtain ⟨f, hf⟩ := hn y (by simp) hy
      rw [runSlots, hf, exec_nop]
      exact ih hk fun z hz => hn z (by simp [hz])

/-- The order of effects keeps the instructions of each slot in order (log entry 70). -/
theorem filter_inOrder (k : Nat) (l : List Placed) :
    ((inOrder l).filter fun y => y.slot == k) = l.filter fun y => y.slot == k := by
  unfold inOrder
  rw [List.filter_append, List.filter_filter, List.filter_filter]
  by_cases hk : k = 0
  · subst hk
    have h0 : (l.filter fun a => a.slot == 0 && a.slot != 0) = [] := by simp [List.filter_eq_nil_iff]
    rw [h0, List.nil_append]
    exact List.filter_congr fun a _ => by simp
  · have h0 : (l.filter fun a => a.slot == k && a.slot == 0) = [] := by
      simp only [List.filter_eq_nil_iff, Bool.and_eq_true, beq_iff_eq, not_and]
      intro a _ h; omega
    rw [h0, List.append_nil]
    exact List.filter_congr fun a _ => by
      by_cases ha : a.slot = k <;> simp [ha, hk]

/-- A bundle with one instruction, its other words empty, runs that instruction (R11, R44). -/
theorem runSlots_placed (pos : Nat) (b : Bundle) (k : Nat) (i : Instr) (s t : State) (hk : k < 8)
    (hrest : ∀ j < 8, j ≠ k → b.toList.getD j 0#32 = 0#32 ∨ (j = 0 ∧ b.toList.getD j 0#32 = 0x80000000#32))
    (hi : decodeSlot k (b.toList.getD k 0#32) = .ok i) (hx : exec i s = .next t) :
    runSlots (inOrder (placed pos b)) s = .next t := by
  refine runSlots_single k ⟨pos, k, i⟩ _ s t hx ?_ fun y hy hne => ?_
  · rw [filter_inOrder, placed_slot pos b k i hk hi]
  · have hmem : y ∈ placed pos b := by
      simp only [inOrder, List.mem_append, List.mem_filter] at hy
      exact hy.elim And.left And.left
    obtain ⟨h8, hdec⟩ := decode_of_mem_placed hmem
    obtain ⟨f, hf⟩ := decodeSlot_empty _ _ (hrest _ h8 hne)
    exact ⟨f, Except.ok.inj (hdec.symm.trans hf)⟩

/-- The words of the bundle at pc. -/
theorem Plane.bundleHere_eq (p : Plane) (b : Bundle) (hb : ((p.cur.map (·.bundles)).getD [])[p.bun.toNat]? = some b) :
    p.bundleHere = placed p.grp b := by
  unfold Plane.bundleHere
  obtain ⟨hlt, hget⟩ := List.getElem?_eq_some_iff.1 hb
  rw [List.drop_eq_getElem_cons hlt, hget]

/-- The issue of a bundle whose instructions run to `t`: the bundle's end, then the way on (R13). -/
theorem State.issueBundle_next (s t : State)
    (h : runSlots (inOrder s.pl.bundleHere) (s.enterBundle s.pl.bundleHere s.pl.grp .run) = .next t) :
    s.issueBundle = .next
      (let s2 := t.bundleEnd.modPl fun p => { p with mode := .direct, willPop := [], found := [] }
       if s2.pl.grp + 1 < s2.pl.gEnd then s2.modPl fun p => { p with grp := p.grp + 1, bun := p.bun + 1#12 } else s2.leave) := by
  unfold State.issueBundle
  dsimp only
  rw [h]

/-- The state in which a group's first bundle issues: its far accesses looked up, its length known, and a YIELD in the other
plane over (R126, R228). -/
def State.groupStart (s : State) : State :=
  { s.lookUp with pl := { s.lookUp.pl with gEnd := s.lookUp.pl.group.1.length, safe := false },
                  co := { s.lookUp.co with shadow := s.lookUp.co.shadow.unyield } }

/-- A group starts by issuing its first bundle. -/
theorem State.startGroup_eq (s : State) : s.startGroup = s.groupStart.issueBundle := rfl

/-- The words of the bundle at pc depend on the segment, pc and the place in the group. -/
theorem Plane.bundleHere_congr (p q : Plane) (hc : p.cur = q.cur) (hb : p.bun = q.bun) (hg : p.grp = q.grp) :
    p.bundleHere = q.bundleHere := by
  unfold Plane.bundleHere
  rw [hc, hb, hg]

@[simp] theorem State.lookUp_cur (s : State) : s.lookUp.pl.cur = s.pl.cur := by rw [State.lookUp_pl]

@[simp] theorem State.lookUp_bun (s : State) : s.lookUp.pl.bun = s.pl.bun := by rw [State.lookUp_pl]

@[simp] theorem State.lookUp_grp (s : State) : s.lookUp.pl.grp = s.pl.grp := by rw [State.lookUp_pl]

/-- The start of a group leaves the bundle at pc. -/
theorem State.bundleHere_groupStart (s : State) : s.groupStart.pl.bundleHere = s.pl.bundleHere :=
  Plane.bundleHere_congr _ _ (by simp only [State.groupStart, State.lookUp_cur])
    (by simp only [State.groupStart, State.lookUp_bun]) (by simp only [State.groupStart, State.lookUp_grp])

/-- With nothing on the agenda a step is a turn of the focused core. -/
theorem step_turn (s t : State) (ha : s.agenda = []) (h : s.turn = .next t) : step s = .next t.settled := by
  unfold step
  rw [ha]
  dsimp only
  rw [h]
  rfl

/-- Settles O5: the turn comes to the bundle at pc, at the group's start or within it, and the bundle's one instruction runs. -/
theorem stepRunsDecodedInstruction : Obligations.StepRunsDecodedInstruction := by
  intro s b k i t u g word ha hf hst hsoft hlb hlim hend hw he hz hx hg hb hk hrest hi hexec
  refine step_turn s _ ha ?_
  rw [State.turn_advance s hf hst hsoft hlb hlim hend hw]
  have hhere : s.pl.bundleHere = placed s.pl.grp b := Plane.bundleHere_eq _ _ hb
  have issue : ∀ v : State, v.pl.bundleHere = s.pl.bundleHere →
      exec i (v.enterBundle v.pl.bundleHere v.pl.grp .run) = .next t →
      runSlots (inOrder v.pl.bundleHere) (v.enterBundle v.pl.bundleHere v.pl.grp .run) = .next t := by
    intro v hv hrun
    rw [hv, hhere] at hrun ⊢
    exact runSlots_placed _ b k i _ t hk hrest hi hrun
  by_cases h0 : s.pl.grp = 0
  · obtain ⟨hblind, hraised, hsave, hheld, hring⟩ := hg h0
    have hgs : g = s.groupStart := by simp only [g, u, if_pos h0, State.groupStart]
    rw [State.advance_boundary s he hz h0, State.boundary_start s hblind hraised hsave hheld hx hring, State.startGroup_eq]
    rw [hgs] at hexec
    exact State.issueBundle_next _ t (issue _ (State.bundleHere_groupStart s) hexec)
  · have hgs : g = s := by simp only [g, if_neg h0]
    rw [State.advance_issue s he hz h0 hx]
    rw [hgs] at hexec
    exact State.issueBundle_next _ t (issue _ rfl hexec)

end Sys2Proof.Machine
end

section
/-!
PROOFS. The parts of O52: what each event of a core does.
-/

namespace Sys2Proof.Machine

open Sys2Proof Sys2Proof.Claim

/-! ### The gathered causes (R367) -/

/-- The first of the gathered causes is one of them. -/
theorem bestGathered_mem {l : List Gathered} {g : Gathered} (h : bestGathered l = some g) : g ∈ l := by
  induction l generalizing g with
  | nil => cases h
  | cons a t ih =>
    unfold bestGathered at h
    cases ht : bestGathered t with
    | none => rw [ht] at h; cases h; simp
    | some b =>
      rw [ht] at h
      dsimp only at h
      split at h
      · cases h; exact List.mem_cons_of_mem _ (ih ht)
      · cases h; simp

/-- The order of gathered causes, in numbers (R367). -/
theorem Gathered.first_iff (x y : Gathered) :
    x.first y = true ↔ x.cause.code.toNat < y.cause.code.toNat ∨
      (x.cause.code.toNat = y.cause.code.toNat ∧ x.req.toNat < y.req.toNat) := by
  simp [Gathered.first, BitVec.toNat_inj]

/-- There is a first cause unless none is gathered. -/
theorem bestGathered_none {l : List Gathered} (h : bestGathered l = none) : l = [] := by
  cases l with
  | nil => rfl
  | cons a t =>
    unfold bestGathered at h
    split at h
    · split at h <;> cases h
    · cases h

/-- No gathered cause goes before the first of them (R367). -/
theorem bestGathered_first {l : List Gathered} {g : Gathered} (h : bestGathered l = some g) :
    ∀ x ∈ l, ¬x.first g = true := by
  induction l generalizing g with
  | nil => cases h
  | cons a t ih =>
    unfold bestGathered at h
    cases ht : bestGathered t with
    | none =>
      rw [ht] at h
      cases h
      rw [bestGathered_none ht]
      simp [Gathered.first_iff]
    | some b =>
      rw [ht] at h
      have hb := ih ht
      simp only [Gathered.first_iff] at h hb ⊢
      split at h <;> cases h <;> intro x hx <;> rcases List.mem_cons.1 hx with rfl | hx
      · omega
      · exact hb x hx
      · omega
      · have := hb x hx; omega

end Sys2Proof.Machine
end

section
/-!
PROOFS. Entering a handler (R96): what a transfer of control and a taken trap leave of the plane.
-/

namespace Sys2Proof.Machine

open Sys2Proof Sys2Proof.Claim

/-! ### Where control goes (R38) -/

/-- A segment put in the executing half moves it and the deferred causes only. -/
theorem Plane.fetched_frame (p : Plane) (b : SegBuf) :
    p.fetched b = { p with cur := (p.fetched b).cur, deferred := (p.fetched b).deferred } := by
  unfold Plane.fetched
  split
  · rfl
  · dsimp only; split <;> rfl

/-- A segment that becomes the executing one moves the executing half, the deferred causes and the entry under way only. -/
theorem Plane.executing_frame (p : Plane) (b : SegBuf) :
    p.executing b = { p with cur := (p.executing b).cur, deferred := (p.executing b).deferred, enter := none } := by
  unfold Plane.executing
  rw [Plane.fetched_frame]

/-- A fall-through moves pc, the executing half, the deferred causes and the entry under way only. -/
theorem Plane.fallPast_frame (p : Plane) (r : SegBuf) :
    p.fallPast r = { p with seg := (p.fallPast r).seg, bun := (p.fallPast r).bun, cur := (p.fallPast r).cur,
                            deferred := (p.fallPast r).deferred, enter := (p.fallPast r).enter } := by
  unfold Plane.fallPast
  dsimp only
  split
  · rfl
  · split
    · rw [Plane.executing_frame]
    · split
      · rw [Plane.executing_frame]
      · rfl

/-- Entering a held segment moves the same parts as a fall-through. -/
theorem Plane.enterHeld_frame (p : Plane) (r : SegBuf) (bun : Nat) (via : Via) :
    p.enterHeld r bun via =
      { p with seg := (p.enterHeld r bun via).seg, bun := (p.enterHeld r bun via).bun, cur := (p.enterHeld r bun via).cur,
               deferred := (p.enterHeld r bun via).deferred, enter := (p.enterHeld r bun via).enter } := by
  unfold Plane.enterHeld
  split
  · rw [Plane.fallPast_frame, Plane.executing_frame]
  · rw [Plane.executing_frame]

/-- A transfer of control moves pc, both halves of the loop buffer, the deferred causes and the entry under way only. -/
theorem Plane.goTo_frame (p : Plane) (seg bun : Nat) (via : Via) :
    p.goTo seg bun via =
      { p with seg := (p.goTo seg bun via).seg, bun := (p.goTo seg bun via).bun, cur := (p.goTo seg bun via).cur,
               nxt := (p.goTo seg bun via).nxt, deferred := (p.goTo seg bun via).deferred,
               enter := (p.goTo seg bun via).enter } := by
  unfold Plane.goTo
  dsimp only
  split
  · rfl
  · split
    · rfl
    · split
      · rw [Plane.executing_frame]
      · split
        · rw [Plane.enterHeld_frame]
        · split
          · split
            · rw [Plane.enterHeld_frame]
            · rfl
          · rfl

/-! ### Addresses (R33) -/

/-- The address of a bundle: its segment above its number. -/
theorem mkAddr_eq (seg : BitVec 32) (bun : BitVec 12) : mkAddr seg.toNat bun.toNat = seg ++ bun := by
  apply BitVec.eq_of_toNat_eq
  have hs := seg.isLt
  have hb := bun.isLt
  rw [mkAddr, BitVec.toNat_ofNat, BitVec.toNat_append, Nat.mod_eq_of_lt hs, Nat.mod_eq_of_lt (show bun.toNat < 4096 from hb),
    ← Nat.shiftLeft_add_eq_or_of_lt hb, Nat.shiftLeft_eq]
  omega

/-! ### A trap taken (R96) -/

/-- A trap outside a handler, with a handler to enter, records its cause and leaves the core and the device. -/
theorem State.takeTrap_handler (s : State) (c : Cause) (req : Word) (seg bun : Nat) (hi : s.pl.intrap = false)
    (ht : s.pl.tbase.getLsbD 63 = true) :
    let t := s.takeTrap c req seg bun
    t.pl.intrap = true ∧ t.pl.ecause = c.code ∧ t.pl.edetail = c.detail ∧ t.pl.ereq = req ∧
      t.pl.epc = (mkAddr seg bun).setWidth 64 ∧ t.co = s.co ∧ t.dv = s.dv := by
  unfold State.takeTrap
  dsimp only
  rw [if_neg (by simp [hi]), if_pos ht, Plane.goTo_frame]
  exact ⟨rfl, rfl, rfl, rfl, rfl, rfl, rfl⟩

/-- A raised cause taken off moves only what holds pending causes. -/
theorem Plane.taken_frame (p : Plane) (g : Gathered) :
    p.taken g = { p with hdefer := (p.taken g).hdefer, deferred := (p.taken g).deferred, flight := (p.taken g).flight,
                         pending := (p.taken g).pending, mseen := (p.taken g).mseen, held := (p.taken g).held } := by
  unfold Plane.taken
  split
  · split <;> rfl
  all_goals rfl

/-- DEFERRED_TRAP (R366, R367): the first of the gathered causes is raised, and its trap enters the handler. -/
theorem deferredTrap_ends (s : State) (g : Gathered) (hg : s.pl.grp = 0) (hi : s.pl.intrap = false)
    (hu : s.pl.uncaptured = false) (ht : s.pl.tbase.getLsbD 63 = true) (hb : bestGathered s.gatherNext = some g) :
    Ends .deferredTrap s fun t => t.pl.intrap = true ∧ t.pl.ecause = g.cause.code ∧ t.pl.edetail = g.cause.detail ∧
      t.pl.ereq = g.req ∧ t.pl.epc = (s.pl.seg ++ s.pl.bun).setWidth 64 ∧ t.co = s.co ∧ t.dv = s.dv := by
  have hraise : s.deferredTrap =
      (s.modPl fun p => p.taken g).takeTrap g.cause g.req s.pl.seg.toNat s.pl.bun.toNat := by
    unfold State.deferredTrap State.boundaryTrap
    simp [hg, hb, hu]
  have hti : (s.modPl fun p => p.taken g).pl.intrap = false := by
    rw [State.modPl_pl, Plane.taken_frame]; exact hi
  have htt : (s.modPl fun p => p.taken g).pl.tbase.getLsbD 63 = true := by
    rw [State.modPl_pl, Plane.taken_frame]; exact ht
  refine ⟨_, rfl, ?_⟩
  rw [hraise, ← mkAddr_eq]
  exact State.takeTrap_handler _ g.cause g.req _ _ hti htt

end Sys2Proof.Machine
end

section
/-!
PROOFS. The bundle around its instructions: its start without matrix work, its flags, its pops and its counts (R15, R28, R101,
R142, R189, R363).
-/

namespace Sys2Proof.Machine

open Sys2Proof Sys2Proof.Claim

/-! ### Flags at a bundle's end (R142 to R144) -/

/-- The flags of one result set in its engine's word, with the deferred exception of those that are enabled. -/
def Plane.raiseFlags (p : Plane) (x : Nat × BitVec 5 × Word × Bool) : Plane :=
  let w := vget p.flags x.1 0#16
  let en := enabledOf w x.2.1
  let p1 := { p with flags := vput p.flags x.1 (w ||| x.2.1.setWidth 16) }
  if en ≠ 0#5 ∧ !x.2.2.2 then p1.deferAt 0 (fpCause x.1 en) x.2.2.1 else p1

/-- A bundle's flags are set one result after another. -/
theorem State.setFlags_pl (s : State) :
    s.setFlags.pl = { s.pl.newFlags.foldl Plane.raiseFlags s.pl with newFlags := [] } := rfl

/-- The flags of one result move flag words and deferred causes only. -/
theorem Plane.raiseFlags_frame (p : Plane) (x : Nat × BitVec 5 × Word × Bool) :
    p.raiseFlags x = { p with flags := (p.raiseFlags x).flags, deferred := (p.raiseFlags x).deferred,
                              hdefer := (p.raiseFlags x).hdefer } := by
  unfold Plane.raiseFlags Plane.deferAt
  dsimp only
  split
  · split <;> rfl
  · rfl

/-- A bundle's flags move flag words and deferred causes, and are noted no more. -/
theorem State.setFlags_frame (s : State) :
    s.setFlags.pl = { s.pl with flags := s.setFlags.pl.flags, deferred := s.setFlags.pl.deferred,
                                hdefer := s.setFlags.pl.hdefer, newFlags := [] } := by
  have hfold : ∀ (l : List (Nat × BitVec 5 × Word × Bool)) (p : Plane),
      l.foldl Plane.raiseFlags p = { p with flags := (l.foldl Plane.raiseFlags p).flags,
                                            deferred := (l.foldl Plane.raiseFlags p).deferred,
                                            hdefer := (l.foldl Plane.raiseFlags p).hdefer } := by
    intro l
    induction l with
    | nil => intro p; rfl
    | cons x t ih =>
      intro p
      refine (ih (p.raiseFlags x)).trans ?_
      have h := Plane.raiseFlags_frame p x
      rw [List.foldl_cons]
      generalize t.foldl Plane.raiseFlags (p.raiseFlags x) = r
      rw [h]
  rw [State.setFlags_pl]
  conv_lhs => rw [hfold]

/-- A bundle's pops move queues only, and are noted no more (R28). -/
theorem State.doPops_frame (s : State) :
    s.doPops.pl = { s.pl with vq := s.doPops.pl.vq, mq := s.doPops.pl.mq, popped := [] } := by
  have hfold : ∀ (l : List Nat) (p : Plane),
      l.foldl Plane.popHead p = { p with vq := (l.foldl Plane.popHead p).vq, mq := (l.foldl Plane.popHead p).mq } := by
    intro l
    induction l with
    | nil => intro p; rfl
    | cons q t ih =>
      intro p
      refine (ih (p.popHead q)).trans ?_
      rw [List.foldl_cons]
      generalize t.foldl Plane.popHead (p.popHead q) = r
      unfold Plane.popHead
      split <;> rfl
  rw [State.doPops_pl]
  conv_lhs => rw [hfold]

/-! ### A bundle without matrix work (R189, R193) -/

/-- The matrix engine does nothing when no instruction is unretired (R189). -/
theorem State.mTick_idle (s : State) (h : s.pl.m = []) : s.mTick = s := by
  have hr : s.mRetires = s := by unfold State.mRetires; rw [h]; rfl
  have hs : s.mStarts = s := by unfold State.mStarts; rw [h]; rfl
  have hst : s.mStream = s := by unfold State.mStream; rw [h]; rfl
  have hd : s.mDrains = s := by unfold State.mDrains; rw [h]; rfl
  unfold State.mTick
  split
  · rfl
  · rw [hr, hs, hst, hd]

/-- With no instruction of the matrix engine unretired, no tile is written at a bundle's end (R318). -/
theorem State.mFinish_idle (s : State) (h : s.pl.m = []) : s.mFinish = s := by
  unfold State.mFinish; rw [h]; rfl

/-- A bundle's end without matrix work moves the counts and leaves the flight (R101, R363). -/
theorem State.bundleEnd_idle (s : State) (h : s.pl.m = []) :
    s.bundleEnd.pl.bcount = s.pl.bcount + 1 ∧ s.bundleEnd.pl.cycle = s.pl.cycle + 1 ∧
      s.bundleEnd.pl.tcount = (if s.pl.intrap = true then s.pl.tcount else s.pl.tcount + 1) ∧
      s.bundleEnd.pl.flight = s.pl.flight := by
  have hm : s.setFlags.doPops.pl.m = [] := by rw [State.doPops_frame, State.setFlags_frame]; exact h
  have hpl : s.setFlags.doPops.mFinish.fixMarks.pl = s.setFlags.doPops.pl := by
    rw [State.mFinish_idle _ hm]; rfl
  unfold State.bundleEnd
  simp only [hpl]
  rw [State.doPops_frame, State.setFlags_frame]
  exact ⟨rfl, rfl, rfl, rfl⟩

/-- EMPTY_BUNDLE (R226): the counts advance and the results due land. -/
theorem emptyBundle_ends (s : State) (w : Wait) (hst : s.pl.status = .ready) (hw : s.pl.wait = some w)
    (hh : s.waitHolds s.pl w = false) (hz : s.frozen = false) (hm : s.pl.m = []) :
    Ends .emptyBundle s fun t => t.pl.bcount = s.pl.bcount + 1 ∧ t.pl.cycle = s.pl.cycle + 1 ∧
      t.pl.tcount = (if s.pl.intrap = true then s.pl.tcount else s.pl.tcount + 1) ∧
      t.pl.flight = s.pl.flight.filter fun f => decide (s.pl.bcount < f.due) := by
  have hidle : s.idling = true := by simp [State.idling, hst, hz, hw, hh]
  have hrun : exec .emptyBundle s = .next s.landDue.bundleEnd := by
    show Host.Outcome.next (if s.idling then s.emptyBundle else s) = _
    rw [if_pos hidle, State.emptyBundle, State.bundleStart, State.mTick_idle s hm]
  have hlm : s.landDue.pl.m = [] := by rw [State.landDue_pl]; exact hm
  refine ⟨_, hrun, ?_⟩
  obtain ⟨hb, hc, ht, hf⟩ := s.landDue.bundleEnd_idle hlm
  rw [hb, hc, ht, hf, State.landDue_pl]
  exact ⟨rfl, rfl, rfl, rfl⟩

end Sys2Proof.Machine
end

section
/-!
PROOFS. The events of a core: landings, data, segments, planes and push windows (R15 to R19, R31, R37, R199, R227).
-/

namespace Sys2Proof.Machine

open Sys2Proof Sys2Proof.Claim

/-! ### Results and far data (R15, R18) -/

/-- RESULT_LANDING and TIMED_LANDING (R15, R17): the oldest result due, its data back, leaves the flight and lands. -/
theorem landing_lands (s : State) (f : Flight)
    (hf : s.pl.flight.find? (fun f => decide (f.due ≤ s.pl.bcount)) = some f) (ha : f.arrived = true) :
    exec (if f.lb = true then .timedLanding else .resultLanding) s =
      .next (State.land { s with pl := { s.pl with flight := s.pl.flight.filter fun x => decide (x.id ≠ f.id) } } f) := by
  have h : s.landOne f.lb =
      State.land { s with pl := { s.pl with flight := s.pl.flight.filter fun x => decide (x.id ≠ f.id) } } f := by
    unfold State.landOne
    rw [hf]
    dsimp only
    rw [if_neg (by simp [ha])]
    rfl
  rw [← h]
  cases hl : f.lb <;> rfl

/-- FAR_DATA_ARRIVAL (R18): the result of that number has arrived once its data is fixed. -/
theorem farDataArrival_ends (s : State) (c p rid : Nat) (hc : s.box c ≠ none) :
    Ends (.farDataArrival c p rid) s fun t => t.dv = s.dv ∧ (t.plane c p).s = (s.plane c p).s ∧
      (t.plane c p).flight = (s.plane c p).flight.map fun f =>
        if f.id = rid ∧ f.known = true then { f with arrived := true } else f := by
  refine ⟨_, rfl, State.modPlane_dv _ _ _ _, ?_, ?_⟩
  · rw [State.plane_modPlane _ _ _ _ hc]; rfl
  · rw [State.plane_modPlane _ _ _ _ hc]
    refine List.map_congr_left fun f _ => ?_
    dsimp only
    by_cases hid : f.id = rid
    · by_cases hk : f.known = true
      · have ha : (f.arrived || f.known) = true := by simp [hk]
        rw [if_pos hid, if_pos ⟨hid, hk⟩, ha]
      · have ha : (f.arrived || f.known) = f.arrived := by simp [hk]
        rw [if_pos hid, if_neg fun h => hk h.2, ha]
    · rw [if_neg hid, if_neg fun h => hid h.1]

/-! ### Segments (R37 to R39) -/

/-- A plane with a live task stands on a core of the device. -/
theorem State.box_of_live {s : State} {c p : Nat} (h : (s.plane c p).live = true) : s.box c ≠ none := by
  intro hb
  unfold State.plane at h
  rw [hb] at h
  cases h

/-- SEGMENT_FETCH_DONE of a plane that waits for no entry (R37, R65): the next segment of the chain is fetched, or the chain
found broken. -/
theorem segmentFetchDone_prefetch (s : State) (c p : Nat) (cu : SegBuf) (hl : (s.plane c p).live = true)
    (he : (s.plane c p).enter = none) (hcu : (s.plane c p).cur = some cu) (hn : (s.plane c p).nxt = none)
    (hr : (s.plane c p).resident = false) (hnext : cu.next ≠ 0#64) (herr : cu.err = none) (hbr : cu.broken = false) :
    let f := (s.plane c p).fetcher c
    let m := s.misses f cu
    let r := m.2.fetchSeg f cu.nidx none
    (m.1 = false → exec (.segmentFetchDone c p) s =
      .next (r.2.modPlane c p fun q => { q with nxt := some (heldSeg cu.nidx r.1), cur := some cu })) ∧
    (m.1 = true → exec (.segmentFetchDone c p) s =
      .next (m.2.modPlane c p fun q => { q with nxt := none, cur := some { cu with broken := true } })) := by
  intro f m r
  have hdone : s.fetchDone c p =
      (s.prefetch f cu).2.modPlane c p fun q =>
        { q with nxt := (s.prefetch f cu).1, cur := some { cu with broken := (s.prefetch f cu).1.isNone } } := by
    unfold State.fetchDone
    simp [hl, he, hcu, hn, hr, hnext, herr, hbr, f]
  have hcu' : { cu with broken := false } = cu := by rw [← hbr]
  refine ⟨fun hm => ?_, fun hm => ?_⟩
  · have hp : s.prefetch f cu = (some (heldSeg cu.nidx r.1), r.2) := by
      unfold State.prefetch; exact if_neg (by rw [hm]; simp)
    show Host.Outcome.next (s.fetchDone c p) = _
    rw [hdone, hp]
    simp only [Option.isNone_some, hcu']
  · have hp : s.prefetch f cu = (none, m.2) := by
      unfold State.prefetch; exact if_pos hm
    show Host.Outcome.next (s.fetchDone c p) = _
    rw [hdone, hp]
    rfl

/-! ### The planes of a core (R227) -/

/-- ECLIPSE_SWAP (R227): a lit plane that cannot issue gives way to one that can. -/
theorem eclipseSwap_ends (s : State) (hw : s.pl.wait = none) (hc : s.pl.canRun = false) (hs : s.co.shadow.canRun = true) :
    Ends .eclipseSwap s fun t => t.pl = s.co.shadow.tick 4 ∧
      t.co = { s.co with shadow := s.pl.tick 4, lit := 1 - s.co.lit } ∧ t.dv = s.dv := by
  have h : exec .eclipseSwap s = .next s.swap := by
    show execEclipseSwap s = _
    unfold execEclipseSwap State.eclipse
    simp [hw, hc, hs]
  exact ⟨_, h, rfl, rfl, rfl⟩

/-! ### Push windows (R31, R199) -/

/-- PUSH_WINDOW_WRITE (R31): a write to a queue's window by the plane's own launch is held until it is admitted. -/
theorem pushWindowWrite_ends (s : State) (c p q : Nat) (d : BitVec 2048) (hp : p < 2) (hq : q < 32)
    (hl : (s.plane c p).live = true) :
    Ends (.pushWindowWrite c (0x10000 * p + 0x1000 * (q / 16) + 0x100 * (q % 16)) (s.plane c p).lid d) s fun t =>
      (t.plane c p).pushes = (s.plane c p).pushes ++ [⟨q, d, 0⟩] ∧ t.dv = s.dv := by
  have hplane : (0x10000 * p + 0x1000 * (q / 16) + 0x100 * (q % 16)) / 0x10000 % 2 = p := by omega
  have hqueue : (0x10000 * p + 0x1000 * (q / 16) + 0x100 * (q % 16)) / 0x1000 % 2 * 16 +
      (0x10000 * p + 0x1000 * (q / 16) + 0x100 * (q % 16)) / 0x100 % 16 = q := by omega
  have hwin : (0x10000 * p + 0x1000 * (q / 16) + 0x100 * (q % 16)) % 256 = 0 ∧
      0x10000 * p + 0x1000 * (q / 16) + 0x100 * (q % 16) < 0x20000 ∧
      (0x10000 * p + 0x1000 * (q / 16) + 0x100 * (q % 16)) % 0x10000 < 0x2000 := by omega
  obtain ⟨h1, h2, h3⟩ := hwin
  have h : exec (.pushWindowWrite c (0x10000 * p + 0x1000 * (q / 16) + 0x100 * (q % 16)) (s.plane c p).lid d) s =
      .next (s.modPlane c p fun pl => { pl with pushes := pl.pushes ++ [⟨q, d, 0⟩] }) := by
    show execPushWindowWrite _ _ _ _ _ = _
    unfold execPushWindowWrite
    dsimp only
    rw [hplane, hqueue, if_pos ⟨h1, h2, h3, hl, rfl⟩]
  refine ⟨_, h, ?_, State.modPlane_dv _ _ _ _⟩
  rw [State.plane_modPlane _ _ _ _ (State.box_of_live hl)]

/-- The first held push enters its queue when the queue has room (R31). -/
theorem Plane.letIn_head (p : Plane) (q n : Nat) (d : BitVec 2048) (rest : List Push) (hp : p.pushes = ⟨q, d, n⟩ :: rest)
    (hq : q < 32) (hroom : (p.queue q).length + p.reserved q < 4) :
    p.letIn = { p with vq := vput p.vq q (vget p.vq q [] ++ [⟨d, rowTag d⟩]), pushes := rest } := by
  have hcap : qCap q = 4 := by
    have : q ≠ 32 := by omega
    simp [qCap, this, Config.vqCap]
  unfold Plane.letIn
  rw [hp, List.length_cons, upTo, List.find?_cons_of_pos (by simp [hcap, hroom])]
  rfl

/-- PUSH_WINDOW_ADMIT (R31): between groups the first held push of a plane enters its queue. -/
theorem pushWindowAdmit_ends (s : State) (q n : Nat) (d : BitVec 2048) (rest : List Push) (hg : s.pl.grp = 0)
    (hp : s.pl.pushes = ⟨q, d, n⟩ :: rest) (hq : q < 32) (hroom : (s.pl.queue q).length + s.pl.reserved q < 4) :
    Ends (.pushWindowAdmit s.co.id) s fun t => t.pl.queue q = s.pl.queue q ++ [⟨d, rowTag d⟩] ∧ t.pl.pushes = rest ∧
      t.dv = s.dv := by
  have h : ∃ sh, exec (.pushWindowAdmit s.co.id) s = .next { s with pl := s.pl.letIn, co := { s.co with shadow := sh } } := by
    refine ⟨if s.co.shadow.grp = 0 then s.co.shadow.letIn else s.co.shadow, ?_⟩
    show execPushWindowAdmit _ _ = _
    unfold execPushWindowAdmit
    simp [State.box_focus, State.setBox, hg]
  obtain ⟨sh, hexec⟩ := h
  refine ⟨_, hexec, ?_, ?_, rfl⟩
  · have h32 : q ≠ 32 := by omega
    simp [Plane.letIn_head s.pl q n d rest hp hq hroom, Plane.queue, h32, vget_vput, hq]
  · rw [Plane.letIn_head s.pl q n d rest hp hq hroom]

end Sys2Proof.Machine
end

section
/-!
PROOFS. The events of the matrix engine with one instruction unretired, its chains, and window writes to accumulator rows
(R189, R193, R199, R216, R217).
-/

namespace Sys2Proof.Machine

open Sys2Proof Sys2Proof.Claim

/-! ### The engine's list with one instruction -/

/-- The one instruction of the list replaced. -/
theorem State.setM_one (s : State) (e x : MEnt) (hm : s.pl.m = [e]) (hx : x.issued = e.issued) :
    s.setM x = { s with pl := { s.pl with m := [x] } } := by
  have h : (s.pl.m.map fun y => if y.issued = x.issued then x else y) = [x] := by rw [hm]; simp [hx]
  rw [← h]
  rfl

/-- The one instruction of the list taken off. -/
theorem State.dropM_one (s : State) (e : MEnt) (hm : s.pl.m = [e]) :
    s.dropM e = { s with pl := { s.pl with m := [] } } := by
  have h : (s.pl.m.filter fun x => decide (x.issued ≠ e.issued)) = [] := by rw [hm]; simp
  rw [← h]
  rfl

/-- The one instruction retires when its count has come. -/
theorem State.mRetires_one (s : State) (e : MEnt) (hm : s.pl.m = [e]) (hs : e.start.isSome = true) (hr : e.retire ≤ s.pl.tcount)
    (ho : e.open_ = true) : s.mRetires = s.mRetire e := by
  unfold State.mRetires
  rw [hm]
  simp [hs, hr, ho, hm]

/-- Nothing retires before its count (R189). -/
theorem State.mRetires_early (s : State) (e : MEnt) (hm : s.pl.m = [e]) (hr : s.pl.tcount < e.retire) : s.mRetires = s := by
  unfold State.mRetires
  rw [hm]
  simp [Nat.not_le.2 hr]

/-! ### A start (R189) -/

/-- M_INSTRUCTION_START (R189): a waiting MMUL starts, and its retirement is set from its start. -/
theorem mInstructionStart_ends (s : State) (e : MEnt) (f : MMu) (hi : s.pl.intrap = false) (hm : s.pl.m = [e])
    (hins : e.ins = .mmul f) (hsupp : e.supp = none) (hbad : e.bad = none) (hst : e.start = none)
    (hc : e.issued + 1 ≤ s.pl.tcount) :
    Ends .mInstructionStart s fun t => t.co = s.co ∧ t.dv = s.dv ∧
      t.pl = { s.pl with m := [{ e with
        start := some s.pl.tcount, retire := s.pl.tcount + if e.skip = true then 2 else e.steps + 261 }] } := by
  have hret : e.retireAt s.pl.tcount = s.pl.tcount + if e.skip = true then 2 else e.steps + 261 := by
    simp only [MEnt.retireAt, MEnt.streams, hins, if_true]
    split <;> omega
  have hdead : e.dead = false := by simp [MEnt.dead, hsupp, hbad]
  have hbegin : s.mBegin e = { s with pl := { s.pl with m := [{ e with
      start := some s.pl.tcount, retire := s.pl.tcount + if e.skip = true then 2 else e.steps + 261 }] } } := by
    unfold State.mBegin
    simp only [hdead, hins, hret, Bool.false_eq_true, if_false]
    exact State.setM_one s e _ hm rfl
  have hfree : s.pl.portFree [] e s.pl.tcount = true := by simp [Plane.portFree, hins]
  have hready : e.ready s.co.id [] = true := by simp [MEnt.ready, hins]
  have hstart : s.mStarts = { s with pl := { s.pl with m := [{ e with
      start := some s.pl.tcount, retire := s.pl.tcount + if e.skip = true then 2 else e.steps + 261 }] } } := by
    unfold State.mStarts
    rw [hm]
    simp only [List.length_singleton, State.mStartsGo, hm, List.find?_cons, hst, Option.isNone_none, List.takeWhile_cons,
      ne_eq, not_true_eq_false, decide_false, Bool.false_eq_true, if_false, hc, hfree, hready, and_self, if_true]
    rw [hbegin]
    refine State.mRetires_early _ _ rfl ?_
    dsimp only
    split <;> omega
  refine ⟨s.mStarts, ?_, ?_⟩
  · show Host.Outcome.next (if s.pl.intrap then s else s.mStarts) = _
    rw [hi]; rfl
  · rw [hstart]
    exact ⟨rfl, rfl, rfl⟩

/-! ### A retirement (R189, R193) -/

/-- M_INSTRUCTION_RETIRE (R189): MZERO leaves the list, and its arrival waits for delivery. -/
theorem mInstructionRetire_ends (s : State) (e : MEnt) (f : R2) (b : Nat) (hi : s.pl.intrap = false) (hm : s.pl.m = [e])
    (hins : e.ins = .mzero f) (hsupp : e.supp = none) (hbad : e.bad = none) (hpops : e.pops = []) (hst : e.start = some b)
    (hr : e.retire ≤ s.pl.tcount) :
    Ends .mInstructionRetire s fun t => t.pl = { s.pl with m := [] } ∧ t.co = s.co ∧
      t.dv.arrQ = s.dv.arrQ ++ (e.arr.toList.map fun o => ⟨o, [], 0⟩) := by
  have hone : s.mRetires = s.mRetire e :=
    State.mRetires_one s e hm (by rw [hst]; rfl) hr (by simp [MEnt.open_, hins])
  have hdead : e.dead = false := by simp [MEnt.dead, hsupp, hbad]
  have hstreams : e.streams = false := by simp [MEnt.streams, hins]
  have hretire : s.mRetire e = (s.arrive e.arr [] 0).dropM e := by
    unfold State.mRetire
    simp [hdead, hstreams, hins, hsupp, hbad, hpops, State.modPl]
  refine ⟨s.mRetires, ?_, ?_⟩
  · show Host.Outcome.next (if s.pl.intrap then s else s.mRetires) = _
    rw [hi]; rfl
  · rw [hone, hretire, State.dropM_one _ e (by rw [State.arrive_pl]; exact hm), State.arrive_eq]
    refine ⟨rfl, rfl, ?_⟩
    cases e.arr <;> rfl

/-! ### A drain (R193, R217) -/

/-- A drain whose next vector is not due stops. -/
theorem State.mDrainGo_early (s : State) (n : Nat) (e : MEnt) (f : MDr) (due : Nat) (hm : s.pl.m = [e]) (hins : e.ins = .mdrain f)
    (hdue : e.vecDue e.pushed = some due) (ht : s.pl.tcount < due) : s.mDrainGo n e.issued = s := by
  cases n with
  | zero => rfl
  | succ n => simp [State.mDrainGo, hm, hins, hdue, Nat.not_le.2 ht]

/-- DRAIN_VECTOR_PUSH (R217): the vector due enters mq, and no other. -/
theorem drainVectorPush_ends (s : State) (e : MEnt) (f : MDr) (b : Nat) (hi : s.pl.intrap = false) (hm : s.pl.m = [e])
    (hins : e.ins = .mdrain f) (hst : e.start = some b) (hp : e.pushed < e.steps) (hcap : e.pushed < e.cap.length)
    (ht : s.pl.tcount = b + 11 + e.pushed + (if e.x.getLsbD 16 then 4 else 0)) :
    Ends .drainVectorPush s fun t => let r := (e.cap[e.pushed]?).getD 0#2048
      t.pl.mq = s.pl.mq ++ [⟨r, rowTag r⟩] ∧ t.pl.m = [{ e with pushed := e.pushed + 1 }] ∧ t.co = s.co ∧ t.dv = s.dv := by
  have hdue : ∀ v, e.vecDue v = some (b + 11 + v + (if e.x.getLsbD 16 then 4 else 0)) := fun v => by
    simp [MEnt.vecDue, hst]
  have hpush : (s.drainPush e e.pushed).pl.m = [{ e with pushed := e.pushed + 1 }] := by
    unfold State.drainPush
    rw [State.setM_one s e { e with pushed := e.pushed + 1 } hm rfl]
    rfl
  have hgo : s.mDrainGo 32 e.issued = s.drainPush e e.pushed := by
    have hnext : State.mDrainGo 31 { e with pushed := e.pushed + 1 }.issued (s.drainPush e e.pushed) = s.drainPush e e.pushed := by
      refine State.mDrainGo_early _ 31 { e with pushed := e.pushed + 1 } f _ hpush hins (hdue (e.pushed + 1)) ?_
      have : (s.drainPush e e.pushed).pl.tcount = s.pl.tcount := rfl
      omega
    have hne : e.cap.length ≠ e.pushed := by omega
    rw [State.mDrainGo]
    simpa [hm, hins, hdue, hp, ht, hne] using hnext
  have hdr : s.mDrains = s.drainPush e e.pushed := by
    unfold State.mDrains
    rw [hm]
    simp [hins, hgo]
  refine ⟨s.mDrains, ?_, ?_⟩
  · show Host.Outcome.next (if s.pl.intrap then s else s.mDrains) = _
    rw [hi]; rfl
  · rw [hdr]
    exact ⟨rfl, hpush, rfl, rfl⟩

/-! ### A chain (R216) -/

/-- A core that already holds the focus keeps it. -/
theorem State.focusOn_self (s : State) : s.focusOn s.co.id = s := by
  unfold State.focusOn
  rw [if_pos rfl]

/-- CHAIN_FORM (R216): with its receivers waiting on the cores to its east, the source's chain forms. -/
theorem chainForm_ends (s : State) (e : MEnt) (f : MCh) (hm : s.pl.m = [e]) (hins : e.ins = .mchain f)
    (hformed : e.formed = false)
    (hrecv : ∀ h, 1 ≤ h → h ≤ (e.y.extractLsb' 24 2).toNat + 1 → ∃ b ∈ s.others, b.co.id = s.co.id + h ∧ b.pl.lid = s.pl.lid ∧
      ∃ x f', b.pl.m = [x] ∧ x.ins = .mchainRecv f' ∧ x.formed = false ∧ x.hop = h) :
    Ends (.chainForm s.co.id) s fun t => t.pl.m = [{ e with formed := true }] ∧ t.co = s.co ∧ t.dv = s.dv ∧
      ∀ b ∈ t.others, s.co.id < b.co.id → b.co.id ≤ s.co.id + ((e.y.extractLsb' 24 2).toNat + 1) →
        ∀ x ∈ b.pl.m, (∃ f', x.ins = .mchainRecv f') → x.formed = true := by
  have hfol : bitsOf e.y.toNat 24 2 = (e.y.extractLsb' 24 2).toNat := by simp [bitsOf]
  have hform : ∃ join : CoreBox → CoreBox,
      s.formChain = { s.setM { e with formed := true } with others := s.others.map join } ∧
      ∀ b, (join b).co = b.co ∧ (s.co.id < b.co.id → b.co.id ≤ s.co.id + (bitsOf e.y.toNat 24 2 + 1) →
        ∀ x ∈ (join b).pl.m, (∃ f', x.ins = .mchainRecv f') → x.formed = true) := by
    unfold State.formChain
    rw [hm]
    simp only [List.find?_cons, hins, hformed, Bool.not_false]
    rw [if_pos]
    · refine ⟨_, rfl, fun b => ⟨?_, fun h1 h2 x hx hrx => ?_⟩⟩
      · split <;> rfl
      · rw [if_pos ⟨h1, h2⟩] at hx
        simp only [List.mem_map] at hx
        obtain ⟨y, hy, rfl⟩ := hx
        obtain ⟨f', hf'⟩ := hrx
        revert hf'
        split
        · split
          · exact fun _ => ‹_›
          · exact fun _ => rfl
        · rename_i hne
          exact fun hf' => absurd hf' (hne f')
    · rw [List.all_eq_true]
      intro h hh
      rw [mem_upTo] at hh
      obtain ⟨b, hb, hid, hlid, x, f', hbm, hxi, hxf, hxh⟩ := hrecv h hh.1 (by omega)
      rw [List.any_eq_true]
      refine ⟨b, hb, ?_⟩
      simp [hid, hlid, hbm, hxi, hxf, hxh]
  obtain ⟨join, hjoin, hspec⟩ := hform
  have hexec : exec (.chainForm s.co.id) s = .next s.formChain := by
    have hco : s.formChain.co.id = s.co.id := by rw [hjoin]; rfl
    show Host.Outcome.next ((s.focusOn s.co.id).formChain.focusOn s.co.id) = _
    rw [State.focusOn_self, ← hco, State.focusOn_self]
  refine ⟨_, hexec, ?_⟩
  rw [hjoin, State.setM_one s e { e with formed := true } hm rfl]
  refine ⟨rfl, rfl, rfl, fun b hb h1 h2 x hx hrx => ?_⟩
  obtain ⟨b0, -, rfl⟩ := List.mem_map.1 hb
  obtain ⟨hco, hspec⟩ := hspec b0
  rw [hco] at h1 h2
  exact hspec h1 (by omega) x hx hrx

/-! ### Window writes to accumulator rows (R199) -/

/-- A number replaced whole. -/
theorem bitsPut_whole {n : Nat} (x v : BitVec n) : bitsPut x.toNat 0 n v.toNat = v.toNat := by
  rw [bitsPut_eq, Nat.zero_add, Nat.div_eq_of_lt x.isLt, Nat.mod_eq_of_lt v.isLt]
  simp [Nat.mod_one]

/-- A write of a whole row covers every mark of it. -/
theorem wholeRow_marks :
    2 ^ 256 - 1 - packs 1 ((upTo 0 256).map fun j => b2n (decide (4 * j < 1024 ∧ 0 < 4 * j + 4))) = 0 := by decide +kernel

/-- A whole accumulator row written through the window. -/
theorem Core.accRow_accWrite (c : Core) (row : Nat) (d : BitVec 8192) :
    let t := c.accWrite row 0 1024 d.toNat
    (t.accRow row).data = d ∧ (t.accRow row).isInt = false ∧ (t.accRow row).marks = 0#256 ∧
      t.colState (row / 128) = { c.colState (row / 128) with invalid := true } ∧
      ∀ r, r ≠ row → t.accRow r = c.accRow r := by
  have hget : ∀ (x : AccRow) (y : ColState) (r : Nat),
      ((c.setAcc row x).setCol (row / 128) y).accRow r = if r = row then x else c.accRow r := fun x y r =>
    SMap.get_set accReset c.acc row r x
  have hcol : ∀ (x : AccRow) (y : ColState), ((c.setAcc row x).setCol (row / 128) y).colState (row / 128) = y := fun x y => by
    have := SMap.get_set colReset c.cols (row / 128) (row / 128) y
    rwa [if_pos rfl] at this
  have hdata : bitsPut (c.accRow row).data.toNat (8 * 0) (8 * (1024 - 0)) d.toNat = d.toNat :=
    bitsPut_whole (c.accRow row).data d
  unfold Core.accWrite
  dsimp only
  rw [hdata, wholeRow_marks]
  simp only [hget, hcol, if_pos]
  refine ⟨(BitVec.ofNat_toNat 8192 d).trans (BitVec.setWidth_eq d), trivial, ?_, trivial, fun r hr => if_neg hr⟩
  simp

/-- ACC_WINDOW_WRITE (R199): a whole row written, of kind float and with no marks; its bank's column state becomes invalid, and
no other row changes. -/
theorem accWindowWrite_ends (s : State) (c row : Nat) (d : BitVec 8192) (hc : s.box c ≠ none) (hb : s.winBusy c row = false)
    (hrow : row < 8192) :
    Ends (.accWindowWrite c row d) s fun t => t.dv = s.dv ∧ ((t.core c).accRow row).data = d ∧
      ((t.core c).accRow row).isInt = false ∧ ((t.core c).accRow row).marks = 0#256 ∧
      (t.core c).colState (row / 128) = { (s.core c).colState (row / 128) with invalid := true } ∧
      ∀ r, r ≠ row → (t.core c).accRow r = (s.core c).accRow r := by
  have h : exec (.accWindowWrite c row d) s = .next (s.modCore c fun co => co.accWrite row 0 1024 d.toNat) := by
    show execAccWindowWrite c row d s = _
    unfold execAccWindowWrite
    simp [hb, Nat.not_le.2 hrow]
  refine ⟨_, h, State.modCore_dv _ _ _, ?_⟩
  rw [State.core_modCore _ _ _ hc]
  exact Core.accRow_accWrite (s.core c) row d

/-- Settles O52: one lemma per event of a core. -/
theorem coreEvents : Obligations.CoreEvents := by
  refine ⟨fun s g hg hi hu ht hb => ⟨⟨bestGathered_mem hb, fun x hx => ?_⟩, deferredTrap_ends s g hg hi hu ht hb⟩,
    landing_lands, farDataArrival_ends, segmentFetchDone_prefetch, emptyBundle_ends, eclipseSwap_ends, pushWindowWrite_ends,
    pushWindowAdmit_ends, mInstructionStart_ends, mInstructionRetire_ends, drainVectorPush_ends, chainForm_ends,
    accWindowWrite_ends⟩
  have hfirst := bestGathered_first hb x hx
  rw [Gathered.first_iff] at hfirst
  by_cases hcode : g.cause.code = x.cause.code
  · exact .inr ⟨hcode, by rw [hcode] at hfirst; omega⟩
  · have hne : g.cause.code.toNat ≠ x.cause.code.toNat := fun e => hcode (BitVec.eq_of_toNat_eq e)
    exact .inl (by omega)

end Sys2Proof.Machine
end

section
/-!
PROOFS. A failing check takes its trap before its group issues (R14, R61, R96, R367): the lowest of the causes, found by the
simulated issue of the group's first bundle.
-/

namespace Sys2Proof.Machine

open Sys2Proof Sys2Proof.Claim

/-! ### The lowest cause (R61) -/

/-- The lowest of a list's causes is one of them. -/
theorem lowest_mem {l : List Cause} {d : Cause} (h : lowest l = some d) : d ∈ l := by
  induction l with
  | nil => cases h
  | cons a t ih =>
    unfold lowest at h
    split at h
    · split at h <;> cases h
      · exact List.mem_cons_of_mem _ (ih ‹_›)
      · simp
    · cases h; simp

/-- The lowest of the causes that a list of checks meets: one that every other one met is higher than. -/
theorem lowest_of_lt {l : List Cause} {c : Cause} (hc : c ∈ l) (h : ∀ d ∈ l, d = c ∨ c.code.toNat < d.code.toNat) :
    lowest l = some c := by
  induction l with
  | nil => cases hc
  | cons a t ih =>
    have ht : ∀ d ∈ t, d = c ∨ c.code.toNat < d.code.toNat := fun d hd => h d (List.mem_cons_of_mem _ hd)
    unfold lowest
    rcases List.mem_cons.1 hc with rfl | hct
    · cases hl : lowest t with
      | none => rfl
      | some d =>
        rcases ht d (lowest_mem hl) with rfl | hlt
        · simp
        · simp [Nat.lt_asymm hlt]
    · rw [ih hct ht]
      rcases h a (by simp) with rfl | hlt
      · simp
      · simp [hlt]

/-- The first of a list's causes is the lowest when none has a lower code. -/
theorem lowest_head {l : List Cause} {c : Cause} (h : ∀ d ∈ l, c.code.toNat ≤ d.code.toNat) : lowest (c :: l) = some c := by
  unfold lowest
  cases hl : lowest l with
  | none => rfl
  | some d => simp [Nat.not_lt.2 (h d (lowest_mem hl))]

/-! ### Checks and their traps (R14; log entry 9) -/

/-- `i`'s precise checks at `s`: the causes they meet, each where its check fails. -/
def Checks (i : Instr) (s : State) (l : List (Option Cause)) : Prop := ∃ eff, exec i s = s.guarded i.slot l eff

/-- The lowest cause of an instruction's checks is found by the check of its group, and trapped when it issues by itself. -/
theorem Checks.fails {i : Instr} {s : State} {l : List (Option Cause)} (h : Checks i s l) {c : Cause}
    (hc : lowest (l.filterMap id) = some c) (hm : some c ∈ l) : Fails i s c := by
  obtain ⟨eff, heff⟩ := h
  have hmem : c ∈ l.filterMap id := List.mem_filterMap.2 ⟨some c, hm, rfl⟩
  refine ⟨fun hmode => ?_, fun hmode => ?_⟩
  · rw [heff]
    unfold State.guarded
    rw [hmode]
    cases hl : l.filterMap id with
    | nil => rw [hl] at hmem; cases hmem
    | cons a t =>
      refine ⟨_, rfl, ?_⟩
      rw [hl] at hmem
      simp only [State.modPl_pl, List.mem_append, List.mem_map]
      exact .inr ⟨c, hmem, rfl⟩
  · rw [heff]
    exact State.guarded_trap _ _ _ _ _ hmode hc

/-- A failing check whose code is lower than that of every other failing one gives the trap. -/
theorem Checks.fails_of_lt {i : Instr} {s : State} {l : List (Option Cause)} (h : Checks i s l) {c : Cause}
    (hm : some c ∈ l) (hlt : ∀ d, some d ∈ l → d = c ∨ c.code.toNat < d.code.toNat) : Fails i s c :=
  h.fails (lowest_of_lt (List.mem_filterMap.2 ⟨some c, hm, rfl⟩) fun d hd => by
    obtain ⟨o, ho, hod⟩ := List.mem_filterMap.1 hd
    exact hlt d (by rw [← hod]; exact ho)) hm

end Sys2Proof.Machine
end

section
/-!
PROOFS. The boundary of a group whose check fails (R14, R61, R367), and the causes that the check of a group finds.
-/

namespace Sys2Proof.Machine

open Sys2Proof Sys2Proof.Claim

/-! ### The trap at the boundary (R14, R367) -/

/-- A precise cause goes before every gathered cause of a higher code (R367; log entry 98). -/
theorem State.raised_precise (s : State) (c : Cause) (h : ∀ g ∈ s.gather, c.code.toNat < g.cause.code.toNat) :
    s.raised (some c) = some (c, 0#64, none) := by
  unfold State.raised
  dsimp only [Option.isNone_some]
  simp only [Bool.false_eq_true, if_false]
  cases hg : bestGathered s.gather with
  | none => rfl
  | some g => exact if_pos (h g (bestGathered_mem hg))

/-- With no result to wait for, a precise trap at a boundary is taken there (R369). -/
theorem State.boundaryTrap_none (s : State) (c : Cause) (req : Word)
    (h : s.pl.tbase.getLsbD 63 = true → s.pl.uncaptured = false) :
    s.boundaryTrap c req none = s.takeTrap c req s.pl.seg.toNat s.pl.bun.toNat := by
  unfold State.boundaryTrap
  exact if_neg fun ⟨_, ht, hu⟩ => by rw [h ht] at hu; cases hu

/-- A boundary whose precise cause is the lowest takes its trap and issues no bundle of the group. -/
theorem State.boundary_trap (s : State) (c : Cause) (hb : s.groupBlind s.pl.placedGroup s.pl.group.1.length = false)
    (hc : s.preciseCause = some c) (hg : ∀ g ∈ s.gather, c.code.toNat < g.cause.code.toNat)
    (ht : s.pl.tbase.getLsbD 63 = true → s.pl.uncaptured = false) :
    s.boundary = .next ((if s.remoteAcc c then s.pass 4 else s).takeTrap c 0#64 s.pl.seg.toNat s.pl.bun.toNat) := by
  have hcap : (s.pl.tbase.getLsbD 63 && s.pl.uncaptured) = false := by
    cases hb : s.pl.tbase.getLsbD 63 with
    | false => rfl
    | true => exact ht hb
  unfold State.boundary
  dsimp only
  rw [hb, hc, s.raised_precise c hg, hcap]
  simp only [Bool.false_eq_true, if_false, Option.isNone_none, Bool.true_and, Bool.not_false, Bool.and_true]
  split
  · exact congrArg _ ((s.pass 4).boundaryTrap_none c 0#64 ht)
  · exact congrArg _ (s.boundaryTrap_none c 0#64 ht)

/-- A step at a boundary whose precise cause is the lowest takes the trap at the group's first bundle (R14). -/
theorem step_trap_at_boundary (s : State) (c : Cause) (h : AtBoundary s) (hc : s.preciseCause = some c)
    (hg : ∀ g ∈ s.gather, c.code.toNat < g.cause.code.toNat)
    (ht : s.pl.tbase.getLsbD 63 = true → s.pl.uncaptured = false) :
    step s = .next (State.settled
      ((if s.remoteAcc c then s.pass 4 else s).takeTrap c 0#64 s.pl.seg.toNat s.pl.bun.toNat)) := by
  obtain ⟨ha, hf, hst, hsoft, hlb, hlim, hend, hw, he, hz, hgrp, hblind⟩ := h
  refine step_turn s _ ha ?_
  rw [State.turn_advance s hf hst hsoft hlb hlim hend hw, State.advance_boundary s he hz hgrp]
  exact s.boundary_trap c hblind hc hg ht

/-! ### The causes of a group (R61) -/

/-- The order of a group's causes, in numbers (R61). -/
theorem Found.first_iff (a b : Found) :
    a.first b = true ↔ a.cause.code.toNat < b.cause.code.toNat ∨
      (a.cause.code.toNat = b.cause.code.toNat ∧ (a.pos < b.pos ∨ (a.pos = b.pos ∧ a.slot < b.slot))) := by
  simp [Found.first, BitVec.toNat_inj]

/-- The cause raised has the lowest code (R61). -/
theorem bestFound_le {l : List Found} {c : Found} (hc : c ∈ l) :
    ∃ d, bestFound l = some d ∧ d.cause.code.toNat ≤ c.cause.code.toNat := by
  induction l generalizing c with
  | nil => cases hc
  | cons a t ih =>
    unfold bestFound
    cases ht : bestFound t with
    | none =>
      rcases List.mem_cons.1 hc with rfl | hct
      · exact ⟨_, rfl, Nat.le_refl _⟩
      · obtain ⟨d, hd, _⟩ := ih hct
        rw [ht] at hd; cases hd
    | some b =>
      have hle : ∀ x ∈ t, b.cause.code.toNat ≤ x.cause.code.toNat := fun x hx => by
        obtain ⟨d, hd, hle⟩ := ih hx
        rw [ht] at hd; cases hd; exact hle
      dsimp only
      by_cases hf : b.first a = true
      · refine ⟨b, if_pos hf, ?_⟩
        rw [Found.first_iff] at hf
        rcases List.mem_cons.1 hc with rfl | hct
        · omega
        · exact hle c hct
      · refine ⟨a, if_neg hf, ?_⟩
        rw [Found.first_iff] at hf
        rcases List.mem_cons.1 hc with rfl | hct
        · exact Nat.le_refl _
        · have := hle c hct; omega

/-- A simulated issue keeps the causes it has found. -/
theorem Sim.found_foldl (l : List (Nat × Bundle)) (x : Sim) {c : Found} (h : c ∈ x.found) :
    c ∈ (l.foldl Sim.bundle x).found := by
  induction l generalizing x with
  | nil => exact h
  | cons b t ih =>
    refine ih _ ?_
    unfold Sim.bundle
    exact List.mem_append_left _ h

/-- A simulated bundle's causes are found. -/
theorem Sim.mem_bundle_found (x : Sim) (b : Nat × Bundle) {p : Placed} {c : Found} (hp : p ∈ placed b.1 b.2)
    (hc : c ∈ (x.s.enterBundle (placed b.1 b.2) b.1 .run).causesOf p) : c ∈ (x.bundle b).found := by
  unfold Sim.bundle
  dsimp only
  rw [List.mem_append, List.mem_flatMap]
  refine .inr ⟨(p, _), List.mem_map_of_mem hp, ?_⟩
  exact List.mem_append_left _ (List.mem_append_left _ hc)

/-- A group's causes hold those of its first bundle's instructions (R14). -/
theorem State.groupCauses_first (s : State) {first : Nat × Bundle} {rest : List (Nat × Bundle)} {x : Placed} {c : Found}
    (hb : s.pl.groupBundles = first :: rest) (hx : x ∈ placed first.1 first.2)
    (hc : c ∈ (State.enterBundle { s with pl := { s.pl with gEnd := s.pl.group.1.length, looks := [] } }
      (placed first.1 first.2) first.1 .run).causesOf x) : c ∈ s.groupCauses := by
  refine List.mem_append_right _ ?_
  unfold State.groupSim
  rw [hb, List.foldl_cons]
  exact Sim.found_foldl rest _ (Sim.mem_bundle_found _ first hx hc)

/-- A group whose checks find a cause, in a segment that was read, has a precise cause of at most its code (R61). -/
theorem State.preciseCause_le (s : State) {c : Found} (he : s.pl.cur.bind (·.err) = none)
    (hin : InSegment s.pl s.pl.bun.toNat) (hr : s.ringHeld s.pl.placedGroup = false) (hc : c ∈ s.groupCauses) :
    ∃ d, s.preciseCause = some d ∧ d.code.toNat ≤ c.cause.code.toNat := by
  obtain ⟨d, hd, hle⟩ := bestFound_le hc
  refine ⟨d.cause, ?_, hle⟩
  unfold State.preciseCause
  rw [he, hr, hd]
  exact (if_neg (Nat.not_le.2 hin)).trans rfl

end Sys2Proof.Machine
end

section
/-!
PROOFS. The checks of single instructions that fail (R30, R33, R35, R89, R91, R93, R94, R99).
-/

namespace Sys2Proof.Machine

open Sys2Proof Sys2Proof.Claim

/-! ### Checks -/

@[simp] theorem need_true (c : Cause) : need true c = none := rfl

@[simp] theorem need_false (c : Cause) : need false c = some c := rfl

/-- The checks of an instruction whose meaning stands behind them. -/
theorem Checks.of_eq {i : Instr} {s : State} {k : Nat} {l : List (Option Cause)} {eff : State → State} (hi : i.slot = k)
    (h : exec i s = s.guarded k l eff) : Checks i s l := ⟨eff, by rw [hi]; exact h⟩

/-- The only failing check gives the trap. -/
theorem Checks.fails_only {i : Instr} {s : State} {l : List (Option Cause)} (h : Checks i s l) {c : Cause}
    (hm : some c ∈ l) (honly : ∀ d, some d ∈ l → d = c) : Fails i s c :=
  h.fails_of_lt hm fun d hd => .inl (honly d hd)

/-! ### Empty queues (R30) -/

/-- The detail word of a pop or peek of an empty queue, in numbers (R30). -/
theorem queueDetail_peek (q pos : Nat) (pk : BitVec 1) :
    queueDetail q pos (b2n (pk == 1#1)) =
      BitVec.ofNat 64 ((if q = 32 then 0x20 else q) + pos * 512 + pk.toNat * 4096) := by
  have hpk : b2n (pk == 1#1) = pk.toNat := by
    rcases BitVec.eq_zero_or_eq_one pk with rfl | rfl <;> rfl
  simp [queueDetail, hpk, Nat.shiftLeft_eq]

/-- A queue without room fails with its code (R30). -/
theorem Plane.pushFault_code {p : Plane} {q n : Nat} {own : List Nat} {c : Cause} (h : p.pushFault q n own = some c) :
    c.code = 0x05#8 := by
  simp only [Plane.pushFault, Option.ite_none_right_eq_some, Option.some.injEq] at h
  obtain ⟨_, rfl⟩ := h
  rfl

/-- The checks of a vector instruction with one source queue: the queue is not empty, and its destination has room. -/
theorem Checks.vec2 {i : Instr} {s : State} {f : V2} {lat : Nat} {g : List Bool → Entry → VRes}
    (hi : i.slot = 2 + f.cl.toNat) (h : exec i s = s.vec2 f lat g) {q : Nat}
    (hq : srcQueue f.cl.toNat f.va.toNat = some q) :
    Checks i s [s.pl.popFault q (f.pa == 1#1),
      s.pl.pushFault (16 * f.cl.toNat + f.vd.toNat) 1 (popsOf f.cl.toNat [src f.va f.pa])] := by
  unfold State.vec2 State.vector at h
  simp only [src, hq, Nat.add_sub_cancel, List.map_cons, List.map_nil, Option.map_none, Option.toList_none, List.nil_append,
    List.cons_append] at h
  exact Checks.of_eq (hi.trans (Nat.add_comm _ _)) h

/-- A vector instruction whose one source queue is empty fails with QUEUE_EMPTY (R30). -/
theorem vec2_fails {i : Instr} {s : State} {f : V2} {lat : Nat} {g : List Bool → Entry → VRes}
    (hi : i.slot = 2 + f.cl.toNat) (h : exec i s = s.vec2 f lat g) {q : Nat}
    (hq : srcQueue f.cl.toNat f.va.toNat = some q) (he : s.pl.queue q = []) :
    Fails i s ⟨0x04#8, BitVec.ofNat 64 ((if q = 32 then 0x20 else q) + s.pl.grp * 512 + f.pa.toNat * 4096)⟩ := by
  refine (Checks.vec2 hi h hq).fails_of_lt ?_ fun d hd => ?_
  · simp [Plane.popFault, he, queueDetail_peek]
  · rcases List.mem_cons.1 hd with hd | hd
    · simp only [Plane.popFault, he, queueDetail_peek, List.isEmpty_nil, if_true, Option.some.injEq] at hd
      exact .inl hd
    · exact .inr (by rw [Plane.pushFault_code (List.mem_singleton.1 hd).symm]; exact Nat.lt_add_one 4)

/-! ### Addresses and targets (R85, R88, R93) -/

/-- The detail word of the executing bundle, in numbers (R93). -/
theorem Plane.here_eq (p : Plane) : p.here = BitVec.ofNat 64 (p.seg.toNat * 4096 + p.bun.toNat) := by
  unfold Plane.here
  rw [mkAddr_eq]
  apply BitVec.eq_of_toNat_eq
  have hb := p.bun.isLt
  have hs := p.seg.isLt
  rw [BitVec.toNat_setWidth, BitVec.toNat_append, BitVec.toNat_ofNat, ← Nat.shiftLeft_add_eq_or_of_lt hb, Nat.shiftLeft_eq]

/-- An offset to a bundle of the executing segment names it (R85). -/
theorem Plane.target_inSegment {p : Plane} {off : Int} {b : Nat} (h : (p.bun.toNat : Int) + off = b) (hb : InSegment p b) :
    p.target off = some b := by
  unfold Plane.target
  rw [h]
  exact if_pos ⟨by omega, by exact_mod_cast hb⟩

/-- A register names a bundle of the executing segment (R88). -/
theorem Plane.index_inSegment {p : Plane} {v : Word} (hb : InSegment p v.toNat) : p.index v = some v.toNat := if_pos hb

/-- A taken transfer in the end bundle of the innermost live level fails (R93). -/
theorem Plane.endFault_eq {p : Plane} {l : Loop} {rest : List Loop} (h : p.liveLoops = l :: rest) (hs : l.seg = p.seg)
    (hb : l.stop = p.bun) : p.endFault = some ⟨0x0A#8, p.here⟩ := by
  unfold Plane.endFault
  rw [h]
  exact if_pos ⟨hs, hb⟩

/-- No check of R93 has a cause but its own. -/
theorem Plane.endFault_code {p : Plane} {c : Cause} (h : p.endFault = some c) : c.code = 0x0A#8 := by
  unfold Plane.endFault at h
  split at h
  · split at h <;> cases h
    rfl
  · cases h

/-- The checks of a jump (R40, R93). -/
theorem Checks.jumpTo {i : Instr} {s : State} {t : Option Nat} {more : List (Option Cause)} {f : State → State}
    (hi : i.slot = 0) (h : exec i s = s.jumpTo i t more f) :
    Checks i s (need t.isSome (s.illegal i 6 0xFF) :: s.pl.endFault :: more) := by
  exact Checks.of_eq hi h

/-- The checks of RET (R89, R93). -/
theorem Checks.ret (f : CN) (s : State) :
    Checks (.ret f) s [need (!s.pl.liveRets.isEmpty) ⟨0x08#8, s.pl.here⟩, s.pl.endFault] :=
  Checks.of_eq rfl (by show execRet f s = _; unfold execRet; rfl)

/-- The checks of ERET (R93, R99). -/
theorem Checks.eret (f : CN) (s : State) :
    Checks (.eret f) s [need s.pl.intrap (s.illegal (.eret f) 3 23), s.pl.endFault] :=
  Checks.of_eq rfl (show execEret f s = _ from rfl)

/-! ### The return store (R35, R89) -/

/-- A call to a bundle of its segment with a full return store fails with CALL_DEPTH (R35). -/
theorem call_fails {i : Instr} {s : State} {t : Option Nat} (hi : i.slot = 0)
    (h : exec i s = s.jumpTo i t [s.callFault] State.pushRet) (ht : t.isSome = true) (hr : s.pl.rets.length = 16) :
    Fails i s ⟨0x07#8, s.pl.here⟩ := by
  have hf : s.callFault = some ⟨0x07#8, s.pl.here⟩ := by simp [State.callFault, hr, Config.retMax]
  refine (Checks.jumpTo hi h).fails_of_lt (by simp [hf]) fun d hd => ?_
  rw [ht, hf] at hd
  simp only [need_true, List.mem_cons, List.not_mem_nil, or_false, reduceCtorEq, false_or, Option.some.injEq] at hd
  rcases hd with hd | hd
  · exact .inr (by rw [Plane.endFault_code hd.symm]; exact show 7 < 10 by decide)
  · exact .inl hd

/-- RET from an empty store fails (R89). -/
theorem ret_fails (f : CN) (s : State) (h : s.pl.liveRets = []) : Fails (.ret f) s ⟨0x08#8, s.pl.here⟩ := by
  refine (Checks.ret f s).fails_of_lt (by simp [h]) fun d hd => ?_
  simp only [h, List.isEmpty_nil, Bool.not_true, need_false, List.mem_cons, List.not_mem_nil, or_false,
    Option.some.injEq] at hd
  rcases hd with hd | hd
  · exact .inl hd
  · exact .inr (by rw [Plane.endFault_code hd.symm]; exact show 8 < 10 by decide)

/-- ERET outside a handler fails (R99). -/
theorem eret_fails (f : CN) (s : State) (h : s.pl.intrap = false) : Fails (.eret f) s (s.illegal (.eret f) 3 23) := by
  refine (Checks.eret f s).fails_of_lt (by simp [h]) fun d hd => ?_
  simp only [h, need_false, List.mem_cons, List.not_mem_nil, or_false, Option.some.injEq] at hd
  rcases hd with hd | hd
  · exact .inl hd
  · exact .inr (by rw [Plane.endFault_code hd.symm]; exact show 2 < 10 by decide)

/-! ### Loop levels (R91, R94) -/

/-- LOOP and LOOPI with six levels open fail (R91). -/
theorem openLoop_fails {i : Instr} {s : State} {count : BitVec 32} {dist : Nat} {pre : Bool} (hi : i.slot = 0)
    (h : exec i s = s.openLoop i count (dist + 1) pre) (hl : s.pl.loops.length = 6)
    (hfirst : s.pl.bun.toNat - s.pl.grp + s.pl.gEnd ≤ s.pl.bun.toNat + dist + 1)
    (hin : InSegment s.pl (s.pl.bun.toNat + dist + 1))
    (hinner : ∀ l, s.pl.levelHere = some l → s.pl.bun.toNat + dist + 1 ≤ l.stop.toNat) :
    Fails i s ⟨0x09#8, s.pl.here⟩ := by
  have hfirst' : decide (s.pl.bun.toNat - s.pl.grp + s.pl.gEnd ≤ s.pl.bun.toNat + (dist + 1)) = true :=
    decide_eq_true hfirst
  have hin' : decide (s.pl.bun.toNat + (dist + 1) < s.pl.len) = true := decide_eq_true hin
  have hcheck : Checks i s [none, some ⟨0x09#8, s.pl.here⟩] := by
    unfold State.openLoop at h
    dsimp only at h
    rw [hfirst', hin', hl] at h
    cases hlv : s.pl.levelHere with
    | none =>
      rw [hlv] at h
      exact Checks.of_eq hi h
    | some l =>
      have hinner' : decide (s.pl.bun.toNat + (dist + 1) ≤ l.stop.toNat) = true := decide_eq_true (hinner l hlv)
      rw [hlv] at h
      dsimp only at h
      rw [hinner'] at h
      exact Checks.of_eq hi h
  exact hcheck.fails_only (by simp) fun d hd => by simpa using hd

/-- BRKL that leaves more levels than are live fails (R94). -/
theorem brkl_fails (f : CK) (s : State) (h : s.pl.liveLoops.length ≤ f.k.toNat) :
    Fails (.brkl f) s ⟨0x09#8, s.pl.here⟩ := by
  have hk : decide (f.k.toNat + 1 ≤ s.pl.liveLoops.length) = false := decide_eq_false (by omega)
  have hc : Checks (.brkl f) s [need (decide (f.k.toNat + 1 ≤ s.pl.liveLoops.length)) ⟨0x09#8, s.pl.here⟩] :=
    Checks.of_eq rfl (by show execBrkl f s = _; unfold execBrkl; rfl)
  rw [hk] at hc
  exact hc.fails_only (by simp) fun d hd => by simpa using hd

end Sys2Proof.Machine
end

section
/-!
PROOFS. Every taken transfer of R93 in the end bundle of the innermost live level fails.
-/

namespace Sys2Proof.Machine

open Sys2Proof Sys2Proof.Claim

/-- A jump to a bundle of its segment, its own checks passed, fails in a level's end bundle (R93). -/
theorem jumpTo_fails_at_end {i : Instr} {s : State} {t : Option Nat} {more : List (Option Cause)} {f : State → State}
    {c : Cause} (hi : i.slot = 0) (h : exec i s = s.jumpTo i t more f) (ht : t.isSome = true)
    (hmore : ∀ o ∈ more, o = none) (he : s.pl.endFault = some c) : Fails i s c := by
  refine (Checks.jumpTo hi h).fails_only (by simp [he]) fun d hd => ?_
  rw [ht, he] at hd
  simp only [need_true, List.mem_cons, reduceCtorEq, false_or, Option.some.injEq] at hd
  rcases hd with hd | hd
  · exact hd
  · cases hmore _ hd

/-- A call finds room in the return store (R35). -/
theorem State.callFault_of_lt {s : State} (h : s.pl.rets.length < 16) : s.callFault = none := by
  simp [State.callFault, Config.retMax, h]

/-- The condition of BR (R86). -/
theorem brTaken_of {cond : BitVec 2} {v : Word}
    (h : (cond = 0#2 ∧ v = 0#64) ∨ (cond = 1#2 ∧ v ≠ 0#64) ∨ (cond = 2#2 ∧ v.toInt < 0) ∨ (cond = 3#2 ∧ 0 ≤ v.toInt)) :
    brTaken cond v = true := by
  rcases h with ⟨rfl, h⟩ | ⟨rfl, h⟩ | ⟨rfl, h⟩ | ⟨rfl, h⟩ <;> exact decide_eq_true h

/-- BR that is taken fails in a level's end bundle (R86, R93). -/
theorem br_fails_at_end (f : CBr) (s : State) {c : Cause} (ht : (s.pl.target f.off.toInt).isSome = true)
    (hk : brTaken f.cond (s.rdS f.s) = true) (he : s.pl.endFault = some c) : Fails (.br f) s c := by
  have hc : Checks (.br f) s [need (s.pl.target f.off.toInt).isSome (s.illegal (.br f) 6 0xFF),
      if brTaken f.cond (s.rdS f.s) = true then s.pl.endFault else none] :=
    Checks.of_eq rfl (by show execBr f s = _; unfold execBr; rfl)
  rw [ht, if_pos hk, he] at hc
  exact hc.fails_only (by simp) fun d hd => by simpa using hd

/-- A predicate all of whose elements are set, or none: the elements counted (R87). -/
theorem predSet_uniform (q : Pred) (bytes : Nat) (b : Bool) (h : ∀ e < 256 / bytes, q.getLsbD (e * bytes) = b) :
    predSet q bytes = if b then 256 / bytes else 0 := by
  have hall : ∀ e ∈ upTo 0 (256 / bytes), q.getLsbD (e * bytes) = b := fun e he => h e (by simpa using he)
  unfold predSet
  cases b with
  | true => rw [List.filter_eq_self.2 hall, length_upTo, if_pos rfl]
  | false => rw [List.filter_eq_nil_iff.2 fun e he => by simp [hall e he]]; rfl

/-- BRP whose predicate's elements all agree with its sense is taken, and fails in a level's end bundle (R87, R93). -/
theorem brp_fails_at_end (f : CBrp) (s : State) {c : Cause} (ht : (s.pl.target f.off.toInt).isSome = true)
    (hp : ∀ e < 256 / 2 ^ f.w.toNat,
      (s.pl.pred f.cl.toNat f.pn.toNat).getLsbD (e * 2 ^ f.w.toNat) = decide (f.sense = 0#1))
    (he : s.pl.endFault = some c) : Fails (.brp f) s c := by
  have hc : Checks (.brp f) s [none, none, some c] := by
    have h : exec (.brp f) s = execBrp f s := rfl
    unfold execBrp at h
    dsimp only at h
    rw [ht, he, predSet_uniform _ _ _ hp] at h
    rcases BitVec.eq_zero_or_eq_one f.sense with hs | hs
    · simp [hs] at h
      exact Checks.of_eq rfl h
    · simp [hs] at h
      exact Checks.of_eq rfl h
  exact hc.fails_only (by simp) fun d hd => by simpa using hd

/-- RET with a live entry fails in a level's end bundle (R89, R93). -/
theorem ret_fails_at_end (f : CN) (s : State) {c : Cause} (h : s.pl.liveRets ≠ []) (he : s.pl.endFault = some c) :
    Fails (.ret f) s c := by
  have hc : Checks (.ret f) s [need (!s.pl.liveRets.isEmpty) ⟨0x08#8, s.pl.here⟩, s.pl.endFault] := Checks.ret f s
  rw [List.isEmpty_eq_false_iff.2 h, he] at hc
  exact hc.fails_only (by simp) fun d hd => by simpa using hd

/-- ERET in a handler fails in a level's end bundle (R93, R99). -/
theorem eret_fails_at_end (f : CN) (s : State) {c : Cause} (h : s.pl.intrap = true) (he : s.pl.endFault = some c) :
    Fails (.eret f) s c := by
  have hc := Checks.eret f s
  rw [h, he] at hc
  exact hc.fails_only (by simp) fun d hd => by simpa using hd

/-- SEGJ to a segment of the task fails in a level's end bundle (R90, R93). -/
theorem segj_fails_at_end (f : CSeg) (s : State) {c : Cause} (h : (f.idx.setWidth 64 + s.rdS f.s).toNat < s.pl.nseg)
    (he : s.pl.endFault = some c) : Fails (.segj f) s c := by
  have hc : Checks (.segj f) s [need (decide ((f.idx.setWidth 64 + s.rdS f.s).toNat < s.pl.nseg))
      (s.illegal (.segj f) 3 0), s.pl.endFault] := Checks.of_eq rfl (by show execSegj f s = _; unfold execSegj; rfl)
  rw [decide_eq_true h, he] at hc
  exact hc.fails_only (by simp) fun d hd => by simpa using hd

end Sys2Proof.Machine
end

section
/-!
PROOFS. The M slot in a handler (R193): of an instruction's failing checks R193's has the lowest code.
-/

namespace Sys2Proof.Machine

open Sys2Proof Sys2Proof.Claim

/-- A check whose cause, where it fails, has no lower code than ILLEGAL_ENCODING's. -/
def Yields (o : Option Cause) : Prop := ∀ c, o = some c → 2 ≤ c.code.toNat

@[simp] theorem yields_none : Yields none := fun _ h => by cases h

theorem yields_need (b : Bool) {c : Cause} (h : 2 ≤ c.code.toNat) : Yields (need b c) := by
  intro d hd
  cases b <;> cases hd
  exact h

@[simp] theorem yields_mRange (s : State) (i : Instr) (field : Nat) (ok : Bool) : Yields (s.mRange i field ok) :=
  yields_need ok (Nat.le_refl 2)

@[simp] theorem yields_bufFault (s : State) (i : Instr) (wb : Nat) (ok : WProp → Bool) : Yields (s.bufFault i wb ok) :=
  yields_need _ (Nat.le_refl 2)

@[simp] theorem yields_mQueueFault (s : State) : Yields s.mQueueFault := yields_need _ (show 2 ≤ 11 by decide)

@[simp] theorem yields_mIdle (s : State) : Yields s.mIdle := yields_need _ (show 2 ≤ 11 by decide)

@[simp] theorem yields_needQueue (b : Bool) (n : Nat) : Yields (need b (resultQueue n)) :=
  yields_need _ (show 2 ≤ 11 by decide)

@[simp] theorem yields_needRoom (b : Bool) (w : Word) : Yields (need b ⟨0x05#8, w⟩) := yields_need _ (show 2 ≤ 5 by decide)

/-- A cause made of what a search found. -/
theorem yields_map {α : Type} (o : Option α) (g : α → Cause) (h : ∀ a, 2 ≤ (g a).code.toNat) : Yields (o.map g) := by
  intro d hd
  obtain ⟨a, _, rfl⟩ := Option.map_eq_some_iff.1 hd
  exact h a

@[simp] theorem yields_coreAccFault (c : Core) (p : Option Nat) (lo n : Nat) : Yields (c.accFault p lo n) := by
  unfold Core.accFault
  split
  · exact yields_none
  · exact yields_map _ _ fun _ => show 2 ≤ 0x19 by decide

@[simp] theorem yields_accFault (s : State) (lo n : Nat) : Yields (s.accFault lo n) := yields_coreAccFault _ _ lo n

@[simp] theorem yields_prodRows (s : State) (x : Word) (n : Nat) : Yields (s.prodRows x n) := yields_accFault s _ n

@[simp] theorem yields_ownerFault (s : State) (c lo n : Nat) : Yields (s.ownerFault c lo n) :=
  yields_map _ _ fun _ => show 2 ≤ 0x1A by decide

@[simp] theorem yields_popFault (p : Plane) (q : Nat) (peek : Bool) : Yields (p.popFault q peek) := by
  intro d hd
  simp only [Plane.popFault, Option.ite_none_right_eq_some, Option.some.injEq] at hd
  obtain ⟨_, rfl⟩ := hd
  exact show 2 ≤ 4 by decide

@[simp] theorem yields_pushFault (p : Plane) (q n : Nat) (own : List Nat) : Yields (p.pushFault q n own) := by
  intro d hd
  rw [Plane.pushFault_code hd]
  exact show 2 ≤ 5 by decide

@[simp] theorem yields_claimFault (s : State) (slot : Option Nat) : Yields (s.claimFault slot) := by
  intro d hd
  unfold State.claimFault at hd
  cases slot with
  | none => cases hd
  | some k =>
    dsimp only at hd
    split at hd
    · cases hd; exact show 2 ≤ 0x11 by decide
    · split at hd
      · cases hd
      · split at hd <;> cases hd
        exact show 2 ≤ 0x15 by decide

/-- Checks each of which yields. -/
def AllYield (l : List (Option Cause)) : Prop := ∀ o ∈ l, Yields o

@[simp] theorem allYield_nil : AllYield [] := fun _ h => by cases h

@[simp] theorem allYield_cons (o : Option Cause) (l : List (Option Cause)) : AllYield (o :: l) ↔ Yields o ∧ AllYield l :=
  List.forall_mem_cons

@[simp] theorem allYield_append (l m : List (Option Cause)) : AllYield (l ++ m) ↔ AllYield l ∧ AllYield m :=
  List.forall_mem_append

/-- The claims of a product's tiles. -/
@[simp] theorem allYield_claimSlots (s : State) (l : List Claim) : AllYield ((s.claimSlots l).map s.claimFault) := by
  intro o ho
  obtain ⟨k, _, rfl⟩ := List.mem_map.1 ho
  exact yields_claimFault s k

/-- The ranges of a product. -/
@[simp] theorem allYield_prodRanges (s : State) (i : Instr) (x y z : Word) (maxM kf nf : Nat) (aux ch : Bool) :
    AllYield (s.prodRanges i x y z maxM kf nf aux ch) := by
  simp [State.prodRanges]

/-- In a handler an instruction of the M slot fails with R193's cause. -/
theorem mGuarded_fails {i : Instr} {s : State} {l : List (Option Cause)} {eff : State → State} (hi : i.slot = 4)
    (h : exec i s = s.mGuarded i l eff) (ht : s.pl.intrap = true) (hl : AllYield l) :
    Fails i s (s.illegal i 3 23) := by
  have hc : Checks i s (some (s.illegal i 3 23) :: s.mQueueFault :: l) := by
    unfold State.mGuarded at h
    rw [ht] at h
    exact Checks.of_eq hi h
  refine hc.fails ?_ (by simp)
  refine lowest_head fun d hd => ?_
  obtain ⟨o, ho, rfl⟩ := List.mem_filterMap.1 hd
  rcases List.mem_cons.1 ho with ho | ho
  · exact yields_mQueueFault s d ho.symm
  · exact hl _ ho d rfl

/-- In a handler MMUL and MMULC fail with R193's cause. -/
theorem mmulLike_fails {i : Instr} {s : State} {f : MMu} {form rowsPer : Nat} {ok : WProp → Bool}
    {more : List (Option Cause)} (hi : i.slot = 4) (h : exec i s = s.mmulLike i f form rowsPer ok more)
    (ht : s.pl.intrap = true) (hm : AllYield more) : Fails i s (s.illegal i 3 23) := by
  unfold State.mmulLike at h
  exact mGuarded_fails hi h ht (by simp [hm])

/-- Every instruction of the M slot but MCHK fails in a handler (R193). -/
theorem mSlot_fails (s : State) (ht : s.pl.intrap = true) (i : Instr)
    (h : (∃ f, i = .malloc f) ∨ (∃ f, i = .mmul f) ∨ (∃ f, i = .mmulg f) ∨ (∃ f, i = .mmuls f) ∨ (∃ f, i = .mmulb f) ∨
      (∃ f, i = .mmulc f) ∨ (∃ f, i = .mchain f) ∨ (∃ f, i = .mchainRecv f) ∨ (∃ f, i = .mdrain f) ∨ (∃ f, i = .mzero f) ∨
      (∃ f, i = .mldw f) ∨ (∃ f, i = .mfree f) ∨ (∃ f, i = .mband f) ∨ (∃ f, i = .mcond f)) :
    Fails i s (s.illegal i 3 23) := by
  rcases h with ⟨f, rfl⟩ | ⟨f, rfl⟩ | ⟨f, rfl⟩ | ⟨f, rfl⟩ | ⟨f, rfl⟩ | ⟨f, rfl⟩ | ⟨f, rfl⟩ | ⟨f, rfl⟩ | ⟨f, rfl⟩ | ⟨f, rfl⟩ |
    ⟨f, rfl⟩ | ⟨f, rfl⟩ | ⟨f, rfl⟩ | ⟨f, rfl⟩
  · exact mGuarded_fails rfl (show execMalloc f s = _ from rfl) ht (by simp)
  · exact mmulLike_fails rfl (show execMmul f s = _ from rfl) ht (by simp)
  · exact mGuarded_fails rfl (show execMmulg f s = _ from rfl) ht (by simp)
  · exact mGuarded_fails rfl (show execMmuls f s = _ from rfl) ht (by simp)
  · exact mGuarded_fails rfl (show execMmulb f s = _ from rfl) ht (by simp)
  · exact mmulLike_fails rfl (show execMmulc f s = _ from rfl) ht (by simp)
  · exact mGuarded_fails rfl (show execMchain f s = _ from rfl) ht (by simp)
  · exact mGuarded_fails rfl (show execMchainRecv f s = _ from rfl) ht (by simp)
  · exact mGuarded_fails rfl (show execMdrain f s = _ from rfl) ht (by simp)
  · exact mGuarded_fails rfl (show execMzero f s = _ from rfl) ht (by simp)
  · exact mGuarded_fails rfl (show execMldw f s = _ from rfl) ht (by simp)
  · exact mGuarded_fails rfl (show execMfree f s = _ from rfl) ht (by simp)
  · exact mGuarded_fails rfl (show execMband f s = _ from rfl) ht (by simp)
  · exact mGuarded_fails rfl (show execMcond f s = _ from rfl) ht (by simp)

end Sys2Proof.Machine
end

section
/-!
PROOFS. O23: the boundary, the check of the group, and the single instructions' checks put together.
-/

namespace Sys2Proof.Machine

open Sys2Proof Sys2Proof.Claim

/-- The five vector instructions with one source, their source queue empty (R30). -/
theorem vec2_list_fails (s : State) (f : V2) (q : Nat) (hq : srcQueue f.cl.toNat f.va.toNat = some q)
    (he : s.pl.queue q = []) : ∀ i ∈ [Instr.vabs f, .vneg f, .vfabs f, .vmov f, .vrmax f],
      Fails i s ⟨0x04#8, BitVec.ofNat 64 ((if q = 32 then 0x20 else q) + s.pl.grp * 512 + f.pa.toNat * 4096)⟩ := by
  intro i hi
  simp only [List.mem_cons, List.not_mem_nil, or_false] at hi
  rcases hi with rfl | rfl | rfl | rfl | rfl
  · exact vec2_fails (i := .vabs f) (f := f) rfl (by show execVabs f s = _; unfold execVabs; rfl) hq he
  · exact vec2_fails (i := .vneg f) (f := f) rfl (by show execVneg f s = _; unfold execVneg; rfl) hq he
  · exact vec2_fails (i := .vfabs f) (f := f) rfl (by show execVfabs f s = _; unfold execVfabs State.vecFlt1; rfl) hq he
  · exact vec2_fails (i := .vmov f) (f := f) rfl (show execVmov f s = _ from rfl) hq he
  · exact vec2_fails (i := .vrmax f) (f := f) rfl (by show execVrmax f s = _; unfold execVrmax State.reduce; rfl) hq he

/-- Every taken transfer of R93 in the end bundle of the innermost live level. -/
theorem transfer_fails_at_end (s : State) (c : Cause) (he : s.pl.endFault = some c) (i : Instr)
    (h : (∃ (f : CJ) (b : Nat), (s.pl.bun.toNat : Int) + f.off.toInt = b ∧ InSegment s.pl b ∧
        (i = .jmp f ∨ (i = .call f ∧ s.pl.rets.length < 16))) ∨
      (∃ (f : CBr) (b : Nat), (s.pl.bun.toNat : Int) + f.off.toInt = b ∧ InSegment s.pl b ∧ i = .br f ∧
        let v := s.rdS f.s
        ((f.cond = 0#2 ∧ v = 0#64) ∨ (f.cond = 1#2 ∧ v ≠ 0#64) ∨ (f.cond = 2#2 ∧ v.toInt < 0) ∨
          (f.cond = 3#2 ∧ 0 ≤ v.toInt))) ∨
      (∃ (f : CBrp) (b : Nat), (s.pl.bun.toNat : Int) + f.off.toInt = b ∧ InSegment s.pl b ∧ i = .brp f ∧
        ∀ e < 256 / 2 ^ f.w.toNat,
          (s.pl.pred f.cl.toNat f.pn.toNat).getLsbD (e * 2 ^ f.w.toNat) = decide (f.sense = 0#1)) ∨
      (∃ f : CS, InSegment s.pl (s.rdS f.s).toNat ∧ (i = .jmpi f ∨ (i = .calli f ∧ s.pl.rets.length < 16))) ∨
      (∃ f : CN, (i = .ret f ∧ s.pl.liveRets ≠ []) ∨ (i = .eret f ∧ s.pl.intrap = true)) ∨
      (∃ f : CSeg, i = .segj f ∧ (f.idx.setWidth 64 + s.rdS f.s).toNat < s.pl.nseg)) : Fails i s c := by
  have room (hr : s.pl.rets.length < 16) : ∀ o ∈ [s.callFault], o = none := by simp [State.callFault_of_lt hr]
  have target {off : Int} {b : Nat} (hb : (s.pl.bun.toNat : Int) + off = b) (hin : InSegment s.pl b) :
      (s.pl.target off).isSome = true := by rw [Plane.target_inSegment hb hin]; rfl
  have index {v : Word} (hin : InSegment s.pl v.toNat) : (s.pl.index v).isSome = true := by
    rw [Plane.index_inSegment hin]; rfl
  rcases h with ⟨f, b, hb, hin, rfl | ⟨rfl, hr⟩⟩ | ⟨f, b, hb, hin, rfl, hk⟩ | ⟨f, b, hb, hin, rfl, hp⟩ |
    ⟨f, hin, rfl | ⟨rfl, hr⟩⟩ | ⟨f, ⟨rfl, hr⟩ | ⟨rfl, ht⟩⟩ | ⟨f, rfl, hn⟩
  · exact jumpTo_fails_at_end rfl (show execJmp f s = _ from rfl) (target hb hin) (by simp) he
  · exact jumpTo_fails_at_end rfl (show execCall f s = _ from rfl) (target hb hin) (room hr) he
  · exact br_fails_at_end f s (target hb hin) (brTaken_of hk) he
  · exact brp_fails_at_end f s (target hb hin) hp he
  · exact jumpTo_fails_at_end rfl (show execJmpi f s = _ from rfl) (index hin) (by simp) he
  · exact jumpTo_fails_at_end rfl (show execCalli f s = _ from rfl) (index hin) (room hr) he
  · exact ret_fails_at_end f s hr he
  · exact eret_fails_at_end f s ht he
  · exact segj_fails_at_end f s hn he

/-- Settles O23: the step at a boundary takes the trap of the precise cause, the group's check finds a cause of no higher code than
any its first bundle meets, and each instruction's own checks fail with the rule's cause. -/
theorem failingChecksTrap : Obligations.FailingChecksTrap := by
  refine ⟨fun s c h hc hg ht => step_trap_at_boundary s c h hc hg ht, fun s first rest x c he hin hr hb hx hc =>
    s.preciseCause_le he hin hr (s.groupCauses_first hb hx hc), fun s => ?_⟩
  dsimp only
  rw [← Plane.here_eq]
  refine ⟨fun f q => vec2_list_fails s f q, fun f => ret_fails f s, fun f b hb hin => ?_, fun f hin => ?_, ?_, ?_, fun f => brkl_fails f s,
    fun f => eret_fails f s, mSlot_fails s⟩
  · exact call_fails rfl (show execCall f s = _ from rfl) (by rw [Plane.target_inSegment hb hin]; rfl)
  · exact call_fails rfl (show execCalli f s = _ from rfl) (by rw [Plane.index_inSegment hin]; rfl)
  · intro l rest hl hseg hstop
    exact transfer_fails_at_end s _ (Plane.endFault_eq hl hseg hstop)
  · rintro i dist (⟨f, rfl, rfl⟩ | ⟨f, rfl, rfl⟩) hl
    · exact openLoop_fails rfl (show execLoop f s = _ from rfl) hl
    · exact openLoop_fails rfl (show execLoopi f s = _ from rfl) hl

end Sys2Proof.Machine
end

section
/-!
PROOFS. The layouts of a slot word (R45 to R56): fields that lie apart make a number in which each stands in its own bits,
so that the decoder's record of a layout reads back what the encoder's number of it holds.
-/

namespace Sys2Proof

/-! ### Fields side by side -/

/-- A field of a slot word: its lowest bit, its width and its value. -/
structure WordField where
  lo : Nat
  n : Nat
  v : BitVec n

/-- The number that fields make. -/
def fieldSum : List WordField → Nat
  | [] => 0
  | p :: t => p.v.toNat * 2 ^ p.lo + fieldSum t

/-- The fields lie apart from each other and below bit `hi`, from the highest down. -/
def FieldsFall (hi : Nat) : List WordField → Prop
  | [] => True
  | p :: t => p.lo + p.n ≤ hi ∧ FieldsFall p.lo t

/-- A word holds each of the fields. -/
def HoldsFields (w : BitVec 32) : List WordField → Prop
  | [] => True
  | p :: t => w.extractLsb' p.lo p.n = p.v ∧ HoldsFields w t

/-- The fields' places: each field with every bit set. -/
def fieldPlaces (l : List WordField) : List WordField := l.map fun p => ⟨p.lo, p.n, BitVec.allOnes p.n⟩

@[simp] theorem fieldSum_nil : fieldSum [] = 0 := rfl

@[simp] theorem fieldSum_cons (p : WordField) (t : List WordField) :
    fieldSum (p :: t) = p.v.toNat * 2 ^ p.lo + fieldSum t := rfl

@[simp] theorem fieldsFall_nil (hi : Nat) : FieldsFall hi [] ↔ True := Iff.rfl

@[simp] theorem fieldsFall_cons (hi : Nat) (p : WordField) (t : List WordField) :
    FieldsFall hi (p :: t) ↔ p.lo + p.n ≤ hi ∧ FieldsFall p.lo t := Iff.rfl

@[simp] theorem fieldPlaces_nil : fieldPlaces [] = [] := rfl

@[simp] theorem fieldPlaces_cons (p : WordField) (t : List WordField) :
    fieldPlaces (p :: t) = ⟨p.lo, p.n, BitVec.allOnes p.n⟩ :: fieldPlaces t := rfl

/-- A number below 2^k has no bit from k on. -/
theorem lt_of_testBit {x k i : Nat} (hx : x < 2 ^ k) (hb : x.testBit i = true) : i < k :=
  (Nat.pow_lt_pow_iff_right (by decide)).1 ((Nat.ge_two_pow_of_testBit hb).trans_lt hx)

/-- The fields' places lie apart as the fields do. -/
theorem fieldsFall_fieldPlaces {l : List WordField} {hi : Nat} (h : FieldsFall hi l) : FieldsFall hi (fieldPlaces l) := by
  induction l generalizing hi with
  | nil => trivial
  | cons p t ih => exact ⟨h.1, ih h.2⟩

/-- Fields that lie apart make a number below their bound. -/
theorem fieldSum_lt {l : List WordField} {hi : Nat} (h : FieldsFall hi l) : fieldSum l < 2 ^ hi := by
  induction l generalizing hi with
  | nil => exact Nat.two_pow_pos hi
  | cons p t ih =>
    obtain ⟨hp, ht⟩ := h
    have hv : (p.v.toNat + 1) * 2 ^ p.lo ≤ 2 ^ p.n * 2 ^ p.lo := Nat.mul_le_mul_right _ p.v.isLt
    have hhi : 2 ^ p.n * 2 ^ p.lo ≤ 2 ^ hi := by
      rw [← Nat.pow_add]; exact Nat.pow_le_pow_right (by decide) (by omega)
    have := ih ht
    rw [Nat.succ_mul] at hv
    rw [fieldSum_cons]
    omega

/-- A bit of the number that fields make: the first field's from its place up, the others' below. -/
theorem testBit_fieldSum {p : WordField} {t : List WordField} (h : FieldsFall p.lo t) (i : Nat) :
    (fieldSum (p :: t)).testBit i = if i < p.lo then (fieldSum t).testBit i else p.v.toNat.testBit (i - p.lo) := by
  rw [fieldSum_cons, Nat.mul_comm, Nat.testBit_two_pow_mul_add _ (fieldSum_lt h)]

/-- A bit of the fields' places: whether it lies in one of them. -/
theorem testBit_fieldPlaces {p : WordField} {t : List WordField} (h : FieldsFall p.lo t) (i : Nat) :
    (fieldSum (fieldPlaces (p :: t))).testBit i =
      if i < p.lo then (fieldSum (fieldPlaces t)).testBit i else decide (i - p.lo < p.n) := by
  have hb := testBit_fieldSum (p := ⟨p.lo, p.n, BitVec.allOnes p.n⟩) (fieldsFall_fieldPlaces h) i
  rw [fieldPlaces_cons, hb, BitVec.testBit_toNat, BitVec.getLsbD_allOnes]

/-- What fields make lies in their places. -/
theorem testBit_fieldPlaces_of_fieldSum {l : List WordField} {hi : Nat} (h : FieldsFall hi l) {i : Nat}
    (hb : (fieldSum l).testBit i = true) : (fieldSum (fieldPlaces l)).testBit i = true := by
  induction l generalizing hi with
  | nil => simp at hb
  | cons p t ih =>
    obtain ⟨-, ht⟩ := h
    rw [testBit_fieldSum ht] at hb
    rw [testBit_fieldPlaces ht]
    split at hb
    · rw [if_pos ‹_›]; exact ih ht hb
    · rw [if_neg ‹_›]; exact decide_eq_true (lt_of_testBit p.v.isLt hb)

/-- A word that agrees with the fields in their places holds each of them. -/
theorem holdsFields_of_agree {w : BitVec 32} {l : List WordField} {hi : Nat} (hl : FieldsFall hi l)
    (h : ∀ i, (fieldSum (fieldPlaces l)).testBit i = true → w.getLsbD i = (fieldSum l).testBit i) : HoldsFields w l := by
  induction l generalizing hi with
  | nil => trivial
  | cons p t ih =>
    obtain ⟨-, ht⟩ := hl
    refine ⟨BitVec.eq_of_getLsbD_eq fun i hi => ?_, ih ht fun i hi => ?_⟩
    · have hw := h (p.lo + i) (by rw [testBit_fieldPlaces ht, if_neg (by omega)]; simp [hi])
      rw [testBit_fieldSum ht, if_neg (by omega), Nat.add_sub_cancel_left, BitVec.testBit_toNat] at hw
      simpa only [BitVec.getLsbD_extractLsb', hi, decide_true, Bool.true_and] using hw
    · have hlt : i < p.lo := lt_of_testBit (fieldSum_lt (fieldsFall_fieldPlaces ht)) hi
      have hw := h i (by rw [testBit_fieldPlaces ht, if_pos hlt, hi])
      rwa [testBit_fieldSum ht, if_pos hlt] at hw

/-! ### A record in its bits -/

/-- The record `f` stands in the bits of `mask` as the number `bits`, and `un` reads it back from there. -/
structure Laid {α : Type} (un : BitVec 32 → α) (mask : BitVec 32) (bits : Nat) (f : α) : Prop where
  within : BitVec.ofNat 32 bits &&& mask = BitVec.ofNat 32 bits
  reads : ∀ w, w &&& mask = BitVec.ofNat 32 bits → un w = f

/-- A layout given by its fields, from the highest down. -/
theorem Laid.of_fields {α : Type} {un : BitVec 32 → α} {mask : BitVec 32} {bits : Nat} {f : α} (l : List WordField)
    (hl : FieldsFall 32 l) (hm : BitVec.ofNat 32 (fieldSum (fieldPlaces l)) = mask) (hb : bits = fieldSum l)
    (hr : ∀ w, HoldsFields w l → un w = f) : Laid un mask bits f := by
  subst hb hm
  refine ⟨BitVec.eq_of_getLsbD_eq fun i hi => ?_, fun w hw => hr w (holdsFields_of_agree hl fun i hi => ?_)⟩
  · rw [BitVec.getLsbD_and, BitVec.getLsbD_ofNat, BitVec.getLsbD_ofNat]
    cases hb : (fieldSum l).testBit i
    · simp
    · simp [hi, testBit_fieldPlaces_of_fieldSum hl hb]
  · have hlt : i < 32 := lt_of_testBit (fieldSum_lt (fieldsFall_fieldPlaces hl)) hi
    have hbit := congrArg (·.getLsbD i) hw
    simpa only [BitVec.getLsbD_and, BitVec.getLsbD_ofNat, hlt, hi, decide_true, Bool.true_and, Bool.and_true] using hbit

section
variable {α : Type} {un : BitVec 32 → α} {mask : BitVec 32} {bits : Nat} {f : α} {c : Nat}

/-- A word whose constant avoids the layout's bits is the constant and the record side by side. -/
theorem Laid.word_eq (h : Laid un mask bits f) (hc : BitVec.ofNat 32 c &&& mask = 0#32) :
    BitVec.ofNat 32 (c + bits) = BitVec.ofNat 32 c ||| BitVec.ofNat 32 bits := by
  rw [BitVec.ofNat_add, BitVec.add_eq_or_of_and_eq_zero]
  rw [← h.within, BitVec.and_comm (BitVec.ofNat 32 bits), ← BitVec.and_assoc, hc, BitVec.zero_and]

/-- A record is read back from its word. -/
theorem Laid.un_word (h : Laid un mask bits f) (hc : BitVec.ofNat 32 c &&& mask = 0#32) :
    un (BitVec.ofNat 32 (c + bits)) = f := by
  refine h.reads _ ?_
  rw [h.word_eq hc, BitVec.and_or_distrib_right, hc, h.within, BitVec.zero_or]

/-- A field outside the layout's bits is the constant's. -/
theorem Laid.extract_word (h : Laid un mask bits f) (hc : BitVec.ofNat 32 c &&& mask = 0#32) {lo n : Nat}
    (hm : mask.extractLsb' lo n = 0#n) :
    (BitVec.ofNat 32 (c + bits)).extractLsb' lo n = (BitVec.ofNat 32 c).extractLsb' lo n := by
  rw [h.word_eq hc, BitVec.extractLsb'_or, ← h.within, BitVec.extractLsb'_and, hm, BitVec.and_zero, BitVec.or_zero]

/-- A bit outside the layout's bits is the constant's. -/
theorem Laid.getLsbD_word (h : Laid un mask bits f) {i : Nat} {b : Bool}
    (hc : BitVec.ofNat 32 c &&& mask = 0#32 ∧ mask.getLsbD i = false ∧ (BitVec.ofNat 32 c).getLsbD i = b) :
    (BitVec.ofNat 32 (c + bits)).getLsbD i = b := by
  obtain ⟨hc, hm, hb⟩ := hc
  rw [h.word_eq hc, BitVec.getLsbD_or, ← h.within, BitVec.getLsbD_and, hm, hb, Bool.and_false, Bool.or_false]

/-- Reserved bits that neither the layout nor the constant sets are 0. -/
theorem Laid.word_and_zero (h : Laid un mask bits f) {zero : BitVec 32} (hc : BitVec.ofNat 32 c &&& mask = 0#32)
    (hm : mask &&& zero = 0#32) (hz : BitVec.ofNat 32 c &&& zero = 0#32) : BitVec.ofNat 32 (c + bits) &&& zero = 0#32 := by
  rw [h.word_eq hc, BitVec.and_or_distrib_right, hz, ← h.within, BitVec.and_assoc, hm, BitVec.and_zero, BitVec.or_zero]

end

end Sys2Proof
end

section
/-!
PROOFS. Each layout of the encoding tables (R44 to R56, R204, R285, R311, R333), by its fields.
-/

namespace Sys2Proof

theorem CN.laid (f : CN) : Laid unCN 0x80000000#32 f.bits f :=
  .of_fields [⟨31, 1, f.g⟩]
    (by simp) (by simp) (by simp [CN.bits]) fun w ⟨h1, _⟩ => by rw [unCN, h1]

theorem CJ.laid (f : CJ) : Laid unCJ 0x807FFFFF#32 f.bits f :=
  .of_fields [⟨31, 1, f.g⟩, ⟨0, 23, f.off⟩]
    (by simp) (by simp) (by simp [CJ.bits]) fun w ⟨h1, h2, _⟩ => by rw [unCJ, h1, h2]

theorem CBr.laid (f : CBr) : Laid unCBr 0x807FFFFF#32 f.bits f :=
  .of_fields [⟨31, 1, f.g⟩, ⟨18, 5, f.s⟩, ⟨16, 2, f.cond⟩, ⟨0, 16, f.off⟩]
    (by simp) (by simp) (by simp [CBr.bits, Nat.add_assoc]) fun w ⟨h1, h2, h3, h4, _⟩ => by rw [unCBr, h1, h2, h3, h4]

theorem CBrp.laid (f : CBrp) : Laid unCBrp 0x807EFFFF#32 f.bits f :=
  .of_fields [⟨31, 1, f.g⟩, ⟨22, 1, f.cl⟩, ⟨20, 2, f.pn⟩, ⟨19, 1, f.sense⟩, ⟨17, 2, f.w⟩, ⟨0, 16, f.off⟩]
    (by simp) (by simp) (by simp [CBrp.bits, Nat.add_assoc]) fun w ⟨h1, h2, h3, h4, h5, h6, _⟩ => by
      rw [unCBrp, h1, h2, h3, h4, h5, h6]

theorem CS.laid (f : CS) : Laid unCS 0x807C0000#32 f.bits f :=
  .of_fields [⟨31, 1, f.g⟩, ⟨18, 5, f.s⟩]
    (by simp) (by simp) (by simp [CS.bits]) fun w ⟨h1, h2, _⟩ => by rw [unCS, h1, h2]

theorem CLp.laid (f : CLp) : Laid unCLp 0x807C1FFF#32 f.bits f :=
  .of_fields [⟨31, 1, f.g⟩, ⟨18, 5, f.s⟩, ⟨12, 1, f.pre⟩, ⟨0, 12, f.dist⟩]
    (by simp) (by simp) (by simp [CLp.bits, Nat.add_assoc]) fun w ⟨h1, h2, h3, h4, _⟩ => by rw [unCLp, h1, h2, h3, h4]

theorem CLpi.laid (f : CLpi) : Laid unCLpi 0x807FFFFF#32 f.bits f :=
  .of_fields [⟨31, 1, f.g⟩, ⟨13, 10, f.n⟩, ⟨12, 1, f.pre⟩, ⟨0, 12, f.dist⟩]
    (by simp) (by simp) (by simp [CLpi.bits, Nat.add_assoc]) fun w ⟨h1, h2, h3, h4, _⟩ => by
      rw [unCLpi, h1, h2, h3, h4]

theorem CK.laid (f : CK) : Laid unCK 0x80000007#32 f.bits f :=
  .of_fields [⟨31, 1, f.g⟩, ⟨0, 3, f.k⟩]
    (by simp) (by simp) (by simp [CK.bits]) fun w ⟨h1, h2, _⟩ => by rw [unCK, h1, h2]

theorem CSeg.laid (f : CSeg) : Laid unCSeg 0x807CFFFF#32 f.bits f :=
  .of_fields [⟨31, 1, f.g⟩, ⟨18, 5, f.s⟩, ⟨0, 16, f.idx⟩]
    (by simp) (by simp) (by simp [CSeg.bits, Nat.add_assoc]) fun w ⟨h1, h2, h3, _⟩ => by rw [unCSeg, h1, h2, h3]

theorem CCode.laid (f : CCode) : Laid unCCode 0x8000FFFF#32 f.bits f :=
  .of_fields [⟨31, 1, f.g⟩, ⟨0, 16, f.code⟩]
    (by simp) (by simp) (by simp [CCode.bits]) fun w ⟨h1, h2, _⟩ => by rw [unCCode, h1, h2]

theorem CBar.laid (f : CBar) : Laid unCBar 0x8000071F#32 f.bits f :=
  .of_fields [⟨31, 1, f.g⟩, ⟨8, 3, f.lvl⟩, ⟨0, 5, f.num⟩]
    (by simp) (by simp) (by simp [CBar.bits, Nat.add_assoc]) fun w ⟨h1, h2, h3, _⟩ => by rw [unCBar, h1, h2, h3]

theorem CLvl.laid (f : CLvl) : Laid unCLvl 0x80000007#32 f.bits f :=
  .of_fields [⟨31, 1, f.g⟩, ⟨0, 3, f.lvl⟩]
    (by simp) (by simp) (by simp [CLvl.bits]) fun w ⟨h1, h2, _⟩ => by rw [unCLvl, h1, h2]

theorem CMf.laid (f : CMf) : Laid unCMf 0x807C0FFF#32 f.bits f :=
  .of_fields [⟨31, 1, f.g⟩, ⟨18, 5, f.sd⟩, ⟨0, 12, f.reg⟩]
    (by simp) (by simp) (by simp [CMf.bits, Nat.add_assoc]) fun w ⟨h1, h2, h3, _⟩ => by rw [unCMf, h1, h2, h3]

theorem CMt.laid (f : CMt) : Laid unCMt 0x8003EFFF#32 f.bits f :=
  .of_fields [⟨31, 1, f.g⟩, ⟨13, 5, f.sa⟩, ⟨0, 12, f.reg⟩]
    (by simp) (by simp) (by simp [CMt.bits, Nat.add_assoc]) fun w ⟨h1, h2, h3, _⟩ => by rw [unCMt, h1, h2, h3]

theorem SR.laid (f : SR) : Laid unSR 0xC07FFF00#32 f.bits f :=
  .of_fields [⟨30, 2, f.ar⟩, ⟨18, 5, f.sd⟩, ⟨13, 5, f.sa⟩, ⟨8, 5, f.sb⟩]
    (by simp) (by simp) (by simp [SR.bits, Nat.add_assoc]) fun w ⟨h1, h2, h3, h4, _⟩ => by rw [unSR, h1, h2, h3, h4]

theorem SSel.laid (f : SSel) : Laid unSSel 0xC07FFFF8#32 f.bits f :=
  .of_fields [⟨30, 2, f.ar⟩, ⟨18, 5, f.sd⟩, ⟨13, 5, f.sa⟩, ⟨8, 5, f.sb⟩, ⟨3, 5, f.sc⟩]
    (by simp) (by simp) (by simp [SSel.bits, Nat.add_assoc]) fun w ⟨h1, h2, h3, h4, h5, _⟩ => by
      rw [unSSel, h1, h2, h3, h4, h5]

theorem SOne.laid (f : SOne) : Laid unSOne 0xC07FE000#32 f.bits f :=
  .of_fields [⟨30, 2, f.ar⟩, ⟨18, 5, f.sd⟩, ⟨13, 5, f.sa⟩]
    (by simp) (by simp) (by simp [SOne.bits, Nat.add_assoc]) fun w ⟨h1, h2, h3, _⟩ => by rw [unSOne, h1, h2, h3]

theorem SFld.laid (f : SFld) : Laid unSFld 0xC07FFFFF#32 f.bits f :=
  .of_fields [⟨30, 2, f.ar⟩, ⟨18, 5, f.sd⟩, ⟨13, 5, f.sa⟩, ⟨7, 6, f.pos⟩, ⟨0, 7, f.wid⟩]
    (by simp) (by simp) (by simp [SFld.bits, Nat.add_assoc]) fun w ⟨h1, h2, h3, h4, h5, _⟩ => by
      rw [unSFld, h1, h2, h3, h4, h5]

theorem SImm.laid (f : SImm) : Laid unSImm 0xC07FFFFF#32 f.bits f :=
  .of_fields [⟨30, 2, f.ar⟩, ⟨18, 5, f.sd⟩, ⟨13, 5, f.sa⟩, ⟨0, 13, f.imm⟩]
    (by simp) (by simp) (by simp [SImm.bits, Nat.add_assoc]) fun w ⟨h1, h2, h3, h4, _⟩ => by
      rw [unSImm, h1, h2, h3, h4]

theorem SSh.laid (f : SSh) : Laid unSSh 0xC07FE03F#32 f.bits f :=
  .of_fields [⟨30, 2, f.ar⟩, ⟨18, 5, f.sd⟩, ⟨13, 5, f.sa⟩, ⟨0, 6, f.sh⟩]
    (by simp) (by simp) (by simp [SSh.bits, Nat.add_assoc]) fun w ⟨h1, h2, h3, h4, _⟩ => by rw [unSSh, h1, h2, h3, h4]

theorem SLi.laid (f : SLi) : Laid unSLi 0xC07FFFFF#32 f.bits f :=
  .of_fields [⟨30, 2, f.ar⟩, ⟨18, 5, f.sd⟩, ⟨0, 18, f.imm⟩]
    (by simp) (by simp) (by simp [SLi.bits, Nat.add_assoc]) fun w ⟨h1, h2, h3, _⟩ => by rw [unSLi, h1, h2, h3]

theorem SIns.laid (f : SIns) : Laid unSIns 0xC07CFFFF#32 f.bits f :=
  .of_fields [⟨30, 2, f.ar⟩, ⟨18, 5, f.sd⟩, ⟨0, 16, f.imm⟩]
    (by simp) (by simp) (by simp [SIns.bits, Nat.add_assoc]) fun w ⟨h1, h2, h3, _⟩ => by rw [unSIns, h1, h2, h3]

theorem SLv.laid (f : SLv) : Laid unSLv 0xC07C0007#32 f.bits f :=
  .of_fields [⟨30, 2, f.ar⟩, ⟨18, 5, f.sd⟩, ⟨0, 3, f.lvl⟩]
    (by simp) (by simp) (by simp [SLv.bits, Nat.add_assoc]) fun w ⟨h1, h2, h3, _⟩ => by rw [unSLv, h1, h2, h3]

theorem V3.laid (f : V3) : Laid (unV3 f.cl) 0xC07FFFFF#32 f.bits f :=
  .of_fields [⟨30, 2, f.ar⟩, ⟨19, 4, f.vd⟩, ⟨14, 5, f.va⟩, ⟨9, 5, f.vb⟩, ⟨8, 1, f.pa⟩, ⟨7, 1, f.pb⟩, ⟨4, 3, f.pred⟩,
    ⟨0, 4, f.fmt⟩]
    (by simp) (by simp) (by simp [V3.bits, Nat.add_assoc]) fun w ⟨h1, h2, h3, h4, h5, h6, h7, h8, _⟩ => by
      rw [unV3, h1, h2, h3, h4, h5, h6, h7, h8]

theorem V2.laid (f : V2) : Laid (unV2 f.cl) 0xC07FC17F#32 f.bits f :=
  .of_fields [⟨30, 2, f.ar⟩, ⟨19, 4, f.vd⟩, ⟨14, 5, f.va⟩, ⟨8, 1, f.pa⟩, ⟨4, 3, f.pred⟩, ⟨0, 4, f.fmt⟩]
    (by simp) (by simp) (by simp [V2.bits, Nat.add_assoc]) fun w ⟨h1, h2, h3, h4, h5, h6, _⟩ => by
      rw [unV2, h1, h2, h3, h4, h5, h6]

theorem VCm.laid (f : VCm) : Laid (unVCm f.cl) 0xC07FFFFF#32 f.bits f :=
  .of_fields [⟨30, 2, f.ar⟩, ⟨21, 2, f.cond⟩, ⟨19, 2, f.vd⟩, ⟨14, 5, f.va⟩, ⟨9, 5, f.vb⟩, ⟨8, 1, f.pa⟩, ⟨7, 1, f.pb⟩,
    ⟨4, 3, f.pred⟩, ⟨0, 4, f.fmt⟩]
    (by simp) (by simp) (by simp [VCm.bits, Nat.add_assoc]) fun w ⟨h1, h2, h3, h4, h5, h6, h7, h8, h9, _⟩ => by
      rw [unVCm, h1, h2, h3, h4, h5, h6, h7, h8, h9]

theorem VRn.laid (f : VRn) : Laid unVRn 0xC078007F#32 f.bits f :=
  .of_fields [⟨30, 2, f.ar⟩, ⟨19, 4, f.vd⟩, ⟨4, 3, f.pred⟩, ⟨0, 4, f.fmt⟩]
    (by simp) (by simp) (by simp [VRn.bits, Nat.add_assoc]) fun w ⟨h1, h2, h3, h4, _⟩ => by rw [unVRn, h1, h2, h3, h4]

theorem VCv.laid (f : VCv) : Laid (unVCv f.cl) 0xC07FDF7F#32 f.bits f :=
  .of_fields [⟨30, 2, f.ar⟩, ⟨19, 4, f.vd⟩, ⟨14, 5, f.va⟩, ⟨9, 4, f.sfmt⟩, ⟨8, 1, f.pa⟩, ⟨4, 3, f.pred⟩, ⟨0, 4, f.fmt⟩]
    (by simp) (by simp) (by simp [VCv.bits, Nat.add_assoc]) fun w ⟨h1, h2, h3, h4, h5, h6, h7, _⟩ => by
      rw [unVCv, h1, h2, h3, h4, h5, h6, h7]

theorem VQn.laid (f : VQn) : Laid (unVQn f.cl) 0xC07FDF7F#32 f.bits f :=
  .of_fields [⟨30, 2, f.ar⟩, ⟨19, 4, f.vd⟩, ⟨14, 5, f.va⟩, ⟨12, 1, f.chk⟩, ⟨9, 3, f.ks⟩, ⟨8, 1, f.pa⟩, ⟨4, 3, f.pred⟩,
    ⟨0, 4, f.fmt⟩]
    (by simp) (by simp) (by simp [VQn.bits, Nat.add_assoc]) fun w ⟨h1, h2, h3, h4, h5, h6, h7, h8, _⟩ => by
      rw [unVQn, h1, h2, h3, h4, h5, h6, h7, h8]

theorem VDq.laid (f : VDq) : Laid (unVDq f.cl) 0xC07FCF7F#32 f.bits f :=
  .of_fields [⟨30, 2, f.ar⟩, ⟨19, 4, f.vd⟩, ⟨14, 5, f.va⟩, ⟨9, 3, f.ks⟩, ⟨8, 1, f.pa⟩, ⟨4, 3, f.pred⟩, ⟨0, 4, f.fmt⟩]
    (by simp) (by simp) (by simp [VDq.bits, Nat.add_assoc]) fun w ⟨h1, h2, h3, h4, h5, h6, h7, _⟩ => by
      rw [unVDq, h1, h2, h3, h4, h5, h6, h7]

theorem PP3.laid (f : PP3) : Laid (unPP3 f.cl) 0xC018C600#32 f.bits f :=
  .of_fields [⟨30, 2, f.ar⟩, ⟨19, 2, f.vd⟩, ⟨14, 2, f.va⟩, ⟨9, 2, f.vb⟩]
    (by simp) (by simp) (by simp [PP3.bits, Nat.add_assoc]) fun w ⟨h1, h2, h3, h4, _⟩ => by rw [unPP3, h1, h2, h3, h4]

theorem PP2.laid (f : PP2) : Laid (unPP2 f.cl) 0xC018C000#32 f.bits f :=
  .of_fields [⟨30, 2, f.ar⟩, ⟨19, 2, f.vd⟩, ⟨14, 2, f.va⟩]
    (by simp) (by simp) (by simp [PP2.bits, Nat.add_assoc]) fun w ⟨h1, h2, h3, _⟩ => by rw [unPP2, h1, h2, h3]

theorem PSn.laid (f : PSn) : Laid (unPSn f.cl) 0xC01FC10F#32 f.bits f :=
  .of_fields [⟨30, 2, f.ar⟩, ⟨19, 2, f.vd⟩, ⟨14, 5, f.va⟩, ⟨8, 1, f.pa⟩, ⟨0, 4, f.fmt⟩]
    (by simp) (by simp) (by simp [PSn.bits, Nat.add_assoc]) fun w ⟨h1, h2, h3, h4, h5, _⟩ => by
      rw [unPSn, h1, h2, h3, h4, h5]

theorem VRt.laid (f : VRt) : Laid (unVRt f.cl) 0xC07FFF80#32 f.bits f :=
  .of_fields [⟨30, 2, f.ar⟩, ⟨19, 4, f.vd⟩, ⟨14, 5, f.va⟩, ⟨9, 5, f.vb⟩, ⟨8, 1, f.pa⟩, ⟨7, 1, f.pb⟩]
    (by simp) (by simp) (by simp [VRt.bits, Nat.add_assoc]) fun w ⟨h1, h2, h3, h4, h5, h6, _⟩ => by
      rw [unVRt, h1, h2, h3, h4, h5, h6]

theorem VBn.laid (f : VBn) : Laid (unVBn f.cl) 0xC07FFFF0#32 f.bits f :=
  .of_fields [⟨30, 2, f.ar⟩, ⟨19, 4, f.vd⟩, ⟨14, 5, f.va⟩, ⟨9, 5, f.vb⟩, ⟨8, 1, f.pa⟩, ⟨7, 1, f.pb⟩, ⟨4, 3, f.pred⟩]
    (by simp) (by simp) (by simp [VBn.bits, Nat.add_assoc]) fun w ⟨h1, h2, h3, h4, h5, h6, h7, _⟩ => by
      rw [unVBn, h1, h2, h3, h4, h5, h6, h7]

theorem VIs.laid (f : VIs) : Laid (unVIs f.cl) 0xC07FFF8F#32 f.bits f :=
  .of_fields [⟨30, 2, f.ar⟩, ⟨19, 4, f.vd⟩, ⟨14, 5, f.va⟩, ⟨9, 5, f.vb⟩, ⟨8, 1, f.pa⟩, ⟨7, 1, f.pb⟩, ⟨0, 4, f.fmt⟩]
    (by simp) (by simp) (by simp [VIs.bits, Nat.add_assoc]) fun w ⟨h1, h2, h3, h4, h5, h6, h7, _⟩ => by
      rw [unVIs, h1, h2, h3, h4, h5, h6, h7]

theorem MBk.laid (f : MBk) : Laid unMBk 0xC07C003F#32 f.bits f :=
  .of_fields [⟨30, 2, f.ar⟩, ⟨18, 5, f.sx⟩, ⟨0, 6, f.n⟩]
    (by simp) (by simp) (by simp [MBk.bits, Nat.add_assoc]) fun w ⟨h1, h2, h3, _⟩ => by rw [unMBk, h1, h2, h3]

theorem MBd.laid (f : MBd) : Laid unMBd 0xC07FE007#32 f.bits f :=
  .of_fields [⟨30, 2, f.ar⟩, ⟨18, 5, f.sx⟩, ⟨13, 5, f.sy⟩, ⟨2, 1, f.rel⟩, ⟨0, 2, f.pos⟩]
    (by simp) (by simp) (by simp [MBd.bits, Nat.add_assoc]) fun w ⟨h1, h2, h3, h4, h5, _⟩ => by
      rw [unMBd, h1, h2, h3, h4, h5]

theorem R2.laid (f : R2) : Laid unR2 0xC07FE000#32 f.bits f :=
  .of_fields [⟨30, 2, f.ar⟩, ⟨18, 5, f.sx⟩, ⟨13, 5, f.sy⟩]
    (by simp) (by simp) (by simp [R2.bits, Nat.add_assoc]) fun w ⟨h1, h2, h3, _⟩ => by rw [unR2, h1, h2, h3]

theorem MLd.laid (f : MLd) : Laid unMLd 0xC07C007F#32 f.bits f :=
  .of_fields [⟨30, 2, f.ar⟩, ⟨18, 5, f.sx⟩, ⟨6, 1, f.cb⟩, ⟨5, 1, f.buf⟩, ⟨4, 1, f.west⟩, ⟨0, 4, f.fmt⟩]
    (by simp) (by simp) (by simp [MLd.bits, Nat.add_assoc]) fun w ⟨h1, h2, h3, h4, h5, h6, _⟩ => by
      rw [unMLd, h1, h2, h3, h4, h5, h6]

theorem MMu.laid (f : MMu) : Laid unMMu 0xC07FFFFF#32 f.bits f :=
  .of_fields [⟨30, 2, f.ar⟩, ⟨18, 5, f.sx⟩, ⟨13, 5, f.sy⟩, ⟨8, 5, f.sz⟩, ⟨7, 1, f.keep⟩, ⟨4, 3, f.rg⟩, ⟨0, 4, f.fmt⟩]
    (by simp) (by simp) (by simp [MMu.bits, Nat.add_assoc]) fun w ⟨h1, h2, h3, h4, h5, h6, h7, _⟩ => by
      rw [unMMu, h1, h2, h3, h4, h5, h6, h7]

theorem MMg.laid (f : MMg) : Laid unMMg 0xC07FFFFF#32 f.bits f :=
  .of_fields [⟨30, 2, f.ar⟩, ⟨18, 5, f.sx⟩, ⟨13, 5, f.sy⟩, ⟨8, 5, f.sz⟩, ⟨5, 3, f.rg⟩, ⟨4, 1, f.cl⟩, ⟨0, 4, f.q⟩]
    (by simp) (by simp) (by simp [MMg.bits, Nat.add_assoc]) fun w ⟨h1, h2, h3, h4, h5, h6, h7, _⟩ => by
      rw [unMMg, h1, h2, h3, h4, h5, h6, h7]

theorem MMs.laid (f : MMs) : Laid unMMs 0xC07FFFFF#32 f.bits f :=
  .of_fields [⟨30, 2, f.ar⟩, ⟨18, 5, f.sx⟩, ⟨13, 5, f.sy⟩, ⟨8, 5, f.sz⟩, ⟨7, 1, f.pat⟩, ⟨4, 3, f.rg⟩, ⟨0, 4, f.fmt⟩]
    (by simp) (by simp) (by simp [MMs.bits, Nat.add_assoc]) fun w ⟨h1, h2, h3, h4, h5, h6, h7, _⟩ => by
      rw [unMMs, h1, h2, h3, h4, h5, h6, h7]

theorem MCo.laid (f : MCo) : Laid unMCo 0xC07FE00F#32 f.bits f :=
  .of_fields [⟨30, 2, f.ar⟩, ⟨18, 5, f.sx⟩, ⟨13, 5, f.sy⟩, ⟨0, 4, f.fmt⟩]
    (by simp) (by simp) (by simp [MCo.bits, Nat.add_assoc]) fun w ⟨h1, h2, h3, h4, _⟩ => by rw [unMCo, h1, h2, h3, h4]

theorem MCh.laid (f : MCh) : Laid unMCh 0xC07FFF7F#32 f.bits f :=
  .of_fields [⟨30, 2, f.ar⟩, ⟨18, 5, f.sx⟩, ⟨13, 5, f.sy⟩, ⟨8, 5, f.sz⟩, ⟨4, 3, f.rg⟩, ⟨0, 4, f.fmt⟩]
    (by simp) (by simp) (by simp [MCh.bits, Nat.add_assoc]) fun w ⟨h1, h2, h3, h4, h5, h6, _⟩ => by
      rw [unMCh, h1, h2, h3, h4, h5, h6]

theorem R3.laid (f : R3) : Laid unR3 0xC07FFF00#32 f.bits f :=
  .of_fields [⟨30, 2, f.ar⟩, ⟨18, 5, f.sx⟩, ⟨13, 5, f.sy⟩, ⟨8, 5, f.sz⟩]
    (by simp) (by simp) (by simp [R3.bits, Nat.add_assoc]) fun w ⟨h1, h2, h3, h4, _⟩ => by rw [unR3, h1, h2, h3, h4]

theorem MDr.laid (f : MDr) : Laid unMDr 0xC07FFFFF#32 f.bits f :=
  .of_fields [⟨30, 2, f.ar⟩, ⟨18, 5, f.sx⟩, ⟨13, 5, f.sy⟩, ⟨8, 5, f.sz⟩, ⟨7, 1, f.q⟩, ⟨6, 1, f.log⟩, ⟨5, 1, f.lux⟩,
    ⟨4, 1, f.clr⟩, ⟨0, 4, f.fmt⟩]
    (by simp) (by simp) (by simp [MDr.bits, Nat.add_assoc]) fun w ⟨h1, h2, h3, h4, h5, h6, h7, h8, h9, _⟩ => by
      rw [unMDr, h1, h2, h3, h4, h5, h6, h7, h8, h9]

theorem MCk.laid (f : MCk) : Laid unMCk 0xC07FE001#32 f.bits f :=
  .of_fields [⟨30, 2, f.ar⟩, ⟨18, 5, f.sx⟩, ⟨13, 5, f.sy⟩, ⟨0, 1, f.col⟩]
    (by simp) (by simp) (by simp [MCk.bits, Nat.add_assoc]) fun w ⟨h1, h2, h3, h4, _⟩ => by rw [unMCk, h1, h2, h3, h4]

theorem LLd.laid (f : LLd) : Laid unLLd 0xC07FFF60#32 f.bits f :=
  .of_fields [⟨30, 2, f.ar⟩, ⟨18, 5, f.sx⟩, ⟨13, 5, f.sy⟩, ⟨12, 1, f.cl⟩, ⟨8, 4, f.q⟩, ⟨6, 1, f.ma⟩, ⟨5, 1, f.view⟩]
    (by simp) (by simp) (by simp [LLd.bits, Nat.add_assoc]) fun w ⟨h1, h2, h3, h4, h5, h6, h7, _⟩ => by
      rw [unLLd, h1, h2, h3, h4, h5, h6, h7]

theorem LSt.laid (f : LSt) : Laid unLSt 0xC07FFFE0#32 f.bits f :=
  .of_fields [⟨30, 2, f.ar⟩, ⟨18, 5, f.sx⟩, ⟨13, 5, f.sy⟩, ⟨12, 1, f.cl⟩, ⟨8, 4, f.q⟩, ⟨7, 1, f.pk⟩, ⟨6, 1, f.ma⟩,
    ⟨5, 1, f.view⟩]
    (by simp) (by simp) (by simp [LSt.bits, Nat.add_assoc]) fun w ⟨h1, h2, h3, h4, h5, h6, h7, h8, _⟩ => by
      rw [unLSt, h1, h2, h3, h4, h5, h6, h7, h8]

theorem LEl.laid (f : LEl) : Laid unLEl 0xC07FE067#32 f.bits f :=
  .of_fields [⟨30, 2, f.ar⟩, ⟨18, 5, f.sx⟩, ⟨13, 5, f.sy⟩, ⟨6, 1, f.ma⟩, ⟨5, 1, f.view⟩, ⟨2, 1, f.sgn⟩, ⟨0, 2, f.size⟩]
    (by simp) (by simp) (by simp [LEl.bits, Nat.add_assoc]) fun w ⟨h1, h2, h3, h4, h5, h6, h7, _⟩ => by
      rw [unLEl, h1, h2, h3, h4, h5, h6, h7]

theorem LEs.laid (f : LEs) : Laid unLEs 0xC07FE063#32 f.bits f :=
  .of_fields [⟨30, 2, f.ar⟩, ⟨18, 5, f.sx⟩, ⟨13, 5, f.sy⟩, ⟨6, 1, f.ma⟩, ⟨5, 1, f.view⟩, ⟨0, 2, f.size⟩]
    (by simp) (by simp) (by simp [LEs.bits, Nat.add_assoc]) fun w ⟨h1, h2, h3, h4, h5, h6, _⟩ => by
      rw [unLEs, h1, h2, h3, h4, h5, h6]

theorem LXl.laid (f : LXl) : Laid unLXl 0xC07FFF7F#32 f.bits f :=
  .of_fields [⟨30, 2, f.ar⟩, ⟨18, 5, f.sx⟩, ⟨13, 5, f.sy⟩, ⟨12, 1, f.cl⟩, ⟨8, 4, f.q⟩, ⟨6, 1, f.ma⟩, ⟨4, 2, f.xp⟩,
    ⟨0, 4, f.fmt⟩]
    (by simp) (by simp) (by simp [LXl.bits, Nat.add_assoc]) fun w ⟨h1, h2, h3, h4, h5, h6, h7, h8, _⟩ => by
      rw [unLXl, h1, h2, h3, h4, h5, h6, h7, h8]

theorem LXs.laid (f : LXs) : Laid unLXs 0xC07FFFFF#32 f.bits f :=
  .of_fields [⟨30, 2, f.ar⟩, ⟨18, 5, f.sx⟩, ⟨13, 5, f.sy⟩, ⟨12, 1, f.cl⟩, ⟨8, 4, f.q⟩, ⟨7, 1, f.pk⟩, ⟨6, 1, f.ma⟩,
    ⟨4, 2, f.xp⟩, ⟨0, 4, f.fmt⟩]
    (by simp) (by simp) (by simp [LXs.bits, Nat.add_assoc]) fun w ⟨h1, h2, h3, h4, h5, h6, h7, h8, h9, _⟩ => by
      rw [unLXs, h1, h2, h3, h4, h5, h6, h7, h8, h9]

theorem LFl.laid (f : LFl) : Laid unLFl 0xC07FEFFF#32 f.bits f :=
  .of_fields [⟨30, 2, f.ar⟩, ⟨18, 5, f.sx⟩, ⟨17, 1, f.cl⟩, ⟨13, 4, f.q⟩, ⟨0, 12, f.dist⟩]
    (by simp) (by simp) (by simp [LFl.bits, Nat.add_assoc]) fun w ⟨h1, h2, h3, h4, h5, _⟩ => by
      rw [unLFl, h1, h2, h3, h4, h5]

theorem LFs.laid (f : LFs) : Laid unLFs 0xC07FF000#32 f.bits f :=
  .of_fields [⟨30, 2, f.ar⟩, ⟨18, 5, f.sx⟩, ⟨17, 1, f.cl⟩, ⟨13, 4, f.q⟩, ⟨12, 1, f.pk⟩]
    (by simp) (by simp) (by simp [LFs.bits, Nat.add_assoc]) fun w ⟨h1, h2, h3, h4, h5, _⟩ => by
      rw [unLFs, h1, h2, h3, h4, h5]

theorem R0.laid (f : R0) : Laid unR0 0xC0000000#32 f.bits f :=
  .of_fields [⟨30, 2, f.ar⟩]
    (by simp) (by simp) (by simp [R0.bits]) fun w ⟨h1, _⟩ => by rw [unR0, h1]

theorem LSf.laid (f : LSf) : Laid unLSf 0xC0000007#32 f.bits f :=
  .of_fields [⟨30, 2, f.ar⟩, ⟨0, 3, f.scope⟩]
    (by simp) (by simp) (by simp [LSf.bits]) fun w ⟨h1, h2, _⟩ => by rw [unLSf, h1, h2]

theorem LVj.laid (f : LVj) : Laid unLVj 0xC07FE003#32 f.bits f :=
  .of_fields [⟨30, 2, f.ar⟩, ⟨18, 5, f.sx⟩, ⟨13, 5, f.sy⟩, ⟨0, 2, f.dir⟩]
    (by simp) (by simp) (by simp [LVj.bits, Nat.add_assoc]) fun w ⟨h1, h2, h3, h4, _⟩ => by rw [unLVj, h1, h2, h3, h4]

theorem LRs.laid (f : LRs) : Laid unLRs 0xC07FE007#32 f.bits f :=
  .of_fields [⟨30, 2, f.ar⟩, ⟨18, 5, f.sx⟩, ⟨13, 5, f.sy⟩, ⟨0, 3, f.rg⟩]
    (by simp) (by simp) (by simp [LRs.bits, Nat.add_assoc]) fun w ⟨h1, h2, h3, h4, _⟩ => by rw [unLRs, h1, h2, h3, h4]

theorem LRp.laid (f : LRp) : Laid unLRp 0xC000003F#32 f.bits f :=
  .of_fields [⟨30, 2, f.ar⟩, ⟨3, 3, f.n⟩, ⟨0, 3, f.rg⟩]
    (by simp) (by simp) (by simp [LRp.bits, Nat.add_assoc]) fun w ⟨h1, h2, h3, _⟩ => by rw [unLRp, h1, h2, h3]

theorem XCp.laid (f : XCp) : Laid unXCp 0xC07FFFFC#32 f.bits f :=
  .of_fields [⟨30, 2, f.ar⟩, ⟨18, 5, f.sx⟩, ⟨13, 5, f.sy⟩, ⟨8, 5, f.sz⟩, ⟨5, 3, f.ch⟩, ⟨4, 1, f.pb⟩, ⟨3, 1, f.emit⟩,
    ⟨2, 1, f.quiet⟩]
    (by simp) (by simp) (by simp [XCp.bits, Nat.add_assoc]) fun w ⟨h1, h2, h3, h4, h5, h6, h7, h8, _⟩ => by
      rw [unXCp, h1, h2, h3, h4, h5, h6, h7, h8]

theorem XBk.laid (f : XBk) : Laid unXBk 0xC07C00F0#32 f.bits f :=
  .of_fields [⟨30, 2, f.ar⟩, ⟨18, 5, f.sx⟩, ⟨5, 3, f.ch⟩, ⟨4, 1, f.pb⟩]
    (by simp) (by simp) (by simp [XBk.bits, Nat.add_assoc]) fun w ⟨h1, h2, h3, h4, _⟩ => by rw [unXBk, h1, h2, h3, h4]

theorem XFi.laid (f : XFi) : Laid unXFi 0xC07FFFF7#32 f.bits f :=
  .of_fields [⟨30, 2, f.ar⟩, ⟨18, 5, f.sx⟩, ⟨13, 5, f.sy⟩, ⟨8, 5, f.sz⟩, ⟨5, 3, f.ch⟩, ⟨4, 1, f.pb⟩, ⟨0, 3, f.kind⟩]
    (by simp) (by simp) (by simp [XFi.bits, Nat.add_assoc]) fun w ⟨h1, h2, h3, h4, h5, h6, h7, _⟩ => by
      rw [unXFi, h1, h2, h3, h4, h5, h6, h7]

theorem XAc.laid (f : XAc) : Laid unXAc 0xC07FFFFF#32 f.bits f :=
  .of_fields [⟨30, 2, f.ar⟩, ⟨18, 5, f.sx⟩, ⟨13, 5, f.sy⟩, ⟨8, 5, f.sz⟩, ⟨5, 3, f.ch⟩, ⟨4, 1, f.pb⟩, ⟨0, 4, f.op⟩]
    (by simp) (by simp) (by simp [XAc.bits, Nat.add_assoc]) fun w ⟨h1, h2, h3, h4, h5, h6, h7, _⟩ => by
      rw [unXAc, h1, h2, h3, h4, h5, h6, h7]

theorem XCa.laid (f : XCa) : Laid unXCa 0xC07FFFF8#32 f.bits f :=
  .of_fields [⟨30, 2, f.ar⟩, ⟨18, 5, f.sx⟩, ⟨13, 5, f.sy⟩, ⟨8, 5, f.sz⟩, ⟨5, 3, f.ch⟩, ⟨4, 1, f.pb⟩, ⟨3, 1, f.w64⟩]
    (by simp) (by simp) (by simp [XCa.bits, Nat.add_assoc]) fun w ⟨h1, h2, h3, h4, h5, h6, h7, _⟩ => by
      rw [unXCa, h1, h2, h3, h4, h5, h6, h7]

theorem XSe.laid (f : XSe) : Laid unXSe 0xC07C00F8#32 f.bits f :=
  .of_fields [⟨30, 2, f.ar⟩, ⟨18, 5, f.sx⟩, ⟨5, 3, f.ch⟩, ⟨4, 1, f.pb⟩, ⟨3, 1, f.emit⟩]
    (by simp) (by simp) (by simp [XSe.bits, Nat.add_assoc]) fun w ⟨h1, h2, h3, h4, h5, _⟩ => by
      rw [unXSe, h1, h2, h3, h4, h5]

theorem XFe.laid (f : XFe) : Laid unXFe 0xC07C0003#32 f.bits f :=
  .of_fields [⟨30, 2, f.ar⟩, ⟨18, 5, f.sx⟩, ⟨1, 1, f.s⟩, ⟨0, 1, f.q⟩]
    (by simp) (by simp) (by simp [XFe.bits, Nat.add_assoc]) fun w ⟨h1, h2, h3, h4, _⟩ => by rw [unXFe, h1, h2, h3, h4]

theorem XTk.laid (f : XTk) : Laid unXTk 0xC07FE001#32 f.bits f :=
  .of_fields [⟨30, 2, f.ar⟩, ⟨18, 5, f.sx⟩, ⟨13, 5, f.sy⟩, ⟨0, 1, f.free⟩]
    (by simp) (by simp) (by simp [XTk.bits, Nat.add_assoc]) fun w ⟨h1, h2, h3, h4, _⟩ => by rw [unXTk, h1, h2, h3, h4]

theorem XSp.laid (f : XSp) : Laid unXSp 0xC07FE0F3#32 f.bits f :=
  .of_fields [⟨30, 2, f.ar⟩, ⟨18, 5, f.sx⟩, ⟨13, 5, f.sy⟩, ⟨5, 3, f.ch⟩, ⟨4, 1, f.pb⟩, ⟨0, 2, f.sel⟩]
    (by simp) (by simp) (by simp [XSp.bits, Nat.add_assoc]) fun w ⟨h1, h2, h3, h4, h5, h6, _⟩ => by
      rw [unXSp, h1, h2, h3, h4, h5, h6]

theorem KQp.laid (f : KQp) : Laid unKQp 0xC07C0081#32 f.bits f :=
  .of_fields [⟨30, 2, f.ar⟩, ⟨18, 5, f.sx⟩, ⟨7, 1, f.w⟩, ⟨0, 1, f.q⟩]
    (by simp) (by simp) (by simp [KQp.bits, Nat.add_assoc]) fun w ⟨h1, h2, h3, h4, _⟩ => by rw [unKQp, h1, h2, h3, h4]

theorem KBl.laid (f : KBl) : Laid unKBl 0xC07C008F#32 f.bits f :=
  .of_fields [⟨30, 2, f.ar⟩, ⟨18, 5, f.sx⟩, ⟨7, 1, f.cl⟩, ⟨0, 4, f.fmt⟩]
    (by simp) (by simp) (by simp [KBl.bits, Nat.add_assoc]) fun w ⟨h1, h2, h3, h4, _⟩ => by rw [unKBl, h1, h2, h3, h4]

theorem KBw.laid (f : KBw) : Laid unKBw 0xC07C009F#32 f.bits f :=
  .of_fields [⟨30, 2, f.ar⟩, ⟨18, 5, f.sx⟩, ⟨7, 1, f.cl⟩, ⟨0, 5, f.i⟩]
    (by simp) (by simp) (by simp [KBw.bits, Nat.add_assoc]) fun w ⟨h1, h2, h3, h4, _⟩ => by rw [unKBw, h1, h2, h3, h4]

theorem KXp.laid (f : KXp) : Laid unKXp 0xC07FE003#32 f.bits f :=
  .of_fields [⟨30, 2, f.ar⟩, ⟨18, 5, f.sx⟩, ⟨13, 5, f.sy⟩, ⟨0, 2, f.xp⟩]
    (by simp) (by simp) (by simp [KXp.bits, Nat.add_assoc]) fun w ⟨h1, h2, h3, h4, _⟩ => by rw [unKXp, h1, h2, h3, h4]

theorem KF1.laid (f : KF1) : Laid unKF1 0xC07C0007#32 f.bits f :=
  .of_fields [⟨30, 2, f.ar⟩, ⟨18, 5, f.sx⟩, ⟨0, 3, f.eng⟩]
    (by simp) (by simp) (by simp [KF1.bits, Nat.add_assoc]) fun w ⟨h1, h2, h3, _⟩ => by rw [unKF1, h1, h2, h3]

theorem KF2.laid (f : KF2) : Laid unKF2 0xC07FE007#32 f.bits f :=
  .of_fields [⟨30, 2, f.ar⟩, ⟨18, 5, f.sx⟩, ⟨13, 5, f.sy⟩, ⟨0, 3, f.eng⟩]
    (by simp) (by simp) (by simp [KF2.bits, Nat.add_assoc]) fun w ⟨h1, h2, h3, h4, _⟩ => by rw [unKF2, h1, h2, h3, h4]

theorem KSc.laid (f : KSc) : Laid unKSc 0xC07FE007#32 f.bits f :=
  .of_fields [⟨30, 2, f.ar⟩, ⟨18, 5, f.sx⟩, ⟨13, 5, f.sy⟩, ⟨0, 3, f.ks⟩]
    (by simp) (by simp) (by simp [KSc.bits, Nat.add_assoc]) fun w ⟨h1, h2, h3, h4, _⟩ => by rw [unKSc, h1, h2, h3, h4]

theorem KRb.laid (f : KRb) : Laid unKRb 0xC07FE003#32 f.bits f :=
  .of_fields [⟨30, 2, f.ar⟩, ⟨18, 5, f.sx⟩, ⟨13, 5, f.sy⟩, ⟨1, 1, f.unbind⟩, ⟨0, 1, f.cos⟩]
    (by simp) (by simp) (by simp [KRb.bits, Nat.add_assoc]) fun w ⟨h1, h2, h3, h4, h5, _⟩ => by
      rw [unKRb, h1, h2, h3, h4, h5]

theorem KRc.laid (f : KRc) : Laid unKRc 0xC07FFF8F#32 f.bits f :=
  .of_fields [⟨30, 2, f.ar⟩, ⟨18, 5, f.sx⟩, ⟨13, 5, f.sy⟩, ⟨8, 5, f.sz⟩, ⟨7, 1, f.sealed⟩, ⟨0, 4, f.fld⟩]
    (by simp) (by simp) (by simp [KRc.bits, Nat.add_assoc]) fun w ⟨h1, h2, h3, h4, h5, h6, _⟩ => by
      rw [unKRc, h1, h2, h3, h4, h5, h6]

theorem KRr.laid (f : KRr) : Laid unKRr 0xC07C0003#32 f.bits f :=
  .of_fields [⟨30, 2, f.ar⟩, ⟨18, 5, f.sx⟩, ⟨0, 2, f.sel⟩]
    (by simp) (by simp) (by simp [KRr.bits, Nat.add_assoc]) fun w ⟨h1, h2, h3, _⟩ => by rw [unKRr, h1, h2, h3]

theorem R1.laid (f : R1) : Laid unR1 0xC07C0000#32 f.bits f :=
  .of_fields [⟨30, 2, f.ar⟩, ⟨18, 5, f.sx⟩]
    (by simp) (by simp) (by simp [R1.bits]) fun w ⟨h1, h2, _⟩ => by rw [unR1, h1, h2]

theorem KTq.laid (f : KTq) : Laid unKTq 0xC07FE001#32 f.bits f :=
  .of_fields [⟨30, 2, f.ar⟩, ⟨18, 5, f.sx⟩, ⟨13, 5, f.sy⟩, ⟨0, 1, f.w1⟩]
    (by simp) (by simp) (by simp [KTq.bits, Nat.add_assoc]) fun w ⟨h1, h2, h3, h4, _⟩ => by rw [unKTq, h1, h2, h3, h4]

theorem KTs.laid (f : KTs) : Laid unKTs 0xC07FE0F7#32 f.bits f :=
  .of_fields [⟨30, 2, f.ar⟩, ⟨18, 5, f.sx⟩, ⟨13, 5, f.sy⟩, ⟨4, 4, f.fmt⟩, ⟨0, 3, f.kind⟩]
    (by simp) (by simp) (by simp [KTs.bits, Nat.add_assoc]) fun w ⟨h1, h2, h3, h4, h5, _⟩ => by
      rw [unKTs, h1, h2, h3, h4, h5]

theorem KJa.laid (f : KJa) : Laid unKJa 0xC07FE03F#32 f.bits f :=
  .of_fields [⟨30, 2, f.ar⟩, ⟨18, 5, f.sx⟩, ⟨13, 5, f.sy⟩, ⟨0, 6, f.slot⟩]
    (by simp) (by simp) (by simp [KJa.bits, Nat.add_assoc]) fun w ⟨h1, h2, h3, h4, _⟩ => by rw [unKJa, h1, h2, h3, h4]

theorem KJd.laid (f : KJd) : Laid unKJd 0xC07C00FF#32 f.bits f :=
  .of_fields [⟨30, 2, f.ar⟩, ⟨18, 5, f.sx⟩, ⟨7, 1, f.err⟩, ⟨6, 1, f.close⟩, ⟨0, 6, f.slot⟩]
    (by simp) (by simp) (by simp [KJd.bits, Nat.add_assoc]) fun w ⟨h1, h2, h3, h4, h5, _⟩ => by
      rw [unKJd, h1, h2, h3, h4, h5]

theorem KJe.laid (f : KJe) : Laid unKJe 0xC07FFF07#32 f.bits f :=
  .of_fields [⟨30, 2, f.ar⟩, ⟨18, 5, f.sx⟩, ⟨13, 5, f.sy⟩, ⟨8, 5, f.sz⟩, ⟨0, 3, f.n⟩]
    (by simp) (by simp) (by simp [KJe.bits, Nat.add_assoc]) fun w ⟨h1, h2, h3, h4, h5, _⟩ => by
      rw [unKJe, h1, h2, h3, h4, h5]

theorem KJr.laid (f : KJr) : Laid unKJr 0xC07FFF0F#32 f.bits f :=
  .of_fields [⟨30, 2, f.ar⟩, ⟨18, 5, f.sx⟩, ⟨13, 5, f.sy⟩, ⟨8, 5, f.sz⟩, ⟨3, 1, f.gf⟩, ⟨0, 3, f.n⟩]
    (by simp) (by simp) (by simp [KJr.bits, Nat.add_assoc]) fun w ⟨h1, h2, h3, h4, h5, h6, _⟩ => by
      rw [unKJr, h1, h2, h3, h4, h5, h6]

theorem KJp.laid (f : KJp) : Laid unKJp 0xC00000DF#32 f.bits f :=
  .of_fields [⟨30, 2, f.ar⟩, ⟨6, 2, f.kind⟩, ⟨4, 1, f.cl⟩, ⟨0, 4, f.q⟩]
    (by simp) (by simp) (by simp [KJp.bits, Nat.add_assoc]) fun w ⟨h1, h2, h3, h4, _⟩ => by rw [unKJp, h1, h2, h3, h4]

end Sys2Proof
end

section
/-!
PROOFS. O1: what a slot's map takes a word for, and the word of every well-formed instruction read back.
-/

namespace Sys2Proof

/-! ### Accepting a word (R61) -/

/-- A word whose fixed fields hold their values has no first one that does not. -/
theorem firstFixed_eq_none {w : BitVec 32} {l : List (Nat × Nat × Nat × Nat)}
    (h : ∀ x ∈ l, (w.extractLsb' x.1 x.2.1).toNat = x.2.2.1) : firstFixed w l = none := by
  induction l with
  | nil => rfl
  | cons x t ih =>
    obtain ⟨hx, ht⟩ := List.forall_mem_cons.1 h
    rw [firstFixed, if_pos, ih ht]
    rw [← hx, BitVec.extractLsb'_toNat, Nat.shiftRight_eq_div_pow]

/-- A word without reserved bits whose fixed fields hold their values is taken for its well-formed instruction. -/
theorem accept_eq {w zero : BitVec 32} {fixed : List (Nat × Nat × Nat × Nat)} {i : Instr} (hz : w &&& zero = 0#32)
    (hf : ∀ x ∈ fixed, (w.extractLsb' x.1 x.2.1).toNat = x.2.2.1) (hi : fieldErr i = none) :
    accept w zero fixed i = .ok i := by
  unfold accept
  rw [if_pos (by exact hz), firstFixed_eq_none hf, hi]

/-- A first failing test fails first. -/
theorem firstErr_cons_none {b : Bool} {r f : Nat} {t : List (Bool × Nat × Nat)} (h : firstErr ((b, r, f) :: t) = none) :
    b = false := by
  cases b
  · rfl
  · cases h

/-! ### The maps of the slots (R43, R57 to R60) -/

/-- A slot decodes its words by the map `t`. -/
def MapOf (slot : Nat) (t : BitVec 32 → Nat → Except DecErr Instr) : Prop :=
  ∀ w : BitVec 32, (w.extractLsb' 23 7).toNat ≠ 0 → decodeSlot slot w = t w (w.extractLsb' 23 7).toNat

theorem mapOf_C : MapOf 0 decodeC := fun _ h => if_neg h
theorem mapOf_S : MapOf 1 decodeS := fun _ h => if_neg h
theorem mapOf_M : MapOf 4 decodeM := fun _ h => if_neg h
theorem mapOf_L : MapOf 5 decodeL := fun _ h => if_neg h
theorem mapOf_X : MapOf 6 decodeX := fun _ h => if_neg h
theorem mapOf_K : MapOf 7 decodeK := fun _ h => if_neg h

/-- A vector slot's map is read for the slot's cluster. -/
theorem mapOf_V (cl : BitVec 1) : MapOf (2 + cl.toNat) (decodeV cl) := by
  obtain rfl | rfl : cl = 0#1 ∨ cl = 1#1 := by revert cl; decide
  · exact fun _ h => if_neg h
  · exact fun _ h => if_neg h

/-! ### Reading back (R43 to R62) -/

/-- What the constant `c` of a word must satisfy beside the fields in `mask`: it avoids them and the reserved bits, as they
do, and outside them it holds an opcode and each fixed field's value. -/
abbrev Fits (mask zero : BitVec 32) (c : Nat) (fixed : List (Nat × Nat × Nat × Nat)) : Prop :=
  BitVec.ofNat 32 c &&& mask = 0#32 ∧ mask &&& zero = 0#32 ∧ BitVec.ofNat 32 c &&& zero = 0#32 ∧ c / 2 ^ 23 % 2 ^ 7 ≠ 0 ∧
    ∀ x ∈ (23, 7, c / 2 ^ 23 % 2 ^ 7, 0) :: fixed,
      mask.extractLsb' x.1 x.2.1 = 0#x.2.1 ∧ ((BitVec.ofNat 32 c).extractLsb' x.1 x.2.1).toNat = x.2.2.1

section
variable {α : Type} {un : BitVec 32 → α} {mask zero : BitVec 32} {bits c slot : Nat} {f : α} {mk : α → Instr}
  {fixed : List (Nat × Nat × Nat × Nat)} {t : BitVec 32 → Nat → Except DecErr Instr}

/-- The word of a record beside a fitting constant is decoded to the well-formed instruction of that record, when its slot's
map accepts the constant's opcode for it. -/
theorem Laid.decode_word (h : Laid un mask bits f) (ht : MapOf slot t)
    (hs : t (BitVec.ofNat 32 (c + bits)) (c / 2 ^ 23 % 2 ^ 7) =
      accept (BitVec.ofNat 32 (c + bits)) zero fixed (mk (un (BitVec.ofNat 32 (c + bits)))))
    (hc : Fits mask zero c fixed) (hi : fieldErr (mk f) = none) :
    decodeSlot slot (BitVec.ofNat 32 (c + bits)) = .ok (mk f) := by
  obtain ⟨hm, hmz, hz, hne, hf⟩ := hc
  have hfields : ∀ x ∈ (23, 7, c / 2 ^ 23 % 2 ^ 7, 0) :: fixed,
      ((BitVec.ofNat 32 (c + bits)).extractLsb' x.1 x.2.1).toNat = x.2.2.1 := fun x hx => by
    rw [h.extract_word hm (hf x hx).1, (hf x hx).2]
  obtain ⟨hop, hfix⟩ := List.forall_mem_cons.1 hfields
  rw [ht _ (hop ▸ hne), hop, hs, h.un_word hm]
  exact accept_eq (h.word_and_zero hm hmz hz) hfix hi

/-- The same for an opcode that its slot's map accepts in every word. -/
theorem Laid.decode (h : Laid un mask bits f) (ht : MapOf slot t)
    (hs : ∀ w, t w (c / 2 ^ 23 % 2 ^ 7) = accept w zero fixed (mk (un w))) (hc : Fits mask zero c fixed)
    (hi : fieldErr (mk f) = none) : decodeSlot slot (BitVec.ofNat 32 (c + bits)) = .ok (mk f) :=
  h.decode_word ht (hs _) hc hi

end

/-- A NOP's word is read back (R44). -/
theorem decodeSlot_nop (f : CN) : decodeSlot 0 (encode (.nop f)) = .ok (.nop f) := by
  obtain ⟨g⟩ := f
  revert g
  decide

/-! ### Opcodes that stand for two instructions, told apart by a fixed field (R55, R60) -/

section
variable {w : BitVec 32}

theorem decodeM_mchain (h : w.getLsbD 7 = false) : decodeM w 0x0F = accept w 0#32 [] (.mchain (unMCh w)) := by
  unfold decodeM; exact if_neg (Bool.eq_false_iff.1 h)

theorem decodeM_mchainRecv (h : w.getLsbD 7 = true) : decodeM w 0x0F = accept w 0x7F#32 [] (.mchainRecv (unR3 w)) := by
  unfold decodeM; exact if_pos h

theorem decodeK_kbl (h : w.getLsbD 6 = false) : decodeK w 0x03 = accept w 0x3FF30#32 [] (.kbl (unKBl w)) := by
  unfold decodeK; exact if_neg (Bool.eq_false_iff.1 h)

theorem decodeK_kblW (h : w.getLsbD 6 = true) : decodeK w 0x03 = accept w 0x3FF20#32 [] (.kblW (unKBw w)) := by
  unfold decodeK; exact if_pos h

theorem decodeK_jemit (h : w.getLsbD 4 = false) : decodeK w 0x20 = accept w 0xE8#32 [] (.jemit (unKJe w)) := by
  unfold decodeK; exact if_neg (Bool.eq_false_iff.1 h)

theorem decodeK_jemitMark (h : w.getLsbD 4 = true) : decodeK w 0x20 = accept w 0xEF#32 [] (.jemitMark (unR3 w)) := by
  unfold decodeK; exact if_pos h

theorem decodeK_flagsRd (h : w.extractLsb' 3 2 = 0#2) (hr : w.extractLsb' 13 5 = 0#5) :
    decodeK w 0x05 = accept w 0x3FFE0#32 [] (.flagsRd (unKF1 w)) := by
  simp [decodeK, h, hr]

theorem decodeK_flagsClr (h : w.extractLsb' 3 2 = 1#2) :
    decodeK w 0x05 = accept w 0x1FE0#32 [] (.flagsClr (unKF2 w)) := by
  simp [decodeK, h]

theorem decodeK_flagsEn (h : w.extractLsb' 3 2 = 2#2) :
    decodeK w 0x05 = accept w 0x1FE0#32 [] (.flagsEn (unKF2 w)) := by
  simp [decodeK, h]

end

/-- Every instruction that stands in a slot and whose fields are allowed is read back from its word: by the layout of its
record, and by the constant that its slot's map gives a meaning. -/
theorem decode_encode (i : Instr) (he : i.isEvent = false) (hi : fieldErr i = none) :
    decodeSlot i.slot (encode i) = .ok i := by
  cases i with
  | nop f => exact decodeSlot_nop f
  | jmp f | br f | brp f | jmpi f | call f | calli f | ret f | loop f | loopi f | brkl f | segj f | safe f | trap f
  | eret f | brkpt f | halt f | waitb f | arrive f | arwait f | sstep f | eclipse f | yield f | waitj f | mfsr f
  | mtsr f =>
    exact f.laid.decode mapOf_C (fun _ => by unfold decodeC; rfl) (by decide) hi
  | add f | sub f | and f | or f | xor f | andn f | shl f | shr f | sra f | mul f | mulh f | mulhu f | min f | max f
  | minu f | maxu f | seq f | sne f | slt f | sltu f | sle f | sleu f | sel f | mov f | abs f | neg f | clz f
  | ctz f | popc f | bfx f | bfi f | addi f | andi f | ori f | xori f | shli f | shri f | srai f | muli f | li f
  | lih f | lix f | lit f | mfli f | mflc f | slti f | seqi f =>
    exact f.laid.decode mapOf_S (fun _ => by unfold decodeS; rfl) (by decide) hi
  | vadd f | vsub f | vadds f | vsubs f | vmul f | vmulh f | vmad f | vand f | vor f | vxor f | vandn f | vshl f
  | vshr f | vsra f | vmin f | vmax f | vabs f | vneg f | vcmp f | vfadd f | vfsub f | vfmul f | vfma f | vfmin f
  | vfmax f | vfabs f | vfneg f | vfcmp f | vfrnd f | vcvt f | vqnt f | vdqnt f | pand f | por f | pxor f | pnot f
  | pmov f | psetn f | vsel f | vperm f | vrot f | vshfl f | vbcst f | vmov f | vradd f | vrmax f | vrmin f
  | vrfadd f | vrfmax f | vband f | vpopc f | vpfx f | visect f | vcsw f | vcswx f =>
    exact f.laid.decode (mapOf_V _) (fun _ => by unfold decodeV; rfl) (by decide) hi
  | malloc f | mfree f | mband f | mzero f | mldw f | mmul f | mmulg f | mmuls f | mmulb f | mmulc f | mcond f
  | mdrain f | mchk f =>
    exact f.laid.decode mapOf_M (fun _ => by unfold decodeM; rfl) (by decide) hi
  | ldv f | stv f | lds f | sts f | ldx f | stx f | ldf f | stf f | mark f | sfence f | vjoin f | rset f | rpush f =>
    exact f.laid.decode mapOf_L (fun _ => by unfold decodeL; rfl) (by decide) hi
  | xcopy f | xcopyt f | xpair f | xfill f | xgath f | xscat f | xacc f | xcas f | xnear f | xsend f | xpost f
  | xcoll f | xfence f | xhand f | xtake f | xmedia f | xspill f | xrecall f =>
    exact f.laid.decode mapOf_X (fun _ => by unfold decodeX; rfl) (by decide) hi
  | qpop f | kxpat f | kscale f | kscalei f | krbind f | krec f | krclr f | kseal f | cksum f | ttq f | ttset f
  | ttsettle f | ttpromo f | jcbadd f | jcbdone f | jcbq f | jroute f | jgen f | jrpl f | jtrunc f | ctag f | resq f =>
    exact f.laid.decode mapOf_K (fun _ => by unfold decodeK; rfl) (by decide) hi
  | vrcp f | vrsq f | vexp2 f | vlog2 f | vtanh f | vsigm f =>
    have hcl : f.cl ≠ 0 := of_decide_eq_false (firstErr_cons_none hi)
    exact f.laid.decode (mapOf_V _) (fun _ => by unfold decodeV; exact if_neg hcl) (by decide) hi
  | vrng f => exact f.laid.decode (mapOf_V 1#1) (fun _ => by unfold decodeV; rfl) (by decide) hi
  | mchain f =>
    have hb : (encode (.mchain f)).getLsbD 7 = false := f.laid.getLsbD_word (by decide)
    exact f.laid.decode_word mapOf_M (decodeM_mchain hb) (by decide) hi
  | mchainRecv f =>
    have hb : (encode (.mchainRecv f)).getLsbD 7 = true := f.laid.getLsbD_word (by decide)
    exact f.laid.decode_word mapOf_M (decodeM_mchainRecv hb) (by decide) hi
  | kbl f =>
    have hb : (encode (.kbl f)).getLsbD 6 = false := f.laid.getLsbD_word (by decide)
    exact f.laid.decode_word mapOf_K (decodeK_kbl hb) (by decide) hi
  | kblW f =>
    have hb : (encode (.kblW f)).getLsbD 6 = true := f.laid.getLsbD_word (by decide)
    exact f.laid.decode_word mapOf_K (decodeK_kblW hb) (by decide) hi
  | jemit f =>
    have hb : (encode (.jemit f)).getLsbD 4 = false := f.laid.getLsbD_word (by decide)
    exact f.laid.decode_word mapOf_K (decodeK_jemit hb) (by decide) hi
  | jemitMark f =>
    have hb : (encode (.jemitMark f)).getLsbD 4 = true := f.laid.getLsbD_word (by decide)
    exact f.laid.decode_word mapOf_K (decodeK_jemitMark hb) (by decide) hi
  | flagsRd f =>
    have hb : (encode (.flagsRd f)).extractLsb' 3 2 = 0#2 := f.laid.extract_word (by decide) (by decide)
    have hr : (encode (.flagsRd f)).extractLsb' 13 5 = 0#5 := f.laid.extract_word (by decide) (by decide)
    exact f.laid.decode_word mapOf_K (decodeK_flagsRd hb hr) (by decide) hi
  | flagsClr f =>
    have hb : (encode (.flagsClr f)).extractLsb' 3 2 = 1#2 := f.laid.extract_word (by decide) (by decide)
    exact f.laid.decode_word mapOf_K (decodeK_flagsClr hb) (by decide) hi
  | flagsEn f =>
    have hb : (encode (.flagsEn f)).extractLsb' 3 2 = 2#2 := f.laid.extract_word (by decide) (by decide)
    exact f.laid.decode_word mapOf_K (decodeK_flagsEn hb) (by decide) hi
  | _ => cases he

/-- Settles O1: every well-formed instruction is read back from its word. -/
theorem decodeReadsBackEncode : Obligations.DecodeReadsBackEncode := by
  intro i hi
  unfold Instr.wf at hi
  obtain ⟨he, hf⟩ := Bool.and_eq_true_iff.1 hi
  exact decode_encode i (by simpa using he) (by simpa using hf)

end Sys2Proof
end

section
/-!
PROOFS. O3: the words that a slot's map refuses; and O2: the words that the spec prints.
-/

namespace Sys2Proof

open Sys2Proof.Claim

/-- A map refuses the opcodes that its slot does not assign (R57 to R61). -/
def Refuses (slot : Nat) (t : BitVec 32 → Nat → Except DecErr Instr) : Prop :=
  ∀ (w : BitVec 32) (op : Nat), op ∉ assigned slot → t w op = .error ⟨1, 0, 0xFF⟩

/-- Each map gives a meaning to assigned opcodes only, and refuses the others in its last line. -/
theorem maps_refuse : Refuses 0 decodeC ∧ Refuses 1 decodeS ∧ (∀ cl, Refuses 2 (decodeV cl)) ∧ Refuses 4 decodeM ∧
    Refuses 5 decodeL ∧ Refuses 6 decodeX ∧ Refuses 7 decodeK := by
  unfold Refuses decodeC decodeS decodeV decodeM decodeL decodeX decodeK
  refine ⟨fun w op h => ?_, fun w op h => ?_, fun cl w op h => ?_, fun w op h => ?_, fun w op h => ?_, fun w op h => ?_,
    fun w op h => ?_⟩
  all_goals
    split
    on_goal -1 => rfl
    all_goals exact absurd (by decide) h

/-- An opcode that only VB assigns is refused in VA as a slot restriction (R59). -/
theorem decodeV_vbOnly {w : BitVec 32} {op : Nat} (hlo : 0x28 ≤ op) (hhi : op ≤ 0x2E) : decodeV 0 w op = .error ⟨1, 1, 0xFF⟩ := by
  interval_cases op <;> rfl

/-- NOP's opcode is assigned in every slot (R44). -/
theorem zero_mem_assigned (slot : Nat) : 0 ∈ assigned slot := by
  unfold assigned; split <;> decide

/-- A word of an unassigned opcode is refused by its slot's map, whatever its other bits (R61). -/
theorem MapOf.unassigned {slot : Nat} {t : BitVec 32 → Nat → Except DecErr Instr} (ht : MapOf slot t) (hr : Refuses slot t)
    {w : BitVec 32} (h : (w.extractLsb' 23 7).toNat ∉ assigned slot) : decodeSlot slot w = .error ⟨1, 0, 0xFF⟩ := by
  rw [ht w fun e => h (e ▸ zero_mem_assigned slot), hr w _ h]

/-- A word of an unassigned opcode is refused in every slot. -/
theorem decodeSlot_unassigned {slot : Nat} (hs : slot < 8) {w : BitVec 32}
    (h : (w.extractLsb' 23 7).toNat ∉ assigned slot) : decodeSlot slot w = .error ⟨1, 0, 0xFF⟩ := by
  obtain ⟨hC, hS, hV, hM, hL, hX, hK⟩ := maps_refuse
  match slot, hs with
  | 0, _ => exact mapOf_C.unassigned hC h
  | 1, _ => exact mapOf_S.unassigned hS h
  | 2, _ => exact (mapOf_V 0#1).unassigned (hV 0#1) h
  | 3, _ => exact (mapOf_V 1#1).unassigned (hV 1#1) h
  | 4, _ => exact mapOf_M.unassigned hM h
  | 5, _ => exact mapOf_L.unassigned hL h
  | 6, _ => exact mapOf_X.unassigned hX h
  | 7, _ => exact mapOf_K.unassigned hK h

/-- Settles O3: an unassigned opcode falls through its slot's map, a VB-only one is met in VA, and the sample words are
decoded. -/
theorem refusedWords : Obligations.RefusedWords := by
  refine ⟨fun slot hs w h => decodeSlot_unassigned hs h, fun w hlo hhi => ?_, by decide, by decide, by decide, by decide,
    by decide⟩
  exact (mapOf_V 0#1 w (by omega)).trans (decodeV_vbOnly hlo hhi)

/-- Settles O2: the decoder is run on each printed word. -/
theorem printedWordsDecode : Obligations.PrintedWordsDecode := by
  unfold Obligations.PrintedWordsDecode
  decide

end Sys2Proof
end

section
/-!
PROOFS. O4: the words of a compressed bundle taken back, slot by slot (R64).
-/

namespace Sys2Proof

/-- The four bytes of a slot word, little-endian (R64). -/
def wordBytes (w : BitVec 32) : List Byte := (List.range 4).map fun j => w.extractLsb' (8 * j) 8

/-- A word's bytes, one by one. -/
theorem wordBytes_eq (w : BitVec 32) :
    wordBytes w = [w.extractLsb' 0 8, w.extractLsb' 8 8, w.extractLsb' 16 8, w.extractLsb' 24 8] := rfl

/-- A word's bytes, read little-endian, are the word. -/
theorem leNat_wordBytes (w : BitVec 32) : leNat (wordBytes w) = w.toNat := by
  have hw := w.isLt
  simp only [wordBytes_eq, leNat, BitVec.extractLsb'_toNat, Nat.shiftRight_eq_div_pow]
  omega

/-- A word's bytes as the compressor writes them. -/
theorem leBytes_word (w : BitVec 32) : leBytes 4 w.toNat = wordBytes w := by
  rw [wordBytes_eq]
  simp only [leBytes, Nat.div_div_eq_div_mul, Nat.reduceMul]
  refine congrArg₂ _ ?_ (congrArg₂ _ ?_ (congrArg₂ _ ?_ (congrArg₂ _ ?_ rfl)))
  all_goals apply BitVec.eq_of_toNat_eq; simp [Nat.shiftRight_eq_div_pow]

/-- A present slot's word is taken off the bytes. -/
theorem takeSlots_present {mask k : Nat} (h : mask.testBit (7 - k) = true) (w : BitVec 32) (b : List Byte) :
    takeSlots mask (k + 1) (wordBytes w ++ b) = (takeSlots mask k b).map fun p => (w :: p.1, p.2) := by
  have hw : BitVec.ofNat 32 (leNat (wordBytes w)) = w := by rw [leNat_wordBytes, BitVec.ofNat_toNat, BitVec.setWidth_eq]
  refine (if_pos h).trans ?_
  rw [wordBytes_eq] at hw ⊢
  simp only [List.cons_append, List.nil_append, hw]

/-- An absent slot's word is 0. -/
theorem takeSlots_absent {mask k : Nat} (h : mask.testBit (7 - k) = false) (b : List Byte) :
    takeSlots mask (k + 1) b = (takeSlots mask k b).map fun p => (0#32 :: p.1, p.2) :=
  if_neg (Bool.eq_false_iff.1 h)

/-- The bytes of the listed slots' words, where their mask bits are 1. -/
def slotBytes (mask : Nat) (w : Nat → BitVec 32) (l : List Nat) : List Byte :=
  l.flatMap fun i => if mask.testBit i then wordBytes (w i) else []

/-- The words of the last `k` slots are taken off their bytes, 0 where absent. -/
theorem takeSlots_slotBytes (mask : Nat) (w : Nat → BitVec 32) (rest : List Byte) (k : Nat) (hk : k ≤ 8) :
    takeSlots mask k (slotBytes mask w (List.range' (8 - k) k) ++ rest) =
      some ((List.range' (8 - k) k).map fun i => if mask.testBit i then w i else 0#32, rest) := by
  induction k with
  | zero => rfl
  | succ k ih =>
    have hr : List.range' (8 - (k + 1)) (k + 1) = (7 - k) :: List.range' (8 - k) k := by
      rw [List.range'_succ, show 8 - (k + 1) = 7 - k by omega, show 7 - k + 1 = 8 - k by omega]
    have ih := ih (by omega)
    rw [hr, slotBytes, List.flatMap_cons, List.map_cons]
    cases hb : mask.testBit (7 - k)
    · rw [takeSlots_absent hb]
      exact congrArg _ ih
    · rw [if_pos rfl, List.append_assoc, takeSlots_present hb]
      exact congrArg _ ih

/-- A bundle is taken back from its mask and its present words. -/
theorem takeBundle_slotBytes (m : Byte) (w : Nat → BitVec 32) (rest : List Byte) :
    takeBundle (m :: slotBytes m.toNat w (List.range 8) ++ rest) =
      some (bundleOf ((List.range 8).map fun i => if m.getLsbD i then w i else 0#32), rest) := by
  have h := takeSlots_slotBytes m.toNat w rest 8 le_rfl
  rw [Nat.sub_self, ← List.range_eq_range'] at h
  rw [List.cons_append, takeBundle, h]
  simp only [BitVec.testBit_toNat]
  rfl

/-- A bundle's words are the list's. -/
theorem getD_bundleOf (l : List (BitVec 32)) {i : Nat} (hi : i < 8) : (bundleOf l).toList.getD i 0#32 = l.getD i 0#32 := by
  simp [bundleOf, hi]

/-- A bundle is its words. -/
theorem bundleOf_words (b : Bundle) : bundleOf ((List.range 8).map fun i => b.toList.getD i 0#32) = b := by
  ext i hi
  simp [bundleOf]

/-- The number whose bits below `n` are 1 where `p` fails. -/
def presenceMask (p : Nat → Prop) [DecidablePred p] (n : Nat) : Nat :=
  (List.range n).foldl (fun a i => if p i then a else a + 2 ^ i) 0

/-- One slot more. -/
theorem presenceMask_succ (p : Nat → Prop) [DecidablePred p] (n : Nat) :
    presenceMask p (n + 1) = if p n then presenceMask p n else presenceMask p n + 2 ^ n := by
  rw [presenceMask, List.range_succ, List.foldl_append]
  rfl

/-- The mask of n slots has n bits. -/
theorem presenceMask_lt (p : Nat → Prop) [DecidablePred p] (n : Nat) : presenceMask p n < 2 ^ n := by
  induction n with
  | zero => exact Nat.one_pos
  | succ n ih =>
    rw [presenceMask_succ]
    split <;> omega

/-- A bit of the mask. -/
theorem testBit_presenceMask (p : Nat → Prop) [DecidablePred p] (n i : Nat) :
    (presenceMask p n).testBit i = (decide (i < n) && !decide (p i)) := by
  induction n with
  | zero => simp [presenceMask]
  | succ n ih =>
    have hlt := presenceMask_lt p n
    rw [presenceMask_succ]
    rcases lt_trichotomy i n with h | rfl | h
    · have hbit : (presenceMask p n + 2 ^ n).testBit i = (presenceMask p n).testBit i := by
        rw [Nat.add_comm]; exact Nat.testBit_two_pow_add_gt h _
      rw [apply_ite (Nat.testBit · i), hbit, ite_self, ih]
      simp [h, Nat.lt_succ_of_lt h]
    · have hlow : (presenceMask p i).testBit i = false := Nat.testBit_lt_two_pow hlt
      have hbit : (presenceMask p i + 2 ^ i).testBit i = true := by
        rw [Nat.add_comm, Nat.testBit_two_pow_add_eq, hlow]; rfl
      split <;> simp [*]
    · have hpow : 2 ^ (n + 1) ≤ 2 ^ i := Nat.pow_le_pow_right (by decide) h
      rw [Nat.testBit_lt_two_pow (by split <;> omega)]
      simp [show ¬ i < n + 1 by omega]

/-- The mask byte of a compressed bundle. -/
def bundleMask (b : Bundle) : Byte := BitVec.ofNat 8 (presenceMask (fun i => b.toList.getD i 0#32 = 0#32) 8)

/-- The mask byte has a bit for each slot whose word is not 0. -/
theorem getLsbD_bundleMask (b : Bundle) {i : Nat} (hi : i < 8) :
    (bundleMask b).getLsbD i = !decide (b.toList.getD i 0#32 = 0#32) := by
  rw [bundleMask, BitVec.getLsbD_ofNat, testBit_presenceMask]
  simp [hi]

/-- A compressed bundle is its mask and the words that are not 0. -/
theorem compress_eq (b : Bundle) :
    compress b = bundleMask b :: slotBytes (bundleMask b).toNat (b.toList.getD · 0#32) (List.range 8) := by
  have hl : b.toList = (List.range 8).map fun i => b.toList.getD i 0#32 := by
    refine List.ext_getElem (by simp) fun j h1 h2 => ?_
    have hj : j < 8 := by simpa using h2
    simp [hj]
  unfold compress
  dsimp only
  refine congrArg₂ _ rfl ?_
  conv_lhs => rw [hl]
  rw [List.flatMap_map, slotBytes]
  refine List.flatMap_congr fun i hi => ?_
  rw [BitVec.testBit_toNat, getLsbD_bundleMask b (by simpa using hi), leBytes_word]
  simp

/-- Settles O4: a bundle is taken back from its mask and present words, and a compressed bundle is such. -/
theorem bundleCompressionTakesBack : Obligations.BundleCompressionTakesBack := by
  refine ⟨fun m w rest => ⟨bundleOf ((List.range 8).map fun i => if m.getLsbD i then w i else 0#32), ?_, fun i hi => ?_⟩,
    fun b rest => ?_⟩
  · have h := takeBundle_slotBytes m w rest
    simp only [slotBytes, BitVec.testBit_toNat] at h
    exact h
  · rw [getD_bundleOf _ hi]
    simp [hi]
  · rw [compress_eq, takeBundle_slotBytes]
    conv_rhs => rw [← bundleOf_words b]
    refine congrArg (fun l => some (bundleOf l, rest)) (List.map_congr_left fun i hi => ?_)
    rw [getLsbD_bundleMask b (by simpa using hi)]
    by_cases h : b.toList.getD i 0#32 = 0#32
    · rw [if_neg (by simp only [h]; decide), h]
    · rw [if_pos (by simp only [h]; decide)]

end Sys2Proof
end

section
/-!
PROOFS. O16: the sequencer's instructions, each an effect without a check that can fail (R44, R98 to R100, R228, R373).
-/

namespace Sys2Proof.Machine

open Sys2Proof Sys2Proof.Claim

/-- An instruction without checks whose effect is on the executing plane. -/
theorem onPlane_of_guarded {i : Instr} {s : State} {slot : Nat} {l : List (Option Cause)} {eff : State → State} {p : Plane}
    (h : exec i s = s.guarded slot l eff) (hl : ∀ c ∈ l, c = none) (hp : eff s = { s with pl := p }) : OnPlane i s p :=
  h.trans ((s.guarded_pass slot l eff hl).trans (congrArg _ hp))

/-- Settles O16: no check of these instructions fails, ERET's in a handler and outside a loop's end, and each effect is its own. -/
theorem sequencerInstructions : Obligations.SequencerInstructions := by
  have free : ∀ c ∈ ([] : List (Option Cause)), c = none := by simp
  refine fun s => ⟨fun f => ⟨exec_nop f s, ?_, ?_, ?_, ?_, fun ht he => ?_⟩, fun f => ⟨?_, ?_⟩⟩
  · exact onPlane_of_guarded (show execSafe f s = _ from rfl) free rfl
  · exact onPlane_of_guarded (show execHalt f s = _ from rfl) free rfl
  · exact onPlane_of_guarded (show execEclipse f s = _ from rfl) free rfl
  · exact onPlane_of_guarded (show execYield f s = _ from rfl) free rfl
  · exact onPlane_of_guarded (show execEret f s = _ from rfl) (by simp [ht, he]) rfl
  · exact onPlane_of_guarded (show execTrap f s = _ from rfl) free rfl
  · exact onPlane_of_guarded (show execBrkpt f s = _ from rfl) free rfl

end Sys2Proof.Machine
end

section
/-!
PROOFS. A vector instruction as the claims say it: what it leaves when its queue checks pass (R28 to R32, R155), and its
result element by element (R156, R161).
-/

namespace Sys2Proof.Machine

open Sys2Proof

/-! ### The frame (R155) -/

/-- The bundle more that another cluster's operand takes, of a list of sources (R32). -/
theorem crossLat_sources (srcs : List (BitVec 5 × BitVec 1)) :
    ((srcs.map fun x => src x.1 x.2).map fun x => crossLat x.code).foldl max 0 =
      if srcs.any fun x => decide (16 ≤ x.1.toNat ∧ x.1.toNat < 24) then 1 else 0 := by
  have hfold : ∀ (l : List (BitVec 5 × BitVec 1)) (k : Nat),
      ((l.map fun x => src x.1 x.2).map fun x => crossLat x.code).foldl max k =
        max k (if l.any fun x => decide (16 ≤ x.1.toNat ∧ x.1.toNat < 24) then 1 else 0) := by
    intro l
    induction l with
    | nil => simp
    | cons x t ih =>
      intro k
      rw [List.map_cons, List.map_cons, List.foldl_cons, ih, List.any_cons, max_assoc]
      generalize (t.any fun x => decide (16 ≤ x.1.toNat ∧ x.1.toNat < 24)) = other
      by_cases hx : 16 ≤ x.1.toNat ∧ x.1.toNat < 24
      · cases other <;> simp [crossLat, src, hx]
      · simp [crossLat, src, hx]
  rw [hfold, Nat.zero_max]

/-- The queues that a list of sources pops. -/
theorem popsOf_sources (cl : Nat) (srcs : List (BitVec 5 × BitVec 1)) :
    popsOf cl (srcs.map fun x => src x.1 x.2) =
      srcs.filterMap fun x => if x.2 = 1#1 then none else srcQueue cl x.1.toNat := by
  rw [popsOf, List.filterMap_map]
  refine List.filterMap_congr fun x _ => ?_
  simp [src]

/-- A vector instruction without a deferred cause does what the claims say of one: its result in flight holds the row, the
flags and the tag that it computes. -/
theorem vec_of_vector {i : Instr} {s : State} {ar : BitVec 2} {cl : Nat} {srcs : List (BitVec 5 × BitVec 1)} {own : Option Nat}
    {lat : Nat} {dest : Dest} {f : Plane → VRes} {ok : Flight → Prop}
    (h : exec i s = s.vector (cl + 2) ar (srcs.map fun x => src x.1 x.2) own dest lat f) (hc : (f s.pl).cause = none)
    (hok : ∀ r : Flight, r.val = (f s.pl).row → r.flags = BitVec.ofNat 5 (f s.pl).fl →
      r.tag = (f s.pl).tag.getD (rowTag (f s.pl).row) → ok r) :
    Claim.Vec i s ar cl srcs own.toList lat dest ok := by
  intro hsrc hown hdest
  have hp := s.vector_pass (cl + 2) ar (srcs.map fun x => src x.1 x.2) own dest lat f
    (fun y hy q hq => by obtain ⟨x, hx, rfl⟩ := List.mem_map.1 hy; exact hsrc x hx q hq)
    (fun q hq => hown q (by simp [hq]))
    (fun q hq => by rw [Nat.add_sub_cancel, popsOf_sources]; exact hdest q hq)
  obtain ⟨b, hb⟩ : ∃ b, (s.owe ar).2 = { s with dv := { s.dv with bars := b } } := ⟨_, s.owe_eq ar⟩
  rw [← h] at hp
  simp only [hc, crossLat_sources, popsOf_sources, State.owe_fst, Nat.add_sub_cancel, hb] at hp
  refine ⟨_, _, ⟨hp, ?_⟩, rfl, ⟨rfl, rfl, rfl, rfl⟩, rfl, rfl, hok _ rfl rfl rfl⟩
  rw [hb]
  rfl

/-- The same for an instruction with one source that pushes to its own cluster's queue. -/
theorem vec_of_vec2 {i : Instr} {s : State} {f : V2} {lat : Nat} {g : List Bool → Entry → VRes} {v : VRes} {ok : Flight → Prop}
    (h : exec i s = s.vec2 f lat g)
    (hv : g (active f.fmt.toNat (s.pl.mask f.cl.toNat f.pred)) (s.pl.operand f.cl.toNat f.va.toNat f.fmt.toNat) = v)
    (hc : v.cause = none)
    (hok : ∀ r : Flight, r.val = v.row → r.flags = BitVec.ofNat 5 v.fl → r.tag = v.tag.getD (rowTag v.row) → ok r) :
    Claim.Vec i s f.ar f.cl.toNat [(f.va, f.pa)] [] lat (.vq (16 * f.cl.toNat + f.vd.toNat)) ok := by
  subst hv
  unfold State.vec2 at h
  exact vec_of_vector (own := none) h hc hok

/-! ### Elements (R131, R156, R161) -/

/-- The bytes of an entry's lanes. -/
theorem laneBytes_mul_count (m : Nat) : laneBits m / 8 * laneCount m = 256 := by
  have hcount := laneBits_mul_count m
  rcases laneBits_cases m with h | h | h <;> rw [h] at hcount ⊢ <;> omega

/-- A byte of an element's lane lies in the entry. -/
theorem laneByte_lt {m e j : Nat} (he : e < laneCount m) (hj : j < laneBits m / 8) : e * (laneBits m / 8) + j < 256 :=
  calc e * (laneBits m / 8) + j < (e + 1) * (laneBits m / 8) := by rw [Nat.succ_mul]; omega
    _ ≤ laneCount m * (laneBits m / 8) := Nat.mul_le_mul_right _ he
    _ = 256 := by rw [Nat.mul_comm, laneBytes_mul_count]

/-- Whether an element is active, as the claims read the predicate field. -/
theorem getD_active_mask (p : Plane) (cl : Nat) (pred : BitVec 3) (m e : Nat) (he : e < laneCount m) :
    (active m (p.mask cl pred)).getD e false = Claim.active p cl pred m e := by
  have hpos : 0 < laneBits m / 8 := by rcases laneBits_cases m with h | h | h <;> rw [h] <;> decide
  have hlt : e * (laneBits m / 8) < 256 := laneByte_lt he hpos
  rw [List.getD_eq_getElem _ _ (by simpa using he), getElem_active]
  unfold Plane.mask Plane.pred Claim.active
  cases pred.getLsbD 2 <;> simp [hlt]

/-- What `pick` gives is computed element by element. -/
theorem elementwise_of_pick {m : Nat} {on : List Bool} {act : Nat → Bool} {keep : Row} {res : List Elem} {g : Nat → Elem}
    {r : Flight} (ho : on.length = laneCount m) (hr : res.length = laneCount m)
    (hon : ∀ e < laneCount m, on.getD e false = act e)
    (hg : ∀ e < laneCount m, res.getD e (0, 0) = (toLane m (g e).1, (g e).2))
    (hv : r.val = (VRes.of m (pick on (lanes m keep) res)).row)
    (hf : r.flags = BitVec.ofNat 5 (VRes.of m (pick on (lanes m keep) res)).fl) (ht : r.tag = rowTag r.val) :
    Claim.Elementwise m act keep g r := by
  obtain ⟨-, -, hlane, hflag⟩ := VRes.of_pick m on (lanes m keep) res ho (length_lanes m keep) hr
  refine ⟨fun e he => ?_, fun k hk => ?_, ht⟩
  · rw [Claim.lane, hv, hlane e he, hon e he, hg e he, getD_lanes m keep e 0 he]
    split
    · rfl
    · exact Nat.mod_mod _ _
  · rw [hf, BitVec.getLsbD_ofNat, decide_eq_true hk, Bool.true_and, hflag]
    refine exists_congr fun e => and_congr_right fun he => ?_
    rw [hon e he, hg e he]

/-- A one-operand map gives each element's result where active and its lane elsewhere. -/
theorem elementwise_map1 {m : Nat} {on : List Bool} {act : Nat → Bool} {a : Row} {g : Nat → Elem} {r : Flight}
    (ho : on.length = laneCount m) (hon : ∀ e < laneCount m, on.getD e false = act e) (hv : r.val = (map1 m on a g).row)
    (hf : r.flags = BitVec.ofNat 5 (map1 m on a g).fl) (ht : r.tag = rowTag r.val) :
    Claim.Elementwise m act a (fun e => g (Claim.code m a e)) r := by
  refine elementwise_of_pick ho (by simp) hon (fun e he => ?_) hv hf ht
  rw [List.getD_eq_getElem _ _ (by simpa using he), List.getElem_map, getElem_codes]
  rfl

/-- A predicate made of one bit per element. -/
theorem predicateOf_predOf {m : Nat} {l : List Bool} {act g : Nat → Bool} {r : Flight} (hl : l.length = laneCount m)
    (hg : ∀ e < laneCount m, l.getD e false = (act e && g e))
    (hv : r.val = (predOf (laneBits m / 8) l).setWidth 2048) : Claim.PredicateOf m act g r := by
  intro e he j hj
  have hbound : laneBits m / 8 * l.length ≤ 256 := by rw [hl, laneBytes_mul_count]
  have hlt : e * (laneBits m / 8) + j < 2048 := (laneByte_lt he hj).trans (by decide)
  have he' : e < l.length := by omega
  rw [hv, BitVec.getLsbD_setWidth, decide_eq_true hlt, Bool.true_and, getLsbD_predOf _ _ _ _ hj hbound he', ← hg e he,
    List.getD_eq_getElem _ _ he']

/-- A comparison's predicate holds each active element's bit. -/
theorem predicateOf_cmpLanes {m : Nat} {on : List Bool} {act : Nat → Bool} {a b : Row} {g : Nat → Nat → Bool × Nat} {r : Flight}
    (ho : on.length = laneCount m) (hon : ∀ e < laneCount m, on.getD e false = act e)
    (hv : r.val = (cmpLanes m on a b g).row) :
    Claim.PredicateOf m act (fun e => (g (Claim.code m a e) (Claim.code m b e)).1) r := by
  obtain ⟨hlen, hbit, -⟩ := pick_spec on (on.map fun _ => 0)
    ((List.zipWith g (codes m a) (codes m b)).map fun y => (b2n y.1, y.2)) (laneCount m) ho (by simpa using ho) (by simp)
  refine predicateOf_predOf (l := _) (by simpa using hlen) (fun e he => ?_) hv
  have hcode : ((List.zipWith g (codes m a) (codes m b)).map fun y => (b2n y.1, y.2)).getD e (0, 0) =
      (b2n (g (Claim.code m a e) (Claim.code m b e)).1, (g (Claim.code m a e) (Claim.code m b e)).2) := by
    rw [List.getD_eq_getElem _ _ (by simpa using he), List.getElem_map, List.getElem_zipWith, getElem_codes, getElem_codes]
    rfl
  have hkeep : (on.map fun _ => 0).getD e 0 = 0 := List.getD_map on false fun _ => 0
  have hmap : ∀ l : List Nat, (l.map (· == 1)).getD e false = (l.getD e 0 == 1) := fun l => List.getD_map l 0 (· == 1)
  rw [hmap, hbit e he, hcode, hon e he, hkeep]
  cases act e <;> cases (g (Claim.code m a e) (Claim.code m b e)).1 <;> rfl

/-- VABS and VNEG: a one-operand map of the element's value, 2 bundles (R164). -/
theorem vec_of_map1 {i : Instr} {s : State} {f : V2} {g : Nat → Elem}
    (h : exec i s = s.vec2 f 2 fun on a => map1 f.fmt.toNat on a.data g) :
    let a := (s.pl.operand f.cl.toNat f.va.toNat f.fmt.toNat).data
    Claim.Vec i s f.ar f.cl.toNat [(f.va, f.pa)] [] 2 (.vq (16 * f.cl.toNat + f.vd.toNat))
      (Claim.Elementwise f.fmt.toNat (Claim.active s.pl f.cl.toNat f.pred f.fmt.toNat) a fun e =>
        g (Claim.code f.fmt.toNat a e)) := by
  refine vec_of_vec2 h rfl rfl fun r hv hf ht => ?_
  exact elementwise_map1 (by simp) (getD_active_mask _ _ _ _) hv hf (by rw [ht, hv]; rfl)

/-- The condition of a comparison (R52). -/
theorem cmpInt_eq (c : BitVec 2) (x y : Int) :
    cmpInt c.toNat x y = if c = 0#2 then decide (x = y) else if c = 1#2 then decide (x ≠ y)
      else if c = 2#2 then decide (x < y) else decide (x ≤ y) := by
  obtain rfl | rfl | rfl | rfl : c = 0#2 ∨ c = 1#2 ∨ c = 2#2 ∨ c = 3#2 := by revert c; decide
  all_goals rfl

/-- Settles O26: VABS and VNEG by the one-operand map, VCMP by its condition at each element, PSETN by its count. -/
theorem vectorUnaryCompareResults : Obligations.VectorUnaryCompareResults := by
  refine ⟨fun f s => ?_, fun f s => ?_, fun f s => ?_⟩
  · intro cl m a va p hp
    simp only [List.mem_cons, List.not_mem_nil, or_false] at hp
    rcases hp with rfl | rfl
    · have h := vec_of_map1 (i := .vabs f) (s := s) (f := f) (by show execVabs f s = _; unfold execVabs; rfl)
      simpa only [iWrap, Int.natCast_natAbs] using h
    · have h := vec_of_map1 (i := .vneg f) (s := s) (f := f) (by show execVneg f s = _; unfold execVneg; rfl)
      simpa only [iWrap, Int.zero_sub] using h
  · intro cl m va vb
    refine vec_of_vector (own := none) (f := fun p => cmpLanes m (active m (p.mask cl f.pred)) (p.operand cl f.va.toNat m).data
      (p.operand cl f.vb.toNat m).data fun x y => (cmpInt f.cond.toNat (intVal m x) (intVal m y), 0))
      (by show execVcmp f s = _; unfold execVcmp State.vecCmp; rfl) rfl fun r hv _ _ => ?_
    have h := predicateOf_cmpLanes (by simp) (getD_active_mask s.pl cl f.pred m) hv
    simpa only [cmpInt_eq] using h
  · intro cl m
    refine vec_of_vector (own := none) (f := fun p => ⟨(predOf (laneBits m / 8) ((upTo 0 (laneCount m)).map fun e =>
      decide (e < (p.operand cl f.va.toNat m).data.toNat % 2 ^ 32))).setWidth 2048, none, 0, none⟩)
      (by show execPsetn f s = _; unfold execPsetn; rfl) rfl fun r hv _ _ => ?_
    refine predicateOf_predOf (by simp) (fun e he => ?_) hv
    rw [List.getD_eq_getElem _ _ (by simpa using he)]
    simp [upTo_eq]

end Sys2Proof.Machine
end

section
/-!
PROOFS. O6: every instruction, every event and every step answers a next state (R61, R96): a slot word's meaning stands behind
checks whose failure is a trap, an event is a change of the state, and a turn issues what the decoder gave or passes a cycle.
-/

namespace Sys2Proof.Machine

open Sys2Proof

/-! ### Instructions and events -/

/-- The meaning of a slot word stands behind its checks (R14), slot by slot of the map; QPOP's checks are those of the queue it
names. -/
theorem exec_guarded (i : Instr) (s : State) (h : i.isEvent = false) :
    ∃ slot causes eff, exec i s = s.guarded slot causes eff := by
  cases i with
  | nop f | jmp f | br f | brp f | jmpi f | call f | calli f | ret f | loop f | loopi f | brkl f | segj f | safe f | trap f
  | eret f | brkpt f | halt f | waitb f | arrive f | arwait f | sstep f | eclipse f | yield f | waitj f | mfsr f | mtsr f =>
    simp only [exec, execNop, execJmp, execBr, execBrp, execJmpi, execCall, execCalli, execRet, execLoop, execLoopi, execBrkl,
      execSegj, execSafe, execTrap, execEret, execBrkpt, execHalt, execWaitb, execArrive, execArwait, execSstep, execEclipse,
      execYield, execWaitj, execMfsr, execMtsr, State.jumpTo, State.openLoop]
    exact ⟨_, _, _, rfl⟩
  | add f | sub f | and f | or f | xor f | andn f | shl f | shr f | sra f | mul f | mulh f | mulhu f | min f | max f
  | minu f | maxu f | seq f | sne f | slt f | sltu f | sle f | sleu f | sel f | mov f | abs f | neg f | clz f | ctz f
  | popc f | bfx f | bfi f | addi f | andi f | ori f | xori f | shli f | shri f | srai f | muli f | li f | lih f | lix f
  | lit f | mfli f | mflc f | slti f | seqi f =>
    simp only [exec, execAdd, execSub, execAnd, execOr, execXor, execAndn, execShl, execShr, execSra, execMul, execMulh,
      execMulhu, execMin, execMax, execMinu, execMaxu, execSeq, execSne, execSlt, execSltu, execSle, execSleu, execSel,
      execMov, execAbs, execNeg, execClz, execCtz, execPopc, execBfx, execBfi, execAddi, execAndi, execOri, execXori,
      execShli, execShri, execSrai, execMuli, execLi, execLih, execLix, execLit, execMfli, execMflc, execSlti, execSeqi,
      State.scalar2, State.scalar1, State.scalarI, State.scalarH, State.scalarX, State.scalar]
    exact ⟨_, _, _, rfl⟩
  | vadd f | vsub f | vadds f | vsubs f | vmul f | vmulh f | vmad f | vand f | vor f | vxor f | vandn f | vshl f | vshr f
  | vsra f | vmin f | vmax f | vabs f | vneg f | vcmp f | vfadd f | vfsub f | vfmul f | vfma f | vfmin f | vfmax f | vfabs f
  | vfneg f | vfcmp f | vfrnd f | vrcp f | vrsq f | vexp2 f | vlog2 f | vtanh f | vsigm f | vrng f | vcvt f | vqnt f
  | vdqnt f | pand f | por f | pxor f | pnot f | pmov f | psetn f | vsel f | vperm f | vrot f | vshfl f | vbcst f | vmov f
  | vradd f | vrmax f | vrmin f | vrfadd f | vrfmax f | vband f | vpopc f | vpfx f | visect f | vcsw f | vcswx f =>
    simp only [exec, execVadd, execVsub, execVadds, execVsubs, execVmul, execVmulh, execVmad, execVand, execVor, execVxor,
      execVandn, execVshl, execVshr, execVsra, execVmin, execVmax, execVabs, execVneg, execVcmp, execVfadd, execVfsub,
      execVfmul, execVfma, execVfmin, execVfmax, execVfabs, execVfneg, execVfcmp, execVfrnd, execVrcp, execVrsq, execVexp2,
      execVlog2, execVtanh, execVsigm, execVrng, execVcvt, execVqnt, execVdqnt, execPand, execPor, execPxor, execPnot,
      execPmov, execPsetn, execVsel, execVperm, execVrot, execVshfl, execVbcst, execVmov, execVradd, execVrmax, execVrmin,
      execVrfadd, execVrfmax, execVband, execVpopc, execVpfx, execVisect, execVcsw, execVcswx, State.vecInt, State.vecFlt,
      State.vecFlt1, State.vecAcc, State.vecCmp, State.vecSwap, State.reduce, State.predOp2, State.predOp, State.vec2,
      State.vec3, State.vector]
    exact ⟨_, _, _, rfl⟩
  | malloc f | mfree f | mband f | mzero f | mldw f | mmul f | mmulg f | mmuls f | mmulb f | mmulc f | mcond f | mchain f
  | mchainRecv f | mdrain f | mchk f =>
    simp only [exec, execMalloc, execMfree, execMband, execMzero, execMldw, execMmul, execMmulg, execMmuls, execMmulb,
      execMmulc, execMcond, execMchain, execMchainRecv, execMdrain, execMchk, State.mmulLike, State.mGuarded]
    exact ⟨_, _, _, rfl⟩
  | ldv f | stv f | lds f | sts f | ldx f | stx f | ldf f | stf f | mark f | sfence f | vjoin f | rset f | rpush f =>
    simp only [exec, execLdv, execStv, execLds, execSts, execLdx, execStx, execLdf, execStf, execMark, execSfence, execVjoin,
      execRset, execRpush]
    exact ⟨_, _, _, rfl⟩
  | xcopy f | xcopyt f | xpair f | xfill f | xgath f | xscat f | xacc f | xcas f | xnear f | xsend f | xpost f | xcoll f
  | xfence f | xhand f | xtake f | xmedia f | xspill f | xrecall f =>
    simp only [exec, execXcopy, execXcopyt, execXpair, execXfill, execXgath, execXscat, execXacc, execXcas, execXnear,
      execXsend, execXpost, execXcoll, execXfence, execXhand, execXtake, execXmedia, execXspill, execXrecall, State.blockForm]
    exact ⟨_, _, _, rfl⟩
  | kbl f | kblW f | kxpat f | flagsRd f | flagsClr f | flagsEn f | kscale f | kscalei f | krbind f | krec f | krclr f
  | kseal f | cksum f | ttq f | ttset f | ttsettle f | ttpromo f | jcbadd f | jcbdone f | jcbq f | jemit f | jemitMark f
  | jroute f | jgen f | jrpl f | jtrunc f | ctag f | resq f =>
    simp only [exec, execKbl, execKblW, execKxpat, execFlagsRd, execFlagsClr, execFlagsEn, execKscale, execKscalei,
      execKrbind, execKrec, execKrclr, execKseal, execCksum, execTtq, execTtset, execTtsettle, execTtpromo, execJcbadd,
      execJcbdone, execJcbq, execJemit, execJemitMark, execJroute, execJgen, execJrpl, execJtrunc, execCtag, execResq,
      State.tileOp, State.jcbOp, State.append]
    exact ⟨_, _, _, rfl⟩
  | qpop f =>
    simp only [exec, execQpop]
    split <;> exact ⟨_, _, _, rfl⟩
  | _ => cases h

/-- An event changes the state; what it cannot do leaves it (log entry 4). -/
theorem exec_event (i : Instr) (s : State) (h : i.isEvent = true) : ∃ t, exec i s = .next t := by
  cases i with
  | deferredTrap | resultLanding | farDataArrival c p rid | timedLanding | segmentFetchDone c p | emptyBundle | eclipseSwap
  | pushWindowWrite c off lid d | pushWindowAdmit c | mInstructionStart | mInstructionRetire | drainVectorPush | chainForm c
  | accWindowWrite c row d | stWrite q v | hcWrite q v | launchRecordRead q | launchPlace | agingTick q | taskSave c p
  | launchRestore lid | launchComplete lid | faultAck q | dependenceWatchdog q | runWatchdog lid | dispatcherFailover
  | arrivalDeliver n | communicationPhase lid level inst | jcbApply n | translationWalk die sp va write fetch
  | translationInvalidate sp lo hi | channelReplay c ch | channelAbort c ch | offerTakeable c slot | xtakeApply n
  | frameReturn n | offloadDone n | tileCheckRetry sp ref | luxMergeApply n | lqPerform c p | sqLeave c p | scopePropagate n
  | viewSeenRaise c row view idx | engineAccessPerform c n | commandStart c ch | commandComplete c ch | atomicApply c ch
  | fabricMessageArrive src sp tag data | collectiveMatch lid level inst id | viewCacheFill die view tile
  | hostAccess write pa n data | managementWrite off v | linkFlitResend | deviceFailed | deviceReset
  | secureBoot k g v1 v2 v3 d1 d2 d3 | attestNonceWrite n | attestReportDone | ageingUpdate n margin remaining
  | powerStateRequest st | idleEntry | lowExit | clockStepDown | clockStepUp | criticalTemperature | journalAppendAssign
  | mirrorEntryWrite src entry | mirrorAck stream seq | mirrorLost stream | jmirrorWrite v | replayStart stream src
  | dieLinkRetrain up | fabricPortFailure p | fabricPeerRequest write pa n sp data | residencyRecallDone n => exact ⟨_, rfl⟩
  | _ => cases h

/-- Every instruction and every event goes on. -/
theorem exec_goes (i : Instr) (s : State) : ∃ t, exec i s = .next t := by
  cases h : i.isEvent with
  | true => exact exec_event i s h
  | false =>
    obtain ⟨slot, causes, eff, he⟩ := exec_guarded i s h
    rw [he]
    exact s.guarded_next slot causes eff

/-! ### Turns and steps -/

/-- The instructions of a bundle run to its end. -/
theorem runSlots_goes (l : List Placed) (s : State) : ∃ t, runSlots l s = .next t := by
  induction l generalizing s with
  | nil => exact ⟨s, rfl⟩
  | cons x l ih =>
    obtain ⟨t, ht⟩ := exec_goes x.ins s
    rw [runSlots, ht]
    exact ih t

/-- A bundle issues. -/
theorem State.issueBundle_goes (s : State) : ∃ t, s.issueBundle = .next t := by
  obtain ⟨t, ht⟩ := runSlots_goes (inOrder s.pl.bundleHere) (s.enterBundle s.pl.bundleHere s.pl.grp .run)
  exact ⟨_, s.issueBundle_next t ht⟩

/-- A boundary traps, is saved, waits, or starts its group. -/
theorem State.boundary_goes (s : State) : ∃ t, s.boundary = .next t := by
  unfold State.boundary
  dsimp only
  split
  · exact ⟨_, rfl⟩
  · split
    · exact ⟨_, rfl⟩
    · split
      · exact ⟨_, rfl⟩
      · split
        · exact ⟨_, rfl⟩
        · split
          · exact ⟨_, rfl⟩
          · exact s.groupStart.issueBundle_goes

/-- A task that does not wait goes on: it stands at a boundary, issues, or is held. -/
theorem State.advance_goes (s : State) : ∃ t, s.advance = .next t := by
  unfold State.advance
  split
  · exact ⟨_, rfl⟩
  · split
    · exact ⟨_, rfl⟩
    · split
      · exact s.boundary_goes
      · split
        · exact ⟨_, rfl⟩
        · exact s.issueBundle_goes

/-- A ready task's turn ends it, lets it wait on, or goes on with it. -/
theorem State.runReady_goes (s : State) : ∃ t, s.runReady = .next t := by
  unfold State.runReady
  dsimp only
  split
  · exact ⟨_, rfl⟩
  · split
    · exact State.advance_goes _
    · split
      · exact ⟨_, rfl⟩
      · split
        · exact State.advance_goes _
        · exact ⟨_, rfl⟩

/-- A turn goes on, whatever the state of the plane. -/
theorem State.turn_goes (s : State) : ∃ t, s.turn = .next t := by
  unfold State.turn
  split
  · exact ⟨_, rfl⟩
  · split
    · exact ⟨_, rfl⟩
    · split
      · exact ⟨_, rfl⟩
      · split
        · exact ⟨_, rfl⟩
        · exact ⟨_, rfl⟩
        · exact ⟨_, rfl⟩
        · exact State.runReady_goes _
        · exact s.runReady_goes

/-- What follows a step keeps its going on. -/
theorem settle_goes {o : Host.Outcome State Fault Refusal} (h : ∃ t, o = .next t) : ∃ t, settle o = .next t := by
  obtain ⟨t, rfl⟩ := h
  exact ⟨t.settled, rfl⟩

/-- Settles O6: a step is a turn or an event of the agenda, and both go on. -/
theorem everyStepGoesOn : Obligations.EveryStepGoesOn := by
  refine ⟨fun s => ?_, exec_goes⟩
  unfold step
  split
  · exact settle_goes s.turn_goes
  · exact settle_goes (State.turn_goes _)
  · split
    · exact settle_goes (exec_goes _ _)
    · exact settle_goes ⟨_, rfl⟩

end Sys2Proof.Machine
end

section
/-!
PROOFS. O10: the S slot (R104, R105): what a scalar instruction leaves, and the values of its register forms.
-/

namespace Sys2Proof.Machine

open Sys2Proof Sys2Proof.Claim

/-! ### The frame (R104) -/

/-- An instruction whose effect is one scalar result, with the arrival that an AR selector owes, does what the claims say of
one. -/
theorem scalar_of_resultS {i : Instr} {s : State} {ar : BitVec 2} {slot lat : Nat} {sd : BitVec 5} {v : Word}
    (h : exec i s = .next ((s.owe ar).2.resultS slot lat sd v (s.owe ar).1)) : Scalar i s ar lat sd v := by
  obtain ⟨b, hb⟩ : ∃ b, (s.owe ar).2 = { s with dv := { s.dv with bars := b } } := ⟨_, s.owe_eq ar⟩
  rw [State.owe_fst, hb] at h
  refine ⟨_, _, ⟨h, ?_⟩, rfl, ⟨rfl, rfl, rfl, rfl⟩, rfl, rfl, rfl, rfl, rfl⟩
  rw [hb]
  rfl

/-- An instruction of the S slot gives its value to sd. -/
theorem scalar_of_scalar {i : Instr} {s : State} {ar : BitVec 2} {sd : BitVec 5} {lat : Nat} {g : State → Word} {v : Word}
    (h : exec i s = s.scalar ar sd lat g) (hv : g s = v) : Scalar i s ar lat sd v := by
  subst hv
  exact scalar_of_resultS (h.trans (s.guarded_nil 1 _))

/-- A register form gives its function of the two sources. -/
theorem scalar_of_scalar2 {i : Instr} {s : State} {f : SR} {lat : Nat} {g : Word → Word → Word} {v : Word}
    (h : exec i s = s.scalar2 f lat g) (hv : g (s.rdS f.sa) (s.rdS f.sb) = v) : Scalar i s f.ar lat f.sd v :=
  scalar_of_scalar h hv

/-! ### Values (R105) -/

/-- An arithmetic shift right is a division rounded down. -/
theorem sshiftRight_eq_ofInt (a : Word) (k : Nat) : a.sshiftRight k = BitVec.ofInt 64 (a.toInt / 2 ^ k) := by
  rw [BitVec.sshiftRight, Int.shiftRight_eq_div_pow]
  norm_cast

/-- The low word of a product is that of the signed product. -/
theorem mul_eq_ofInt (a b : Word) : a * b = BitVec.ofInt 64 (a.toInt * b.toInt) := by
  rw [BitVec.ofInt_mul, BitVec.ofInt_toInt, BitVec.ofInt_toInt]

/-- The high word of an unsigned product is the product's quotient by 2^64. -/
theorem mulHighU_eq (a b : Word) : mulHighU a b = BitVec.ofNat 64 (a.toNat * b.toNat / 2 ^ 64) := by
  rw [mulHighU, Nat.shiftRight_eq_div_pow]

/-- A choice by an order is the opposite choice by its strict converse. -/
theorem ite_le_eq_ite_lt {α β : Type} [LinearOrder α] (x y : α) (a b : β) :
    (if x ≤ y then a else b) = if y < x then b else a := by
  by_cases h : x ≤ y
  · rw [if_pos h, if_neg (not_lt.2 h)]
  · rw [if_neg h, if_pos (not_le.1 h)]

/-- The greater of two, where the model keeps the second of equal ones and the table the first. -/
theorem max_of_key {α β : Type} [LinearOrder α] {key : β → α} (hk : Function.Injective key) (a b : β) :
    (if key a ≤ key b then b else a) = if key a < key b then b else a := by
  by_cases h : key a = key b
  · rw [hk h, ite_self, ite_self]
  · simp only [(Ne.le_iff_lt h)]

/-- Settles O10: each operation is a scalar instruction, and its value is the table's. -/
theorem registerFormResults : Obligations.RegisterFormResults := by
  intro f s a b k
  simp only [List.forall_mem_cons, List.not_mem_nil, false_imp_iff, implies_true, and_true]
  refine ⟨⟨?_, ?_, ?_, ?_, ?_, ?_, ?_, ?_, ?_, ?_, ?_, ?_, ?_, ?_, ?_, ?_, ?_, ?_, ?_⟩, ?_, ?_, ?_⟩
  · exact scalar_of_scalar2 (show execAdd f s = _ from rfl) rfl
  · exact scalar_of_scalar2 (show execSub f s = _ from rfl) rfl
  · exact scalar_of_scalar2 (show execAnd f s = _ from rfl) rfl
  · exact scalar_of_scalar2 (show execOr f s = _ from rfl) rfl
  · exact scalar_of_scalar2 (show execXor f s = _ from rfl) rfl
  · exact scalar_of_scalar2 (show execAndn f s = _ from rfl) rfl
  · exact scalar_of_scalar2 (show execShl f s = _ from rfl) rfl
  · exact scalar_of_scalar2 (show execShr f s = _ from rfl) rfl
  · exact scalar_of_scalar2 (show execSra f s = _ from rfl) (sshiftRight_eq_ofInt a k)
  · exact scalar_of_scalar2 (show execMin f s = _ from rfl) (ite_le_eq_ite_lt _ _ _ _)
  · exact scalar_of_scalar2 (show execMax f s = _ from rfl) (max_of_key (fun _ _ => BitVec.eq_of_toInt_eq) a b)
  · exact scalar_of_scalar2 (show execMinu f s = _ from rfl) (ite_le_eq_ite_lt _ _ _ _)
  · exact scalar_of_scalar2 (show execMaxu f s = _ from rfl) (max_of_key (fun _ _ => BitVec.eq_of_toNat_eq) a b)
  · exact scalar_of_scalar2 (show execSeq f s = _ from rfl) rfl
  · exact scalar_of_scalar2 (show execSne f s = _ from rfl)
      (congrArg truth (show decide (a ≠ b) = (a != b) by simp [bne, beq_eq_decide]))
  · exact scalar_of_scalar2 (show execSlt f s = _ from rfl) rfl
  · exact scalar_of_scalar2 (show execSltu f s = _ from rfl) rfl
  · exact scalar_of_scalar2 (show execSle f s = _ from rfl) rfl
  · exact scalar_of_scalar2 (show execSleu f s = _ from rfl) rfl
  · exact scalar_of_scalar2 (show execMul f s = _ from rfl) (mul_eq_ofInt a b)
  · exact scalar_of_scalar2 (show execMulh f s = _ from rfl) rfl
  · exact scalar_of_scalar2 (show execMulhu f s = _ from rfl) (mulHighU_eq a b)

end Sys2Proof.Machine
end

section
/-!
PROOFS. O11: select, the one-source operations, bit fields, the immediate forms, the constant loads and the loop registers
(R106 to R110).
-/

namespace Sys2Proof.Machine

open Sys2Proof Sys2Proof.Claim

/-! ### Kinds of instructions -/

/-- A one-source operation gives its function of the source. -/
theorem scalar_of_scalar1 {i : Instr} {s : State} {f : SOne} {g : Word → Word} {v : Word}
    (h : exec i s = s.scalar1 f g) (hv : g (s.rdS f.sa) = v) : Scalar i s f.ar 1 f.sd v :=
  scalar_of_scalar h hv

/-- An immediate form gives its function of the source and the sign-extended immediate. -/
theorem scalar_of_scalarI {i : Instr} {s : State} {f : SImm} {lat : Nat} {g : Word → Word → Word} {v : Word}
    (h : exec i s = s.scalarI f lat g) (hv : g (s.rdS f.sa) (f.imm.signExtend 64) = v) : Scalar i s f.ar lat f.sd v :=
  scalar_of_scalar h hv

/-- A shift by sh gives its function of the source and sh. -/
theorem scalar_of_scalarH {i : Instr} {s : State} {f : SSh} {g : Word → Nat → Word} {v : Word}
    (h : exec i s = s.scalarH f g) (hv : g (s.rdS f.sa) f.sh.toNat = v) : Scalar i s f.ar 1 f.sd v :=
  scalar_of_scalar h hv

/-! ### Counts (R106) -/

/-- The magnitude of a word: its negation where it is negative. -/
theorem abs_eq_natAbs (a : Word) : (if a.toInt < 0 then -a else a) = BitVec.ofInt 64 (a.toInt.natAbs : Int) := by
  by_cases h : a.toInt < 0
  · rw [if_pos h, Int.ofNat_natAbs_of_nonpos h.le, BitVec.ofInt_neg, BitVec.ofInt_toInt]
  · rw [if_neg h, Int.natAbs_of_nonneg (not_lt.1 h), BitVec.ofInt_toInt]

/-- A word's negation. -/
theorem neg_eq_ofInt (a : Word) : 0#64 - a = BitVec.ofInt 64 (-a.toInt) := by
  rw [BitVec.ofInt_neg, BitVec.ofInt_toInt, BitVec.zero_sub]

/-- The number of leading zeros: that many upper bits are 0, and the next one is 1. -/
theorem clz_spec (a : Word) : clz a ≤ 64 ∧ (∀ i < 64, 64 - clz a ≤ i → a.getLsbD i = false) ∧
    (clz a < 64 → a.getLsbD (63 - clz a) = true) := by
  unfold clz
  by_cases h : a = 0#64
  · simp [h]
  · have h0 : a.toNat ≠ 0 := fun e => h (BitVec.eq_of_toNat_eq e)
    have hlog : a.toNat.log2 < 64 := (Nat.log2_lt h0).2 a.isLt
    rw [if_neg h]
    refine ⟨by omega, fun i _ hi => ?_, fun _ => ?_⟩
    · refine Nat.testBit_lt_two_pow (Nat.lt_log2_self.trans_le (Nat.pow_le_pow_right (by decide) ?_))
      omega
    · rw [show 63 - (63 - a.toNat.log2) = a.toNat.log2 by omega]
      exact Nat.testBit_log2 h0

/-- The number of trailing zeros: that many lower bits are 0, and the next one is 1. -/
theorem ctz_spec (a : Word) : ctz a ≤ 64 ∧ (∀ i < ctz a, a.getLsbD i = false) ∧
    (ctz a < 64 → a.getLsbD (ctz a) = true) := by
  unfold ctz
  rw [upTo_eq]
  cases h : (List.range' 0 64).find? fun i => a.getLsbD i with
  | none =>
    rw [List.find?_range'_eq_none] at h
    exact ⟨le_rfl, fun i hi => by simpa using h i (Nat.zero_le i) hi, fun hlt => absurd hlt (lt_irrefl _)⟩
  | some n =>
    rw [List.find?_range'_eq_some] at h
    obtain ⟨hn, hmem, hlow⟩ := h
    have hlt : n < 64 := by simpa using hmem
    exact ⟨hlt.le, fun i hi => by simpa using hlow i (Nat.zero_le i) hi, fun _ => hn⟩

/-- The number of bits set. -/
theorem popcount_eq_countP (a : Word) : popcount 64 a.toNat = (List.range 64).countP fun i => a.getLsbD i := by
  rw [popcount, upTo_eq, List.countP_eq_length_filter, List.range_eq_range']
  rfl

/-! ### Fields (R107, R109) -/

/-- A bit of a field taken out. -/
theorem getLsbD_field (a : Word) (lo n i : Nat) (hi : i < 64) :
    (BitVec.ofNat 64 (bitsOf a.toNat lo n)).getLsbD i = (decide (i < n) && a.getLsbD (lo + i)) := by
  rw [BitVec.getLsbD_ofNat, testBit_bitsOf, decide_eq_true hi, Bool.true_and]
  rfl

/-- A bit of a word with a field replaced. -/
theorem getLsbD_inserted {w : Nat} (d : Word) (v : BitVec w) (lo n i : Nat) (hi : i < 64) :
    (BitVec.ofNat 64 (bitsPut d.toNat lo n v.toNat)).getLsbD i =
      if lo ≤ i ∧ i < lo + n then v.getLsbD (i - lo) else d.getLsbD i := by
  rw [BitVec.getLsbD_ofNat, testBit_bitsPut, decide_eq_true hi, Bool.true_and]
  rfl

/-- LIH, LIX and LIT replace 16 bits of sd. -/
theorem scalar_of_scalarX {i : Instr} {s : State} {f : SIns} {lo : Nat} (h : exec i s = s.scalarX f lo) :
    ∃ v : Word, (∀ j < 64, v.getLsbD j =
        if lo ≤ j ∧ j < lo + 16 then f.imm.getLsbD (j - lo) else (s.rdS f.sd).getLsbD j) ∧
      Scalar i s f.ar 1 f.sd v :=
  ⟨_, fun j hj => getLsbD_inserted _ f.imm lo 16 j hj, scalar_of_scalar h rfl⟩

/-! ### Loop registers (R110) -/

/-- A loop register: the field of the level, 0 where no level is live. -/
theorem loopField_eq (p : Plane) (k : Nat) (g : Loop → BitVec 32) :
    p.loopField k g = ((p.liveLoops[k]?).map fun l => (g l).setWidth 64).getD 0#64 := by
  unfold Plane.loopField
  cases p.liveLoops[k]? <;> rfl

/-- Settles O11: each operation is a scalar instruction; the counts and fields by their bits. -/
theorem otherScalarResults : Obligations.OtherScalarResults := by
  refine ⟨fun f s => scalar_of_scalar (show execSel f s = _ from rfl) rfl, fun f s => ?_, fun f s => ⟨?_, ?_⟩, fun f s => ?_,
    fun f s => ?_, fun f s => scalar_of_scalar (show execLi f s = _ from rfl) rfl, fun f s => ?_, fun f s => ⟨?_, ?_⟩⟩
  · refine ⟨?_, ?_, ?_, ?_, ?_, ?_⟩
    · exact scalar_of_scalar1 (show execMov f s = _ from rfl) rfl
    · exact scalar_of_scalar1 (show execAbs f s = _ from rfl) (abs_eq_natAbs _)
    · exact scalar_of_scalar1 (show execNeg f s = _ from rfl) (neg_eq_ofInt _)
    · obtain ⟨hle, hzero, hone⟩ := clz_spec (s.rdS f.sa)
      exact ⟨_, hle, hzero, hone, scalar_of_scalar1 (show execClz f s = _ from rfl) rfl⟩
    · obtain ⟨hle, hzero, hone⟩ := ctz_spec (s.rdS f.sa)
      exact ⟨_, hle, hzero, hone, scalar_of_scalar1 (show execCtz f s = _ from rfl) rfl⟩
    · exact scalar_of_scalar1 (show execPopc f s = _ from rfl) (congrArg (BitVec.ofNat 64) (popcount_eq_countP _))
  · exact ⟨_, fun i hi => getLsbD_field _ _ _ i hi, scalar_of_scalar (show execBfx f s = _ from rfl) rfl⟩
  · exact ⟨_, fun i hi => getLsbD_inserted _ _ _ _ i hi, scalar_of_scalar (show execBfi f s = _ from rfl) rfl⟩
  · have hsign : (f.imm.signExtend 64).toInt = f.imm.toInt := BitVec.toInt_signExtend_of_le (by decide)
    simp only [List.forall_mem_cons, List.not_mem_nil, false_imp_iff, implies_true, and_true, ← hsign]
    refine ⟨⟨?_, ?_, ?_, ?_, ?_, ?_⟩, ?_⟩
    · exact scalar_of_scalarI (show execAddi f s = _ from rfl) rfl
    · exact scalar_of_scalarI (show execAndi f s = _ from rfl) rfl
    · exact scalar_of_scalarI (show execOri f s = _ from rfl) rfl
    · exact scalar_of_scalarI (show execXori f s = _ from rfl) rfl
    · exact scalar_of_scalarI (show execSlti f s = _ from rfl) rfl
    · exact scalar_of_scalarI (show execSeqi f s = _ from rfl) rfl
    · exact scalar_of_scalarI (show execMuli f s = _ from rfl) (mul_eq_ofInt _ _)
  · refine ⟨?_, ?_, ?_⟩
    · exact scalar_of_scalarH (show execShli f s = _ from rfl) rfl
    · exact scalar_of_scalarH (show execShri f s = _ from rfl) rfl
    · exact scalar_of_scalarH (show execSrai f s = _ from rfl) (sshiftRight_eq_ofInt _ _)
  · simp only [List.forall_mem_cons, List.not_mem_nil, false_imp_iff, implies_true, and_true]
    refine ⟨?_, ?_, ?_⟩
    · exact scalar_of_scalarX (show execLih f s = _ from rfl)
    · exact scalar_of_scalarX (show execLix f s = _ from rfl)
    · exact scalar_of_scalarX (show execLit f s = _ from rfl)
  · exact scalar_of_scalar (show execMfli f s = _ from rfl) (loopField_eq _ _ _)
  · exact scalar_of_scalar (show execMflc f s = _ from rfl) (loopField_eq _ _ _)

end Sys2Proof.Machine
end

section
/-!
PROOFS. O14: jumps, branches and calls whose target lies in their segment, away from a loop's end (R85 to R88, R93).
-/

namespace Sys2Proof.Machine

open Sys2Proof Sys2Proof.Claim

/-! ### Jumps and calls (R85, R88) -/

/-- A jump to a bundle of its segment, outside a loop's end bundle, has its effect with that bundle as its target. -/
theorem onPlane_of_jumpTo {i : Instr} {s : State} {t : Option Nat} {b : Nat} {more : List (Option Cause)} {eff : State → State}
    {p : Plane} (h : exec i s = s.jumpTo i t more eff) (ht : t = some b) (he : s.pl.endFault = none)
    (hm : ∀ c ∈ more, c = none) (hp : eff (s.xferTo (.bundle b)) = { s with pl := p }) : OnPlane i s p := by
  subst ht
  refine onPlane_of_guarded h ?_ hp
  simp only [Option.isSome_some, need_true, List.mem_cons, forall_eq_or_imp, true_and]
  exact ⟨he, hm⟩

/-- A jump that pushes nothing. -/
theorem jump_chooses {i : Instr} {s : State} {t : Option Nat} {b : Nat} (h : exec i s = s.jumpTo i t [] id)
    (ht : t = some b) (he : s.pl.endFault = none) : OnPlane i s { s.pl with xfer := some (.bundle b) } :=
  onPlane_of_jumpTo h ht he (by simp) rfl

/-- A call with room in the return store pushes the address after its bundle. -/
theorem call_chooses {i : Instr} {s : State} {t : Option Nat} {b : Nat}
    (h : exec i s = s.jumpTo i t [s.callFault] State.pushRet) (ht : t = some b) (he : s.pl.endFault = none)
    (hr : s.pl.rets.length < 16) :
    OnPlane i s { s.pl with xfer := some (.bundle b), rets := s.pl.retEntry :: s.pl.rets } :=
  onPlane_of_jumpTo h ht he (by simp [State.callFault_of_lt hr]) rfl

/-! ### BR (R86) -/

/-- The condition of BR holds exactly in the four cases of R86. -/
theorem brTaken_iff {cond : BitVec 2} {v : Word} : brTaken cond v = true ↔
    (cond = 0#2 ∧ v = 0#64) ∨ (cond = 1#2 ∧ v ≠ 0#64) ∨ (cond = 2#2 ∧ v.toInt < 0) ∨ (cond = 3#2 ∧ 0 ≤ v.toInt) := by
  refine ⟨fun h => ?_, brTaken_of⟩
  have hcond : ∀ c : BitVec 2, c = 0#2 ∨ c = 1#2 ∨ c = 2#2 ∨ c = 3#2 := by decide
  obtain rfl | rfl | rfl | rfl := hcond cond
  · exact .inl ⟨rfl, of_decide_eq_true h⟩
  · exact .inr (.inl ⟨rfl, of_decide_eq_true h⟩)
  · exact .inr (.inr (.inl ⟨rfl, of_decide_eq_true h⟩))
  · exact .inr (.inr (.inr ⟨rfl, of_decide_eq_true h⟩))

/-- A branch with a target in its segment: taken it goes there, outside a loop's end bundle, and not taken it changes nothing. -/
theorem branch_chooses {i : Instr} {s : State} {c : Cause} {more : List (Option Cause)} {taken : Bool} {b : Nat} {t : Option Nat}
    (h : exec i s = s.guarded 0 (need t.isSome c :: more ++ [if taken then s.pl.endFault else none])
      fun u => if taken then u.xferTo (.bundle (t.getD 0)) else u)
    (ht : t = some b) (hm : ∀ c ∈ more, c = none) :
    (taken = true → s.pl.endFault = none → OnPlane i s { s.pl with xfer := some (.bundle b) }) ∧
      (taken = false → OnPlane i s s.pl) := by
  subst ht
  have hchecks (he : (if taken then s.pl.endFault else none) = none) :
      ∀ o ∈ need (some b).isSome c :: more ++ [if taken then s.pl.endFault else none], o = none := by
    simpa [he, or_imp, forall_and] using hm
  refine ⟨fun hk he => ?_, fun hk => ?_⟩
  · exact onPlane_of_guarded h (hchecks (by rw [he, ite_self])) (by rw [if_pos hk]; rfl)
  · exact onPlane_of_guarded h (hchecks (by rw [hk]; rfl)) (by rw [hk]; rfl)

/-! ### BRP (R87) -/

/-- BRP on a predicate whose elements are all `b` is taken where `b` is its sense. -/
theorem exec_brp_uniform (f : CBrp) (s : State) (b : Bool)
    (h : ∀ e < 256 / 2 ^ f.w.toNat, (s.pl.pred f.cl.toNat f.pn.toNat).getLsbD (e * 2 ^ f.w.toNat) = b) :
    exec (.brp f) s =
      s.guarded 0 [need (s.pl.target f.off.toInt).isSome (s.illegal (.brp f) 6 0xFF), none,
          if b == decide (f.sense = 0#1) then s.pl.endFault else none]
        fun u => if b == decide (f.sense = 0#1) then u.xferTo (.bundle ((s.pl.target f.off.toInt).getD 0)) else u := by
  have hw : 256 / 2 ^ f.w.toNat ≠ 0 :=
    (Nat.div_pos ((Nat.pow_le_pow_right (by decide) f.w.isLt.le).trans (by decide)) (Nat.two_pow_pos _)).ne'
  show execBrp f s = _
  unfold execBrp
  dsimp only
  rw [predSet_uniform _ _ b h]
  rcases BitVec.eq_zero_or_eq_one f.sense with hs | hs <;> cases b <;> simp [hs, hw, hw.symm]

/-- Settles O14: a target in the segment is found, no check fails, and the branches are taken by their conditions. -/
theorem jumpsChooseTarget : Obligations.JumpsChooseTarget := by
  refine ⟨fun f s b hb hin he => ?_, fun f s hin he => ?_, fun f s b hb hin => ?_, fun f s b hb hin => ?_⟩
  · have ht := Plane.target_inSegment hb hin
    exact ⟨jump_chooses (show execJmp f s = _ from rfl) ht he, call_chooses (show execCall f s = _ from rfl) ht he⟩
  · have ht := Plane.index_inSegment hin
    exact ⟨jump_chooses (show execJmpi f s = _ from rfl) ht he, call_chooses (show execCalli f s = _ from rfl) ht he⟩
  · intro v taken
    obtain ⟨hgo, hstay⟩ := branch_chooses (i := .br f) (more := []) (taken := brTaken f.cond v)
      (by show execBr f s = _; unfold execBr; rfl) (Plane.target_inSegment hb hin) (by simp)
    exact ⟨fun hk => hgo (brTaken_iff.2 hk), fun hk => hstay (Bool.eq_false_iff.2 (mt brTaken_iff.1 hk))⟩
  · intro set all none_ taken
    have branch (c : Bool) (hc : ∀ e < 256 / 2 ^ f.w.toNat, set e = c) :=
      branch_chooses (more := [none]) (exec_brp_uniform f s c hc) (Plane.target_inSegment hb hin) (by simp)
    refine ⟨?_, fun hk huni => ?_⟩
    · rintro (⟨hall, hs⟩ | ⟨hnone, hs⟩) he
      · exact (branch true hall).1 (by simp [hs]) he
      · exact (branch false hnone).1 (by simp [hs]) he
    · rcases huni with hall | hnone
      · exact (branch true hall).2 (by simpa using fun hs => hk (.inl ⟨hall, hs⟩))
      · exact (branch false hnone).2 (by simpa using
          (BitVec.eq_zero_or_eq_one f.sense).resolve_right fun hs => hk (.inr ⟨hnone, hs⟩))

end Sys2Proof.Machine
end

section
/-!
PROOFS. O15: returns, segment jumps and loop instructions whose checks pass (R89 to R91, R94).
-/

namespace Sys2Proof.Machine

open Sys2Proof Sys2Proof.Claim

/-- The two parts of a return address (R33). -/
theorem bitsOf_address (e : Nat) : bitsOf e 12 32 = e / 4096 % 2 ^ 32 ∧ bitsOf e 0 12 = e % 4096 := by
  simp [bitsOf, Nat.shiftRight_eq_div_pow]

/-- RET outside a loop's end takes the newest live entry (R89). -/
theorem ret_pops (f : CN) (s : State) (e : BitVec 44) (rest : List (BitVec 44)) (hr : s.pl.liveRets = e :: rest)
    (he : s.pl.endFault = none) :
    OnPlane (.ret f) s
      { s.pl with rets := s.pl.rets.tail, xfer := some (.segment (e.toNat / 4096 % 2 ^ 32) (e.toNat % 4096)) } := by
  obtain ⟨hseg, hbun⟩ := bitsOf_address e.toNat
  refine onPlane_of_guarded (by show execRet f s = _; unfold execRet; rfl) (by simp [hr, he]) ?_
  simp only [hr, List.headD_cons, hseg, hbun]
  rfl

/-- SEGJ outside a loop's end names a segment of the task's table (R90). -/
theorem segj_chooses (f : CSeg) (s : State) (hn : (f.idx.setWidth 64 + s.rdS f.s).toNat < s.pl.nseg)
    (he : s.pl.endFault = none) :
    OnPlane (.segj f) s { s.pl with xfer := some (.segment (f.idx.setWidth 64 + s.rdS f.s).toNat 0) } :=
  onPlane_of_guarded (by show execSegj f s = _; unfold execSegj; rfl) (by simpa [he] using hn) rfl

/-- LOOP and LOOPI with their end in the segment, within the level they open in, note a level or the way past it (R91). -/
theorem loop_opens {i : Instr} {s : State} {count : BitVec 32} {dist : Nat} {pre : Bool}
    (h : exec i s = s.openLoop i count dist pre) (hfirst : s.pl.bun.toNat - s.pl.grp + s.pl.gEnd ≤ s.pl.bun.toNat + dist)
    (hin : InSegment s.pl (s.pl.bun.toNat + dist)) (hlvl : ∀ l, s.pl.levelHere = some l → s.pl.bun.toNat + dist ≤ l.stop.toNat)
    (hdepth : s.pl.loops.length < 6) :
    OnPlane i s (if count = 0#32 then { s.pl with skipTo := some (s.pl.bun.toNat + dist + 1) }
      else { s.pl with loopNew := some ⟨count, 0#32, s.pl.seg, BitVec.ofNat 12 (s.pl.bun.toNat - s.pl.grp + s.pl.gEnd),
                                       BitVec.ofNat 12 (s.pl.bun.toNat + dist), pre⟩ }) := by
  have hinner : (match s.pl.levelHere with
      | some l => decide (s.pl.bun.toNat + dist ≤ l.stop.toNat) | none => true) = true := by
    cases hl : s.pl.levelHere with
    | none => rfl
    | some l => exact decide_eq_true (hlvl l hl)
  have hlen : s.pl.bun.toNat + dist < s.pl.len := hin
  unfold State.openLoop at h
  refine onPlane_of_guarded h ?_ rfl
  simp only [List.mem_cons, List.not_mem_nil, or_false, forall_eq_or_imp, forall_eq, need_none, Bool.and_eq_true,
    decide_eq_true_eq]
  exact ⟨⟨⟨hfirst, hlen⟩, hinner⟩, hdepth⟩

/-- BRKL drops live levels, the last of them `l`, and leaves from its end (R94, R372). -/
theorem brkl_leaves (f : CK) (s : State) (l : Loop) (hl : s.pl.liveLoops[f.k.toNat]? = some l) :
    OnPlane (.brkl f) s
      { s.pl with loops := s.pl.loops.drop (f.k.toNat + 1), safe := s.pl.safe || s.pl.endSafe,
                  xfer := some (.after l.seg.toNat l.stop.toNat) } := by
  obtain ⟨hk, -⟩ := List.getElem?_eq_some_iff.1 hl
  refine onPlane_of_guarded (by show execBrkl f s = _; unfold execBrkl; rfl) (by simpa using hk) ?_
  simp only [Nat.add_sub_cancel, hl]
  rfl

/-- Settles O15: one lemma per instruction, LOOP and LOOPI by what they share. -/
theorem returnsSegmentsAndLoops : Obligations.ReturnsSegmentsAndLoops := by
  refine ⟨ret_pops, segj_chooses, ?_, brkl_leaves⟩
  rintro s _ (⟨f, rfl⟩ | ⟨f, rfl⟩) first stop hfirst hin hlvl hdepth
  · exact loop_opens (show execLoop f s = _ from rfl) hfirst hin hlvl hdepth
  · exact loop_opens (show execLoopi f s = _ from rfl) hfirst hin hlvl hdepth

end Sys2Proof.Machine
end

section
/-!
PROOFS. O17: MFSR reads coreid (R101) of a core number that the device does not have.
-/

namespace Sys2Proof.Machine

open Sys2Proof Sys2Proof.Claim

/-- What a scalar instruction gives is one value. -/
theorem scalar_value_unique {i : Instr} {s : State} {ar : BitVec 2} {lat : Nat} {sd : BitVec 5} {v w : Word}
    (hv : Scalar i s ar lat sd v) (hw : Scalar i s ar lat sd w) : v = w := by
  obtain ⟨t, r, ⟨ht, -⟩, hpl, -, hr, -⟩ := hv
  obtain ⟨t', r', ⟨ht', -⟩, hpl', -, hr', -⟩ := hw
  obtain rfl : t = t' := Host.Outcome.next.inj (ht.symm.trans ht')
  have hrr : r = r' := by simpa using congrArg Plane.flight (hpl.symm.trans hpl')
  have hval : v.setWidth 2048 = w.setWidth 2048 := by rw [← hr, ← hr', hrr]
  simpa using congrArg (BitVec.setWidth 64) hval

/-- MFSR gives sd the value that the state holds for its register, one bundle on (R102). -/
theorem mfsr_reads (f : CMf) (s : State) : Scalar (.mfsr f) s 0#2 1 f.sd (s.sysRead f.reg.toNat) :=
  scalar_of_resultS ((show execMfsr f s = _ from rfl).trans (s.guarded_nil 0 _))

/-- A state whose focused core bears the number 48, one past the device's last core; the statement of O17 does not bound it. -/
def core48 : State := { State.reset with co := { State.reset.co with id := 48 } }

/-- Refutes O17: coreid names the die of the core, which the statement takes as the number divided by 24 and the model so only
for the 48 cores there are. In a state whose focused core bears the number 48, MFSR gives 0x00C30, of die 0, and the statement
asks for 0x20C30, of die 2. -/
theorem not_systemRegisterAccess : ¬ Obligations.SystemRegisterAccess := by
  rintro ⟨hread, -⟩
  have hclaim := hread ⟨1#1, 1#5, 0x018#12⟩ core48 0x20C30 (List.mem_of_getElem? (i := 11) rfl)
  exact absurd (scalar_value_unique hclaim (mfsr_reads _ _)) (by decide)

end Sys2Proof.Machine
end

section
/-!
PROOFS. O19: end processing (R92): the levels one after another, and where a group that chose no transfer goes on.
-/

namespace Sys2Proof.Machine

open Sys2Proof Sys2Proof.Claim

/-! ### The levels (R92) -/

/-- A level of another segment or with another end stays. -/
theorem endLevels_other {seg : BitVec 32} {b : Nat} {l : Loop} (n : Nat) (t : List Loop)
    (h : l.seg ≠ seg ∨ l.stop.toNat ≠ b) : endLevels seg b (n + 1) (l :: t) = (l :: t, none, false) := by
  rw [endLevels, if_pos h]

/-- A level with more iterations counts down. -/
theorem endLevels_more {seg : BitVec 32} {b : Nat} {l : Loop} (n : Nat) (t : List Loop) (hs : l.seg = seg)
    (hb : l.stop.toNat = b) (hc : l.count ≠ 1#32) :
    endLevels seg b (n + 1) (l :: t) =
      ({ l with count := l.count - 1#32, index := l.index + 1#32 } :: t, some l.start.toNat, l.pre) := by
  have hc' : l.count - 1#32 ≠ 0#32 := fun e => hc (by simpa using BitVec.sub_eq_iff_eq_add.1 e)
  rw [endLevels, if_neg (by simp [hs, hb])]
  dsimp only
  rw [if_pos hc']

/-- A level's last iteration pops it, and the next level is treated alike. -/
theorem endLevels_last {seg : BitVec 32} {b : Nat} {l : Loop} (n : Nat) (t : List Loop) (hs : l.seg = seg)
    (hb : l.stop.toNat = b) (hc : l.count = 1#32) :
    endLevels seg b (n + 1) (l :: t) =
      ((endLevels seg b n t).1, (endLevels seg b n t).2.1, l.pre || (endLevels seg b n t).2.2) := by
  rw [endLevels, if_neg (by simp [hs, hb])]
  simp [hc]

/-- With no level to look at nothing changes. -/
@[simp] theorem endLevels_zero (seg : BitVec 32) (b : Nat) (t : List Loop) : endLevels seg b 0 t = (t, none, false) := rfl

/-! ### End processing on a plane (R92, R97) -/

/-- The innermost live level is the newest level, and those below it are live without it. -/
theorem Plane.liveLoops_cons {p : Plane} {l : Loop} {rest : List Loop} (h : p.liveLoops = l :: rest) :
    p.loops = l :: p.loops.tail ∧ Plane.liveLoops { p with loops := p.loops.tail } = rest := by
  unfold Plane.liveLoops at h ⊢
  cases hl : p.loops with
  | nil => simp [hl] at h
  | cons x t =>
    rw [hl] at h
    dsimp only [List.tail_cons]
    obtain ⟨k, hk⟩ : ∃ k, (x :: t).length - p.loopFloor = k + 1 :=
      Nat.exists_eq_succ_of_ne_zero fun e => by rw [e] at h; cases h
    rw [hk, List.take_succ_cons] at h
    obtain ⟨rfl, rfl⟩ := List.cons.inj h
    refine ⟨rfl, ?_⟩
    congr 1
    simp at hk
    omega

/-- End processing, level by level. -/
theorem endProc_follows (p : Plane) (seg : BitVec 32) (b : Nat) :
    (p.liveLoops = [] → (p.endProc seg b).1 = b + 1 ∧ (p.endProc seg b).2.loops = p.loops) ∧
    ∀ l rest, p.liveLoops = l :: rest →
      (l.seg ≠ seg ∨ l.stop.toNat ≠ b → (p.endProc seg b).1 = b + 1 ∧ (p.endProc seg b).2.loops = p.loops) ∧
      (l.seg = seg → l.stop.toNat = b → l.count ≠ 1#32 →
        (p.endProc seg b).1 = l.start.toNat ∧
        (p.endProc seg b).2.loops = { l with count := l.count - 1#32, index := l.index + 1#32 } :: p.loops.tail) ∧
      (l.seg = seg → l.stop.toNat = b → l.count = 1#32 →
        let q : Plane := { p with loops := p.loops.tail }
        (p.endProc seg b).1 = (q.endProc seg b).1 ∧ (p.endProc seg b).2.loops = (q.endProc seg b).2.loops) := by
  refine ⟨fun h => ?_, fun l rest h => ?_⟩
  · simp [Plane.endProc, h]
  · obtain ⟨hloops, hrest⟩ := Plane.liveLoops_cons h
    have hlevels : endLevels seg b p.liveLoops.length p.loops = endLevels seg b (rest.length + 1) (l :: p.loops.tail) := by
      rw [h, ← hloops, List.length_cons]
    refine ⟨fun ho => ?_, fun hs hb hc => ?_, fun hs hb hc => ?_⟩
    · simp only [Plane.endProc, hlevels, endLevels_other _ _ ho, Option.getD_none, true_and]
      exact hloops.symm
    · simp only [Plane.endProc, hlevels, endLevels_more _ _ hs hb hc, Option.getD_some, and_self]
    · simp only [Plane.endProc, hlevels, endLevels_last _ _ hs hb hc, hrest, and_self]

/-! ### The way on (R13, R38, R92) -/

/-- Control that stays in the executing segment goes to the bundle (R38). -/
theorem Plane.flow_inSegment {p : Plane} {c : SegBuf} {b : Nat} (hc : p.cur = some c) (he : c.err = none)
    (hb : b < c.bundles.length) :
    p.flow b = { p with seg := BitVec.ofNat 32 c.idx, bun := BitVec.ofNat 12 b, enter := none } := by
  simp [Plane.flow, Plane.goTo, hc, he, hb]

/-- A group that chose no transfer goes on where end processing leads, in its segment (R92). -/
theorem leave_follows (s : State) (c : SegBuf) (hx : s.pl.xfer = none) (hk : s.pl.skipTo = none) (hc : s.pl.cur = some c)
    (he : c.err = none) (hi : c.idx = s.pl.seg.toNat)
    (hb : (s.pl.endProc s.pl.seg s.pl.bun.toNat).1 < c.bundles.length) :
    s.leave = { s with pl := { (s.pl.endProc s.pl.seg s.pl.bun.toNat).2 with
                  bun := BitVec.ofNat 12 (s.pl.endProc s.pl.seg s.pl.bun.toNat).1, grp := 0, enter := none, looks := [] } } := by
  have hseg : BitVec.ofNat 32 c.idx = s.pl.seg := by rw [hi, BitVec.ofNat_toNat, BitVec.setWidth_eq]
  unfold State.leave
  rw [hx, hk]
  show { s with pl := Plane.flow _ (s.pl.endProc s.pl.seg s.pl.bun.toNat).1 } = _
  rw [Plane.flow_inSegment (by exact hc) he hb, hseg]
  simp only [Plane.endProc, Plane.liveLoops, hx, hk]

/-- Settles O19: the levels by the recursion of end processing, the way on by the transfer within a segment. -/
theorem endProcessingFollowsLoops : Obligations.EndProcessingFollowsLoops :=
  ⟨endProc_follows, fun s c hx hk hc he hi _ hb => leave_follows s c hx hk hc he hi hb⟩

end Sys2Proof.Machine
end

section
/-!
PROOFS. O20, O22: entering a handler with a trap and leaving it with ERET (R96, R99): what is recorded and restored, where control
goes, and what keeps its value.
-/

namespace Sys2Proof.Machine

open Sys2Proof Sys2Proof.Claim

/-! ### Where control goes (R38) -/

/-- Entering a held segment otherwise than by a jump comes to the bundle. -/
theorem Plane.enterHeld_target (p : Plane) (r : SegBuf) (bun : Nat) (via : Via) (hv : via ≠ .jump) :
    (p.enterHeld r bun via).enter = none ∧ (p.enterHeld r bun via).seg = BitVec.ofNat 32 r.idx ∧
      (p.enterHeld r bun via).bun = BitVec.ofNat 12 bun := by
  unfold Plane.enterHeld
  rw [if_neg (fun h => hv h.1)]
  exact ⟨rfl, rfl, rfl⟩

/-- A transfer to a handler or back comes to its bundle, or waits to enter the segment there. -/
theorem Plane.goTo_target (p : Plane) (seg bun : Nat) (via : Via) (hj : via ≠ .jump) (hf : via ≠ .fall) :
    (p.goTo seg bun via).enter = some ⟨seg, bun, via⟩ ∨
      ((p.goTo seg bun via).enter = none ∧ (p.goTo seg bun via).seg = BitVec.ofNat 32 seg ∧
        (p.goTo seg bun via).bun = BitVec.ofNat 12 bun) := by
  unfold Plane.goTo
  dsimp only
  split
  · exact .inl rfl
  next c hc =>
    split
    · exact .inr ⟨rfl, rfl, rfl⟩
    · rw [if_neg (fun h => hf h.1)]
      split
      next r hr =>
        have hidx : r.idx = seg := by simpa using List.find?_some hr
        exact .inr (hidx ▸ Plane.enterHeld_target p r bun via hj)
      · split
        next n hn =>
          split
          next hidx => exact .inr (hidx.1 ▸ Plane.enterHeld_target _ n bun via hj)
          · exact .inl rfl
        · exact .inl rfl

/-! ### Addresses (R33) -/

/-- An address as a 64-bit word. -/
theorem mkAddr_word (seg bun : Nat) :
    (mkAddr seg bun).setWidth 64 = BitVec.ofNat 64 (seg % 2 ^ 32 * 4096 + bun % 4096) := by
  apply BitVec.eq_of_toNat_eq
  have hs : seg % 2 ^ 32 < 2 ^ 32 := Nat.mod_lt _ (by decide)
  have hb : bun % 4096 < 4096 := Nat.mod_lt _ (by decide)
  simp only [mkAddr, BitVec.toNat_setWidth, BitVec.toNat_ofNat, Nat.shiftLeft_eq]
  omega

/-! ### A trap taken (R96) -/

/-- The plane once a trap is recorded, before control goes to the handler. -/
def Plane.trapped (p : Plane) (c : Cause) (req : Word) (seg bun : Nat) : Plane :=
  { p with epc := (mkAddr seg bun).setWidth 64, ecause := c.code, edetail := c.detail, ereq := req, intrap := true,
           loopFloor := p.loops.length, retFloor := p.rets.length, captured := (p.pending ++ p.capture).length,
           pending := p.pending ++ p.capture, flight := [], grp := 0, popped := [], willPop := [], xfer := none,
           loopNew := none, skipTo := none, wait := none, safe := false }

/-- A trap with a handler to enter moves only the executing plane: the record, then the transfer. -/
theorem State.takeTrap_eq (s : State) (c : Cause) (req : Word) (seg bun : Nat) (hi : s.pl.intrap = false)
    (ht : s.pl.tbase.getLsbD 63 = true) :
    s.takeTrap c req seg bun =
      { s with
        pl := (s.pl.trapped c req seg bun).goTo (s.pl.tbase.toNat / 2 ^ 12 % 2 ^ 32) (s.pl.tbase.toNat % 2 ^ 12) .trap } := by
  unfold State.takeTrap
  dsimp only
  rw [if_neg (by simp [hi]), if_pos ht, bitsOf, bitsOf, Nat.shiftRight_eq_div_pow, Nat.shiftRight_zero]
  rfl

/-- Settles O20: the trap's record, and the transfer, which leaves every other register and queue. -/
theorem trapEntryRecordsAndVectors : Obligations.TrapEntryRecordsAndVectors := by
  intro s c req seg bun hi ht t hseg hbun
  have htarget := (s.pl.trapped c req seg bun).goTo_target hseg hbun .trap (by decide) (by decide)
  have hcaptured : (s.pl.pending ++ s.pl.capture).length = (s.pl.pending ++ s.pl.flight).length := by
    simp [Plane.capture]
  rw [show t = _ from State.takeTrap_eq s c req seg bun hi ht, Plane.goTo_frame]
  exact ⟨rfl, rfl, rfl, mkAddr_word seg bun, rfl, rfl, rfl, rfl, rfl, rfl, hcaptured, rfl, rfl, htarget, rfl, rfl, rfl, rfl,
    rfl, rfl, rfl, rfl, rfl, rfl, rfl, rfl, rfl, rfl, rfl, rfl, rfl, rfl, rfl⟩

/-! ### The return (R99) -/

/-- The plane once ERET has restored, before control goes back. -/
def Plane.returned (p : Plane) : Plane :=
  { p with loops := p.loops.drop (p.loops.length - p.loopFloor), rets := p.rets.drop (p.rets.length - p.retFloor),
           intrap := false, loopFloor := 0, retFloor := 0, captured := 0, pending := [],
           flight := (p.pending.map fun f => { f with due := p.bcount + f.due - 1 }) ++ p.flight,
           deferred := p.deferred ++ p.hdefer.map (fun x => { x with due := p.tcount + x.due - p.bcount }), hdefer := [] }

/-- ERET to a bundle that epc may name moves only the executing plane: what it restores, then the transfer. -/
theorem State.eretNow_eq (s : State) (h : s.pl.epcBad = false) :
    s.eretNow = { s with pl := s.pl.returned.goTo (s.pl.epc.toNat / 2 ^ 12 % 2 ^ 32) (s.pl.epc.toNat % 2 ^ 12) .eret } := by
  unfold State.eretNow
  dsimp only
  rw [if_neg (by simp [h]), bitsOf, bitsOf, Nat.shiftRight_eq_div_pow, Nat.shiftRight_zero]
  rfl

/-- Settles O22: what ERET restores, and the transfer, which leaves every other register and queue. -/
theorem eretRestores : Obligations.EretRestores := by
  intro s h t seg bun
  have htarget := s.pl.returned.goTo_target seg bun .eret (by decide) (by decide)
  rw [show t = _ from State.eretNow_eq s h, Plane.goTo_frame]
  exact ⟨rfl, rfl, rfl, rfl, rfl, rfl, rfl, rfl, rfl, rfl, rfl, htarget, rfl, rfl, rfl, rfl, rfl, rfl, rfl, rfl, rfl, rfl, rfl,
    rfl, rfl⟩

end Sys2Proof.Machine
end

section
/-!
PROOFS. O21: a trap without a handler, or in one, ends its task (R96, R97): the end of a task seen in its plane and its launch.
-/

namespace Sys2Proof.Machine

open Sys2Proof Sys2Proof.Claim

/-! ### What the steps of an end leave -/

/-- A change to the lit plane of the focused core is a change to the executing plane. -/
theorem State.modPlane_focus (s : State) (f : Plane → Plane) : s.modPlane s.co.id s.co.lit f = { s with pl := f s.pl } := by
  simp [State.modPlane, State.setBox]

/-- The lit plane of the focused core is the executing plane. -/
@[simp] theorem State.plane_focus (s : State) : s.plane s.co.id s.co.lit = s.pl := by simp [State.plane]

/-- Arrivals made move nothing but the queue of arrivals. -/
theorem foldl_arrive_eq (l : List (Option Owed)) (s : State) :
    ∃ q, l.foldl (fun s o => s.arrive o [] 0) s = { s with dv := { s.dv with arrQ := q } } := by
  induction l generalizing s with
  | nil => exact ⟨_, rfl⟩
  | cons o l ih =>
    obtain ⟨q, hq⟩ := ih (s.arrive o [] 0)
    exact ⟨q, by rw [List.foldl_cons, hq, State.arrive_eq]⟩

/-- Slots freed leave the executing plane. -/
@[simp] theorem State.freeSlots_pl (s : State) (t : Nat → Nat → Slot → Bool) : (s.freeSlots t).pl = s.pl := by
  unfold State.freeSlots
  dsimp only
  split <;> rfl

/-- Slots freed leave the launches. -/
@[simp] theorem State.freeSlots_launches (s : State) (t : Nat → Nat → Slot → Bool) :
    (s.freeSlots t).dv.launches = s.dv.launches := by
  unfold State.freeSlots
  dsimp only
  split <;> rfl

/-- A change to every plane changes the executing one by its own core and letter. -/
@[simp] theorem State.mapPlanes_pl (s : State) (f : Nat → Nat → Plane → Plane) :
    (s.mapPlanes f).pl = f s.co.id s.co.lit s.pl := rfl

/-- A change to the planes leaves the device. -/
@[simp] theorem State.mapPlanes_dv (s : State) (f : Nat → Nat → Plane → Plane) : (s.mapPlanes f).dv = s.dv := rfl

/-- Barriers that advance leave the executing plane. -/
@[simp] theorem State.barsAdvance_pl (s : State) : s.barsAdvance.pl = s.pl := rfl

/-- Barriers that advance leave the launches. -/
@[simp] theorem State.barsAdvance_launches (s : State) : s.barsAdvance.dv.launches = s.dv.launches := rfl

/-- Waking parked tasks leaves the device. -/
@[simp] theorem State.wake_dv (s : State) : s.wake.dv = s.dv := rfl

/-- Waking parked tasks leaves an empty plane empty. -/
theorem State.wake_empty (s : State) (h : s.pl.status = .empty) : s.wake.pl.status = .empty := by
  unfold State.wake
  rw [State.mapPlanes_pl]
  split
  next hp _ => cases h.symm.trans hp
  · exact h

/-! ### A task's end (R100, R246) -/

/-- A launch one of whose tasks has ended, with an error or without one (R246). -/
def Launch.taskEnded (l : Launch) (rank : Nat) (err : Option (Cause × Word)) : Launch :=
  { l with
    tasks := l.tasks.map fun t => if t.rank = rank then { t with ended := true } else t,
    status := if err.isSome ∧ l.status = 0 then 2 else l.status,
    err := match err with
      | none => l.err
      | some (k, w) => match l.err with
        | some (r, k0, w0) => if r ≤ rank then some (r, k0, w0) else some (rank, k, w)
        | none => if l.status = 0 then some (rank, k, w) else none }

/-- The end of the executing task empties its plane, and is noted in its launch and in no other (R100, R225, R246). -/
theorem State.endTask_focus (s : State) (err : Option (Cause × Word)) (quiet : Bool) :
    (s.endTask s.co.id s.co.lit err quiet).pl.status = .empty ∧
      (s.endTask s.co.id s.co.lit err quiet).dv.launches =
        s.dv.launches.map fun l => if l.lid = s.pl.lid then l.taskEnded s.pl.rank err else l := by
  unfold State.endTask
  rw [State.plane_focus]
  dsimp only
  generalize harr : (if quiet = true then s else _) = s1
  obtain ⟨q, hq⟩ : ∃ q, s1 = { s with dv := { s.dv with arrQ := q } } := by
    subst harr
    cases quiet with
    | true => exact ⟨_, rfl⟩
    | false => exact foldl_arrive_eq _ s
  have hclear := s1.modPlane_focus Plane.cleared
  rw [hq] at hclear
  rw [hq, hclear]
  refine ⟨State.wake_empty _ ?_, ?_⟩
  · split
    · simp only [State.barsAdvance_pl, State.mapPlanes_pl, State.modLaunch_pl, State.freeOwned, State.freeSlots_pl,
        State.modCore_pl]
      split <;> rfl
    · simp only [State.barsAdvance_pl, State.modLaunch_pl, State.freeOwned, State.freeSlots_pl, State.modCore_pl]
      rfl
  · split
    · simp only [State.wake_dv, State.barsAdvance_launches, State.mapPlanes_dv, State.modLaunch_dv, State.freeOwned,
        State.freeSlots_launches, State.modCore_dv]
      rfl
    · simp only [State.wake_dv, State.barsAdvance_launches, State.modLaunch_dv, State.freeOwned,
        State.freeSlots_launches, State.modCore_dv]
      rfl

/-! ### The trap (R96, R97) -/

/-- A trap without a handler, or in one, ends the executing task in a state with the same core, device and task. -/
theorem State.takeTrap_ends (s : State) (c : Cause) (req : Word) (seg bun : Nat)
    (h : s.pl.intrap = true ∨ s.pl.tbase.getLsbD 63 = false) :
    ∃ u : State, u.dv = s.dv ∧ u.pl.lid = s.pl.lid ∧ u.pl.rank = s.pl.rank ∧
      s.takeTrap c req seg bun = u.endTask u.co.id u.co.lit (some (c, (mkAddr seg bun).setWidth 64)) false := by
  unfold State.takeTrap
  dsimp only
  by_cases hi : s.pl.intrap = true
  · exact ⟨s, rfl, rfl, rfl, if_pos hi⟩
  · refine ⟨{ s with pl := s.pl.trapped c req seg bun }, rfl, rfl, rfl, ?_⟩
    rw [if_neg hi, if_neg (Bool.eq_false_iff.1 (h.resolve_left hi))]
    rfl

/-- A launch that is changed is found changed. -/
theorem find_launch_map (ls : List Launch) (lid : Nat) (g : Launch → Launch) (hg : ∀ l, (g l).lid = l.lid) :
    (ls.map fun l => if l.lid = lid then g l else l).find? (fun l => l.lid == lid) =
      (ls.find? fun l => l.lid == lid).map g := by
  induction ls with
  | nil => rfl
  | cons x t ih =>
    rw [List.map_cons, List.find?_cons, List.find?_cons, ih]
    by_cases hx : x.lid = lid
    · simp [hx, hg]
    · have hne : (x.lid == lid) = false := by simpa using hx
      simp [hx, hne]

/-- Settles O21: both ways of the trap end the executing task, with the cause and the address as the launch's error. -/
theorem trapWithoutHandlerEndsTask : Obligations.TrapWithoutHandlerEndsTask := by
  intro s c req seg bun l h hl hst herr t
  obtain ⟨u, hdv, hlid, hrank, ht⟩ := s.takeTrap_ends c req seg bun h
  obtain ⟨hempty, hlaunches⟩ := u.endTask_focus (some (c, (mkAddr seg bun).setWidth 64)) false
  rw [← ht] at hempty hlaunches
  rw [hdv, hlid, hrank] at hlaunches
  refine ⟨hempty, l.taskEnded s.pl.rank (some (c, (mkAddr seg bun).setWidth 64)), ?_, ?_, ?_, fun k hk hkr => ?_⟩
  · unfold State.launch? at hl ⊢
    rw [hlaunches, find_launch_map _ _ (Launch.taskEnded · _ _) (fun _ => rfl), hl, Option.map_some]
  · simp [Launch.taskEnded, hst]
  · simp [Launch.taskEnded, hst, herr, mkAddr_word]
  · obtain ⟨j, -, rfl⟩ := List.mem_map.1 hk
    by_cases hj : j.rank = s.pl.rank
    · rw [if_pos hj]
    · rw [if_neg hj] at hkr
      exact absurd hkr hj

end Sys2Proof.Machine
end

section
/-!
PROOFS. What an instruction leaves whose checks pass: a result sent off with the arrival that an AR selector owes, or, when it
retires as it issues, the arrival made at once (R15, R230).
-/

namespace Sys2Proof.Machine

open Sys2Proof Sys2Proof.Claim

/-- What an issue counts at its barrier depends on the arrival owed, the barriers and the launches (R230). -/
theorem State.owe_bars_congr {s u : State} {ar : BitVec 2} (ho : u.pl.owes ar = s.pl.owes ar) (hb : u.dv.bars = s.dv.bars)
    (hl : u.dv.launches = s.dv.launches) : (u.owe ar).2.dv.bars = (s.owe ar).2.dv.bars := by
  unfold State.owe
  rw [ho]
  cases s.pl.owes ar with
  | none => exact hb
  | some o => simp [State.issueArrival, State.bar, State.barOwner, State.barInst, State.launch?, hb, hl]

/-- The result in flight that an instruction with an AR selector sends off. -/
def State.sentOff (s : State) (slot lat : Nat) (d : Dest) (v : Row) (tag : Sum24) (eng : Nat) (fl : BitVec 5) (ar : BitVec 2) :
    Flight :=
  { id := s.dv.nextId, due := s.pl.bcount + lat, dest := d, val := v, tag := tag, flags := fl, eng := eng,
    arr := s.pl.owes ar, lb := false, known := true, arrived := true, raised := false, slot := slot,
    issued := s.pl.tcount, take := none, qfSet := none }

/-- A result sent off with its arrival moves the flight, the barriers and the next number, and nothing else. -/
theorem State.owe_result (s : State) (slot lat : Nat) (d : Dest) (v : Row) (tag : Sum24) (eng : Nat) (fl : BitVec 5)
    (ar : BitVec 2) :
    (s.owe ar).2.result slot lat d v tag eng fl (s.owe ar).1 =
      { s with pl := { s.pl with flight := s.pl.flight ++ [s.sentOff slot lat d v tag eng fl ar] },
               dv := { s.dv with bars := (s.owe ar).2.dv.bars, nextId := s.dv.nextId + 1 } } := by
  rw [State.owe_fst, State.owe_eq]
  rfl

/-- An instruction's arrival made at once moves the barriers and the arrivals that wait, and nothing else (R230). -/
theorem State.retireNow_eq (s : State) (ar : BitVec 2) :
    s.retireNow ar = { s with dv := { s.dv with
      bars := (s.owe ar).2.dv.bars, arrQ := s.dv.arrQ ++ (s.pl.owes ar).toList.map fun o => ⟨o, [], 0⟩ } } := by
  unfold State.retireNow
  simp only [State.owe_fst, State.arrive_eq, Option.toList_map]
  rw [State.owe_eq]

/-- An instruction whose checks pass has its effect. -/
theorem exec_of_guarded {i : Instr} {s t : State} {slot : Nat} {l : List (Option Cause)} {eff : State → State}
    (h : exec i s = s.guarded slot l eff) (hl : ∀ c ∈ l, c = none) (he : eff s = t) : exec i s = .next t :=
  h.trans ((s.guarded_pass slot l eff hl).trans (congrArg _ he))

/-- An instruction that retires as it issues makes its arrival, when its effect leaves the task and the barriers. -/
theorem arrives_of_guarded {i : Instr} {s u : State} {ar : BitVec 2} {slot : Nat} {l : List (Option Cause)} {eff : State → State}
    (h : exec i s = s.guarded slot l eff) (hl : ∀ c ∈ l, c = none) (he : eff s = u.retireNow ar)
    (ho : u.pl.owes ar = s.pl.owes ar) (hb : u.dv.bars = s.dv.bars) (hla : u.dv.launches = s.dv.launches)
    (hq : u.dv.arrQ = s.dv.arrQ) : Arrives i s (u.retireNow ar) ar := by
  refine ⟨exec_of_guarded h hl he, ?_, ?_⟩
  · rw [State.retireNow_eq]
    exact State.owe_bars_congr ho hb hla
  · rw [State.retireNow_eq, ← ho, ← hq]

/-- An instruction that retires as it issues and moves the executing plane only. -/
theorem quick_of_guarded {i : Instr} {s : State} {ar : BitVec 2} {p : Plane} {slot : Nat} {l : List (Option Cause)}
    {eff : State → State} (h : exec i s = s.guarded slot l eff) (hl : ∀ c ∈ l, c = none)
    (he : eff s = State.retireNow { s with pl := p } ar) (ho : p.owes ar = s.pl.owes ar) : Quick i s ar p s.co := by
  refine ⟨_, arrives_of_guarded h hl he ho rfl rfl rfl, ?_⟩
  rw [State.retireNow_eq]

end Sys2Proof.Machine
end

section
/-!
PROOFS. O47: QPOP, the latches and patterns, FLAGS and the scale registers (R122, R144, R145, R160, R309, R311, R338).
-/

namespace Sys2Proof.Machine

open Sys2Proof Sys2Proof.Claim

/-! ### A scalar result of the K slot -/

/-- No cycles counted leave a plane. -/
@[simp] theorem Plane.tick_zero (p : Plane) : p.tick 0 = p := by
  unfold Plane.tick
  split <;> rfl

/-- An instruction of the K slot that gives a scalar, moves the pops of the bundle and the flags, and nothing else. -/
theorem gives_of_guarded {i : Instr} {s : State} {ar : BitVec 2} {sd : BitVec 5} {v : Word} {pops : List Nat}
    {fl : Vector (BitVec 16) 5} {l : List (Option Cause)} {eff : State → State} (h : exec i s = s.guarded 7 l eff)
    (hl : ∀ c ∈ l, c = none) (he : eff s = State.resultK { s with pl := { s.pl with popped := pops, flags := fl } } ar sd v) :
    Gives i s ar sd v { s.pl with popped := pops, flags := fl } false := by
  have hb := State.owe_bars_congr (s := s) (u := { s with pl := { s.pl with popped := pops, flags := fl } }) (ar := ar)
    rfl rfl rfl
  rw [State.resultK, State.resultS, State.owe_result, hb] at he
  refine ⟨_, s.sentOff 7 1 (.sreg sd) (v.setWidth 2048) 0#24 7 0#5 ar, 0,
    exec_of_guarded h hl he, ⟨rfl, rfl, rfl, rfl⟩, rfl, rfl, rfl, fun _ => ⟨rfl, rfl⟩, ?_⟩
  rw [Plane.tick_zero]
  rfl

/-! ### Latches (R160) -/

/-- A bit of packed elements. -/
theorem testBit_packs {w : Nat} (hw : 0 < w) (l : List Nat) (i : Nat) :
    (packs w l).testBit i = (l.getD (i / w) 0).testBit (i % w) := by
  have helem := congrArg (Nat.testBit · (i % w)) (packs_elem w l (i / w))
  simpa [Nat.testBit_mod_two_pow, Nat.mod_lt i hw, Nat.testBit_div_two_pow, Nat.mod_add_div] using helem

/-- KBL fills a latch with a word, for format 15, or with an element in every lane. -/
theorem kbl_fills (f : KBl) (s : State) : ∃ row : Row,
    Quick (.kbl f) s f.ar { s.pl with bl := vput s.pl.bl f.cl.toNat row } s.co ∧
    (f.fmt = 15#4 → ∀ i < 2048, row.getLsbD i = (s.rdS f.sx).getLsbD (i % 64)) ∧
    (f.fmt ≠ 15#4 → ∀ e < laneCount f.fmt.toNat,
      lane f.fmt.toNat row e = toLane f.fmt.toNat (s.rdS f.sx).toNat % 2 ^ laneBits f.fmt.toNat) := by
  refine ⟨_, quick_of_guarded (show execKbl f s = _ from rfl) (by simp) rfl rfl, fun hf i hi => ?_,
    fun hf e he => ?_⟩
  · simp only [hf, BitVec.toNat_ofNat, Nat.reducePow, Nat.reduceMod, if_pos, Nat.reduceDiv]
    rw [BitVec.getLsbD_ofNat, testBit_packs (by decide), List.getD_replicate (h := by omega), BitVec.testBit_toNat]
    simp [hi]
  · have hm : f.fmt.toNat ≠ 15 := fun h => hf (BitVec.eq_of_toNat_eq h)
    simp only [hm, if_false]
    have hlane := lane_ofLanes f.fmt.toNat (List.replicate (laneCount f.fmt.toNat) (toLane f.fmt.toNat (s.rdS f.sx).toNat))
      (by simp) e
    rwa [List.getD_replicate (h := he)] at hlane

/-- KBL.W replaces one word of a latch. -/
theorem kblW_replaces (f : KBw) (s : State) : ∃ row : Row,
    Quick (.kblW f) s f.ar { s.pl with bl := vput s.pl.bl f.cl.toNat row } s.co ∧
    ∀ i < 2048, row.getLsbD i =
      if i / 64 = f.i.toNat then (s.rdS f.sx).getLsbD (i % 64) else (vget s.pl.bl f.cl.toNat 0#2048).getLsbD i := by
  refine ⟨_, quick_of_guarded (show execKblW f s = _ from rfl) (by simp) rfl rfl, fun i hi => ?_⟩
  rw [BitVec.getLsbD_ofNat, testBit_bitsPut]
  by_cases h : i / 64 = f.i.toNat
  · rw [if_pos h, if_pos (by omega), show i - 64 * f.i.toNat = i % 64 by omega, BitVec.testBit_toNat]
    simp [hi, State.rdS]
  · rw [if_neg h, if_neg (by omega), BitVec.testBit_toNat]
    simp [hi]

/-! ### QPOP and KXPAT (R122, R338) -/

/-- QPOP of xq takes its head and, without .w, notes in qf whether there was one. -/
theorem qpop_takes_xq (f : KQp) (s : State) (hq : f.q = 0#1) (hw : f.w = 0#1 ∨ s.pl.xq ≠ []) :
    ∃ t r, Local (.qpop f) s t f.ar ∧ t.pl = { s.pl with flight := s.pl.flight ++ [r], xq := s.pl.xq.tail } ∧
      Due s r f.ar 1 (.sreg f.sx) ∧ r.val = (s.pl.xq.headD 0#64).setWidth 2048 ∧
      r.qfSet = if f.w = 1#1 then none else some (decide (s.pl.xq ≠ [])) := by
  have hpass : ∀ c ∈ [need (!(f.w == 1#1 && s.pl.xq.isEmpty && !s.outstanding)) (resultQueue 11)], c = none := by
    rcases hw with h | h <;> simp [h]
  have hnot : f.q ≠ 1#1 := by simp [hq]
  have hexec := (show execQpop f s = _ from if_neg hnot).trans (s.guarded_pass 7 _ _ hpass)
  simp only [State.resultS, State.owe_result, State.modPl, List.drop_left] at hexec
  refine ⟨_, { s.sentOff 7 1 (.sreg f.sx) ((s.pl.xq.headD 0#64).setWidth 2048) 0#24 7 0#5 f.ar with
    qfSet := if f.w = 1#1 then none else some (!s.pl.xq.isEmpty) }, ⟨hexec, rfl⟩, rfl, ⟨rfl, rfl, rfl, rfl⟩, rfl, ?_⟩
  cases s.pl.xq <;> rfl

/-- KXPAT sets a pattern register whose fields all end within the period. -/
theorem kxpat_sets (f : KXp) (s : State) (hfit : ∀ j < patC (s.rdS f.sy ++ s.rdS f.sx),
      patOff (s.rdS f.sy ++ s.rdS f.sx) j + patW (s.rdS f.sy ++ s.rdS f.sx) ≤ patP (s.rdS f.sy ++ s.rdS f.sx)) :
    Quick (.kxpat f) s f.ar { s.pl with xp := vput s.pl.xp f.xp.toNat (s.rdS f.sy ++ s.rdS f.sx) } s.co := by
  refine quick_of_guarded (by show execKxpat f s = _; unfold execKxpat; rfl) ?_ ?_ rfl
  · simpa [State.kLimit] using hfit
  · rfl

/-! ### FLAGS (R144) -/

/-- Flags of an engine cleared by a mask: the enables above them stay. -/
theorem flags_cleared (w : BitVec 16) (y : Word) :
    w &&& ~~~(y.setWidth 16 &&& 0x1F#16) = w.extractLsb' 5 11 ++ (w.setWidth 5 &&& ~~~y.setWidth 5) := by
  have h31 : ∀ i < 16, (0x1F#16).getLsbD i = decide (i < 5) := by decide
  refine BitVec.eq_of_getLsbD_eq fun i hi => ?_
  rw [BitVec.getLsbD_append, BitVec.getLsbD_and, BitVec.getLsbD_not, BitVec.getLsbD_and, h31 i hi]
  by_cases h : i < 5
  · simp [h, hi]
  · simp [h, hi, show 5 + (i - 5) = i by omega, show i - 5 < 11 by omega]

/-- Enables of an engine replaced: the flags below them stay. -/
theorem flags_enabled (w : BitVec 16) (y : Word) :
    (w &&& 0xE0FF#16) ||| ((y.setWidth 16 &&& 0x1F#16) <<< 8) = w.extractLsb' 13 3 ++ y.setWidth 5 ++ w.setWidth 8 := by
  have hkeep : ∀ i < 16, (0xE0FF#16).getLsbD i = decide (i < 8 ∨ 13 ≤ i) := by decide
  have h31 : ∀ i < 16, (0x1F#16).getLsbD i = decide (i < 5) := by decide
  refine BitVec.eq_of_getLsbD_eq fun i hi => ?_
  rw [BitVec.getLsbD_append, BitVec.getLsbD_append, BitVec.getLsbD_or, BitVec.getLsbD_and, BitVec.getLsbD_shiftLeft,
    hkeep i hi]
  by_cases h8 : i < 8
  · simp [h8]
  · rw [BitVec.getLsbD_and, h31 _ (by omega)]
    by_cases h13 : i < 13
    · simp [h8, hi, show ¬ 13 ≤ i by omega, show i - 8 < 5 by omega,
        show i - 8 < 16 by omega]
    · simp [h8, hi, show 13 ≤ i by omega, show ¬ i - 8 < 5 by omega, show 13 + (i - 8 - 5) = i by omega,
        show i - 8 - 5 < 3 by omega]

/-! ### Scale registers (R145, R309) -/

/-- The number of a word put above another. -/
theorem toNat_append_add {m n : Nat} (x : BitVec m) (y : BitVec n) : (x ++ y).toNat = x.toNat <<< n + y.toNat := by
  rw [BitVec.toNat_append, Nat.shiftLeft_add_eq_or_of_lt y.isLt]

/-- The word of a scale register by its fields. -/
theorem scaleWord_eq (y : Word) (mode : BitVec 2) (scale : Nat) :
    scaleWord (cfgHr y) (cfgMg y) mode.toNat (cfgTgt y) scale =
      (0#22 ++ y.extractLsb' 7 2 ++ y.extractLsb' 5 2 ++ mode ++ y.extractLsb' 0 4 ++ BitVec.ofNat 32 scale : BitVec 64).toNat := by
  simp only [toNat_append_add, BitVec.extractLsb'_toNat, BitVec.toNat_ofNat, Nat.shiftLeft_eq, scaleWord, cfgHr,
    cfgMg, cfgTgt, bitsOf]
  ring

/-- A bit of the value in flight to a scale register: its word lies below its reciprocal. -/
theorem getLsbD_scaleVal (w : Word) (i : Nat) (hi : i < 2048) :
    (scaleVal w.toNat).getLsbD i = if i < 64 then w.getLsbD i else (scaleRcp (w.toNat % 2 ^ 32)).testBit (i - 64) := by
  rw [scaleVal, BitVec.getLsbD_ofNat, decide_eq_true hi, Bool.true_and, Nat.shiftLeft_eq, Nat.add_comm, Nat.mul_comm,
    Nat.testBit_two_pow_mul_add _ w.isLt, BitVec.testBit_toNat]

/-- The value in flight to a scale register holds its word. -/
theorem scaleVal_word (w : Word) : (scaleVal w.toNat).setWidth 64 = w := by
  refine BitVec.eq_of_getLsbD_eq fun i hi => ?_
  rw [BitVec.getLsbD_setWidth, getLsbD_scaleVal w i (by omega)]
  simp [hi]

/-- The value in flight to a scale register holds its reciprocal. -/
theorem scaleVal_rcp (w : Word) :
    (scaleVal w.toNat).extractLsb' 64 32 = BitVec.ofNat 32 (scaleRcp (w.toNat % 2 ^ 32)) := by
  refine BitVec.eq_of_getLsbD_eq fun i hi => ?_
  rw [BitVec.getLsbD_extractLsb', getLsbD_scaleVal w _ (by omega), BitVec.getLsbD_ofNat]
  simp [hi]

/-- The target and the margin of a scale configuration (R311). -/
theorem cfg_fields (y : Word) : cfgTgt y = (y.extractLsb' 0 4).toNat ∧ cfgMg y = (y.extractLsb' 5 2).toNat := by
  simp [cfgTgt, cfgMg, bitsOf]

/-- The checks of KSCALE and KSCALEI pass on operands within their limits (R311). -/
theorem scaleChecks_pass {s : State} {i : Instr} {f : KSc} {bits : Nat} {kLow : Bool}
    (ht : scaleTgtOk ((s.rdS f.sy).extractLsb' 0 4).toNat = true) (hy : (s.rdS f.sy).toNat < 512)
    (hx : (s.rdS f.sx).toNat < 2 ^ bits) (hk : kLow = true → (s.rdS f.sy).getLsbD 4 = false) :
    ∀ c ∈ s.scaleChecks i f bits kLow, c = none := by
  have htgt := (cfg_fields (s.rdS f.sy)).1
  cases kLow <;> simp_all [State.scaleChecks, State.kLimit, cfgExact]

/-- A field of a Lux section that is 32 bits wide. -/
theorem luxF_eq (x : BitVec 2048) (byte : Nat) : luxF x byte 32 = (x.extractLsb' (8 * byte) 32).toNat := by
  simp [luxF, bitsOf]

/-- A Lux section records NaNs or infinities when one of its two counts is not 0. -/
theorem luxF_counts (x : BitVec 2048) :
    luxF x 0x18 32 + luxF x 0x1C 32 ≠ 0 ↔ x.extractLsb' 192 32 ≠ 0#32 ∨ x.extractLsb' 224 32 ≠ 0#32 := by
  have hzero : ∀ z : BitVec 32, z.toNat = 0 ↔ z = 0#32 := fun z => BitVec.toNat_inj (y := 0#32)
  rw [luxF_eq, luxF_eq, ne_eq, Nat.add_eq_zero_iff, not_and_or, hzero, hzero]

/-- The word that KSCALE and KSCALEI write, of a configuration, a mode and a scale (R145). -/
def scaleBits (y : Word) (mode : BitVec 2) (scale : BitVec 32) : Word :=
  0#22 ++ y.extractLsb' 7 2 ++ y.extractLsb' 5 2 ++ mode ++ y.extractLsb' 0 4 ++ scale

/-- The scale stands in the low half of the word. -/
theorem scaleBits_scale (y : Word) (mode : BitVec 2) (scale : BitVec 32) :
    (scaleBits y mode scale).toNat % 2 ^ 32 = scale.toNat := by
  rw [scaleBits, toNat_append_add, Nat.shiftLeft_eq, Nat.mul_add_mod', Nat.mod_eq_of_lt scale.isLt]

/-- KSCALE lands the scale that a sealed record's amax gives, after a freeze (R309). -/
theorem kscale_derives (f : KSc) (s : State) (ht : scaleTgtOk ((s.rdS f.sy).extractLsb' 0 4).toNat = true)
    (hy : (s.rdS f.sy).toNat < 512) (hx : (s.rdS f.sx).toNat < 2 ^ 16) :
    let y := s.rdS f.sy
    let x := (s.dv.luxRec (s.rdS f.sx).toNat).sealed
    let d := deriveScale (x.extractLsb' 0 32).toNat (y.extractLsb' 0 4).toNat (y.getLsbD 4) (y.extractLsb' 5 2).toNat
    ∃ t r n, exec (.kscale f) s = .next t ∧
      t = { s with
        pl := { s.pl with flight := s.pl.flight ++ [r], cycle := s.pl.cycle + n },
        co := { s.co with shadow := s.co.shadow.tick n }, fresh := t.fresh,
        dv := { s.dv with bars := (s.owe f.ar).2.dv.bars, nextId := t.dv.nextId } } ∧
      Due s r f.ar 3 (.scale f.ks.toNat) ∧
      r.val.setWidth 64 = scaleBits y (if y.getLsbD 4 then 1#2 else 0#2) (BitVec.ofNat 32 d.1) ∧ r.eng = 4 ∧
      r.flags = BitVec.ofNat 5 (if x.extractLsb' 192 32 ≠ 0#32 ∨ x.extractLsb' 224 32 ≠ 0#32 then d.2 ||| 16 else d.2) := by
  intro y x d
  have hd : deriveScale (luxF x 0 32) (cfgTgt y) (cfgExact y) (cfgMg y) = d := by
    rw [luxF_eq, (cfg_fields y).1, (cfg_fields y).2]
    rfl
  have hword : scaleWord (cfgHr y) (cfgMg y) (b2n (cfgExact y)) (cfgTgt y)
      (deriveScale (luxF x 0 32) (cfgTgt y) (cfgExact y) (cfgMg y)).1 =
      (scaleBits y (if y.getLsbD 4 then 1#2 else 0#2) (BitVec.ofNat 32 d.1)).toNat := by
    rw [hd, scaleBits, ← scaleWord_eq]
    unfold cfgExact
    cases y.getLsbD 4 <;> rfl
  have hflags : ((deriveScale (luxF x 0 32) (cfgTgt y) (cfgExact y) (cfgMg y)).2 |||
      if luxF x 0x18 32 + luxF x 0x1C 32 ≠ 0 then fNAN else 0) =
      if x.extractLsb' 192 32 ≠ 0#32 ∨ x.extractLsb' 224 32 ≠ 0#32 then d.2 ||| 16 else d.2 := by
    rw [hd]
    simp only [luxF_counts]
    split
    · rfl
    · exact Nat.or_zero _
  have hb := State.owe_bars_congr (s := s) (u := s.freeze) (ar := f.ar) rfl rfl rfl
  have hexec := (show execKscale f s = _ from rfl).trans (s.guarded_pass 7 _ _ (scaleChecks_pass ht hy hx (by simp)))
  simp only [State.owe_result, hb] at hexec
  refine ⟨_, _, _, hexec, rfl, ⟨rfl, rfl, rfl, rfl⟩, ?_, rfl, congrArg (BitVec.ofNat 5) hflags⟩
  exact (congrArg (fun n => (scaleVal n).setWidth 64) hword).trans (scaleVal_word _)

/-- KSCALEI lands the scale of sx, with its reciprocal (R309). -/
theorem kscalei_sets (f : KSc) (s : State) (ht : scaleTgtOk ((s.rdS f.sy).extractLsb' 0 4).toNat = true)
    (hy : (s.rdS f.sy).toNat < 512) (hx : (s.rdS f.sx).toNat < 2 ^ 32) (he : (s.rdS f.sy).getLsbD 4 = false) :
    ∃ t r, Local (.kscalei f) s t f.ar ∧ t.pl = { s.pl with flight := s.pl.flight ++ [r] } ∧
      Due s r f.ar 3 (.scale f.ks.toNat) ∧
      r.val.setWidth 64 = scaleBits (s.rdS f.sy) 2#2 ((s.rdS f.sx).setWidth 32) ∧
      r.val.extractLsb' 64 32 = BitVec.ofNat 32 (scaleRcp (s.rdS f.sx).toNat) ∧ r.flags = 0#5 := by
  have hword : scaleWord (cfgHr (s.rdS f.sy)) (cfgMg (s.rdS f.sy)) 2 (cfgTgt (s.rdS f.sy)) (s.rdS f.sx).toNat =
      (scaleBits (s.rdS f.sy) 2#2 ((s.rdS f.sx).setWidth 32)).toNat := by
    rw [scaleBits, ← BitVec.ofNat_toNat]
    exact scaleWord_eq _ 2#2 _
  have hexec := (show execKscalei f s = _ from rfl).trans (s.guarded_pass 7 _ _ (scaleChecks_pass ht hy hx fun _ => he))
  simp only [State.owe_result, hword] at hexec
  refine ⟨_, _, ⟨hexec, rfl⟩, rfl, ⟨rfl, rfl, rfl, rfl⟩, scaleVal_word _, (scaleVal_rcp _).trans ?_, rfl⟩
  rw [scaleBits_scale, BitVec.toNat_setWidth, Nat.mod_eq_of_lt hx]

/-- Settles O47: one lemma per instruction. -/
theorem latchesFlagsAndScales : Obligations.LatchesFlagsAndScales := by
  refine ⟨fun f s => ⟨fun hq hm => ?_, qpop_takes_xq f s⟩, kbl_fills, kblW_replaces, kxpat_sets, fun f s => ?_,
    fun f s => ⟨?_, ?_⟩,
    fun f s ht hy => ⟨kscale_derives f s ht hy, kscalei_sets f s ht hy⟩, ?_⟩
  · have hpass : s.pl.popFault 32 false = none := (Plane.popFault_none _ _ _).2 hm
    exact gives_of_guarded (show execQpop f s = _ from if_pos hq) (by simp [hpass]) rfl
  · exact gives_of_guarded (show execFlagsRd f s = _ from rfl) (by simp) rfl
  · refine gives_of_guarded (show execFlagsClr f s = _ from rfl) (by simp) ?_
    rw [← flags_cleared]
    rfl
  · refine gives_of_guarded (show execFlagsEn f s = _ from rfl) (by simp) ?_
    rw [← flags_enabled]
    rfl
  · decide +kernel

end Sys2Proof.Machine
end

section
/-!
PROOFS. O38: far loads and stores (R125, R126, R299, R301, R321, R342): a lookup moves the device alone, and the entries that
join the queues.
-/

namespace Sys2Proof.Machine

open Sys2Proof Sys2Proof.Claim

/-! ### Lookups (R126) -/

/-- A chain of entries marked as used moves the device alone. -/
theorem State.markChain_eq (n : Nat) (s : State) (l : TLoc) : s.markChain n l = { s with dv := (s.markChain n l).dv } := by
  induction n generalizing s l with
  | zero => rfl
  | succ n ih =>
    unfold State.markChain
    split
    · rfl
    · dsimp only
      split
      · split
        · rw [ih]; rfl
        · rfl
      · rfl

/-- An access's lookup moves the device alone. -/
theorem State.lookIn_eq (s : State) (die : Nat) (tlb : Option Nat) (sp asp cls : Nat) (write : Bool) (va n : Nat)
    (frame : Bool) : (s.lookIn die tlb sp asp cls write va n frame).2 =
      { s with dv := (s.lookIn die tlb sp asp cls write va n frame).2.dv } := by
  unfold State.lookIn
  split
  · split
    · rfl
    · dsimp only
      split
      · rfl
      · split <;> rfl
  · dsimp only
    split
    · rfl
    · split
      · split <;> rfl
      · split
        · rfl
        · rfl
        · split
          · exact State.markChain_eq _ _ _
          · split
            · split <;> exact State.markChain_eq _ _ _
            · split
              · split <;> exact State.markChain_eq _ _ _
              · exact State.markChain_eq _ _ _

/-- A far access's lookup moves the device alone. -/
theorem State.farSample_eq (s : State) (write : Bool) (va : Word) :
    (s.farSample write va).2 = { s with dv := (s.farSample write va).2.dv } := by
  unfold State.farSample
  split
  · rfl
  · dsimp only
    unfold State.farLook State.look
    dsimp only
    split
    · split <;> exact State.lookIn_eq _ _ _ _ _ _ _ _ _ _
    · exact State.lookIn_eq _ _ _ _ _ _ _ _ _ _

/-! ### Far loads (R125, R321, R342) -/

/-- What a far load's LQ entry holds of what its lookup found: the physical address, the row of a symbol, or the view. -/
def State.ldfEntry (s : State) (id a : Nat) (k : Look) : LqEnt :=
  match k with
  | .mem pa l => ⟨id, false, id, pa, none, none, l.map fun l => (l.sp, l.ref)⟩
  | .sym l t => match t with
    | .stored false _ _ fr _ => ⟨id, false, id, fr * 65536 + a % 65536, none, none, some (l.sp, l.ref)⟩
    | _ => ⟨id, false, id, 0, some (s.termRow t (a % 65536 / 256)), none, none⟩
  | .view n v => ⟨id, false, id, 0, none, some (n, v, a - v.va), none⟩

/-- That entry is a load's, with the number of the result it fills. -/
theorem State.ldfEntry_load (s : State) (id a : Nat) (k : Look) :
    (s.ldfEntry id a k).fid = id ∧ (s.ldfEntry id a k).mark = false := by
  unfold State.ldfEntry
  split
  · exact ⟨rfl, rfl⟩
  · split <;> exact ⟨rfl, rfl⟩
  · exact ⟨rfl, rfl⟩

/-- LDF whose checks pass adds its LQ entry and the result that its data will fill. -/
theorem exec_ldf (f : LFl) {s s1 : State} {k : Look} {fo : Option Nat}
    (hk : s.farSample false (s.rdS f.sx) = (.ok (k, fo), s1)) (hp : s.pl.pushFault (16 * f.cl.toNat + f.q.toNat) 1 [] = none)
    (hl : s.pl.lbUsed < Config.lbCap) :
    exec (.ldf f) s = .next
      (let w := (s1.owe f.ar).2.await 5 f.dist.toNat (.vq (16 * f.cl.toNat + f.q.toNat)) true (s1.owe f.ar).1
       w.2.modPl fun p => { p with lq := p.lq ++ [s1.ldfEntry w.1 ((s.rdS f.sx).toNat / 256 * 256) k] }) := by
  refine exec_of_guarded (by show execLdf f s = _; unfold execLdf; rfl) ?_ ?_
  · simp [hk, lq, hp, State.lbFault, hl]
  · simp only [hk]
    cases k with
    | mem pa l => rfl
    | view n v => rfl
    | sym l t =>
      cases t with
      | stored b c k fr nf => cases b <;> rfl
      | sym w0 w1 fmt => rfl
      | bad r => rfl

/-- A far load adds one result, without its data, and one LQ entry of what its lookup found. -/
theorem ldf_joins (f : LFl) (s s1 : State) (k : Look) (fo : Option Nat) (hk : s.farSample false (s.rdS f.sx) = (.ok (k, fo), s1))
    (hp : s.pl.pushFault (16 * f.cl.toNat + f.q.toNat) 1 [] = none) (hl : s.pl.lbUsed < Config.lbCap) :
    ∃ t r e, exec (.ldf f) s = .next t ∧ t.pl = { s.pl with flight := s.pl.flight ++ [r], lq := s.pl.lq ++ [e] } ∧
      r.due = s.pl.bcount + f.dist.toNat ∧ r.dest = .vq (16 * f.cl.toNat + f.q.toNat) ∧ r.arr = s.pl.owes f.ar ∧
      r.known = false ∧ r.lb = true ∧ t.dv.mem = s1.dv.mem ∧ t.dv.far = s1.dv.far ∧ t.co = s.co ∧
      e = s1.ldfEntry r.id ((s.rdS f.sx).toNat / 256 * 256) k := by
  obtain ⟨d, rfl⟩ : ∃ d, s1 = { s with dv := d } := ⟨s1.dv, by have h := s.farSample_eq false (s.rdS f.sx); rwa [hk] at h⟩
  have hexec := exec_ldf f hk hp hl
  rw [State.owe_fst, State.owe_eq] at hexec
  exact ⟨_, _, _, hexec, rfl, rfl, rfl, rfl, rfl, rfl, rfl, rfl, rfl, rfl⟩

/-! ### Far stores (R125, R278, R299, R301, R312, R321) -/

/-- Whether a frame's row disagrees with its sum depends on memory, the far stores and the sidecars. -/
theorem State.rowBad_frame_congr {s u : State} (hm : u.dv.mem = s.dv.mem) (hf : u.dv.far = s.dv.far) (hs : u.dv.fside = s.dv.fside)
    (x fmt r : Nat) : u.rowBad (.frame x) fmt r = s.rowBad (.frame x) fmt r := by
  have hport : u.dv.port = s.dv.port := by
    funext a
    unfold Dev.port
    rw [hm, hf]
  unfold State.rowBad State.storeRow State.side Dev.portNat Dev.portBytes
  simp only [hport, hs]

/-- A far store to a row whose sum agrees with its data finds nothing at its check. -/
theorem State.stfCheck_clean {s : State} {pa : Nat} {l : Option TLoc} {queued : Bool}
    (h : pa < 2 ^ 40 → s.rowBad (.frame (pa / 65536)) ((l.map (·.fmt)).getD 15) (pa % 65536 / 256) = false) :
    s.stfCheck pa l queued = s := by
  unfold State.stfCheck
  split
  · rfl
  · rename_i hn
    have hb := h (by omega)
    simp [State.checkRow, hb, State.deferIf]

/-- An SQ entry with its arrival moves the SQ, the barriers and the next number, and nothing else (R230, R321). -/
theorem State.owe_pushSq (s : State) (kind : SqKind) (ar : BitVec 2) :
    (s.owe ar).2.pushSq kind (s.owe ar).1 =
      { s with pl := { s.pl with sq := s.pl.sq ++ [⟨s.dv.nextId, kind, s.pl.lid, s.pl.rank, s.pl.owes ar, s.pl.tcount⟩] },
               dv := { s.dv with bars := (s.owe ar).2.dv.bars, nextId := s.dv.nextId + 1 } } := by
  rw [State.owe_fst, State.owe_eq]
  rfl

/-- STF of an entry whose sum agrees with its tag, to a place whose row agrees with its sum, adds its SQ entry to the state that
finding the place left. -/
theorem exec_stf (f : LFs) {s s1 s3 : State} {k : Look} {fo : Option Nat} {pa : Nat} {l : Option TLoc}
    (hk : s.farSample true (s.rdS f.sx) = (.ok (k, fo), s1)) (hq : s.pl.queue (16 * f.cl.toNat + f.q.toNat) ≠ [])
    (htag : rowTag (s.pl.headOf (16 * f.cl.toNat + f.q.toNat)).data = (s.pl.headOf (16 * f.cl.toNat + f.q.toNat)).tag)
    (hplace : (s1.popSrc (16 * f.cl.toNat + f.q.toNat) f.pk).stfPlace ((s.rdS f.sx).toNat / 256 * 256) k fo = some (pa, l, s3))
    (hrow : pa < 2 ^ 40 → s3.rowBad (.frame (pa / 65536)) ((l.map (·.fmt)).getD 15) (pa % 65536 / 256) = false) :
    exec (.stf f) s = .next ((s3.owe f.ar).2.pushSq (.stf pa (s.pl.headOf (16 * f.cl.toNat + f.q.toNat)).data s3.pl.space
      (l.map (·.ref)) (l.bind (·.lux))) (s3.owe f.ar).1) := by
  refine exec_of_guarded (by show execStf f s = _; unfold execStf; rfl) ?_ ?_
  · simpa [hk, lq, State.srcFault, Plane.popFault_none] using hq
  · simp only [hk, lq, htag, if_pos, hplace]
    refine State.stfCheck_clean fun h => ?_
    rw [State.owe_pushSq, ← hrow h]
    exact State.rowBad_frame_congr rfl rfl rfl _ _ _

/-- A source popped or peeked leaves all but the pops of the bundle. -/
theorem State.popSrc_eq (s : State) (q : Nat) (pk : BitVec 1) :
    s.popSrc q pk = { s with pl := { s.pl with popped := s.pl.popped ++ if pk = 1#1 then [] else [q] } } := by
  unfold State.popSrc
  split
  · simp
  · rfl

/-- Settles O38: a load's entry by what its lookup found; a store's to plain memory or a STORED tile, and to a promoted one. -/
theorem farAccesses : Obligations.FarAccesses := by
  refine ⟨?_, ?_, ?_⟩
  · intro f s s1 k fo va q hk hp hl
    obtain ⟨t, r, e, hexec, hpl, hdue, hdest, harr, hknown, hlb, hmem, hfar, hco, rfl⟩ := ldf_joins f s s1 k fo hk hp hl
    obtain ⟨hfid, hmark⟩ := s1.ldfEntry_load r.id (va.toNat / 256 * 256) k
    refine ⟨t, r, _, hexec, hpl, hdue, hdest, harr, hknown, hlb, hfid, hmark, hmem, hfar, hco, ?_, ?_, ?_⟩
    · rintro pa l rfl
      exact ⟨rfl, rfl, rfl⟩
    · rintro n v rfl
      exact ⟨rfl, rfl⟩
    · rintro l w0 w1 fmt rfl
      exact ⟨rfl, rfl⟩
  · intro f s s1 pa l q ent hk hq htag hrow
    obtain ⟨d, rfl⟩ : ∃ d, s1 = { s with dv := d } := ⟨s1.dv, by have h := s.farSample_eq true (s.rdS f.sx); rwa [hk] at h⟩
    have hexec := exec_stf f hk hq htag (pa := pa) (l := l) rfl fun h => by
      rw [← hrow h, State.popSrc_eq]
      exact State.rowBad_frame_congr rfl rfl rfl _ _ _
    simp only [State.owe_pushSq, State.giveBack, State.popSrc_eq] at hexec
    exact ⟨_, _, hexec, rfl, rfl, rfl, rfl, rfl, rfl, rfl, rfl⟩
  · intro f s s1 s3 l k fo fr va ent hk hq htag hready hrow
    have hexec := exec_stf f hk hq htag (pa := fr * 65536 + va / 256 * 256 % 65536) (l := some l) (s3 := s3) ?_ fun h => ?_
    · rw [State.owe_pushSq] at hexec
      exact ⟨_, _, hexec, rfl, rfl, rfl, rfl⟩
    · have hpl : ∀ s : State, (s.popSrc (16 * f.cl.toNat + f.q.toNat) f.pk).pl.lid = s.pl.lid ∧
          (s.popSrc (16 * f.cl.toNat + f.q.toNat) f.pk).pl.rank = s.pl.rank := fun s => by rw [State.popSrc_eq]; exact ⟨rfl, rfl⟩
      simp only [State.stfPlace, (hpl s1).1, (hpl s1).2, hready]
      rfl
    · rw [show (fr * 65536 + va / 256 * 256 % 65536) / 65536 = fr by omega,
        show (fr * 65536 + va / 256 * 256 % 65536) % 65536 / 256 = va % 65536 / 256 by omega]
      exact hrow (by omega)

end Sys2Proof.Machine
end

section
/-!
PROOFS. O40: the two views of a row (R319), of a record without writes whose seen index is not 0.
-/

namespace Sys2Proof.Machine

open Sys2Proof Sys2Proof.Claim

/-- A core whose record of row 0 holds no write and names the sixth as the one that the linear view has seen; the statement of
O40 takes every record without writes. -/
def emptyRecord : Core := { Core.reset 0 with views := [(0, ⟨[], 5, 0⟩)] }

/-- Every row's record of that core holds no write. -/
theorem hist_emptyRecord (p : Nat) : (SMap.get viewReset emptyRecord.views p).hist = [] := by
  show (if p = 0 then (⟨[], 5, 0⟩ : RowView) else viewReset).hist = []
  split <;> rfl

/-- Refutes O40: its invariant says nothing of the seen indices of a record without writes, and a write through the swizzled
view keeps the linear one's. In a core whose record of row 0 is ⟨[], 5, 0⟩ a write leaves a record of two rows whose linear
view has seen the sixth. -/
theorem not_viewsOfOneScratchpad : ¬ Obligations.ViewsOfOneScratchpad := by
  rintro ⟨-, -, hkeeps⟩
  obtain ⟨hwrite, -⟩ := hkeeps emptyRecord true 0 1#2048 fun p => .inl (hist_emptyRecord p)
  have hrecord : SMap.get viewReset (emptyRecord.writeRow true 0 1#2048).views 0 = ⟨[0#2048, 1#2048], 5, 1⟩ := by decide +kernel
  rcases hwrite 0 with hnil | ⟨-, hlin, -⟩
  · rw [hrecord] at hnil
    exact absurd hnil (by simp)
  · rw [hrecord] at hlin
    exact absurd hlin (by decide)

end Sys2Proof.Machine
end

section
/-!
PROOFS. O35: LDV and LDS (R114, R116, R119, R120, R273, R296): the row that a view returns, and an element of it.
-/

namespace Sys2Proof.Machine

open Sys2Proof Sys2Proof.Claim

/-! ### Slots and their entries (R274) -/

/-- The focused core, by its number. -/
@[simp] theorem State.core_focus (s : State) : s.core s.co.id = s.co := by simp [State.core]

/-- The entry of a slot of the focused core. -/
theorem State.entry_slotLoc (s : State) (sp k : Nat) :
    s.entry (s.slotLoc sp s.co.id k) = ((s.co.slot k).w0, (s.co.slot k).w1) := by
  simp [State.entry, State.slotLoc]

/-- A slot whose own entry is STORED resolves to itself. -/
theorem slotTerm_stored {s : State} {p : Nat} (h : entKind (s.co.slot (p / 256)).w0 = 1) :
    slotTerm s p = .stored true s.co.id (p / 256) (entFrame (s.co.slot (p / 256)).w0) (entNF (s.co.slot (p / 256)).w0) := by
  unfold slotTerm State.resolve
  simp only [State.entry_slotLoc, State.chain, h, endTerm]
  rfl

/-! ### Reading a row (R114, R116, R296) -/

/-- No engine access is performed first when none waits at the row's bank, or none is asked for (R320). -/
theorem State.drainBank_idle {s : State} {ma : BitVec 1} {p : Nat} (h : NoEngine s ma p) : s.drainBank ma p = s := by
  unfold State.drainBank
  rcases h with h | h
  · rw [if_pos h]
  · have hmine : (s.co.engQ.filter fun e => e.row % 128 == p % 128) = [] := by simpa using h
    simp only [hmine, if_true, ite_self]

/-- A row read through a view, by what its slot's entry resolves to. -/
theorem State.readRow_eq (s : State) (swz : Bool) (a : Nat) : s.readRow swz a =
    match slotTerm s (physRow swz a) with
    | .stored true c k _ _ => (s.core c).viewRow swz (256 * k + physRow swz a % 256)
    | t => s.termRow t (physRow swz a % 256) := rfl

/-- A read of a row whose check, if its own slot is STORED, passes delivers it as its view returns it, with no effect. -/
theorem State.loadRowL_clean {s : State} {swz : Bool} {a : Nat}
    (h : entKind (s.co.slot (physRow swz a / 256)).w0 = 1 → s.rowBad (.slot s.co.id (physRow swz a / 256))
      (entFmt (s.co.slot (physRow swz a / 256)).w0) (physRow swz a % 256) = false) :
    s.loadRowL swz a = (s.readRow swz a, none, s) := by
  have hfmt : (s.slotLoc s.pl.space s.co.id (physRow swz a / 256)).fmt = entFmt (s.co.slot (physRow swz a / 256)).w0 := by
    simp [State.slotLoc]
  unfold State.loadRowL State.checkedRow
  dsimp only
  rw [State.entry_slotLoc, hfmt, if_neg]
  · rfl
  · simpa [State.slotLoc] using h

/-- The row that the statement names is the one delivered, with no effect. -/
theorem State.loadRowL_rowAt {s : State} {swz : Bool} {a : Nat} {row : Row} (h : RowAt s swz a row) :
    s.loadRowL swz a = (row, none, s) := by
  unfold RowAt at h
  dsimp only at h
  have hread := s.readRow_eq swz a
  cases ht : slotTerm s (physRow swz a) with
  | stored b c k fr nf =>
    rw [ht] at h hread
    cases b with
    | false => exact absurd h id
    | true =>
      rw [State.loadRowL_clean, hread, h.2]
      intro hk
      obtain ⟨-, rfl, rfl, -, -⟩ := Term.stored.inj (ht.symm.trans (slotTerm_stored hk))
      exact h.1 hk
  | sym w0 w1 fmt =>
    rw [ht] at h hread
    rw [State.loadRowL_clean, hread, h]
    · rfl
    · intro hk
      rw [slotTerm_stored hk] at ht
      exact absurd ht (by simp)
  | bad r => rw [ht] at h; exact absurd h id

/-! ### LDV and LDS (R119, R120) -/

/-- The value of an n-bit number read as two's complement. -/
theorem sgn_eq_toInt (n x : Nat) : sgn n x = (BitVec.ofNat n x).toInt := by
  rw [BitVec.toInt_eq_toNat_cond, BitVec.toNat_ofNat]
  unfold sgn
  dsimp only
  rcases n with - | n
  · simp [Nat.mod_one]
  · have hp : 2 ^ (n + 1) = 2 * 2 ^ n := by ring
    simp only [Nat.add_sub_cancel, Nat.succ_ne_zero, if_false]
    by_cases h : x % 2 ^ (n + 1) < 2 ^ n
    · rw [if_pos h, if_pos (by omega)]
    · rw [if_neg h, if_neg (by omega)]
      push_cast
      rfl

/-- An element extended to a word: its own bits, and above them its sign or zeros. -/
theorem getLsbD_extended (sg : BitVec 1) {v n i : Nat} (hn : 0 < n) (hv : v < 2 ^ n) (hi : i < 64) :
    (if sg = 1#1 then BitVec.ofInt 64 (sgn n v) else BitVec.ofNat 64 v).getLsbD i =
      if i < n then v.testBit i else sg == 1#1 && v.testBit (n - 1) := by
  by_cases h : sg = 1#1
  · have hext : BitVec.ofInt 64 (sgn n v) = (BitVec.ofNat n v).signExtend 64 := by rw [sgn_eq_toInt]; rfl
    rw [if_pos h, hext, BitVec.getLsbD_signExtend, BitVec.msb_eq_getLsbD_last, BitVec.getLsbD_ofNat, BitVec.getLsbD_ofNat]
    by_cases hin : i < n <;> simp [h, hi, hn, hin]
  · rw [if_neg h, BitVec.getLsbD_ofNat]
    by_cases hin : i < n
    · simp [hi, hin]
    · have hz : v.testBit i = false := Nat.testBit_lt_two_pow (Nat.lt_of_lt_of_le hv (Nat.pow_le_pow_right (by decide) (by omega)))
      simp [h, hin, hz]

/-- A field is below its range. -/
theorem bitsOf_lt (x lo n : Nat) : bitsOf x lo n < 2 ^ n := Nat.mod_lt _ (Nat.two_pow_pos n)

/-- The element that LDS takes of a row, extended to a word (R120). -/
def elemOfRow (row : Row) (ea : Nat) (size : BitVec 2) (sg : BitVec 1) : Word :=
  let v := bitsOf row.toNat (8 * elemOff ea size) (8 * 2 ^ size.toNat)
  if sg = 1#1 then BitVec.ofInt 64 (sgn (8 * 2 ^ size.toNat) v) else BitVec.ofNat 64 v

/-- A bit of that element: the row's, or above the element its sign or 0. -/
theorem getLsbD_elemOfRow (row : Row) (ea : Nat) (size : BitVec 2) (sg : BitVec 1) {i : Nat} (hi : i < 64) :
    (elemOfRow row ea size sg).getLsbD i =
      if i < 8 * 2 ^ size.toNat then row.getLsbD (8 * elemOff ea size + i)
      else sg == 1#1 && row.getLsbD (8 * elemOff ea size + 8 * 2 ^ size.toNat - 1) := by
  have hn : 0 < 2 ^ size.toNat := Nat.two_pow_pos _
  rw [elemOfRow, getLsbD_extended sg (by omega) (bitsOf_lt _ _ _) hi, testBit_bitsOf, testBit_bitsOf,
    BitVec.testBit_toNat, BitVec.testBit_toNat, ← Nat.add_sub_assoc (by omega)]
  by_cases h : i < 8 * 2 ^ size.toNat
  · simp [h]
  · simp [h, hn]

/-- LDV delivers the row that the view returns. -/
theorem exec_ldv (f : LLd) {s : State} {row : Row} (hf : s.rowFault (s.rdS f.sx + s.rdS f.sy).toNat = none)
    (hrow : RowAt s (f.view == 1#1) ((s.rdS f.sx + s.rdS f.sy).toNat / 256) row)
    (he : NoEngine s f.ma (physRow (f.view == 1#1) ((s.rdS f.sx + s.rdS f.sy).toNat / 256)))
    (hp : s.pl.pushFault (16 * f.cl.toNat + f.q.toNat) 1 [] = none) :
    exec (.ldv f) s = .next
      ((s.owe f.ar).2.result 5 6 (.vq (16 * f.cl.toNat + f.q.toNat)) row (rowTag row) 7 0#5 (s.owe f.ar).1) := by
  refine exec_of_guarded (by show execLdv f s = _; unfold execLdv; rfl)
    (List.forall_mem_cons.2 ⟨hf, List.forall_mem_singleton.2 hp⟩) ?_
  rw [State.drainBank_idle he, State.loadRowL_rowAt hrow]
  rfl

/-- LDS delivers an element of the row that the view returns, extended to a word. -/
theorem exec_lds (f : LEl) {s : State} {row : Row} (hf : s.rowFault (s.rdS f.sx).toNat = none)
    (hrow : RowAt s (f.view == 1#1) ((s.rdS f.sx).toNat / 256) row)
    (he : NoEngine s f.ma (physRow (f.view == 1#1) ((s.rdS f.sx).toNat / 256))) :
    exec (.lds f) s = .next ((s.owe f.ar).2.resultS 5 6 f.sy (elemOfRow row (s.rdS f.sx).toNat f.size f.sgn) (s.owe f.ar).1) := by
  refine exec_of_guarded (by show execLds f s = _; unfold execLds; rfl) (List.forall_mem_singleton.2 hf) ?_
  rw [State.drainBank_idle he, State.loadRowL_rowAt hrow]
  rfl

/-- Settles O35: the row is delivered as its view returns it, and an element's bits are the row's. -/
theorem scratchpadLoads : Obligations.ScratchpadLoads := by
  refine ⟨?_, ?_⟩
  · intro f s row ea swz q hf hrow he hp
    have hexec := exec_ldv f hf hrow he hp
    rw [State.owe_result] at hexec
    exact ⟨_, _, ⟨hexec, rfl⟩, rfl, ⟨rfl, rfl, rfl, rfl⟩, rfl, rfl, rfl, rfl⟩
  · intro f s row ea swz n off hf hrow he
    exact ⟨_, scalar_of_resultS (exec_lds f hf hrow he), fun i hi => getLsbD_elemOfRow row ea f.size f.sgn hi⟩

end Sys2Proof.Machine
end

section
/-!
PROOFS. Slots of the focused core: what the operations on a slot's rows, sums, entry and place on the dirty list move (R272,
R281, R284, R294, R319).
-/

namespace Sys2Proof.Machine

open Sys2Proof Sys2Proof.Claim

/-! ### The focused core -/

/-- A change to the focused core that keeps its number. -/
theorem State.modCore_focus (s : State) (f : Core → Core) (hf : (f s.co).id = s.co.id) :
    s.modCore s.co.id f = { s with co := f s.co } := by
  unfold State.modCore
  rw [State.box_focus]
  have hid : ({ f s.co with id := s.co.id } : Core) = f s.co := by rw [← hf]
  simp only [hid, State.setBox, if_true]

/-- Another executing plane leaves the cores. -/
theorem State.core_withPl (s : State) (p : Plane) (c : Nat) : ({ s with pl := p } : State).core c = s.core c := by
  unfold State.core State.box
  dsimp only
  split <;> rfl

/-! ### Resolution depends on the cores and the device (R274) -/

/-- The tile that a reference names depends on the cores and the device. -/
theorem State.refLoc_congr {s u : State} (hc : u.core = s.core) (hd : u.dv = s.dv) (sp : Nat) (r : Word) :
    u.refLoc sp r = s.refLoc sp r := by
  unfold State.refLoc State.slotLoc
  rw [hc, hd]

/-- A tile's entry depends on the cores and the device. -/
theorem State.entry_congr {s u : State} (hc : u.core = s.core) (hd : u.dv = s.dv) (l : TLoc) : u.entry l = s.entry l := by
  unfold State.entry
  rw [hc, hd]

/-- What an entry resolves to depends on the cores and the device. -/
theorem State.chain_congr {s u : State} (hc : u.core = s.core) (hd : u.dv = s.dv) (n : Nat) (l : TLoc) (w0 w1 : Word) (b : Bool) :
    u.chain n l w0 w1 b = s.chain n l w0 w1 b := by
  induction n generalizing l w0 w1 b with
  | zero => rfl
  | succ n ih =>
    unfold State.chain
    simp only [State.refLoc_congr hc hd, State.entry_congr hc hd, ih]

/-- What a row's slot resolves to in a state with another executing plane of the same space. -/
theorem slotTerm_withPl (s : State) (p : Plane) (hp : p.space = s.pl.space) (q : Nat) :
    slotTerm { s with pl := p } q = slotTerm s q := by
  have hc : ({ s with pl := p } : State).core = s.core := funext (s.core_withPl p)
  unfold slotTerm State.resolve
  rw [State.entry_congr hc rfl, State.chain_congr hc rfl]
  unfold State.slotLoc
  rw [hc]
  dsimp only
  rw [hp]

/-- A row of what an entry resolves to, in a state with another executing plane. -/
theorem State.termRow_withPl (s : State) (p : Plane) (t : Term) (i : Nat) :
    ({ s with pl := p } : State).termRow t i = s.termRow t i := by
  unfold State.termRow
  simp only [State.core_withPl]

/-! ### Rows (R319) -/

/-- The record of a row's views. -/
def Core.record (c : Core) (p : Nat) : RowView := SMap.get viewReset c.views p

/-- A view depends on the row's record and the row at its port. -/
theorem Core.viewRow_congr {c d : Core} {p : Nat} (hr : c.portRow p = d.portRow p) (hv : c.record p = d.record p) (b : Bool) :
    c.viewRow b p = d.viewRow b p := by
  unfold Core.viewRow
  unfold Core.record at hv
  rw [hr, hv]

/-- A core whose rows and records are those of another, but for the rows that meet a test. -/
def Core.SameRows (c d : Core) (t : Nat → Prop) : Prop :=
  ∀ p, ¬ t p → c.portRow p = d.portRow p ∧ c.record p = d.record p

/-- A row replaced for both views. -/
theorem Core.portRow_setRow (c : Core) (p : Nat) (r : Row) (q : Nat) :
    (c.setRow p r).portRow q = if q = p then r else c.portRow q :=
  SMap.get_set _ _ _ _ _

/-- The records after a row replaced for both views. -/
theorem Core.record_setRow (c : Core) (p : Nat) (r : Row) (q : Nat) :
    (c.setRow p r).record q = if q = p then viewReset else c.record q :=
  SMap.get_set _ _ _ _ _

/-- A row written through a view. -/
theorem Core.portRow_writeRow (c : Core) (swz : Bool) (p : Nat) (r : Row) (q : Nat) :
    (c.writeRow swz p r).portRow q = if q = p then r else c.portRow q :=
  SMap.get_set _ _ _ _ _

/-- The records of other rows after a row written through a view. -/
theorem Core.record_writeRow_other (c : Core) (swz : Bool) (p : Nat) (r : Row) {q : Nat} (h : q ≠ p) :
    (c.writeRow swz p r).record q = c.record q :=
  (SMap.get_set _ _ _ _ _).trans (if_neg h)

/-- A view that has seen the last write of a record returns the row at its port. -/
theorem Core.viewRow_of_record {c : Core} {swz : Bool} {p i j : Nat} {l : List Row} {r : Row}
    (hrec : c.record p = RowView.trim ⟨l ++ [r], i, j⟩) (hseen : (if swz then j else i) = l.length) (hport : c.portRow p = r) :
    c.viewRow swz p = r := by
  unfold Core.record at hrec
  unfold Core.viewRow
  rw [hrec]
  by_cases h : i + 1 = (l ++ [r]).length ∧ j + 1 = (l ++ [r]).length
  · have htrim : RowView.trim ⟨l ++ [r], i, j⟩ = viewReset := if_pos h
    simpa [htrim, viewReset] using hport
  · have htrim : RowView.trim ⟨l ++ [r], i, j⟩ = ⟨l ++ [r], i, j⟩ := if_neg h
    simp [htrim, hseen]

/-- A row written through a view is what the view returns at once. -/
theorem Core.viewRow_writeRow (c : Core) (swz : Bool) (p : Nat) (r : Row) : (c.writeRow swz p r).viewRow swz p = r := by
  have hrec : (c.writeRow swz p r).record p = _ := (SMap.get_set _ _ _ _ _).trans (if_pos rfl)
  refine Core.viewRow_of_record hrec ?_ ((c.portRow_writeRow swz p r p).trans (if_pos rfl))
  cases swz <;> simp

/-- Rows of a run replaced for both views. -/
theorem Core.portRow_setRows (g : Nat → Row) (b : Nat) (l : List Nat) (c : Core) (q : Nat) :
    (l.foldl (fun c r => c.setRow (b + r) (g r)) c).portRow (b + q) = if q ∈ l then g q else c.portRow (b + q) := by
  induction l generalizing c with
  | nil => rfl
  | cons r t ih =>
    rw [List.foldl_cons, ih, Core.portRow_setRow]
    by_cases hq : q = r
    · subst hq; simp
    · by_cases ht : q ∈ t <;> simp [hq, ht]

/-- Rows outside a run that is replaced. -/
theorem Core.sameRows_setRows (g : Nat → Row) (b : Nat) (l : List Nat) (c : Core) :
    (l.foldl (fun c r => c.setRow (b + r) (g r)) c).SameRows c fun p => ∃ r ∈ l, p = b + r := by
  induction l generalizing c with
  | nil => exact fun p _ => ⟨rfl, rfl⟩
  | cons r t ih =>
    intro p hp
    have hne : p ≠ b + r := fun h => hp ⟨r, List.mem_cons_self, h⟩
    obtain ⟨h1, h2⟩ := ih (c.setRow (b + r) (g r)) p fun ⟨x, hx, h⟩ => hp ⟨x, List.mem_cons_of_mem _ hx, h⟩
    rw [List.foldl_cons, h1, h2, Core.portRow_setRow, Core.record_setRow, if_neg hne, if_neg hne]
    exact ⟨rfl, rfl⟩

/-- Rows replaced move the rows and their records alone. -/
theorem Core.setRows_eq (g : Nat → Row) (b : Nat) (l : List Nat) (c : Core) :
    l.foldl (fun c r => c.setRow (b + r) (g r)) c =
      { c with spad := (l.foldl (fun c r => c.setRow (b + r) (g r)) c).spad,
               views := (l.foldl (fun c r => c.setRow (b + r) (g r)) c).views } := by
  induction l generalizing c with
  | nil => rfl
  | cons r t ih => rw [List.foldl_cons, ih]; rfl

/-! ### Entries and sums -/

/-- A slot after one is replaced. -/
theorem Core.slot_setSlot (c : Core) (k : Nat) (x : Slot) (j : Nat) : (c.setSlot k x).slot j = if j = k then x else c.slot j :=
  SMap.get_set _ _ _ _ _

/-- The kind of an entry made of fields. -/
theorem entKind_mkEnt {kind : Nat} (hk : kind < 8) (nf pr : Bool) (pgen : Nat) (d : Bool) (fmt frame : Nat) :
    entKind (mkEnt kind nf pr pgen d fmt frame) = kind := by
  have hb : ∀ b : Bool, b2n b ≤ 1 := by decide
  have := hb nf; have := hb pr; have := hb d
  simp only [entKind, mkEnt, bitsOf, BitVec.toNat_ofNat, Nat.shiftRight_eq_div_pow, Nat.shiftLeft_eq]
  omega

/-- The format of an entry made of fields. -/
theorem entFmt_mkEnt {fmt : Nat} (hf : fmt < 16) (kind : Nat) (nf pr : Bool) (pgen : Nat) (d : Bool) (frame : Nat) :
    entFmt (mkEnt kind nf pr pgen d fmt frame) = fmt := by
  simp only [entFmt, mkEnt, bitsOf, BitVec.toNat_ofNat, Nat.shiftRight_eq_div_pow, Nat.shiftLeft_eq]
  omega

/-- A bit of an entry set leaves the fields that do not hold it. -/
theorem bitsOf_entPut (w : Word) {lo a n : Nat} (v : Nat) (h : lo < a ∨ a + n ≤ lo) :
    bitsOf (entPut w lo 1 v).toNat a n = bitsOf w.toNat a n := by
  refine Nat.eq_of_testBit_eq fun i => ?_
  rw [testBit_bitsOf, testBit_bitsOf, entPut, BitVec.toNat_ofNat, Nat.testBit_mod_two_pow, testBit_bitsPut]
  by_cases hi : i < n
  · rw [if_neg (by omega)]
    by_cases hlt : a + i < 64
    · simp [hlt]
    · simp [hlt, Nat.testBit_lt_two_pow (Nat.lt_of_lt_of_le w.isLt (Nat.pow_le_pow_right (by decide) (Nat.le_of_not_lt hlt)))]
  · simp [hi]

/-- A row sum of a sidecar made of row and column sums (R292). -/
theorem sideRow_mkSide (rows cols : List Nat) (hl : rows.length = 256) {r : Nat} (hr : r < 256) :
    sideRow (mkSide rows cols) r = rows.getD r 0 % 2 ^ 24 := by
  refine Nat.eq_of_testBit_eq fun i => ?_
  have hlt := packs_lt 32 (rows.map (· % 2 ^ 24))
  rw [List.length_map, hl, show 32 * 256 = 8192 from rfl] at hlt
  rw [sideRow, testBit_bitsOf, BitVec.testBit_toNat, mkSide, BitVec.getLsbD_ofNat, Nat.testBit_mod_two_pow]
  by_cases hi : i < 24
  · rw [Nat.shiftLeft_eq, Nat.mul_comm _ (2 ^ 8192), Nat.add_comm (packs _ _), Nat.testBit_two_pow_mul_add _ hlt,
      if_pos (by omega), testBit_packs (by decide),
      show (32 * r + i) / 32 = r by omega, show (32 * r + i) % 32 = i by omega]
    rw [List.getD_eq_getElem _ _ (by simpa [hl] using hr), List.getD_eq_getElem _ _ (by rwa [hl]),
      List.getElem_map, Nat.testBit_mod_two_pow]
    simp [hi, show 32 * r + i < 16384 by omega]
  · simp [hi]

end Sys2Proof.Machine
end

section
/-!
PROOFS. A slot readied for a store (R114, R278, R284, R294): its rows become STORED with sums that agree, and nothing else of
the scratchpad moves.
-/

namespace Sys2Proof.Machine

open Sys2Proof Sys2Proof.Claim

/-! ### What a store to a slot may move -/

/-- `u` differs from `s` in the rows, records, sums and slots of the focused core, in the dirty lists and in the merges that wait,
and in nothing else. -/
def State.OnSlots (s u : State) : Prop :=
  u = { s with co := { s.co with spad := u.co.spad, views := u.co.views, ssum := u.co.ssum, slots := u.co.slots },
               dv := { s.dv with dirty := u.dv.dirty, luxQ := u.dv.luxQ } }

theorem State.OnSlots.refl (s : State) : s.OnSlots s := rfl

theorem State.OnSlots.trans {s t u : State} (h : s.OnSlots t) (h' : t.OnSlots u) : s.OnSlots u := by
  unfold State.OnSlots at h h' ⊢
  rw [h] at h'
  exact h'

/-- Slot `k` of the focused core of `u` is STORED in its format with the rows `g`, and nothing moved from `s` but that
slot, the dirty lists and the merges that wait. -/
structure State.SlotHolds (s u : State) (k : Nat) (g : Nat → Row) : Prop where
  frame : s.OnSlots u
  stored : entKind (u.co.slot k).w0 = 1
  fmt : entFmt (u.co.slot k).w0 = entFmt (s.co.slot k).w0
  slots : ∀ j, j ≠ k → u.co.slot j = s.co.slot j
  rows : ∀ r < 256, u.co.portRow (256 * k + r) = g r
  others : u.co.SameRows s.co fun p => p / 256 = k

/-- Such a change leaves the core's number. -/
theorem State.OnSlots.id {s u : State} (h : s.OnSlots u) : u.co.id = s.co.id := by rw [h]

/-- Such a change leaves the executing plane. -/
theorem State.OnSlots.pl {s u : State} (h : s.OnSlots u) : u.pl = s.pl := by rw [h]

section
variable {s : State} {l : TLoc} (hs : l.isSlot = true) (hc : l.c = s.co.id)
include hs hc

/-- A slot's entry. -/
theorem State.entry_slot : s.entry l = ((s.co.slot l.k).w0, (s.co.slot l.k).w1) := by
  simp [State.entry, hs, hc]

/-- A slot's entry replaced. -/
theorem State.setEntry_slot (w0 w1 : Word) :
    s.setEntry l w0 w1 = { s with co := s.co.setSlot l.k { s.co.slot l.k with w0 := w0, w1 := w1 } } := by
  rw [State.setEntry, if_pos hs, hc, State.modCore_focus _ _ rfl]

end

/-- A slot's sidecar replaced. -/
theorem State.setSide_slot (s : State) (k : Nat) (x : BitVec 16384) :
    s.setSide (.slot s.co.id k) x = { s with co := { s.co with ssum := SMap.set 0#16384 s.co.ssum k x } } :=
  s.modCore_focus (fun co => { co with ssum := SMap.set 0#16384 co.ssum k x }) rfl

/-- The dirty lists with a tile put last on its die's (R284). -/
def Dev.listLast (d : Dev) (l : TLoc) (lid rank : Nat) : Vector (List Dirty) 2 :=
  let kept := vput d.dirty l.die ((vget d.dirty l.die []).filter fun x => !(x.ref == l.ref && (l.isSlot || x.sp == l.sp)))
  vput kept l.die (vget kept l.die [] ++ [⟨l.sp, l.ref, [(lid, rank)]⟩])

/-- A tile put last lengthens its die's list by one at most. -/
theorem Dev.length_listLast (d : Dev) (l : TLoc) (lid rank : Nat) :
    (vget (d.listLast l lid rank) l.die []).length ≤ (vget d.dirty l.die []).length + 1 := by
  simp only [Dev.listLast, vget_vput, true_and]
  split
  · simpa using List.length_filter_le _ _
  · omega

/-- A tile listed as dirty on a list with room is put last, and nothing is settled (R284). -/
theorem State.listDirty_room {s : State} {l : TLoc} (lid rank : Nat)
    (h : (vget s.dv.dirty l.die []).length + 1 < Config.dirtyCap) :
    s.listDirty l lid rank = { s with dv := { s.dv with dirty := s.dv.listLast l lid rank } } := by
  have hlen := s.dv.length_listLast l lid rank
  unfold State.listDirty
  dsimp only
  split
  · rfl
  · rename_i x t ht
    have hlt : (vget (s.dv.listLast l lid rank) l.die []).length = t.length + 1 := congrArg List.length ht
    rw [if_pos (by omega)]
    rfl

/-- A later write to a listed tile moves the dirty lists alone (R284). -/
theorem State.tagDirty_eq (s : State) (l : TLoc) (lid rank : Nat) :
    s.tagDirty l lid rank = { s with dv := { s.dv with dirty := (s.tagDirty l lid rank).dv.dirty } } := rfl

/-! ### Promotion (R278) -/

/-- The rows of a slot replaced by those of a tile: 256 rows, for both views. -/
def Core.fillSlot (c : Core) (k : Nat) (g : Nat → Row) : Core := (upTo 0 256).foldl (fun c r => c.setRow (256 * k + r) (g r)) c

/-- A slot filled holds the rows. -/
theorem Core.portRow_fillSlot (c : Core) (k : Nat) (g : Nat → Row) {r : Nat} (hr : r < 256) :
    (c.fillSlot k g).portRow (256 * k + r) = g r := by
  rw [Core.fillSlot, Core.portRow_setRows, if_pos (by simpa using hr)]

/-- A slot filled leaves the rows of every other. -/
theorem Core.sameRows_fillSlot (c : Core) (k : Nat) (g : Nat → Row) : (c.fillSlot k g).SameRows c fun p => p / 256 = k := by
  intro p hp
  refine Core.sameRows_setRows g (256 * k) (upTo 0 256) c p ?_
  rintro ⟨r, hr, rfl⟩
  rw [mem_upTo] at hr
  exact hp (by omega)

/-- A slot filled moves rows and their records alone. -/
theorem Core.fillSlot_eq (c : Core) (k : Nat) (g : Nat → Row) :
    c.fillSlot k g = { c with spad := (c.fillSlot k g).spad, views := (c.fillSlot k g).views } :=
  Core.setRows_eq g (256 * k) (upTo 0 256) c

/-- A slot filled leaves the core's number, the sums and the entries. -/
theorem Core.fillSlot_rest (c : Core) (k : Nat) (g : Nat → Row) :
    (c.fillSlot k g).id = c.id ∧ (c.fillSlot k g).ssum = c.ssum ∧ (c.fillSlot k g).slots = c.slots := by
  rw [Core.fillSlot_eq]
  exact ⟨rfl, rfl, rfl⟩

/-- A core with a slot promoted: its rows, its sidecar and the two words of its entry. -/
def Core.promoted (c : Core) (k : Nat) (g : Nat → Row) (side : BitVec 16384) (w0 w1 : Word) : Core :=
  let filled : Core := { c.fillSlot k g with ssum := SMap.set 0#16384 c.ssum k side }
  filled.setSlot k { c.slot k with w0 := w0, w1 := w1 }

/-- Rows set from a list of pairs, by their numbers. -/
theorem Core.foldl_zip_setRow (g : Nat → Row) (b : Nat) (l : List Nat) (c : Core) :
    (l.zip (l.map g)).foldl (fun c p => c.setRow (b + p.1) p.2) c = l.foldl (fun c r => c.setRow (b + r) (g r)) c := by
  rw [← List.map_prod_left_eq_zip, List.foldl_map]

/-- A tile's rows written into a slot one after another fill it. -/
theorem Core.foldl_termRows (s : State) (t : Term) (c : Core) (k : Nat) :
    ((upTo 0 256).zip (s.termRows t)).foldl (fun c p => c.setRow (256 * k + p.1) p.2) c = c.fillSlot k (s.termRow t) := by
  unfold State.termRows Core.fillSlot
  exact Core.foldl_zip_setRow _ _ _ _

/-- The sums and the entry of a slot replaced on a core of the same number, sums and entries. -/
theorem State.setSide_setEntry {s : State} {l : TLoc} {d : Core} (hs : l.isSlot = true) (hc : l.c = s.co.id)
    (hid : d.id = s.co.id) (hsum : d.ssum = s.co.ssum) (hslots : d.slots = s.co.slots) (side : BitVec 16384) (w0 w1 : Word) :
    (State.setSide { s with co := d } (.slot s.co.id l.k) side).setEntry l w0 w1 =
      { s with co := Core.setSlot { d with ssum := SMap.set 0#16384 s.co.ssum l.k side } l.k
                       { s.co.slot l.k with w0 := w0, w1 := w1 } } := by
  have hside := State.setSide_slot { s with co := d } l.k side
  rw [hid] at hside
  rw [hside, State.setEntry_slot hs (hc.trans hid.symm), ← hsum]
  simp only [Core.slot, hslots]

/-- The steps of a promotion on the focused core: the rows, the sums and the entry. -/
theorem State.promote_core {s : State} {l : TLoc} (hs : l.isSlot = true) (hc : l.c = s.co.id) (t : Term) (side : BitVec 16384)
    (w0 w1 : Word) :
    ((s.modCore l.c fun c => ((upTo 0 256).zip (s.termRows t)).foldl (fun c p => c.setRow (256 * l.k + p.1) p.2) c).setSide
      (.slot l.c l.k) side).setEntry l w0 w1 = { s with co := s.co.promoted l.k (s.termRow t) side w0 w1 } := by
  obtain ⟨hid, hsum, hslots⟩ := s.co.fillSlot_rest l.k (s.termRow t)
  simp only [Core.foldl_termRows]
  rw [hc, s.modCore_focus (fun c => c.fillSlot l.k (s.termRow t)) hid]
  exact State.setSide_setEntry hs hc hid hsum hslots side w0 w1

/-- A symbolic slot's promotion: its rows filled, its sums computed, its entry STORED in its format, and the slot listed. -/
theorem State.promoteInto_slot {s : State} {l : TLoc} (lid rank : Nat) (hs : l.isSlot = true) (hc : l.c = s.co.id)
    (ht : ∀ r, s.resolve l ≠ .bad r) : ∃ nf pr pgen w1, s.promoteInto l lid rank none = .ok (.slot l.c l.k,
      let w0 := mkEnt 1 nf pr pgen true (entFmt (s.co.slot l.k).w0) (slotFrame l.c l.k)
      let side := tileSums l.fmt (s.termRows (s.resolve l))
      State.listDirty { s with co := s.co.promoted l.k (s.termRow (s.resolve l)) side w0 w1 } l lid rank) := by
  unfold State.promoteInto
  rw [State.entry_slot hs hc]
  cases hres : s.resolve l with
  | bad r => exact absurd hres (ht r)
  | stored b c k fr nf =>
    simp only [hs, if_true, State.promote_core hs hc]
    exact ⟨_, _, _, _, rfl⟩
  | sym w0 w1 fmt =>
    simp only [hs, if_true, State.promote_core hs hc]
    exact ⟨_, _, _, _, rfl⟩

/-! ### What a promoted slot holds -/

/-- Whether a row of a slot of the focused core disagrees with its sum. -/
theorem State.rowBad_slot (s : State) (k fmt r : Nat) : s.rowBad (.slot s.co.id k) fmt r =
    decide (rowSum fmt (s.co.portRow (256 * k + r)) ≠ sideRow (SMap.get 0#16384 s.co.ssum k) r) := by
  simp only [State.rowBad, State.storeRow, State.side, State.core_focus]

/-- A row whose sum stands in its slot's sidecar agrees with it. -/
theorem State.rowBad_of_sums {s : State} {c k fmt r : Nat} (hc : s.co.id = c)
    (h : sideRow (SMap.get 0#16384 s.co.ssum k) r = rowSum fmt (s.co.portRow (256 * k + r))) :
    s.rowBad (.slot c k) fmt r = false := by
  rw [← hc, State.rowBad_slot, h]
  simp

/-- A promotion moves the rows, records, sums and slots of a core, and nothing else. -/
theorem Core.promoted_eq (c : Core) (k : Nat) (g : Nat → Row) (side : BitVec 16384) (w0 w1 : Word) :
    c.promoted k g side w0 w1 = { c with spad := (c.promoted k g side w0 w1).spad, views := (c.promoted k g side w0 w1).views,
                                         ssum := (c.promoted k g side w0 w1).ssum, slots := (c.promoted k g side w0 w1).slots } := by
  have h := c.fillSlot_eq k g
  unfold Core.promoted
  generalize c.fillSlot k g = d at h ⊢
  rw [h]
  rfl

/-- The rows of a core with a slot promoted are those of the slot filled. -/
theorem Core.portRow_promoted (c : Core) (k : Nat) (g : Nat → Row) (side : BitVec 16384) (w0 w1 : Word) (q : Nat) :
    (c.promoted k g side w0 w1).portRow q = (c.fillSlot k g).portRow q ∧
    (c.promoted k g side w0 w1).record q = (c.fillSlot k g).record q := by
  unfold Core.promoted
  generalize c.fillSlot k g = d
  exact ⟨rfl, rfl⟩

/-- The slots of a core with one promoted. -/
theorem Core.slot_promoted (c : Core) (k : Nat) (g : Nat → Row) (side : BitVec 16384) (w0 w1 : Word) (j : Nat) :
    (c.promoted k g side w0 w1).slot j = if j = k then { c.slot k with w0 := w0, w1 := w1 } else c.slot j := by
  obtain ⟨-, -, hslots⟩ := c.fillSlot_rest k g
  unfold Core.promoted
  generalize c.fillSlot k g = d at hslots ⊢
  rw [Core.slot_setSlot]
  simp only [Core.slot, hslots]

/-- The sidecar of a slot promoted. -/
theorem Core.ssum_promoted (c : Core) (k : Nat) (g : Nat → Row) (side : BitVec 16384) (w0 w1 : Word) :
    SMap.get 0#16384 (c.promoted k g side w0 w1).ssum k = side := by
  unfold Core.promoted
  generalize c.fillSlot k g = d
  exact (SMap.get_set _ _ _ _ _).trans (if_pos rfl)

/-- An element of a list made from consecutive numbers. -/
theorem getD_map_upTo (f : Nat → Nat) {n r : Nat} (hr : r < n) : ((upTo 0 n).map f).getD r 0 = f r := by
  rw [upTo_eq, List.getD_eq_getElem _ _ (by simpa using hr)]
  simp

/-- The row sums of a tile's own sums are those of its rows (R292). -/
theorem sideRow_tileSums (s : State) (t : Term) (fmt : Nat) {r : Nat} (hr : r < 256) :
    sideRow (tileSums fmt (s.termRows t)) r = rowSum fmt (s.termRow t r) := by
  rw [tileSums, sideRow_mkSide _ _ (by simp only [List.length_map, State.termRows, length_upTo]) hr, State.termRows, List.map_map,
    getD_map_upTo _ hr]
  exact Nat.mod_mod _ _

/-- A slot belongs to no tensor under offload (R356). -/
theorem State.cancelOffload_slot (s : State) {l : TLoc} (hs : l.isSlot = true) : s.cancelOffload l = s := by
  simp [State.cancelOffload, hs]

/-- A slot whose entry is STORED is ready as it stands. -/
theorem State.readyWrite_stored {s : State} {l : TLoc} (lid rank : Nat) (hs : l.isSlot = true) (hc : l.c = s.co.id)
    (hk : entKind (s.co.slot l.k).w0 = 1) : s.readyWrite l lid rank = .ok (.slot l.c l.k, s) := by
  simp [State.readyWrite, State.readyWith, s.cancelOffload_slot hs, State.entry_slot hs hc, hk, storeOf, hs, State.giveBack]

/-- A slot whose entry is not STORED is promoted. -/
theorem State.readyWrite_promotes {s : State} {l : TLoc} (lid rank : Nat) (hs : l.isSlot = true) (hc : l.c = s.co.id)
    (hk : entKind (s.co.slot l.k).w0 ≠ 1) : s.readyWrite l lid rank = s.promoteInto l lid rank none := by
  simp [State.readyWrite, State.readyWith, s.cancelOffload_slot hs, State.entry_slot hs hc, hk]

/-- A state whose slot is promoted, before it is listed as dirty. -/
theorem State.slotHolds_promoted {s : State} {k : Nat} {g : Nat → Row} {side : BitVec 16384} {w0 w1 : Word}
    {d : Vector (List Dirty) 2} (hk : entKind w0 = 1) (hf : entFmt w0 = entFmt (s.co.slot k).w0) :
    s.SlotHolds { s with co := s.co.promoted k g side w0 w1, dv := { s.dv with dirty := d } } k g where
  frame := by
    unfold State.OnSlots
    rw [Core.promoted_eq]
  stored := by
    rw [Core.slot_promoted, if_pos rfl]
    exact hk
  fmt := by
    rw [Core.slot_promoted, if_pos rfl]
    exact hf
  slots j hj := by rw [Core.slot_promoted, if_neg hj]
  rows r hr := ((s.co.portRow_promoted k g side w0 w1 _).1).trans (s.co.portRow_fillSlot k g hr)
  others q hq := by
    obtain ⟨hport, hrec⟩ := s.co.portRow_promoted k g side w0 w1 q
    rw [hport, hrec]
    exact s.co.sameRows_fillSlot k g q hq

/-- A symbolic slot readied for a store is STORED with the rows that its entry stood for, its sums agree, and the die's list grows by
one at most. -/
theorem State.readyWrite_symbolic {s : State} {l : TLoc} (lid rank r : Nat) (hs : l.isSlot = true) (hc : l.c = s.co.id)
    (hfmt : l.fmt = entFmt (s.co.slot l.k).w0) (hk : entKind (s.co.slot l.k).w0 ≠ 1) (hres : ∀ r, s.resolve l ≠ .bad r)
    (hroom : (vget s.dv.dirty (dieOf s.co.id) []).length + 1 < Config.dirtyCap) (hr : r < 256) :
    ∃ s1, s.readyWrite l lid rank = .ok (.slot l.c l.k, s1) ∧ s.SlotHolds s1 l.k (s.termRow (s.resolve l)) ∧
      s1.rowBad (.slot s.co.id l.k) (entFmt (s1.co.slot l.k).w0) r = false ∧
      (vget s1.dv.dirty (dieOf s.co.id) []).length ≤ (vget s.dv.dirty (dieOf s.co.id) []).length + 1 := by
  have hdie : l.die = dieOf s.co.id := by rw [TLoc.die, if_pos hs, hc]
  obtain ⟨nf, pr, pgen, w1, hp⟩ := State.promoteInto_slot lid rank hs hc hres
  dsimp only at hp
  rw [← hdie] at hroom ⊢
  rw [← State.readyWrite_promotes lid rank hs hc hk, State.listDirty_room _ _ (by exact hroom)] at hp
  have hholds := State.slotHolds_promoted (s := s) (k := l.k) (g := s.termRow (s.resolve l))
    (side := tileSums l.fmt (s.termRows (s.resolve l))) (w1 := w1) (d := s.dv.listLast l lid rank)
    (entKind_mkEnt (kind := 1) (by decide) nf pr pgen true (entFmt (s.co.slot l.k).w0) (slotFrame l.c l.k))
    (entFmt_mkEnt (bitsOf_lt _ _ _) 1 nf pr pgen true (slotFrame l.c l.k))
  refine ⟨_, hp, hholds, ?_, Dev.length_listLast _ _ _ _⟩
  refine State.rowBad_of_sums hholds.frame.id ?_
  rw [hholds.rows r hr, Core.ssum_promoted, Core.slot_promoted, if_pos rfl, entFmt_mkEnt (bitsOf_lt _ _ _), ← hfmt,
    sideRow_tileSums _ _ _ hr]

/-- The slot of a row, readied for a store, is STORED with the rows that its entry stood for, its row's sum agrees, and the die's list
grows by one at most. -/
theorem State.readyWrite_slot {s : State} {p : Nat} (lid rank : Nat) (hw : Writable s p) (hres : ∀ r, slotTerm s p ≠ .bad r) :
    ∃ s1, s.readyWrite (s.slotLoc s.pl.space s.co.id (p / 256)) lid rank = .ok (.slot s.co.id (p / 256), s1) ∧
      s.SlotHolds s1 (p / 256) (s.termRow (slotTerm s p)) ∧
      s1.rowBad (.slot s.co.id (p / 256)) (entFmt (s1.co.slot (p / 256)).w0) (p % 256) = false ∧
      (vget s1.dv.dirty (dieOf s.co.id) []).length ≤ (vget s.dv.dirty (dieOf s.co.id) []).length + 1 := by
  obtain ⟨hsum, hroom⟩ := hw
  by_cases hk : entKind (s.co.slot (p / 256)).w0 = 1
  · have hterm := slotTerm_stored hk
    refine ⟨s, State.readyWrite_stored lid rank rfl rfl hk,
      ⟨.refl s, hk, rfl, fun _ _ => rfl, fun r _ => ?_, fun _ _ => ⟨rfl, rfl⟩⟩,
      hsum _ _ _ _ hterm hk, Nat.le_succ _⟩
    rw [hterm, State.termRow, State.core_focus]
  · have hfmt : (s.slotLoc s.pl.space s.co.id (p / 256)).fmt = entFmt (s.co.slot (p / 256)).w0 := by simp [State.slotLoc]
    exact State.readyWrite_symbolic (l := s.slotLoc s.pl.space s.co.id (p / 256)) lid rank (p % 256) rfl rfl hfmt hk hres
      (by omega) (Nat.mod_lt _ (by decide))

end Sys2Proof.Machine
end

section
/-!
PROOFS. O36: STV and STS (R114, R119, R120, R278, R284, R294, R301): a row of a slot written, its note in the slot's entry, and
the arrival.
-/

namespace Sys2Proof.Machine

open Sys2Proof Sys2Proof.Claim

/-! ### The note of a write (R281, R283, R284, R305, R342, R344) -/

/-- A write to a slot is listed or tags the list, which moves the dirty lists alone. -/
theorem State.noteDirty_slot {s : State} {l : TLoc} (lid rank : Nat) (was : Bool)
    (h : (vget s.dv.dirty l.die []).length + 1 < Config.dirtyCap) :
    ∃ d, s.noteDirty l lid rank was = { s with dv := { s.dv with dirty := d } } := by
  unfold State.noteDirty
  cases was with
  | true => exact ⟨_, rfl⟩
  | false => exact ⟨_, State.listDirty_room lid rank h⟩

/-- A slot has no pair: a write moves no generation (R343). -/
theorem State.bumpOnce_slot (s : State) {l : TLoc} (hs : l.isSlot = true) : s.bumpOnce l 0 = s := by
  simp [State.bumpOnce, State.bumpPair, State.pairOf, hs]

/-- A slot is no view's base: a write drops no cached tile (R342). -/
theorem State.dropViews_slot (s : State) {l : TLoc} (hs : l.isSlot = true) : s.dropViews l = s := by
  unfold State.dropViews State.modDev
  refine congrArg (fun v => ({ s with dv := { s.dv with vcache := v } } : State)) (List.filter_eq_self.2 fun v _ => ?_)
  split
  · simp [hs]
  · rfl

/-- A write's merge moves the merges that wait alone (R305). -/
theorem State.sendMerge_eq (s : State) (lux : Option (BitVec 16)) (lid rank fmt : Nat) (codes : List Nat) (store : Nat) :
    ∃ q, s.sendMerge lux lid rank fmt codes store = { s with dv := { s.dv with luxQ := q } } := by
  unfold State.sendMerge
  split
  · exact ⟨_, rfl⟩
  · split <;> exact ⟨_, rfl⟩

/-- A slot's entry set, when its first word changes, and left otherwise. -/
theorem State.setEntry_changed {s : State} {l : TLoc} (hs : l.isSlot = true) (hc : l.c = s.co.id) (w0 : Word) :
    ∃ c, (if w0 = (s.co.slot l.k).w0 then s else s.setEntry l w0 (s.co.slot l.k).w1) = { s with co := c } ∧
      (c = s.co ∨ c = s.co.setSlot l.k { s.co.slot l.k with w0 := w0 }) := by
  split
  · exact ⟨s.co, rfl, .inl rfl⟩
  · exact ⟨_, State.setEntry_slot hs hc _ _, .inr rfl⟩

/-- What the note of a write to a slot may move: its entry, the dirty lists and the merges that wait; the entry keeps its kind and
format. -/
theorem State.noteWrite_slot {s : State} {l : TLoc} {w : Wr} (new : Row) (mask : Nat) (hs : l.isSlot = true) (hc : l.c = s.co.id)
    (hid : w.id = 0) (hroom : (vget s.dv.dirty l.die []).length + 1 < Config.dirtyCap) :
    ∃ w0 c d q, s.noteWrite l w new mask = { s with co := c, dv := { s.dv with dirty := d, luxQ := q } } ∧
      entKind w0 = entKind (s.co.slot l.k).w0 ∧ entFmt w0 = entFmt (s.co.slot l.k).w0 ∧
      (c = s.co ∨ c = s.co.setSlot l.k { s.co.slot l.k with w0 := w0 }) := by
  unfold State.noteWrite
  simp only [s.cancelOffload_slot hs, State.entry_slot hs hc, hid]
  generalize hw0 : entPut (entPut (s.co.slot l.k).w0 60 1 _) 47 1 1 = w0
  have hkind : entKind w0 = entKind (s.co.slot l.k).w0 := by
    rw [← hw0, entKind, bitsOf_entPut _ _ (.inl (by decide)), bitsOf_entPut _ _ (.inl (by decide)), entKind]
  have hfmt : entFmt w0 = entFmt (s.co.slot l.k).w0 := by
    rw [← hw0, entFmt, bitsOf_entPut _ _ (.inr (by decide)), bitsOf_entPut _ _ (.inr (by decide)), entFmt]
  obtain ⟨c, hset, hcase⟩ := State.setEntry_changed hs hc w0
  obtain ⟨d, hd⟩ := State.noteDirty_slot (s := { s with co := c }) w.lid w.rank (entDirty (s.co.slot l.k).w0) hroom
  rw [hset, hd, State.bumpOnce_slot _ hs, ite_self, State.dropViews_slot _ hs]
  obtain ⟨q, hq⟩ := State.sendMerge_eq { s with co := c, dv := { s.dv with dirty := d } } l.lux w.lid w.rank l.fmt
    (codesIn l.fmt new mask) 0
  exact ⟨w0, c, d, q, hq, hkind, hfmt, hcase⟩

/-! ### A row of a STORED slot written (R294, R319) -/

/-- `u` holds `new` at row `p` of the focused core, in the view that wrote it too, and nothing else moved from `s` but the entry's
flags and the sums of the row's slot, the dirty lists and the merges that wait. -/
structure State.RowWritten (s u : State) (swz : Bool) (p : Nat) (new : Row) : Prop where
  frame : s.OnSlots u
  kind : entKind (u.co.slot (p / 256)).w0 = entKind (s.co.slot (p / 256)).w0
  fmt : entFmt (u.co.slot (p / 256)).w0 = entFmt (s.co.slot (p / 256)).w0
  slots : ∀ j, j ≠ p / 256 → u.co.slot j = s.co.slot j
  row : u.co.portRow p = new
  view : u.co.viewRow swz p = new
  others : u.co.SameRows s.co fun q => q = p

/-- A row written with its sum and its note. -/
theorem State.rowWritten_noted {s : State} {swz : Bool} {p : Nat} {new : Row} {x : SMap (BitVec 16384)} {c : Core} {w0 : Word}
    {d : Vector (List Dirty) 2} {q : List LuxReq} (hk : entKind w0 = entKind (s.co.slot (p / 256)).w0)
    (hf : entFmt w0 = entFmt (s.co.slot (p / 256)).w0)
    (hc : c = { s.co.writeRow swz p new with ssum := x } ∨
      c = Core.setSlot { s.co.writeRow swz p new with ssum := x } (p / 256) { s.co.slot (p / 256) with w0 := w0 }) :
    s.RowWritten { s with co := c, dv := { s.dv with dirty := d, luxQ := q } } swz p new := by
  have hport : ∀ r, (s.co.writeRow swz p new).portRow r = if r = p then new else s.co.portRow r := s.co.portRow_writeRow swz p new
  have hview := s.co.viewRow_writeRow swz p new
  have hother : ∀ r, r ≠ p → (s.co.writeRow swz p new).portRow r = s.co.portRow r ∧
      (s.co.writeRow swz p new).record r = s.co.record r := fun r hr =>
    ⟨(hport r).trans (if_neg hr), s.co.record_writeRow_other swz p new hr⟩
  rcases hc with rfl | rfl
  · exact ⟨rfl, rfl, rfl, fun _ _ => rfl, (hport p).trans (if_pos rfl), hview, hother⟩
  · refine ⟨rfl, ?_, ?_, fun j hj => (Core.slot_setSlot _ _ _ _).trans (if_neg hj), (hport p).trans (if_pos rfl), hview, hother⟩
    · dsimp only
      rw [Core.slot_setSlot, if_pos rfl]
      exact hk
    · dsimp only
      rw [Core.slot_setSlot, if_pos rfl]
      exact hf

/-- A row of a STORED slot whose sum agrees is written as a function of it gives, with no cause. -/
theorem State.writeBitsAt_slot {s : State} {l : TLoc} {w : Wr} {p : Nat} (lo hi mask : Nat) (f : Row → Row)
    (hs : l.isSlot = true) (hc : l.c = s.co.id) (hk : l.k = p / 256) (hid : w.id = 0)
    (hroom : (vget s.dv.dirty l.die []).length + 1 < Config.dirtyCap)
    (hclean : s.rowBad (.slot s.co.id (p / 256)) l.fmt (p % 256) = false) :
    ∃ u, s.writeBitsAt true (some l) (.slot s.co.id (p / 256)) w (p % 256) lo hi mask f = (none, u) ∧
      s.RowWritten u w.swz p (f (s.co.portRow p)) := by
  have hp : 256 * (p / 256) + p % 256 = p := Nat.div_add_mod p 256
  have hold : s.storeRow (.slot s.co.id (p / 256)) (p % 256) = s.co.portRow p := by
    rw [State.storeRow, State.core_focus, hp]
  unfold State.writeBitsAt State.checkRow
  simp only [Option.map_some, Option.getD_some, hclean, if_true, Bool.false_eq_true, if_false, hold, hp,
    Option.isSome_none, Option.map_none]
  rw [s.modCore_focus (fun c => c.writeRow w.swz p (f (s.co.portRow p))) rfl]
  generalize hside : deltaSide l.fmt _ _ _ _ = side
  have hset : State.setSide { s with co := s.co.writeRow w.swz p (f (s.co.portRow p)) } (.slot s.co.id (p / 256)) side =
      { s with co := { s.co.writeRow w.swz p (f (s.co.portRow p)) with ssum := SMap.set 0#16384 s.co.ssum (p / 256) side } } :=
    State.setSide_slot { s with co := s.co.writeRow w.swz p (f (s.co.portRow p)) } (p / 256) side
  rw [hset]
  obtain ⟨w0, c, d, q, hnote, hkind, hfmt, hcase⟩ := State.noteWrite_slot (w := w)
    (s := { s with co := { s.co.writeRow w.swz p (f (s.co.portRow p)) with ssum := SMap.set 0#16384 s.co.ssum (p / 256) side } })
    (f (s.co.portRow p)) mask hs hc hid hroom
  rw [hk] at hkind hfmt hcase
  exact ⟨_, congrArg _ hnote, State.rowWritten_noted hkind hfmt hcase⟩

/-- A row written in a slot readied for it: the slot holds the row and the other rows that it was readied with. -/
theorem State.SlotHolds.rowWritten {s t u : State} {swz : Bool} {p : Nat} {g : Nat → Row} {new : Row}
    (h : s.SlotHolds t (p / 256) g) (hu : t.RowWritten u swz p new) :
    s.SlotHolds u (p / 256) fun r => if r = p % 256 then new else g r where
  frame := h.frame.trans hu.frame
  stored := hu.kind.trans h.stored
  fmt := hu.fmt.trans h.fmt
  slots j hj := (hu.slots j hj).trans (h.slots j hj)
  rows r hr := by
    split
    · next hrp => rw [hrp, Nat.div_add_mod, hu.row]
    · next hrp => rw [(hu.others _ (by omega)).1, h.rows r hr]
  others q hq := by
    have hne : q ≠ p := fun hqp => hq (hqp ▸ rfl)
    obtain ⟨hport, hrec⟩ := hu.others q hne
    obtain ⟨hport', hrec'⟩ := h.others q hq
    exact ⟨hport.trans hport', hrec.trans hrec'⟩

/-- A store to a row of a slot that it may write leaves the slot STORED, with the row written, the others as the entry stood for them,
and no cause (R114, R278, R294). -/
theorem State.writeRowL_slot {s : State} {swz : Bool} {a p : Nat} {new : Row} (lo hi mask : Nat) (f : Row → Row)
    (hp : physRow swz a = p) (hw : Writable s p) (hres : ∀ r, slotTerm s p ≠ .bad r)
    (hnew : f (s.termRow (slotTerm s p) (p % 256)) = new) :
    ∃ u, s.writeRowL swz a lo hi mask f = (none, u) ∧ u.co.viewRow swz p = new ∧
      s.SlotHolds u (p / 256) fun r => if r = p % 256 then new else s.termRow (slotTerm s p) r := by
  obtain ⟨s1, hready, hholds, hclean, hlen⟩ := State.readyWrite_slot s.pl.lid s.pl.rank hw hres
  have hid : s1.co.id = s.co.id := hholds.frame.id
  have hrow : s1.co.portRow p = s.termRow (slotTerm s p) (p % 256) := by
    conv_lhs => rw [← Nat.div_add_mod p 256]
    exact hholds.rows _ (Nat.mod_lt _ (by decide))
  have hroom := hw.2
  rw [← hid] at hclean hready hroom hlen
  have hfmt : (s1.slotLoc s.pl.space s1.co.id (p / 256)).fmt = entFmt (s1.co.slot (p / 256)).w0 := by simp [State.slotLoc]
  obtain ⟨u, hwrite, hu⟩ := State.writeBitsAt_slot (l := s1.slotLoc s.pl.space s1.co.id (p / 256)) (w := s.lWr swz) lo hi mask f
    rfl rfl rfl rfl (show (vget s1.dv.dirty (dieOf s1.co.id) []).length + 1 < Config.dirtyCap by omega) (hfmt ▸ hclean)
  rw [hrow, hnew] at hu
  refine ⟨u, ?_, hu.view, hholds.rowWritten hu⟩
  unfold State.writeRowL
  simp only [hp]
  rw [← hid, hready]
  exact hwrite

/-! ### STV and STS (R119, R120) -/

/-- A view permutes the rows of a slot (R116). -/
theorem physRow_div (swz : Bool) (a : Nat) : physRow swz a / 256 = a / 256 := by
  unfold physRow
  rw [Nat.shiftRight_eq_div_pow]
  split <;> omega

/-- A row whose checks pass is in a slot whose entry resolves (R114). -/
theorem slotTerm_of_rowFault {s : State} {ea : Nat} (swz : Bool) (h : s.rowFault ea = none) (r : Nat) :
    slotTerm s (physRow swz (ea / 256)) ≠ .bad r := by
  intro hbad
  unfold slotTerm at hbad
  rw [physRow_div, show ea / 256 / 256 = ea / 65536 by omega] at hbad
  unfold State.rowFault at h
  split at h
  · exact absurd h (by simp)
  · dsimp only at h
    split at h
    · exact absurd h (by simp)
    · simp [hbad] at h

/-- What a slot readied and written leaves of the scratchpad and memory is what the statement says of a row store. -/
theorem stored_of_slotHolds {s u t : State} {swz : Bool} {p : Nat} {new : Row} (hview : u.co.viewRow swz p = new)
    (h : s.SlotHolds u (p / 256) fun r => if r = p % 256 then new else s.termRow (slotTerm s p) r) (hco : t.co = u.co)
    (hm : t.dv.mem = u.dv.mem) (hf : t.dv.far = u.dv.far) : Claim.Stored s t swz p new := by
  have hframe := h.frame
  unfold State.OnSlots at hframe
  refine ⟨?_, by rw [hco, hview], fun r hne hr => ?_, fun q hq => ?_, by rw [hm, hframe], by rw [hf, hframe]⟩
  · have hrow := h.rows (p % 256) (Nat.mod_lt _ (by decide))
    rwa [Nat.div_add_mod, if_pos rfl, ← hco] at hrow
  · rw [hco, h.rows r hr, if_neg hne]
  · obtain ⟨hport, hrec⟩ := h.others q hq
    rw [hco]
    exact ⟨hport, Core.viewRow_congr hport hrec⟩

/-- A plane that popped or peeked a source. -/
def Plane.popSource (p : Plane) (q : Nat) (pk : BitVec 1) : Plane :=
  { p with popped := p.popped ++ if pk = 1#1 then [] else [q] }

/-- A source popped or peeked moves the executing plane alone. -/
theorem State.popSrc_pl (s : State) (q : Nat) (pk : BitVec 1) : s.popSrc q pk = { s with pl := s.pl.popSource q pk } :=
  s.popSrc_eq q pk

/-- A row may be written in a state with another executing plane of the same space. -/
theorem writable_withPl {s : State} {p : Nat} (h : Writable s p) (pl : Plane) (hsp : pl.space = s.pl.space) :
    Writable { s with pl := pl } p := by
  obtain ⟨hsum, hroom⟩ := h
  refine ⟨fun c k f nf ht hk => ?_, hroom⟩
  rw [slotTerm_withPl s pl hsp] at ht
  have hclean := hsum c k f nf ht hk
  rw [State.rowBad_slot] at hclean
  rwa [show s.co.id = ({ s with pl := pl } : State).co.id from rfl, State.rowBad_slot]

/-- A row store from a state with another executing plane of the same space. -/
theorem stored_withPl {s t : State} {swz : Bool} {p : Nat} {new : Row} {pl : Plane}
    (h : Claim.Stored { s with pl := pl } t swz p new) (hsp : pl.space = s.pl.space) : Claim.Stored s t swz p new := by
  obtain ⟨hrow, hview, hrest⟩ := h
  simp only [slotTerm_withPl s pl hsp, State.termRow_withPl] at hrest
  exact ⟨hrow, hview, hrest⟩

/-- A write without a cause defers nothing. -/
theorem State.deferIf_none {r : Option Cause × State} {u : State} (h : r = (none, u)) : r.2.deferIf 5 1 r.1 = u := by
  rw [h]
  rfl

/-- An entry whose sum agrees with its tag is stored as its row's write leaves it (R301). -/
theorem State.storeEntry_eq {s u : State} {swz : Bool} {a lo hi mask : Nat} {e : Entry} {f : Row → Row}
    (htag : rowTag e.data = e.tag) (hwrite : s.writeRowL swz a lo hi mask f = (none, u)) :
    s.storeEntry swz a e lo hi mask f = u := by
  unfold State.storeEntry
  rw [if_pos htag]
  exact State.deferIf_none hwrite

/-- A store that left a slot's row written makes its arrival at once. -/
theorem arrives_of_stored {i : Instr} {s u : State} {pl : Plane} {ar : BitVec 2} {slot : Nat} {l : List (Option Cause)}
    {eff : State → State} (h : exec i s = s.guarded slot l eff) (hl : ∀ c ∈ l, c = none) (he : eff s = u.retireNow ar)
    (hu : State.OnSlots { s with pl := pl } u) (ho : pl.owes ar = s.pl.owes ar) : Arrives i s (u.retireNow ar) ar := by
  unfold State.OnSlots at hu
  exact arrives_of_guarded h hl he (by rw [hu]; exact ho) (by rw [hu]) (by rw [hu]) (by rw [hu])

/-- A row with the low bytes of a word at an element, as STS writes it (R120). -/
def putElem (v : Word) (off n : Nat) (row : Row) : Row := BitVec.ofNat 2048 (bitsPut row.toNat (8 * off) (8 * n) v.toNat)

/-- A bit of such a row: the word's within the element, the old row's outside. -/
theorem getLsbD_putElem (v : Word) (off n : Nat) (row : Row) {i : Nat} (hi : i < 2048) : (putElem v off n row).getLsbD i =
    if 8 * off ≤ i ∧ i < 8 * (off + n) then v.getLsbD (i - 8 * off) else row.getLsbD i := by
  rw [putElem, BitVec.getLsbD_ofNat, testBit_bitsPut, BitVec.testBit_toNat, BitVec.testBit_toNat, ← Nat.mul_add]
  simp [hi]

/-- Settles O36: the slot is readied, its row is written through the view, and the arrival is made. -/
theorem scratchpadStores : Obligations.ScratchpadStores := by
  refine ⟨?_, ?_⟩
  · intro f s ea swz p q e hf hw he hq htag
    have hres := slotTerm_of_rowFault swz hf
    obtain ⟨u, hwrite, hview, hu⟩ := State.writeRowL_slot (s := { s with pl := s.pl.popSource q f.pk }) (a := ea / 256) (p := p)
      0 256 (spanMask 0 256) (fun _ => e.data) rfl (writable_withPl hw _ rfl)
      (fun r => (slotTerm_withPl s (s.pl.popSource q f.pk) rfl p).trans_ne (hres r)) rfl
    refine ⟨u.retireNow f.ar, arrives_of_stored (l := [s.rowFault ea, s.srcFault q f.pk])
      (by show execStv f s = _; unfold execStv; rfl) ?_ ?_ hu.frame rfl, ?_, ?_⟩
    · exact List.forall_mem_cons.2 ⟨hf, List.forall_mem_singleton.2 ((Plane.popFault_none _ _ _).2 hq)⟩
    · rw [State.drainBank_idle he, State.popSrc_pl]
      exact congrArg (State.retireNow · f.ar) (State.storeEntry_eq htag hwrite)
    · rw [State.retireNow_eq]
      exact stored_withPl (stored_of_slotHolds hview hu rfl rfl rfl) rfl
    · rw [State.retireNow_eq]
      exact hu.frame.pl
  · intro f s ea swz p n off hf hw he
    have hres := slotTerm_of_rowFault swz hf
    obtain ⟨u, hwrite, hview, hu⟩ := State.writeRowL_slot (a := ea / 256) (p := p) off (off + n) (spanMask off (off + n))
      (putElem (s.rdS f.sy) off n) rfl hw hres rfl
    refine ⟨u.retireNow f.ar, putElem (s.rdS f.sy) off n (s.termRow (slotTerm s p) (p % 256)),
      arrives_of_stored (l := [s.rowFault ea]) (by show execSts f s = _; unfold execSts; rfl)
        (List.forall_mem_singleton.2 hf) ?_ hu.frame rfl, ?_, ?_, fun i hi => ?_⟩
    · rw [State.drainBank_idle he]
      exact congrArg (State.retireNow · f.ar) (State.deferIf_none hwrite)
    · rw [State.retireNow_eq]
      exact stored_of_slotHolds hview hu rfl rfl rfl
    · rw [State.retireNow_eq]
      exact hu.frame.pl
    · exact getLsbD_putElem _ _ _ _ hi

end Sys2Proof.Machine
end

section
/-!
PROOFS. O37 fails (R124, R274, R278): a store to the window's first row promotes that row's slot, and a chain of links that was
too long, of the slot of the second row, ends at it afterwards.
-/

namespace Sys2Proof.Machine

open Sys2Proof Sys2Proof.Claim

/-! ### References of slots (R267, R274) -/

/-- A slot's reference names its number among all slots, of the descriptor that stands for slots. -/
theorem ref_slotRef {c k : Nat} (hc : c < 48) (hk : k < 256) :
    bitsOf (slotRef c k).toNat 0 16 = 0 ∧ refDesc (slotRef c k) = descSlots ∧ refTile (slotRef c k) = c * 256 + k := by
  unfold refDesc refTile slotRef bitsOf descSlots
  simp only [BitVec.toNat_ofNat, Nat.shiftRight_eq_div_pow, Nat.shiftLeft_eq]
  omega

/-- A slot's reference names the slot. -/
theorem State.refLoc_slotRef (s : State) (sp : Nat) {c k : Nat} (hc : c < 48) (hk : k < 256) :
    s.refLoc sp (slotRef c k) = .ok (s.slotLoc sp c k) := by
  obtain ⟨hlow, hdesc, htile⟩ := ref_slotRef hc hk
  unfold State.refLoc
  rw [if_neg (not_not.2 hlow), if_pos hdesc, htile, if_pos (by omega), show (c * 256 + k) / 256 = c by omega,
    show (c * 256 + k) % 256 = k by omega]

/-- An entry that is STORED ends a chain (R274). -/
theorem State.chain_stored (s : State) (n : Nat) (l : TLoc) {w0 : Word} (w1 : Word) (b : Bool) (h : entKind w0 = 1) :
    s.chain n l w0 w1 b = .stored l.isSlot l.c l.k (entFrame w0) (entNF w0) := by
  cases n <;> simp [State.chain, endTerm, h]

/-- A REPEAT's chain goes on at its source (R274). -/
theorem State.chain_repeat {s : State} {n : Nat} {l src : TLoc} {w0 w1 : Word} {b : Bool} (h : entKind w0 = 5)
    (href : s.refLoc l.sp w1 = .ok src) (hlegal : legalSource l src = true) :
    s.chain (n + 1) l w0 w1 b = s.chain n src (s.entry src).1 (s.entry src).2 true := by
  rw [State.chain, if_pos h, href]
  exact if_pos hlegal

/-- A slot of a core is a legal source for another of the same format (R274). -/
theorem State.legalSource_slotLoc {s : State} {sp c j k : Nat} (hne : j ≠ k)
    (hfmt : entFmt ((s.core c).slot j).w0 = entFmt ((s.core c).slot k).w0) :
    legalSource (s.slotLoc sp c j) (s.slotLoc sp c k) = true := by
  simp [legalSource, State.slotLoc, hfmt, hne]

/-- A slot whose entry is a REPEAT of a STORED slot of its core and format resolves to it. -/
theorem slotTerm_repeat {s : State} {p k : Nat} (hc : s.co.id < 48) (hk : k < 256) (hne : p / 256 ≠ k)
    (hkind : entKind (s.co.slot (p / 256)).w0 = 5) (hw1 : (s.co.slot (p / 256)).w1 = slotRef s.co.id k)
    (hfmt : entFmt (s.co.slot (p / 256)).w0 = entFmt (s.co.slot k).w0) (hst : entKind (s.co.slot k).w0 = 1) :
    slotTerm s p = .stored true s.co.id k (entFrame (s.co.slot k).w0) (entNF (s.co.slot k).w0) := by
  have hlegal := State.legalSource_slotLoc (s := s) (sp := s.pl.space) (c := s.co.id) hne (by rwa [State.core_focus])
  unfold slotTerm State.resolve
  rw [State.entry_slotLoc, hw1]
  dsimp only
  rw [State.chain_repeat hkind (s.refLoc_slotRef _ hc hk) hlegal, State.entry_slotLoc]
  dsimp only
  rw [State.chain_stored _ _ _ _ _ hst]
  rfl

/-! ### STX within one row (R124) -/

/-- STX whose fields all lie in the window's first row leaves what the row's write leaves, and its arrival. -/
theorem exec_stx_oneRow (f : LXs) {s u : State} {a q : Nat} {e : Entry} {v m : Nat} (ha : (s.rdS f.sx).toNat / 256 = a)
    (hqn : 16 * f.cl.toNat + f.q.toNat = q) (hhead : s.pl.headOf q = e)
    (hpack : packFields (vget s.pl.xp f.xp.toNat 0#128) ((s.rdS f.sy).toNat % 128) f.fmt.toNat e.data = (v, m))
    (htwo : needsTwo (vget s.pl.xp f.xp.toNat 0#128) ((s.rdS f.sy).toNat % 128) f.fmt.toNat = false)
    (hm : m ≠ 0 ∧ m < 2 ^ 2048) (hf : s.rowFault (s.rdS f.sx).toNat = none) (he : NoEngine s f.ma a) (hq : s.pl.queue q ≠ [])
    (htag : rowTag e.data = e.tag)
    (hwrite : (s.popSrc q f.pk).writeRowL false a (maskBytes m).1 (maskBytes m).2 m
      (fun old => BitVec.ofNat 2048 (old.toNat - (old.toNat &&& m) + v % 2 ^ 2048)) = (none, u)) :
    exec (.stx f) s = .next (u.retireNow f.ar) := by
  refine exec_of_guarded (by show execStx f s = _; unfold execStx; rfl) ?_ ?_
  · simpa [State.fieldFaults, htwo, hf, lq, hqn, State.srcFault, Plane.popFault_none] using hq
  · have hrest : m >>> 2048 = 0 := by rw [Nat.shiftRight_eq_div_pow, Nat.div_eq_of_lt hm.2]
    have hlow : m % 2 ^ 2048 = m := Nat.mod_eq_of_lt hm.2
    simp only [lq, hqn, hhead, ha, htwo, hpack, State.drainBank_idle he, htag, if_true, hrest, hlow, Bool.false_eq_true,
      if_false, State.storeFields, hm.1]
    rw [State.storeEntry_eq htag hwrite]

/-! ### The counterexample -/

/-- A slot that launch 1's task of rank 0 owns on core 0. -/
def ownedSlot (w0 w1 : Word) : Slot := { slotReset with w0 := w0, w1 := w1, st := .owned, lid := 1 }

/-- The task of launch 1 on core 0, with s6 at row 255 and a zero entry in its queue 0; slot 1 is a REPEAT of slot 0, and slot 0 one
of slot 2, which reaches slot 5, a CONST of 1, by slots 3 and 4: four links from slot 0, and five from slot 1. -/
def longChain : State :=
  { State.reset with
    pl := { Plane.reset with
      status := .ready, lid := 1, s := vput Plane.reset.s 6 0xFF00#64, vq := vput Plane.reset.vq 0 [⟨0#2048, rowTag 0#2048⟩] },
    co := { Core.reset 0 with
      slots := [(0, ownedSlot 0xA000000000000000#64 (slotRef 0 2)), (1, ownedSlot 0xA000000000000000#64 (slotRef 0 0)),
        (2, ownedSlot 0xA000000000000000#64 (slotRef 0 3)), (3, ownedSlot 0xA000000000000000#64 (slotRef 0 4)),
        (4, ownedSlot 0xA000000000000000#64 (slotRef 0 5)), (5, ownedSlot 0x6000000000000000#64 1#64)] } }

/-- STX of queue 0's entry, a bit for each of 64 lanes, to the window at s6. -/
def stxBits : LXs := ⟨0#2, 6#5, 0#5, 0#1, 0#4, 0#1, 0#1, 0#2, 4#4⟩

/-- The slot of the window's first row resolves, after four links, to a CONST of 1. -/
theorem longChain_first : slotTerm longChain 255 = .sym 0x6000000000000000#64 1#64 0 := by decide +kernel

/-- The slot of the window's second row does not resolve: its chain is too long. -/
theorem longChain_second : slotTerm longChain 256 = .bad 2 := by decide +kernel

/-- The fields of a pattern of one bit for each lane lie in the first 64 bits. -/
theorem packFields_bits : packFields 0#128 0 4 0#2048 = (0, 2 ^ 64 - 1) := by decide +kernel

/-- With that pattern lane l lies at bit l. -/
theorem lanePos_bits (l : Nat) : lanePos 0#128 0 l = l ∧ patW 0#128 = 1 := by
  have hc : patC 0#128 = 1 := rfl
  have hp : patP 0#128 = 1 := rfl
  have ho : patOff 0#128 0 = 0 := rfl
  refine ⟨?_, rfl⟩
  rw [lanePos, hc, hp, Nat.mod_one, ho]
  omega

/-- The window's first row may be written. -/
theorem writable_longChain : Writable longChain 255 := by
  refine ⟨fun c k f nf ht => ?_, by decide⟩
  rw [longChain_first] at ht
  exact absurd ht (by simp)

/-- The first row's store, of bits that are 0, promotes its slot and leaves the second row's as it is; the other rows of the first are
the CONST's. -/
theorem longChain_stored : ∃ t, exec (.stx stxBits) longChain = .next t ∧ t.co.id = 0 ∧
    entKind (t.co.slot 0).w0 = 1 ∧ entFmt (t.co.slot 0).w0 = 0 ∧
    t.co.slot 1 = ownedSlot 0xA000000000000000#64 (slotRef 0 0) ∧
    t.co.portRow 0 = symRow 0x6000000000000000#64 1#64 0 0 := by
  have hterm : slotTerm { longChain with pl := longChain.pl.popSource 0 0#1 } 255 = .sym 0x6000000000000000#64 1#64 0 :=
    (slotTerm_withPl longChain (longChain.pl.popSource 0 0#1) rfl 255).trans longChain_first
  have hmask : 2 ^ 64 - 1 ≠ 0 ∧ 2 ^ 64 - 1 < 2 ^ 2048 :=
    ⟨by decide, Nat.lt_of_lt_of_le (by decide : 2 ^ 64 - 1 < 2 ^ 64) (Nat.pow_le_pow_right (by decide) (by decide))⟩
  obtain ⟨u, hwrite, -, hu⟩ := State.writeRowL_slot (s := { longChain with pl := longChain.pl.popSource 0 0#1 }) (swz := false)
    (a := 255) (p := 255) (maskBytes (2 ^ 64 - 1)).1 (maskBytes (2 ^ 64 - 1)).2 (2 ^ 64 - 1)
    (fun old => BitVec.ofNat 2048 (old.toNat - (old.toNat &&& (2 ^ 64 - 1)) + 0 % 2 ^ 2048)) rfl
    (writable_withPl writable_longChain _ rfl) (by simp [hterm]) rfl
  have hrow := hu.rows 0 (by decide)
  rw [hterm] at hrow
  refine ⟨_, exec_stx_oneRow stxBits (a := 255) (q := 0) (e := ⟨0#2048, rowTag 0#2048⟩) (by decide) rfl rfl packFields_bits
    (by decide +kernel) hmask (by decide +kernel) (.inr (by decide)) (by decide) rfl hwrite, ?_⟩
  rw [State.retireNow_eq]
  exact ⟨hu.frame.id, hu.stored, hu.fmt, hu.slots 1 (by decide), hrow⟩

/-- After that store the second row's chain ends at the promoted slot, whose row 0 is the CONST's. -/
theorem longChain_after : ∃ t, exec (.stx stxBits) longChain = .next t ∧
    t.termRow (slotTerm t 256) 0 = symRow 0x6000000000000000#64 1#64 0 0 := by
  obtain ⟨t, hexec, hid, hst, hfmt, hslot, hrow⟩ := longChain_stored
  have hterm := slotTerm_repeat (s := t) (p := 256) (k := 0) (by omega) (by decide) (by decide) (by rw [hslot]; decide)
    (by rw [hslot, hid]; rfl) (by rw [hslot, hfmt]; decide) hst
  refine ⟨t, hexec, ?_⟩
  rw [hterm, State.termRow, State.core_focus]
  exact hrow

/-- Lane l of that STX lies at bit l, one bit wide. -/
theorem stxBits_lane (l : Nat) :
    lanePos (vget longChain.pl.xp stxBits.xp.toNat 0#128) ((longChain.rdS stxBits.sy).toNat % 128) l = l ∧
    patW (vget longChain.pl.xp stxBits.xp.toNat 0#128) = 1 := lanePos_bits l

/-- Refutes O37: the store to the window's first row promotes its slot, and the slot of the second row, which did not resolve before,
stands for it afterwards, so that bit 2048 of the window changes though no lane covers it. -/
theorem not_fieldAccesses : ¬ Obligations.FieldAccesses := by
  rintro ⟨-, h⟩
  have hlanes : laneCount stxBits.fmt.toNat = 64 := by decide
  obtain ⟨t, hexec, hrow⟩ := longChain_after
  obtain ⟨t', ⟨hexec', -, -⟩, -, hbits⟩ := h stxBits longChain (by decide +kernel) writable_longChain (.inr (by decide))
    (fun ⟨l, hl, _, hend⟩ => by rw [(stxBits_lane l).1, (stxBits_lane l).2] at hend; omega) (by decide) rfl
  obtain rfl := Host.Outcome.next.inj (hexec.symm.trans hexec')
  have hbit : (t.termRow (slotTerm t 256) 0).getLsbD 0 = (longChain.termRow (slotTerm longChain 256) 0).getLsbD 0 :=
    (hbits 2048 (by decide)).2 (by decide) fun l => decide_eq_false fun ⟨hl, _, hend, _⟩ => by
      rw [(stxBits_lane l).1, (stxBits_lane l).2] at hend; omega
  rw [hrow, longChain_second] at hbit
  exact absurd hbit (by decide +kernel)

end Sys2Proof.Machine
end

section
/-!
PROOFS. The sticky flags of a bundle's results (R142 to R144).
-/

namespace Sys2Proof.Machine

/-! ### The exception of enabled flags (R143) -/

/-- The low three bits of FP_EXCEPTION's detail hold the engine. -/
theorem fpCause_engine {eng : Nat} (h : eng < 5) (fl : BitVec 5) :
    ((fpCause eng fl).detail.extractLsb' 0 3).toNat = eng := by
  simp only [fpCause, BitVec.extractLsb'_toNat, BitVec.toNat_ofNat, Nat.shiftLeft_eq]
  omega

/-- The bits of FP_EXCEPTION's detail from bit 8 up hold the flags. -/
theorem fpCause_flag {eng : Nat} (h : eng < 5) (fl : BitVec 5) {i : Nat} (hi : i < 5) :
    (fpCause eng fl).detail.getLsbD (8 + i) = fl.getLsbD i := by
  have hpos : 8 + i < 64 := by omega
  have hlow : ¬8 + i < 8 := by omega
  rw [fpCause, BitVec.getLsbD_ofNat, decide_eq_true hpos, Bool.true_and, Nat.shiftLeft_eq, Nat.add_comm eng, Nat.mul_comm,
    Nat.testBit_two_pow_mul_add _ (by omega : eng < 2 ^ 8), if_neg hlow, Nat.add_sub_cancel_left]
  rfl

/-- A flag is enabled and raised when both its bits are set (R142). -/
theorem getLsbD_enabledOf (w : BitVec 16) (fl : BitVec 5) (i : Nat) :
    (enabledOf w fl).getLsbD i = (fl.getLsbD i && w.getLsbD (8 + i)) := by
  by_cases h : i < 5
  · simp [enabledOf, h]
  · simp [enabledOf, BitVec.getLsbD_of_ge fl i (by omega)]

/-! ### The flags of one result -/

/-- A deferred cause leaves the flag words. -/
@[simp] theorem Plane.deferAt_flags (p : Plane) (lat : Nat) (c : Cause) (req : Word) : (p.deferAt lat c req).flags = p.flags := by
  unfold Plane.deferAt; split <;> rfl

/-- Outside a handler a deferred cause is counted in the task's bundles (R364). -/
theorem Plane.deferAt_deferred {p : Plane} (hp : p.intrap = false) (lat : Nat) (c : Cause) (req : Word) :
    (p.deferAt lat c req).deferred = p.deferred ++ [⟨c, p.tcount + lat, req⟩] := by
  unfold Plane.deferAt; rw [hp]; rfl

/-- The flag words after one result's flags. -/
theorem Plane.raiseFlags_flags (p : Plane) (x : Nat × BitVec 5 × Word × Bool) :
    (p.raiseFlags x).flags = vput p.flags x.1 (vget p.flags x.1 0#16 ||| x.2.1.setWidth 16) := by
  unfold Plane.raiseFlags
  dsimp only
  split
  · rw [Plane.deferAt_flags]
  · rfl

/-- A result sets the bits of its flags in its engine's word and no other bit. -/
theorem Plane.flag_raiseFlags (p : Plane) (x : Nat × BitVec 5 × Word × Bool) {e : Nat} (he : e < 5) {i : Nat} (hi : i < 16) :
    (vget (p.raiseFlags x).flags e 0#16).getLsbD i = true ↔
      (vget p.flags e 0#16).getLsbD i = true ∨ (x.1 = e ∧ x.2.1.getLsbD i = true) := by
  rw [Plane.raiseFlags_flags, vget_vput]
  by_cases h : x.1 = e
  · subst h
    simp [he, hi]
  · simp [h]

/-- A result's flags leave the enables, so that they leave what is enabled of any flags. -/
theorem Plane.enabledOf_raiseFlags (p : Plane) (x : Nat × BitVec 5 × Word × Bool) {e : Nat} (he : e < 5) (fl : BitVec 5) :
    enabledOf (vget (p.raiseFlags x).flags e 0#16) fl = enabledOf (vget p.flags e 0#16) fl := by
  refine BitVec.eq_of_getLsbD_eq fun i hi => ?_
  have hnone : x.2.1.getLsbD (8 + i) = false := BitVec.getLsbD_of_ge _ _ (by omega)
  have henable : (vget (p.raiseFlags x).flags e 0#16).getLsbD (8 + i) = (vget p.flags e 0#16).getLsbD (8 + i) := by
    rw [Bool.eq_iff_iff, p.flag_raiseFlags x he (by omega), hnone]
    simp
  rw [getLsbD_enabledOf, getLsbD_enabledOf, henable]

/-- FP_EXCEPTION of a result as a plane outside a handler defers it, due at the bundle that sets its flags (R143). -/
def Plane.fpDeferred (p : Plane) (x : Nat × BitVec 5 × Word × Bool) : Deferred :=
  ⟨fpCause x.1 (enabledOf (vget p.flags x.1 0#16) x.2.1), p.tcount, x.2.2.1⟩

/-- The deferred causes after one result's flags, outside a handler. -/
theorem Plane.raiseFlags_deferred {p : Plane} (hp : p.intrap = false) (x : Nat × BitVec 5 × Word × Bool) :
    (p.raiseFlags x).deferred = p.deferred ++
      if enabledOf (vget p.flags x.1 0#16) x.2.1 ≠ 0#5 ∧ !x.2.2.2 then [p.fpDeferred x] else [] := by
  unfold Plane.raiseFlags
  dsimp only
  split
  · exact Plane.deferAt_deferred (by exact hp) 0 _ _
  · exact (List.append_nil _).symm

/-- Another result's flags leave the exception that a result defers. -/
theorem Plane.fpDeferred_raiseFlags (p : Plane) (y : Nat × BitVec 5 × Word × Bool) {x : Nat × BitVec 5 × Word × Bool}
    (hx : x.1 < 5) : (p.raiseFlags y).fpDeferred x = p.fpDeferred x := by
  have htcount : (p.raiseFlags y).tcount = p.tcount := by rw [Plane.raiseFlags_frame]
  simp only [Plane.fpDeferred, Plane.enabledOf_raiseFlags p y hx, htcount]

/-! ### The flags of a bundle's results -/

/-- A run of results sets the bits of their flags in their engines' words and no other bit. -/
theorem flag_foldl_raiseFlags (l : List (Nat × BitVec 5 × Word × Bool)) (p : Plane) {e : Nat} (he : e < 5) {i : Nat}
    (hi : i < 16) :
    (vget (l.foldl Plane.raiseFlags p).flags e 0#16).getLsbD i = true ↔
      (vget p.flags e 0#16).getLsbD i = true ∨ ∃ x ∈ l, x.1 = e ∧ x.2.1.getLsbD i = true := by
  induction l generalizing p with
  | nil => simp
  | cons x t ih =>
    rw [List.foldl_cons, ih, p.flag_raiseFlags x he hi, List.exists_mem_cons_iff, or_assoc]

/-- A cause that is deferred stays so through a run of results, outside a handler. -/
theorem mem_deferred_foldl_raiseFlags {d : Deferred} (l : List (Nat × BitVec 5 × Word × Bool)) {p : Plane}
    (hp : p.intrap = false) (hd : d ∈ p.deferred) : d ∈ (l.foldl Plane.raiseFlags p).deferred := by
  induction l generalizing p with
  | nil => exact hd
  | cons x t ih =>
    refine ih (by rw [Plane.raiseFlags_frame]; exact hp) ?_
    rw [Plane.raiseFlags_deferred hp]
    exact List.mem_append_left _ hd

/-- Each of a run of results that raises an enabled flag defers its exception, by the enables before the run. -/
theorem fpDeferred_mem_foldl_raiseFlags {x : Nat × BitVec 5 × Word × Bool} {l : List (Nat × BitVec 5 × Word × Bool)}
    {p : Plane} (hp : p.intrap = false) (hx : x ∈ l) (heng : x.1 < 5) (hnew : x.2.2.2 = false)
    (hen : enabledOf (vget p.flags x.1 0#16) x.2.1 ≠ 0#5) : p.fpDeferred x ∈ (l.foldl Plane.raiseFlags p).deferred := by
  induction l generalizing p with
  | nil => exact absurd hx List.not_mem_nil
  | cons y t ih =>
    have hp' : (p.raiseFlags y).intrap = false := by rw [Plane.raiseFlags_frame]; exact hp
    rcases List.mem_cons.1 hx with rfl | ht
    · refine mem_deferred_foldl_raiseFlags t hp' ?_
      rw [Plane.raiseFlags_deferred hp, if_pos ⟨hen, by rw [hnew]; rfl⟩]
      exact List.mem_append_right _ (List.mem_singleton.2 rfl)
    · rw [← p.fpDeferred_raiseFlags y heng]
      exact ih hp' ht (by rwa [p.enabledOf_raiseFlags y heng])

/-- Settles O59: results only add bits to flag words, below the enables, so that each result's exception is decided by the
enables before the bundle's end. -/
theorem flagsAreSticky : Obligations.FlagsAreSticky := by
  intro s
  refine ⟨fun e he i hi => flag_foldl_raiseFlags _ _ he hi, fun x hx heng hnew hintrap ⟨i, hi, hflag, henable⟩ => ?_,
    s.setFlags_frame, rfl⟩
  have hen : enabledOf (vget s.pl.flags x.1 0#16) x.2.1 ≠ 0#5 := fun h => by
    have hbit := getLsbD_enabledOf (vget s.pl.flags x.1 0#16) x.2.1 i
    rw [h, hflag, henable] at hbit
    simp at hbit
  refine ⟨s.pl.fpDeferred x, fpDeferred_mem_foldl_raiseFlags hintrap hx heng hnew hen, rfl, rfl, rfl,
    fpCause_engine heng _, fun j hj => ?_⟩
  exact (fpCause_flag heng _ hj).trans (getLsbD_enabledOf _ _ j)

end Sys2Proof.Machine
end

section
/-!
PROOFS. NaNs, zeros and signs of the element operations (R137, R141, R165 to R167, R180).
-/

namespace Sys2Proof.Machine

/-! ### Exact values -/

/-- A number that is no NaN raises no flag by itself. -/
theorem nanFlags_of_not_isNaN {x : Num} (h : x.isNaN = false) : nanFlags x = 0 := by
  cases x with
  | nan => cases h
  | _ => rfl

/-- A sum with a NaN is a NaN. -/
theorem nadd_of_isNaN {x y : Num} (h : x.isNaN = true ∨ y.isNaN = true) : (nadd x y).1 = .nan false := by
  rcases h with h | h
  · cases x with
    | nan => rfl
    | _ => cases h
  · cases y with
    | nan => cases x <;> rfl
    | _ => cases h

/-- Infinities of opposite signs have no sum. -/
theorem nadd_inf_neg (s : Bool) : (nadd (.inf s) (Num.inf s).neg).1 = .nan false := by
  cases s <;> rfl

/-- Zero exceeds no magnitude. -/
theorem overF_zero (f : FFmt) (e : Int) : overF f 0 e = false := by
  unfold overF ltP2 leP2
  split <;> simp

/-- A zero rounds to the zero of its sign. -/
theorem arithRound_zero (f : FFmt) (neg : Bool) (e : Int) : (arithRound f (.fin neg 0 e)).1 = packF f neg 0 0 := by
  simp [arithRound, arithMag, rneF, overF_zero, packF]

/-! ### Arithmetic (R137, R141) -/

/-- A NaN is rounded to the canonical NaN. -/
theorem fRound_nan (fmt : Nat) {x : Num × Nat} (h : x.1 = .nan false) : (fRound fmt x).1 = (fltOf fmt).nan := by
  rw [fRound, h]; rfl

/-- A sum with a NaN operand is the canonical NaN. -/
theorem fAdd_of_isNaN {fmt a b : Nat} (h : (fVal fmt a).isNaN = true ∨ (fVal fmt b).isNaN = true) :
    (fAdd fmt a b).1 = (fltOf fmt).nan :=
  fRound_nan fmt (nadd_of_isNaN h)

/-- ∞ − ∞ is the canonical NaN. -/
theorem fSub_inf_inf {fmt a b : Nat} {s : Bool} (ha : fVal fmt a = .inf s) (hb : fVal fmt b = .inf s) :
    (fSub fmt a b).1 = (fltOf fmt).nan :=
  fRound_nan fmt (by rw [ha, hb]; exact nadd_inf_neg s)

/-- ∞ × 0 is the canonical NaN. -/
theorem fMul_inf_zero {fmt a b : Nat} {s t : Bool} {e : Int} (ha : fVal fmt a = .inf s) (hb : fVal fmt b = .fin t 0 e) :
    (fMul fmt a b).1 = (fltOf fmt).nan :=
  fRound_nan fmt (by rw [ha, hb]; rfl)

/-! ### Extremes and comparisons (R166, R167) -/

/-- fmin and fmax of a NaN and a number are the number's. -/
theorem fMinMax_nan_left (mx : Bool) {fmt a b : Nat} (ha : (fVal fmt a).isNaN = true) (hb : (fVal fmt b).isNaN = false) :
    (fMinMax mx fmt a b).1 = (arithRound (fltOf fmt) (fVal fmt b)).1 := by
  cases mx <;> simp [fMinMax, fminN, fmaxN, ha, hb]

/-- −0 is below +0 for fmin and fmax. -/
theorem fMinMax_zeros (mx : Bool) {fmt a b : Nat} {e g : Int} (ha : fVal fmt a = .fin true 0 e)
    (hb : fVal fmt b = .fin false 0 g) : (fMinMax mx fmt a b).1 = packF (fltOf fmt) (!mx) 0 0 := by
  cases mx <;> simp only [fMinMax, ha, hb] <;> exact arithRound_zero _ _ _

/-- A comparison with a NaN is false but NE. -/
theorem fCmp_of_isNaN (cond : Nat) {fmt a b : Nat} (h : (fVal fmt a).isNaN = true ∨ (fVal fmt b).isNaN = true) :
    (fCmp cond fmt a b).1 = decide (cond = 1) := by
  have hor : ((fVal fmt a).isNaN || (fVal fmt b).isNaN) = true := Bool.or_eq_true_iff.2 h
  simp [fCmp, hor]

/-- Zeros of either sign are equal. -/
theorem fCmp_zeros {fmt a b : Nat} {s t : Bool} {e g : Int} (ha : fVal fmt a = .fin s 0 e) (hb : fVal fmt b = .fin t 0 g) :
    (fCmp 0 fmt a b).1 = true := by
  rw [fCmp, ha, hb]; rfl

/-! ### Value and index pairs (R180) -/

/-- The exact value of a pair. -/
def pairVal (fmt p : Nat) : Num := decodeN fmt (p / 65536)

/-- A NaN loses to a number; a pair that is chosen with a NaN holds the canonical one. -/
theorem cswap_nan_left (loser : Bool) {fmt a b : Nat} (ha : (pairVal fmt a).isNaN = true)
    (hb : (pairVal fmt b).isNaN = false) :
    cswap loser fmt a b = (if loser then canonNaN fmt * 65536 + a % 65536 else b, nanFlags (pairVal fmt a)) := by
  unfold pairVal at *
  cases loser <;> simp [cswap, better, ha, hb, nanFlags_of_not_isNaN hb]

/-- The greater value wins. -/
theorem cswap_of_nlt {fmt a b : Nat} (ha : (pairVal fmt a).isNaN = false) (hb : (pairVal fmt b).isNaN = false)
    (h : nlt (pairVal fmt b) (pairVal fmt a) = true) : cswap false fmt a b = (a, 0) := by
  unfold pairVal at *
  simp [cswap, better, ha, hb, h, nanFlags_of_not_isNaN]

/-- Of equal values the lower index wins. -/
theorem cswap_of_neqv {fmt a b : Nat} (h : neqv (pairVal fmt a) (pairVal fmt b) = true) :
    cswap false fmt a b = (if a % 65536 ≤ b % 65536 then a else b, 0) := by
  unfold pairVal at *
  simp only [neqv, Bool.and_eq_true, Bool.not_eq_true'] at h
  obtain ⟨⟨⟨ha, hb⟩, hab⟩, hba⟩ := h
  by_cases hi : a % 65536 ≤ b % 65536 <;>
    simp [cswap, better, ha, hb, hab, hba, hi, nanFlags_of_not_isNaN]

/-- Settles O29: the corners of a NaN, of an infinity and of zeros are those of any such operands; the exact results are
computed. -/
theorem floatCornerCases : Obligations.FloatCornerCases := by
  have hnan : (fVal 12 0x7FC10000).isNaN = true := rfl
  have hqnan : (fVal 12 0x7FC00000).isNaN = true := rfl
  have hinf : fVal 12 0x7F800000 = .inf false := rfl
  have hpos : fVal 12 0 = .fin false 0 (-149) := rfl
  have hneg : fVal 12 0x80000000 = .fin true 0 (-149) := rfl
  have htie : cswap false 10 0x3FC00003 0x3FC00007 = (0x3FC00003, 0) := cswap_of_neqv (by decide)
  have hnanLoses : cswap false 10 0x7FC10002 0xC0800009 = (0xC0800009, 16) := cswap_nan_left false rfl rfl
  have hnanLoser : cswap true 10 0x7FC10002 0xC0800009 = (0x7FC00002, 16) := cswap_nan_left true rfl rfl
  have hzeros : cswap false 10 0x8000000C 0x00000005 = (0x00000005, 0) := cswap_of_neqv (by decide)
  have hgreater : cswap false 10 0x40000001 0x3F000000 = (0x40000001, 0) := cswap_of_nlt rfl rfl (by decide)
  have hsum : (fAdd 12 0x3F800000 0x40000000).1 = 0x40400000 := by decide
  have hproduct : fMul 12 0x40400000 0x40000000 = (0x40C00000, 0) := by decide
  have hmin : (fMinMax false 12 0x7FC10000 0xC0400000).1 = 0xC0400000 := (fMinMax_nan_left false hnan rfl).trans (by decide)
  have habs : (fSign false 12 0xC0400000).1 = 0x40400000 := by decide
  have hnegated : (fSign true 12 0).1 = 0x80000000 := by decide
  have htieUp : (fRnd 12 0x3FC00000).1 = 0x40000000 := by decide
  have htieDown : (fRnd 12 0x40200000).1 = 0x40000000 := by decide
  exact ⟨htie, hnanLoses, hnanLoser, hzeros, hgreater, fAdd_of_isNaN (.inl hnan), fMul_inf_zero hinf hpos,
    fSub_inf_inf hinf hinf, hsum, hproduct, fMinMax_zeros false hneg hpos, fMinMax_zeros true hneg hpos, hmin,
    fCmp_of_isNaN 0 (.inl hqnan), fCmp_of_isNaN 1 (.inl hqnan), fCmp_zeros hneg hpos, habs, hnegated, htieUp, htieDown⟩

end Sys2Proof.Machine
end

section
/-!
PROOFS. O25, O28: the integer and floating-point vector instructions, each a map of its elements' codes (R156, R164 to R168).
-/

namespace Sys2Proof.Machine

open Sys2Proof

/-! ### Maps of two and three sources (R156) -/

/-- A two-operand map gives each element's result where active and the kept lane elsewhere. -/
theorem elementwise_map2 {m : Nat} {on : List Bool} {act : Nat → Bool} {keep a b : Row} {g : Nat → Nat → Elem} {r : Flight}
    (ho : on.length = laneCount m) (hon : ∀ e < laneCount m, on.getD e false = act e)
    (hv : r.val = (map2 m on keep a b g).row) (hf : r.flags = BitVec.ofNat 5 (map2 m on keep a b g).fl)
    (ht : r.tag = rowTag r.val) :
    Claim.Elementwise m act keep (fun e => g (Claim.code m a e) (Claim.code m b e)) r := by
  refine elementwise_of_pick ho (by simp) hon (fun e he => ?_) hv hf ht
  rw [List.getD_eq_getElem _ _ (by simpa using he), List.getElem_zipWith, getElem_codes, getElem_codes]
  rfl

/-- A three-operand map gives each element's result where active and the addend's lane elsewhere. -/
theorem elementwise_map3 {m : Nat} {on : List Bool} {act : Nat → Bool} {a b d : Row} {g : Nat → Nat → Nat → Elem} {r : Flight}
    (ho : on.length = laneCount m) (hon : ∀ e < laneCount m, on.getD e false = act e)
    (hv : r.val = (map3 m on a b d g).row) (hf : r.flags = BitVec.ofNat 5 (map3 m on a b d g).fl) (ht : r.tag = rowTag r.val) :
    Claim.Elementwise m act d (fun e => g (Claim.code m a e) (Claim.code m b e) (Claim.code m d e)) r := by
  refine elementwise_of_pick ho (by simp) hon (fun e he => ?_) hv hf ht
  rw [List.getD_eq_getElem _ _ (by simpa using he), List.getElem_zipWith, List.getElem_zip, getElem_codes, getElem_codes,
    getElem_codes]
  rfl

/-- An instruction with two sources that pushes to its own cluster's queue. -/
theorem vec_of_vec3 {i : Instr} {s : State} {f : V3} {lat : Nat} {g : List Bool → Entry → Entry → VRes} {v : VRes}
    {ok : Flight → Prop} (h : exec i s = s.vec3 f lat g)
    (hv : g (active f.fmt.toNat (s.pl.mask f.cl.toNat f.pred)) (s.pl.operand f.cl.toNat f.va.toNat f.fmt.toNat)
      (s.pl.operand f.cl.toNat f.vb.toNat f.fmt.toNat) = v) (hc : v.cause = none)
    (hok : ∀ r : Flight, r.val = v.row → r.flags = BitVec.ofNat 5 v.fl → r.tag = v.tag.getD (rowTag v.row) → ok r) :
    Claim.Vec i s f.ar f.cl.toNat [(f.va, f.pa), (f.vb, f.pb)] [] lat (.vq (16 * f.cl.toNat + f.vd.toNat)) ok := by
  subst hv
  unfold State.vec3 at h
  exact vec_of_vector (own := none) h hc hok

/-- A map of one source after `lat` bundles. -/
theorem vec_of_map1_after {i : Instr} {s : State} {f : V2} {lat : Nat} {g : Nat → Elem}
    (h : exec i s = s.vec2 f lat fun on a => map1 f.fmt.toNat on a.data g) :
    let a := (s.pl.operand f.cl.toNat f.va.toNat f.fmt.toNat).data
    Claim.Vec i s f.ar f.cl.toNat [(f.va, f.pa)] [] lat (.vq (16 * f.cl.toNat + f.vd.toNat))
      (Claim.Elementwise f.fmt.toNat (Claim.active s.pl f.cl.toNat f.pred f.fmt.toNat) a fun e =>
        g (Claim.code f.fmt.toNat a e)) :=
  vec_of_vec2 h rfl rfl fun _ hv hf ht => elementwise_map1 (by simp) (getD_active_mask _ _ _ _) hv hf (by rw [ht, hv]; rfl)

/-- A map of two sources, the first kept where inactive. -/
theorem vec_of_map2 {i : Instr} {s : State} {f : V3} {lat : Nat} {g : Nat → Nat → Elem}
    (h : exec i s = s.vec3 f lat fun on a b => map2 f.fmt.toNat on a.data a.data b.data g) :
    let a := (s.pl.operand f.cl.toNat f.va.toNat f.fmt.toNat).data
    let b := (s.pl.operand f.cl.toNat f.vb.toNat f.fmt.toNat).data
    Claim.Vec i s f.ar f.cl.toNat [(f.va, f.pa), (f.vb, f.pb)] [] lat (.vq (16 * f.cl.toNat + f.vd.toNat))
      (Claim.Elementwise f.fmt.toNat (Claim.active s.pl f.cl.toNat f.pred f.fmt.toNat) a fun e =>
        g (Claim.code f.fmt.toNat a e) (Claim.code f.fmt.toNat b e)) :=
  vec_of_vec3 h rfl rfl fun _ hv hf ht => elementwise_map2 (by simp) (getD_active_mask _ _ _ _) hv hf (by rw [ht, hv]; rfl)

/-- A map of two sources and the addend at the head of the destination queue, which is popped and kept where inactive
(R28). -/
theorem vec_of_map3 {i : Instr} {s : State} {f : V3} {lat : Nat} {g : Nat → Nat → Nat → Elem}
    (h : exec i s = s.vecAcc f lat fun on a b d => map3 f.fmt.toNat on a.data b.data d.data g) :
    let q := 16 * f.cl.toNat + f.vd.toNat
    let a := (s.pl.operand f.cl.toNat f.va.toNat f.fmt.toNat).data
    let b := (s.pl.operand f.cl.toNat f.vb.toNat f.fmt.toNat).data
    let d := (s.pl.headOf q).data
    Claim.Vec i s f.ar f.cl.toNat [(f.va, f.pa), (f.vb, f.pb)] [q] lat (.vq q)
      (Claim.Elementwise f.fmt.toNat (Claim.active s.pl f.cl.toNat f.pred f.fmt.toNat) d fun e =>
        g (Claim.code f.fmt.toNat a e) (Claim.code f.fmt.toNat b e) (Claim.code f.fmt.toNat d e)) := by
  intro q a b d
  unfold State.vecAcc at h
  refine vec_of_vector (own := some q) h rfl fun r hv hf ht => ?_
  exact elementwise_map3 (by simp) (getD_active_mask _ _ _ _) hv hf (by rw [ht, hv]; rfl)

/-! ### Integers (R164) -/

/-- A number without the bits it shares with another one. -/
theorem sub_and_self (x y : Nat) : x - (x &&& y) = x ^^^ (x &&& y) := by
  induction x using Nat.strongRecOn generalizing y with
  | ind x ih =>
    rcases Nat.eq_zero_or_pos x with rfl | hx
    · simp
    have hhalf := ih (x / 2) (by omega) (y / 2)
    rw [← Nat.and_div_two, ← Nat.xor_div_two] at hhalf
    have hand : (x &&& y) % 2 ≤ x % 2 := by
      rw [← pow_one 2, Nat.and_mod_two_pow]; exact Nat.and_le_left
    have hxor : (x ^^^ (x &&& y)) % 2 = (x + (x &&& y)) % 2 := Nat.xor_mod_two_eq
    have hle : x &&& y ≤ x := Nat.and_le_left
    omega

/-- A two-operand integer instruction, its element operation in the claim's words. -/
theorem vec_of_vecInt {i : Instr} {s : State} {f : V3} {g : Nat → Nat → Nat → Elem} {elem : Nat → Elem}
    (h : exec i s = s.vecInt f g)
    (hg : ∀ e, g f.fmt.toNat (Claim.code f.fmt.toNat (s.pl.operand f.cl.toNat f.va.toNat f.fmt.toNat).data e)
      (Claim.code f.fmt.toNat (s.pl.operand f.cl.toNat f.vb.toNat f.fmt.toNat).data e) = elem e) :
    Claim.Vec i s f.ar f.cl.toNat [(f.va, f.pa), (f.vb, f.pb)] [] 2 (.vq (16 * f.cl.toNat + f.vd.toNat))
      (Claim.Elementwise f.fmt.toNat (Claim.active s.pl f.cl.toNat f.pred f.fmt.toNat)
        (s.pl.operand f.cl.toNat f.va.toNat f.fmt.toNat).data elem) := by
  obtain rfl := funext hg
  unfold State.vecInt at h
  exact vec_of_map2 h

/-- Settles O25: each two-operand instruction maps its elements' codes by the operation of its row in R164, VMAD with the
addend of the destination queue. -/
theorem vectorIntegerResults : Obligations.VectorIntegerResults := by
  intro f s cl m n a b va vb sh on q
  refine ⟨?_, vec_of_map3 (i := .vmad f) rfl⟩
  simp only [List.forall_mem_cons, List.not_mem_nil, false_imp_iff, implies_true, and_true]
  refine ⟨vec_of_vecInt (show execVadd f s = _ from rfl) fun e => rfl,
    vec_of_vecInt (show execVsub f s = _ from rfl) fun e => rfl,
    vec_of_vecInt (show execVadds f s = _ from rfl) fun e => rfl,
    vec_of_vecInt (show execVsubs f s = _ from rfl) fun e => rfl,
    vec_of_vecInt (show execVmul f s = _ from rfl) fun e => rfl,
    vec_of_vecInt (show execVmulh f s = _ from rfl) fun e => ?_,
    vec_of_vecInt (show execVand f s = _ from rfl) fun e => rfl,
    vec_of_vecInt (show execVor f s = _ from rfl) fun e => rfl,
    vec_of_vecInt (show execVxor f s = _ from rfl) fun e => rfl,
    vec_of_vecInt (show execVandn f s = _ from rfl) fun e => ?_,
    vec_of_vecInt (show execVshl f s = _ from rfl) fun e => ?_,
    vec_of_vecInt (show execVshr f s = _ from rfl) fun e => ?_,
    vec_of_vecInt (show execVsra f s = _ from rfl) fun e => ?_,
    vec_of_vecInt (show execVmin f s = _ from rfl) fun e => rfl,
    vec_of_vecInt (show execVmax f s = _ from rfl) fun e => rfl⟩
  · simp only [iWrap, Int.shiftRight_eq_div_pow]; rfl
  · rw [sub_and_self]
  · simp only [iShift, Nat.shiftLeft_eq]; rfl
  · simp only [iShift, Nat.shiftRight_eq_div_pow]; rfl
  · simp only [iShift, Int.shiftRight_eq_div_pow]; rfl

/-! ### Floating point (R165 to R168) -/

/-- A two-operand floating-point instruction. -/
theorem vec_of_vecFlt {i : Instr} {s : State} {f : V3} {g : Nat → Nat → Nat → Elem} (h : exec i s = s.vecFlt f g) :
    let a := (s.pl.operand f.cl.toNat f.va.toNat f.fmt.toNat).data
    let b := (s.pl.operand f.cl.toNat f.vb.toNat f.fmt.toNat).data
    Claim.Vec i s f.ar f.cl.toNat [(f.va, f.pa), (f.vb, f.pb)] [] 4 (.vq (16 * f.cl.toNat + f.vd.toNat))
      (Claim.Elementwise f.fmt.toNat (Claim.active s.pl f.cl.toNat f.pred f.fmt.toNat) a fun e =>
        g f.fmt.toNat (Claim.code f.fmt.toNat a e) (Claim.code f.fmt.toNat b e)) :=
  vec_of_map2 (g := g f.fmt.toNat) h

/-- A one-operand floating-point instruction after `lat` bundles. -/
theorem vec_of_vecFlt1 {i : Instr} {s : State} {f : V2} {lat : Nat} {g : Nat → Nat → Elem} (h : exec i s = s.vecFlt1 f lat g) :
    let a := (s.pl.operand f.cl.toNat f.va.toNat f.fmt.toNat).data
    Claim.Vec i s f.ar f.cl.toNat [(f.va, f.pa)] [] lat (.vq (16 * f.cl.toNat + f.vd.toNat))
      (Claim.Elementwise f.fmt.toNat (Claim.active s.pl f.cl.toNat f.pred f.fmt.toNat) a fun e =>
        g f.fmt.toNat (Claim.code f.fmt.toNat a e)) :=
  vec_of_map1_after (g := g f.fmt.toNat) h

/-- Settles O28: the instructions with a result map their elements' codes, and VFCMP's predicate holds each comparison's
bit. -/
theorem vectorFloatResults : Obligations.VectorFloatResults := by
  refine ⟨fun f s => ?_, fun f s => ?_, fun f s => ?_⟩
  · intro cl m a b on q
    refine ⟨?_, vec_of_map3 (g := fFma m) (show execVfma f s = _ from rfl)⟩
    simp only [List.forall_mem_cons, List.not_mem_nil, false_imp_iff, implies_true, and_true]
    exact ⟨vec_of_vecFlt (show execVfadd f s = _ from rfl), vec_of_vecFlt (show execVfsub f s = _ from rfl),
      vec_of_vecFlt (show execVfmul f s = _ from rfl), vec_of_vecFlt (show execVfmin f s = _ from rfl),
      vec_of_vecFlt (show execVfmax f s = _ from rfl)⟩
  · intro cl m a
    simp only [List.forall_mem_cons, List.not_mem_nil, false_imp_iff, implies_true, and_true]
    exact ⟨vec_of_vecFlt1 (show execVfabs f s = _ from rfl), vec_of_vecFlt1 (show execVfneg f s = _ from rfl),
      vec_of_vecFlt1 (show execVfrnd f s = _ from rfl), vec_of_vecFlt1 (show execVrcp f s = _ from rfl),
      vec_of_vecFlt1 (show execVrsq f s = _ from rfl), vec_of_vecFlt1 (show execVexp2 f s = _ from rfl),
      vec_of_vecFlt1 (show execVlog2 f s = _ from rfl), vec_of_vecFlt1 (show execVtanh f s = _ from rfl),
      vec_of_vecFlt1 (show execVsigm f s = _ from rfl)⟩
  · intro cl m a b
    refine vec_of_vector (own := none) (f := fun p => cmpLanes m (active m (p.mask cl f.pred)) (p.operand cl f.va.toNat m).data
      (p.operand cl f.vb.toNat m).data (fCmp f.cond.toNat m)) (show execVfcmp f s = _ from rfl) rfl fun r hv _ _ => ?_
    exact predicateOf_cmpLanes (by simp) (getD_active_mask s.pl cl f.pred m) hv

end Sys2Proof.Machine
end

section
/-!
PROOFS. O27: the predicate instructions (R161, R162).
-/

namespace Sys2Proof.Machine

open Sys2Proof

/-- A predicate's source, number 0 reading all ones. -/
theorem pred_eq (p : Plane) (cl : Nat) (n : BitVec 2) :
    p.pred cl n.toNat = if n = 0#2 then BitVec.allOnes 256 else vget p.pr (cl * 4 + n.toNat) 0#256 := by
  unfold Plane.pred
  exact if_congr (BitVec.toNat_eq (y := 0#2)).symm rfl rfl

/-- A predicate instruction gives its predicate on all 256 bits after one bundle, without flags. -/
theorem vec_of_predOp {i : Instr} {s : State} {cl : BitVec 1} {ar vd : BitVec 2} {g : Plane → Pred} {v : Pred}
    (h : exec i s = s.predOp cl ar vd g) (hv : g s.pl = v) :
    Claim.Vec i s ar cl.toNat [] [] 1 (.pred (4 * cl.toNat + vd.toNat)) fun r => r.val.setWidth 256 = v ∧ r.flags = 0#5 := by
  subst hv
  unfold State.predOp at h
  refine vec_of_vector (srcs := []) (own := none) h rfl fun r hval hfl _ => ⟨?_, hfl⟩
  rw [hval, BitVec.setWidth_setWidth_of_le _ (by decide), BitVec.setWidth_eq]

/-- Settles O27: each instruction is a predicate operation on sources read by `pred_eq`. -/
theorem predicateResults : Obligations.PredicateResults := by
  refine ⟨fun f s => ?_, fun f s => ?_⟩
  · intro cl x y
    have hx : s.pl.pred cl f.va.toNat = x := pred_eq s.pl cl f.va
    have hy : s.pl.pred cl f.vb.toNat = y := pred_eq s.pl cl f.vb
    simp only [List.forall_mem_cons, List.not_mem_nil, false_imp_iff, implies_true, and_true]
    rw [← hx, ← hy]
    exact ⟨vec_of_predOp (g := fun p => p.pred cl f.va.toNat &&& p.pred cl f.vb.toNat) rfl rfl,
      vec_of_predOp (g := fun p => p.pred cl f.va.toNat ||| p.pred cl f.vb.toNat) rfl rfl,
      vec_of_predOp (g := fun p => p.pred cl f.va.toNat ^^^ p.pred cl f.vb.toNat) rfl rfl⟩
  · intro cl x
    have hx : s.pl.pred cl f.va.toNat = x := pred_eq s.pl cl f.va
    simp only [List.forall_mem_cons, List.not_mem_nil, false_imp_iff, implies_true, and_true]
    rw [← hx]
    exact ⟨vec_of_predOp (show execPnot f s = _ from rfl) rfl, vec_of_predOp (show execPmov f s = _ from rfl) rfl⟩

end Sys2Proof.Machine
end

section
/-!
PROOFS. O30: lanes moved whole (R157, R173 to R176).
-/

namespace Sys2Proof.Machine

open Sys2Proof

/-! ### Lanes (R131, R153) -/

/-- A lane is below its width's power. -/
theorem claimLane_lt (m : Nat) (r : Row) (e : Nat) : Claim.lane m r e < 2 ^ laneBits m := Nat.mod_lt _ (Nat.two_pow_pos _)

/-- A lane is whole modulo its width's power. -/
@[simp] theorem claimLane_mod (m : Nat) (r : Row) (e : Nat) : Claim.lane m r e % 2 ^ laneBits m = Claim.lane m r e :=
  Nat.mod_eq_of_lt (claimLane_lt m r e)

/-- A lane in the list of lanes. -/
theorem getD_lanes_eq_lane {m : Nat} {e : Nat} (r : Row) (he : e < laneCount m) : (lanes m r).getD e 0 = Claim.lane m r e :=
  getD_lanes m r e 0 he

/-- A list made from the lanes. -/
theorem getD_map_lanes {m : Nat} {e : Nat} (r : Row) (g : Nat → Nat) (he : e < laneCount m) :
    ((lanes m r).map g).getD e 0 = g (Claim.lane m r e) := by
  rw [List.getD_eq_getElem _ _ (by simpa using he), List.getElem_map, getElem_lanes]; rfl

/-- The number of lanes is a power of 2. -/
theorem laneCount_eq_two_pow (m : Nat) : laneCount m = 2 ^ Nat.log2 (laneCount m) := by
  unfold laneCount
  rcases laneBits_cases m with h | h | h <;> rw [h] <;> rfl

/-- An entry has a lane. -/
theorem laneCount_pos (m : Nat) : 0 < laneCount m := by
  rw [laneCount_eq_two_pow]; exact Nat.two_pow_pos _

/-- There is no lane without a byte of its own. -/
theorem laneCount_le (m : Nat) : laneCount m ≤ 256 := by
  unfold laneCount
  rcases laneBits_cases m with h | h | h <;> rw [h] <;> decide

/-- Lane numbers are closed under exclusive or. -/
theorem xor_lt_laneCount {m i j : Nat} (hi : i < laneCount m) (hj : j < laneCount m) : i ^^^ j < laneCount m := by
  rw [laneCount_eq_two_pow] at hi hj ⊢
  exact Nat.xor_lt_two_pow hi hj

/-- The first lane. -/
theorem headD_lanes (m : Nat) (r : Row) : (lanes m r).headD 0 = Claim.lane m r 0 := by
  rw [← getD_lanes_eq_lane r (laneCount_pos m)]
  cases lanes m r <;> rfl

/-- A lane of an entry made of lanes. -/
theorem claimLane_ofLanes {m : Nat} {l : List Nat} (h : l.length ≤ laneCount m) (e : Nat) :
    Claim.lane m (ofLanes m l) e = l.getD e 0 % 2 ^ laneBits m :=
  lane_ofLanes m l h e

/-- Lanes moved: the new lane where active, the kept one elsewhere, and no flag. -/
theorem lane_of_moveLanes {m : Nat} {on : List Bool} {act : Nat → Bool} {keep : Row} {res : List Nat} {r : Flight}
    (ho : on.length = laneCount m) (hr : res.length = laneCount m) (hon : ∀ e < laneCount m, on.getD e false = act e)
    (hv : r.val = (moveLanes m on keep res).row) (hf : r.flags = BitVec.ofNat 5 (moveLanes m on keep res).fl) :
    r.flags = 0#5 ∧ ∀ e < laneCount m,
      Claim.lane m r.val e = if act e then res.getD e 0 % 2 ^ laneBits m else Claim.lane m keep e := by
  have hget : ∀ e, (res.map fun x => (x, 0)).getD e (0, 0) = (res.getD e 0, 0) := fun e => List.getD_map res 0 fun x => (x, 0)
  obtain ⟨-, -, hlane, hflag⟩ :=
    VRes.of_pick m on (lanes m keep) (res.map fun x => (x, 0)) ho (length_lanes m keep) (by simpa using hr)
  refine ⟨?_, fun e he => ?_⟩
  · have hzero : (moveLanes m on keep res).fl = 0 := by
      refine Nat.zero_of_testBit_eq_false fun k => Bool.eq_false_iff.2 fun hk => ?_
      obtain ⟨e, -, -, hbit⟩ := (hflag k).1 hk
      rw [hget, Nat.zero_testBit] at hbit
      cases hbit
    rw [hf, hzero]
  · rw [Claim.lane, hv, moveLanes, hlane e he, hon e he, hget, getD_lanes_eq_lane keep he]
    split
    · rfl
    · exact claimLane_mod m keep e

/-! ### Bytes of two entries (R176) -/

/-- A bit of two numbers side by side, the lower one `w` bits wide. -/
theorem testBit_toNat_add_shiftLeft {w : Nat} (a : BitVec w) (b j : Nat) :
    (a.toNat + b <<< w).testBit j = if j < w then a.getLsbD j else b.testBit (j - w) := by
  rw [Nat.shiftLeft_eq, Nat.add_comm, Nat.mul_comm, Nat.testBit_two_pow_mul_add _ a.isLt]
  rfl

/-- A bit of a byte of an entry. -/
theorem testBit_byte (r : Row) (i k : Nat) : (Claim.lane 15 r i).testBit k = (decide (k < 8) && r.getLsbD (8 * i + k)) := by
  rw [Claim.lane, show laneBits 15 = 8 from rfl, Nat.testBit_mod_two_pow, Nat.testBit_div_two_pow, BitVec.getLsbD,
    Nat.add_comm k]

/-- A byte of 256 bytes taken from the `n`-th on of two entries side by side. -/
theorem byte_rotated (a b : Row) (n i : Nat) (hi : i < 256) :
    Claim.lane 15 (BitVec.ofNat 2048 ((a.toNat + b.toNat <<< 2048) >>> (8 * n))) i =
      if n + i < 256 then Claim.lane 15 a (n + i) else Claim.lane 15 b (n + i - 256) := by
  refine Nat.eq_of_testBit_eq fun k => ?_
  rw [apply_ite (Nat.testBit · k)]
  simp only [testBit_byte, BitVec.getLsbD_ofNat, Nat.testBit_shiftRight]
  by_cases hk : k < 8
  · rw [testBit_toNat_add_shiftLeft, decide_eq_true (show 8 * i + k < 2048 by omega)]
    by_cases h : n + i < 256
    · rw [if_pos h, if_pos (by omega), show 8 * (n + i) + k = 8 * n + (8 * i + k) by omega, Bool.true_and]
    · rw [if_neg h, if_neg (by omega), show 8 * (n + i - 256) + k = 8 * n + (8 * i + k) - 2048 by omega, Bool.true_and]; rfl
  · simp [hk]

/-! ### The instructions -/

/-- An instruction with two sources that moves lanes: `res` where active, those of `keep` elsewhere. -/
theorem vec_of_vec3_moveLanes {i : Instr} {s : State} {f : V3} {lat : Nat} {g : List Bool → Entry → Entry → VRes} {v : VRes}
    {keep : Row} {res : List Nat} {lane : Nat → Nat} (h : exec i s = s.vec3 f lat g)
    (hv : g (active f.fmt.toNat (s.pl.mask f.cl.toNat f.pred)) (s.pl.operand f.cl.toNat f.va.toNat f.fmt.toNat)
      (s.pl.operand f.cl.toNat f.vb.toNat f.fmt.toNat) = v) (hc : v.cause = none)
    (hrow : v.row = (moveLanes f.fmt.toNat (active f.fmt.toNat (s.pl.mask f.cl.toNat f.pred)) keep res).row)
    (hfl : v.fl = (moveLanes f.fmt.toNat (active f.fmt.toNat (s.pl.mask f.cl.toNat f.pred)) keep res).fl)
    (hr : res.length = laneCount f.fmt.toNat)
    (hlane : ∀ e < laneCount f.fmt.toNat, lane e = if Claim.active s.pl f.cl.toNat f.pred f.fmt.toNat e
      then res.getD e 0 % 2 ^ laneBits f.fmt.toNat else Claim.lane f.fmt.toNat keep e) :
    Claim.Vec i s f.ar f.cl.toNat [(f.va, f.pa), (f.vb, f.pb)] [] lat (.vq (16 * f.cl.toNat + f.vd.toNat))
      fun r => r.flags = 0#5 ∧ ∀ e < laneCount f.fmt.toNat, Claim.lane f.fmt.toNat r.val e = lane e := by
  refine vec_of_vec3 h hv hc fun r hval hflags _ => ?_
  obtain ⟨hzero, hmoved⟩ := lane_of_moveLanes (by simp) hr (getD_active_mask s.pl f.cl.toNat f.pred f.fmt.toNat)
    (hval.trans hrow) (hflags.trans (congrArg _ hfl))
  exact ⟨hzero, fun e he => (hmoved e he).trans (hlane e he).symm⟩

/-- Settles O30: VSHFL, VSEL, VPERM and VBCST by the lanes they move, VMOV whole, VROT byte by byte. -/
theorem vectorMoveResults : Obligations.VectorMoveResults := by
  refine ⟨fun f s => ⟨?_, ?_⟩, fun f s => ?_, fun f s => ?_⟩
  · refine vec_of_vec2 (i := .vmov f) (execVmov.eq_def f s) rfl rfl fun r hv hf ht => ⟨hv, hf, fun hp => ?_⟩
    rw [ht, if_pos hp]; rfl
  · refine vec_of_vec2 (i := .vshfl f) (execVshfl.eq_def f s) rfl rfl fun r hv hf _ => ?_
    obtain ⟨hflags, hval⟩ := lane_of_moveLanes (by simp) (by simp) (getD_active_mask _ _ _ _) hv hf
    refine ⟨hflags, fun e he => (hval e he).trans ?_⟩
    rw [apply_ite (Claim.lane _ _), getD_map_upTo _ he, headD_lanes,
      getD_lanes_eq_lane _ (xor_lt_laneCount he (Nat.mod_lt _ (laneCount_pos _))), claimLane_mod]
  · dsimp only
    simp only [List.forall_mem_cons, List.not_mem_nil, false_imp_iff, implies_true, and_true]
    refine ⟨vec_of_vec3_moveLanes (execVsel.eq_def f s) rfl rfl rfl rfl (by simp) fun e he => ?_,
      vec_of_vec3_moveLanes (execVperm.eq_def f s) rfl rfl rfl rfl (by simp) fun e he => ?_,
      vec_of_vec3_moveLanes (execVbcst.eq_def f s) rfl rfl rfl rfl (by simp) fun e he => ?_⟩
    · rw [getD_lanes_eq_lane _ he, claimLane_mod]
    · rw [apply_ite (Claim.lane _ _), getD_map_lanes _ _ he, getD_lanes_eq_lane _ (Nat.mod_lt _ (laneCount_pos _)), claimLane_mod]
    · rw [apply_ite (Claim.lane _ _), headD_lanes, List.getD_replicate _ he,
        getD_lanes_eq_lane _ (Nat.mod_lt _ (laneCount_pos _)), claimLane_mod]
  · refine vec_of_vector (i := .vrot f) (own := none) (execVrot.eq_def f s) rfl fun r hv hf _ => ⟨hf, fun i hi => ?_⟩
    rw [hv]
    exact byte_rotated _ _ _ i hi

end Sys2Proof.Machine
end

section
/-!
PROOFS. O31: conversions of the common elements (R146, R170 to R172).
-/

namespace Sys2Proof.Machine

open Sys2Proof

/-! ### Converted lanes (R170) -/

/-- A conversion by `g` from format `sm` to format `m`: the common elements where active, an inactive lane kept when the
widths are equal, 0 elsewhere, and the flags of the active common elements. -/
def Converted (sm m : Nat) (on : Nat → Bool) (a : Row) (g : Nat → Elem) (r : Flight) : Prop :=
  (∀ e < laneCount m, Claim.lane m r.val e =
    if e < laneCount sm then
      (if on e then toLane m (g (Claim.code sm a e)).1 % 2 ^ laneBits m
       else if laneBits sm = laneBits m then Claim.lane m a e else 0)
    else 0) ∧
  ∀ k < 5, r.flags.getLsbD k = true ↔
    ∃ e, e < laneCount m ∧ e < laneCount sm ∧ on e = true ∧ (g (Claim.code sm a e)).2.testBit k = true

/-- Formats of one lane width have as many lanes. -/
theorem laneCount_congr {sm m : Nat} (h : laneBits sm = laneBits m) : laneCount sm = laneCount m := by
  rw [laneCount, laneCount, h]

/-- The elements that a conversion gives to `pick`: the common ones converted, then zeros. -/
theorem getD_convElems {sm m : Nat} (a : Row) (g : Nat → Elem) {e : Nat} (he : e < laneCount m) :
    let n := min (laneCount sm) (laneCount m)
    ((((codes sm a).take n).map fun x => (toLane m (g x).1, (g x).2)) ++
      (List.replicate (laneCount m - n) 0).map fun x => (x, 0)).getD e (0, 0) =
      if e < laneCount sm then (toLane m (g (Claim.code sm a e)).1, (g (Claim.code sm a e)).2) else (0, 0) := by
  intro n
  by_cases hs : e < laneCount sm
  · rw [if_pos hs, List.getD_append _ _ _ _ (by simp [n]; omega), List.getD_eq_getElem _ _ (by simp [n]; omega),
      List.getElem_map, List.getElem_take, getElem_codes]
    rfl
  · rw [if_neg hs, List.getD_append_right _ _ _ _ (by simp [n]; omega), List.map_replicate]
    rw [List.getD_eq_getElem?_getD, List.getElem?_getD_replicate_default_eq]

/-- A conversion's result, lane by lane and flag by flag. -/
theorem converted_of_convLanes {sm m : Nat} {on : List Bool} {act : Nat → Bool} {a : Row} {g : Nat → Elem} {r : Flight}
    (ho : on.length = laneCount m) (hon : ∀ e < laneCount m, on.getD e false = act e)
    (hv : r.val = (convLanes sm m on a g).row) (hf : r.flags = BitVec.ofNat 5 (convLanes sm m on a g).fl) :
    Converted sm m act a g r := by
  obtain ⟨-, -, hlane, hflag⟩ := VRes.of_pick m on
    (if laneBits sm = laneBits m then lanes m a else List.replicate (laneCount m) 0) _ ho (by split <;> simp)
    (show ((((codes sm a).take (min (laneCount sm) (laneCount m))).map fun x => (toLane m (g x).1, (g x).2)) ++
      (List.replicate (laneCount m - min (laneCount sm) (laneCount m)) 0).map fun x => (x, 0)).length = _ by simp)
  refine ⟨fun e he => ?_, fun k hk => ?_⟩
  · rw [Claim.lane, hv, convLanes, hlane e he, hon e he, getD_convElems a g he]
    have hkeep : (if laneBits sm = laneBits m then lanes m a else List.replicate (laneCount m) 0).getD e 0 =
        if laneBits sm = laneBits m then Claim.lane m a e else 0 := by
      split
      · exact getD_lanes_eq_lane a he
      · exact List.getD_replicate _ he
    rw [hkeep]
    by_cases hs : e < laneCount sm
    · rw [if_pos hs, if_pos hs]
      split
      · rfl
      · split
        · exact claimLane_mod m a e
        · exact Nat.zero_mod _
    · have hne : laneBits sm ≠ laneBits m := fun h => hs (laneCount_congr h ▸ he)
      rw [if_neg hs, if_neg hs, if_neg hne, ite_self, Nat.zero_mod]
  · rw [hf, BitVec.getLsbD_ofNat, decide_eq_true hk, Bool.true_and, convLanes, hflag]
    refine exists_congr fun e => and_congr_right fun he => ?_
    rw [hon e he, getD_convElems a g he]
    by_cases hs : e < laneCount sm <;> simp [hs]

/-! ### A result computed first, without and with a deferred cause (R172, R366) -/

/-- A vector instruction without a deferred cause, its result computed first. -/
theorem vec_of_vector_eq {i : Instr} {s : State} {ar : BitVec 2} {cl : Nat} {srcs : List (BitVec 5 × BitVec 1)}
    {own : Option Nat} {lat : Nat} {dest : Dest} {f : Plane → VRes} {v : VRes} {ok : Flight → Prop}
    (h : exec i s = s.vector (cl + 2) ar (srcs.map fun x => src x.1 x.2) own dest lat f) (hv : f s.pl = v)
    (hc : v.cause = none)
    (hok : ∀ r : Flight, r.val = v.row → r.flags = BitVec.ofNat 5 v.fl → r.tag = v.tag.getD (rowTag v.row) → ok r) :
    Claim.Vec i s ar cl srcs own.toList lat dest ok := by
  subst hv; exact vec_of_vector h hc hok

/-- A cause deferred outside a handler (R364, R366). -/
theorem State.defer_outside {s : State} (hin : s.pl.intrap = false) (slot n : Nat) (c : Cause) :
    s.defer slot n c = { s with pl := { s.pl with
      deferred := s.pl.deferred ++ [⟨c, s.pl.tcount + n, reqId slot s.pl.tcount⟩] } } := by
  rw [State.defer, State.modPl, Plane.deferAt, if_neg (by rw [hin]; decide)]

/-- A vector instruction with a deferred cause, outside a handler: its result and its cause fall due together. -/
theorem deferred_of_vector {i : Instr} {s : State} {ar : BitVec 2} {cl : Nat} {srcs : List (BitVec 5 × BitVec 1)}
    {own : Option Nat} {lat more : Nat} {pops : List Nat} {dest : Dest} {f : Plane → VRes} {v : VRes} {ok : Flight → Prop}
    {c : Cause} (h : exec i s = s.vector (cl + 2) ar (srcs.map fun x => src x.1 x.2) own dest lat f) (hv : f s.pl = v)
    (hc : v.cause = some c) (hin : s.pl.intrap = false)
    (hok : ∀ r : Flight, r.val = v.row → r.flags = BitVec.ofNat 5 v.fl → ok r)
    (hpops : own.toList ++ (srcs.filterMap fun x => if x.2 = 1#1 then none else srcQueue cl x.1.toNat) = pops)
    (hmore : (if srcs.any fun x => decide (16 ≤ x.1.toNat ∧ x.1.toNat < 24) then 1 else 0) = more)
    (hsrc : ∀ x ∈ srcs, ∀ q, srcQueue cl x.1.toNat = some q → s.pl.queue q ≠ [])
    (hown : ∀ q, own = some q → s.pl.queue q ≠ []) (hdest : ∀ q, dest = .vq q → s.pl.pushFault q 1 pops = none) :
    ∃ t r, Claim.Local i s t ar ∧ Claim.Due s r ar (lat + more) dest ∧ ok r ∧
      t.pl = { s.pl with popped := s.pl.popped ++ pops, flight := s.pl.flight ++ [r],
                         deferred := s.pl.deferred ++ [⟨c, s.pl.tcount + (lat + more), reqId (cl + 2) s.pl.tcount⟩] } := by
  subst hv hpops hmore
  have hp := s.vector_pass (cl + 2) ar (srcs.map fun x => src x.1 x.2) own dest lat f
    (fun y hy q hq => by obtain ⟨x, hx, rfl⟩ := List.mem_map.1 hy; exact hsrc x hx q hq) hown
    (fun q hq => by rw [Nat.add_sub_cancel, popsOf_sources]; exact hdest q hq)
  obtain ⟨b, hb⟩ : ∃ b, (s.owe ar).2 = { s with dv := { s.dv with bars := b } } := ⟨_, s.owe_eq ar⟩
  rw [← h] at hp
  simp only [hc, crossLat_sources, popsOf_sources, State.owe_fst, Nat.add_sub_cancel, hb] at hp
  rw [State.defer_outside (by exact hin)] at hp
  refine ⟨_, ?r, ⟨hp, ?device⟩, ?due, ?computed, ?plane⟩
  case plane => simp only [State.result_pl, State.modPl_pl]; rfl
  case device => rw [hb]; rfl
  case due => exact ⟨rfl, rfl, rfl, rfl⟩
  case computed => exact hok _ rfl rfl

/-! ### VDQNT and VQNT (R146, R172) -/

/-- VDQNT with an accepted target is a conversion by `dequantise`. -/
theorem execVdqnt_eq (f : VDq) (s : State) {k : Scale} {t : Nat} (hk : vget s.pl.ks f.ks.toNat ⟨0#64, 0#32⟩ = k)
    (ht : bitsOf k.w.toNat 32 4 = t) (hok : scaleTgtOk t = true) :
    ∃ F : Plane → VRes, execVdqnt f s = s.vector (f.cl.toNat + 2) f.ar [src f.va f.pa] none
      (.vq (16 * f.cl.toNat + f.vd.toNat)) 4 F ∧
      F s.pl = convLanes t f.fmt.toNat (active f.fmt.toNat (s.pl.mask f.cl.toNat f.pred))
        (s.pl.operand f.cl.toNat f.va.toNat t).data (dequantise t f.fmt.toNat (bitsOf k.w.toNat 0 32)) := by
  refine ⟨_, execVdqnt.eq_def f s, ?_⟩
  subst hk ht
  exact if_neg (by simp [hok])


/-- Whether VQNT's element `e` raises RESCALE: an active common element whose quantisation by `g` to format `t` does. -/
def vqntOffends (f : VQn) (s : State) (t : Nat) (g : Nat → Elem × Bool) (e : Nat) : Bool :=
  decide (e < laneCount f.fmt.toNat) && decide (e < laneCount t) && Claim.active s.pl f.cl.toNat f.pred t e &&
    (g (Claim.code f.fmt.toNat (s.pl.operand f.cl.toNat f.va.toNat f.fmt.toNat).data e)).2

/-- The elements among which VQNT looks for the first that offends. -/
def vqntPairs (f : VQn) (p : Plane) (t : Nat) : List (Bool × Nat) :=
  ((active t (p.mask f.cl.toNat f.pred)).zip (codes f.fmt.toNat (p.operand f.cl.toNat f.va.toNat f.fmt.toNat).data)).take
    (min (laneCount f.fmt.toNat) (laneCount t))

/-- What VQNT computes with an accepted target: the conversion, and the cause of the first element that offends. -/
def vqntResult (f : VQn) (p : Plane) (t : Nat) (g : Nat → Elem × Bool) : VRes :=
  { convLanes f.fmt.toNat t (active t (p.mask f.cl.toNat f.pred)) (p.operand f.cl.toNat f.va.toNat f.fmt.toNat).data
      (fun c => (g c).1) with
    cause := ((vqntPairs f p t).findIdx? fun x => x.1 && (g x.2).2).map fun e =>
      ⟨0x28#8, BitVec.ofNat 64 (e % 256 + f.ks.toNat <<< 8 + f.cl.toNat <<< 11)⟩ }

section
variable {f : VQn} {s : State} {t : Nat} {g : Nat → Elem × Bool}

/-- They are the common elements. -/
theorem length_vqntPairs (p : Plane) : (vqntPairs f p t).length = min (laneCount f.fmt.toNat) (laneCount t) := by
  simp [vqntPairs]

/-- An element of VQNT's list offends as the claim says. -/
theorem vqntPairs_test {e : Nat} (he : e < (vqntPairs f s.pl t).length) :
    ((vqntPairs f s.pl t)[e].1 && (g (vqntPairs f s.pl t)[e].2).2) = vqntOffends f s t g e := by
  rw [length_vqntPairs, lt_min_iff] at he
  obtain ⟨hsource, htarget⟩ := he
  have hactive := getD_active_mask s.pl f.cl.toNat f.pred t e htarget
  rw [List.getD_eq_getElem _ _ (by simpa using htarget)] at hactive
  simp only [vqntPairs, List.getElem_take, List.getElem_zip, hactive, getElem_codes, vqntOffends, hsource, htarget,
    decide_true, Bool.true_and]
  rfl

/-- VQNT defers no cause when no element offends. -/
theorem vqntResult_cause_none (h : ∀ e, vqntOffends f s t g e = false) : (vqntResult f s.pl t g).cause = none := by
  refine Option.map_eq_none_iff.2 (List.findIdx?_eq_none_iff.2 fun x hx => ?_)
  obtain ⟨e, he, rfl⟩ := List.getElem_of_mem hx
  rw [vqntPairs_test he, h e]

/-- VQNT defers RESCALE of the first element that offends. -/
theorem vqntResult_cause_some {e : Nat} (he : vqntOffends f s t g e = true) (hfirst : ∀ i < e, vqntOffends f s t g i = false) :
    (vqntResult f s.pl t g).cause = some ⟨0x28#8, BitVec.ofNat 64 (e + f.ks.toNat * 256 + f.cl.toNat * 2048)⟩ := by
  have hlt : e < laneCount f.fmt.toNat ∧ e < laneCount t := by
    simp only [vqntOffends, Bool.and_eq_true, decide_eq_true_eq] at he
    exact he.1.1
  have hlen : e < (vqntPairs f s.pl t).length := by rw [length_vqntPairs]; exact lt_min hlt.1 hlt.2
  have hbyte : e % 256 = e := Nat.mod_eq_of_lt (hlt.1.trans_le (laneCount_le _))
  have hfound : (vqntPairs f s.pl t).findIdx? (fun x => x.1 && (g x.2).2) = some e :=
    List.findIdx?_eq_some_iff_getElem.2 ⟨hlen, (vqntPairs_test hlen).trans he, fun i hi => by
      rw [vqntPairs_test (hi.trans hlen), hfirst i hi]; decide⟩
  rw [vqntResult, hfound, Option.map_some, hbyte, Nat.shiftLeft_eq, Nat.shiftLeft_eq]

/-- VQNT's lanes and flags. -/
theorem converted_of_vqntResult {r : Flight} (hv : r.val = (vqntResult f s.pl t g).row)
    (hf : r.flags = BitVec.ofNat 5 (vqntResult f s.pl t g).fl) :
    Converted f.fmt.toNat t (Claim.active s.pl f.cl.toNat f.pred t)
      (s.pl.operand f.cl.toNat f.va.toNat f.fmt.toNat).data (fun c => (g c).1) r :=
  converted_of_convLanes (by simp) (getD_active_mask _ _ _ _) hv hf

end

/-- VQNT with an accepted target is a vector instruction with `vqntResult`. -/
theorem execVqnt_eq (f : VQn) (s : State) {k : Scale} {t : Nat} {g : Nat → Elem × Bool}
    (hk : vget s.pl.ks f.ks.toNat ⟨0#64, 0#32⟩ = k) (ht : bitsOf k.w.toNat 32 4 = t)
    (hg : quantise f.fmt.toNat t (bitsOf k.w.toNat 0 32) k.rcp.toNat (bitsOf k.w.toNat 40 2) (f.chk == 1#1) = g)
    (hok : scaleTgtOk t = true) :
    ∃ F : Plane → VRes, execVqnt f s = s.vector (f.cl.toNat + 2) f.ar [src f.va f.pa] none
      (.vq (16 * f.cl.toNat + f.vd.toNat)) 4 F ∧ F s.pl = vqntResult f s.pl t g := by
  refine ⟨_, execVqnt.eq_def f s, ?_⟩
  subst hk ht hg
  exact if_neg (by simp [hok])

/-- Settles O31: each conversion by its lanes; VQNT's cause is that of the first element found. -/
theorem vectorConversionResults : Obligations.VectorConversionResults := by
  refine ⟨fun f s => ?_, fun f s => ?_, fun f s => ?_⟩
  · refine vec_of_vector (i := .vcvt f) (own := none) (execVcvt.eq_def f s) rfl fun r hv hf _ => ?_
    exact converted_of_convLanes (by simp) (getD_active_mask _ _ _ _) hv hf
  · intro cl m k t a ht
    obtain ⟨F, hexec, hF⟩ := execVdqnt_eq f s (k := k) (t := t) rfl rfl ht
    exact vec_of_vector_eq (i := .vdqnt f) (own := none) hexec hF rfl fun r hv hf _ =>
      converted_of_convLanes (by simp) (getD_active_mask _ _ _ _) hv hf
  · intro cl m q k t a on g ok bad ht
    obtain ⟨F, hexec, hF⟩ := execVqnt_eq f s (k := k) (t := t) (g := g) rfl rfl rfl ht
    refine ⟨fun hb => ?_, fun e hb hfirst hin => ?_⟩
    · exact vec_of_vector_eq (i := .vqnt f) (own := none) hexec hF (vqntResult_cause_none hb) fun r hv hf _ =>
        converted_of_vqntResult hv hf
    · intro more pops hsrc hpush
      exact deferred_of_vector (own := none) (srcs := [(f.va, f.pa)]) hexec hF (vqntResult_cause_some hb hfirst) hin
        (fun r hv hf => converted_of_vqntResult hv hf) rfl (by simp [more]) (by simpa using hsrc) (by simp)
        (by rintro _ ⟨⟩; exact hpush)

end Sys2Proof.Machine
end

section
/-!
PROOFS. O32: VRNG's words in lanes, bytes and scaled values (R169).
-/

namespace Sys2Proof.Machine

open Sys2Proof

/-! ### The words of the generator -/

/-- The four words of a counter are 32 bits wide. -/
def PhiloxWords (c : Nat × Nat × Nat × Nat) : Prop := c.1 < 2 ^ 32 ∧ c.2.1 < 2 ^ 32 ∧ c.2.2.1 < 2 ^ 32 ∧ c.2.2.2 < 2 ^ 32

/-- A round keeps the words at 32 bits. -/
theorem philoxWords_round {c : Nat × Nat × Nat × Nat} {k0 k1 : Nat} (hc : PhiloxWords c) (h0 : k0 < 2 ^ 32) (h1 : k1 < 2 ^ 32) :
    PhiloxWords (philoxRound c k0 k1) := by
  obtain ⟨ha, hb, hx, hd⟩ := hc
  have hhigh : ∀ {m x : Nat}, m < 2 ^ 32 → x < 2 ^ 32 → m * x / 2 ^ 32 < 2 ^ 32 := fun hm hx =>
    Nat.div_lt_of_lt_mul (Nat.mul_lt_mul'' hm hx)
  have hmod : ∀ x, x % 2 ^ 32 < 2 ^ 32 := fun x => Nat.mod_lt x (by decide)
  have hp := hhigh (m := 0xD2511F53) (by decide) ha
  have hq := hhigh (m := 0xCD9E8D57) (by decide) hx
  simp only [PhiloxWords, philoxRound]
  exact ⟨Nat.xor_lt_two_pow (Nat.xor_lt_two_pow hq hb) h0, hmod _, Nat.xor_lt_two_pow (Nat.xor_lt_two_pow hp hd) h1, hmod _⟩

/-- One more round. Compared as applications of `philoxGo`, the two sides make the kernel match a key with its bump, a
huge successor; with the recursion laid open on both sides it does not meet the keys. -/
theorem philoxGo_succ (n : Nat) (c : Nat × Nat × Nat × Nat) (k0 k1 : Nat) : philoxGo (n + 1) c k0 k1 =
    philoxGo n (philoxRound c k0 k1) ((k0 + 0x9E3779B9) % 2 ^ 32) ((k1 + 0xBB67AE85) % 2 ^ 32) := by
  delta philoxGo Nat.brecOn
  rfl

/-- So do all rounds. -/
theorem philoxWords_go (n : Nat) {c : Nat × Nat × Nat × Nat} {k0 k1 : Nat} (hc : PhiloxWords c) (h0 : k0 < 2 ^ 32)
    (h1 : k1 < 2 ^ 32) : PhiloxWords (philoxGo n c k0 k1) := by
  induction n generalizing c k0 k1 with
  | zero => exact hc
  | succ n ih => rw [philoxGo_succ]; exact ih (philoxWords_round hc h0 h1) (Nat.mod_lt _ (by decide)) (Nat.mod_lt _ (by decide))

/-- The words of a block are 32 bits wide. -/
theorem lt_of_mem_philoxBlock {x k0 k1 w : Nat} (h0 : k0 < 2 ^ 32) (h1 : k1 < 2 ^ 32) (hw : w ∈ philoxBlock x k0 k1) :
    w < 2 ^ 32 := by
  have hbits : ∀ lo, bitsOf x lo 32 < 2 ^ 32 := fun lo => Nat.mod_lt _ (by decide)
  obtain ⟨ha, hb, hc, hd⟩ := philoxWords_go 10 (c := (bitsOf x 0 32, bitsOf x 32 32, bitsOf x 64 32, bitsOf x 96 32))
    ⟨hbits 0, hbits 32, hbits 64, hbits 96⟩ h0 h1
  simp only [philoxBlock, List.mem_cons, List.not_mem_nil, or_false] at hw
  rcases hw with rfl | rfl | rfl | rfl
  exacts [ha, hb, hc, hd]

/-- VRNG has 64 words. -/
theorem length_rngWords (bl : Row) : (rngWords bl).length = 64 := by
  simp [rngWords, philoxBlock, upTo_eq, List.length_flatMap]

/-- VRNG's words are 32 bits wide. -/
theorem getD_rngWords_lt (bl : Row) (e : Nat) : (rngWords bl).getD e 0 < 2 ^ 32 := by
  have hall : ∀ w ∈ rngWords bl, w < 2 ^ 32 := by
    intro w hw
    obtain ⟨j, -, hj⟩ := List.mem_flatMap.1 hw
    exact lt_of_mem_philoxBlock (Nat.mod_lt _ (by decide)) (Nat.mod_lt _ (by decide)) hj
  by_cases he : e < (rngWords bl).length
  · rw [List.getD_eq_getElem _ _ he]
    exact hall _ (List.getElem_mem he)
  · rw [List.getD_eq_default _ _ (by omega)]
    decide

/-! ### Scaled words -/

/-- A number of 24 bits with its leading bit shifted to the top is one of 24 bits. -/
theorem shiftLeft_log2_lt {m : Nat} (hm : m < 2 ^ 24) : m <<< (23 - Nat.log2 m) < 2 ^ 24 := by
  rcases Nat.eq_zero_or_pos m with rfl | hpos
  · decide
  have hl : Nat.log2 m < 24 := (Nat.log2_lt hpos.ne').2 hm
  rw [Nat.shiftLeft_eq, show 24 = Nat.log2 m + 1 + (23 - Nat.log2 m) by omega, Nat.pow_add]
  exact Nat.mul_lt_mul_of_pos_right Nat.lt_log2_self (Nat.two_pow_pos _)

/-- The code of a positive value within FP32's normal range is 32 bits wide. -/
theorem packF_fp32_lt {m : Nat} {e : Int} (hpos : 0 < m) (hm : m < 2 ^ 24) (hlow : -127 < e) (hhigh : e ≤ 104) :
    packF fp32 false m e < 2 ^ 32 := by
  have hl : Nat.log2 m < 24 := (Nat.log2_lt hpos.ne').2 hm
  have hfr := shiftLeft_log2_lt hm
  have hcode : packF fp32 false m e = ((Nat.log2 m : Int) + e + 127).toNat * 2 ^ 23 + (m <<< (23 - Nat.log2 m) - 2 ^ 23) := by
    have hnormal : ¬(Nat.log2 m : Int) + e + fp32.bias ≤ 0 := by simp only [fp32]; omega
    have hshort : (Nat.log2 m : Int) ≤ fp32.fb := by simp only [fp32]; omega
    simp only [packF, if_neg hpos.ne', if_neg hnormal, if_pos hshort]
    simp [b2n, fp32, Nat.shiftLeft_eq]
  rw [hcode]
  omega

/-- A number of 24 bits times 2^-24 is rounded to a code of 32 bits. -/
theorem arithRound_scaled_lt {u : Nat} (hu : u < 2 ^ 24) : (arithRound fp32 (.fin false u (-24))).1 < 2 ^ 32 := by
  rcases Nat.eq_zero_or_pos u with rfl | hpos
  · decide
  have hl : Nat.log2 u < 24 := (Nat.log2_lt hpos.ne').2 hu
  have hrne : rneF fp32 u (-24) false = ⟨u <<< (23 - Nat.log2 u), (Nat.log2 u : Int) - 47, false⟩ := by
    have hmax : max ((Nat.log2 u : Int) + -24 - fp32.fb) (1 - (fp32.bias : Int) - fp32.fb) = (Nat.log2 u : Int) - 47 := by
      simp only [fp32]; omega
    rw [rneF, if_neg hpos.ne', hmax, rneAt, if_pos (by omega)]
    congr 2
    omega
  have hshift : 0 < u <<< (23 - Nat.log2 u) := by
    rw [Nat.shiftLeft_eq]; exact Nat.mul_pos hpos (Nat.two_pow_pos _)
  rw [arithRound, arithMag, hrne]
  split
  · decide
  · exact packF_fp32_lt hshift (shiftLeft_log2_lt hu) (by dsimp only; omega) (by dsimp only; omega)

/-! ### Bytes of words -/

/-- A byte of an entry, in its word. -/
theorem byte_eq_of_word (r : Row) (e : Nat) : Claim.lane 15 r e = Claim.lane 5 r (e / 4) / 2 ^ (8 * (e % 4)) % 256 := by
  have hexp : 8 * e = 32 * (e / 4) + 8 * (e % 4) := by omega
  have hword : 2 ^ 32 = 2 ^ (8 * (e % 4)) * 2 ^ (32 - 8 * (e % 4)) := by rw [← Nat.pow_add]; congr 1; omega
  show r.toNat / 2 ^ (8 * e) % 2 ^ 8 = r.toNat / 2 ^ (32 * (e / 4)) % 2 ^ 32 / 2 ^ (8 * (e % 4)) % 2 ^ 8
  rw [hexp, Nat.pow_add, ← Nat.div_div_eq_div_mul, hword, Nat.mod_mul_right_div_self,
    Nat.mod_mod_of_dvd _ (Nat.pow_dvd_pow 2 (by omega))]

/-! ### VRNG -/

/-- A lane of the zero entry. -/
theorem claimLane_zero (m e : Nat) : Claim.lane m 0#2048 e = 0 := by
  rw [Claim.lane, BitVec.toNat_zero, Nat.zero_div, Nat.zero_mod]

/-- VRNG's result where active, 0 elsewhere, without flags; `row` holds its words. -/
theorem vec_of_vrng {f : VRn} {s : State} {n : Nat} {row : Row} {v : Nat → Nat} (hn : laneCount f.fmt.toNat = n)
    (hrow : (if f.fmt.toNat = 12 then ofLanes 12 ((rngWords (vget s.pl.bl 1 0#2048)).map fun u =>
      (arithRound fp32 (.fin false (u / 256) (-24))).1) else ofLanes 5 (rngWords (vget s.pl.bl 1 0#2048))) = row)
    (hv : ∀ e < n, Claim.lane f.fmt.toNat row e = v e) :
    Claim.Vec (.vrng f) s f.ar 1 [] [] 6 (.vq (16 + f.vd.toNat)) fun r => r.flags = 0#5 ∧ ∀ e < n,
      Claim.lane f.fmt.toNat r.val e = if Claim.active s.pl 1 f.pred f.fmt.toNat e then v e else 0 := by
  subst hn hrow
  refine vec_of_vector (cl := 1) (srcs := []) (own := none) (execVrng.eq_def f s) rfl fun r hval hf _ => ?_
  obtain ⟨hflags, hlane⟩ := lane_of_moveLanes (by simp) (by simp) (getD_active_mask s.pl 1 f.pred _) hval hf
  refine ⟨hflags, fun e he => (hlane e he).trans ?_⟩
  rw [getD_lanes_eq_lane _ he, claimLane_mod, hv e he, claimLane_zero]

/-- A lane of 32 bits of an entry made of the generator's words. -/
theorem lane_rngWords (bl : Row) (e : Nat) : Claim.lane 5 (ofLanes 5 (rngWords bl)) e = (rngWords bl).getD e 0 := by
  rw [claimLane_ofLanes (length_rngWords bl).le]
  exact Nat.mod_eq_of_lt (getD_rngWords_lt bl e)

/-- Settles O32: the words in the lanes of 32 bits or their bytes in those of 8; the published block is computed. -/
theorem vectorGeneratorResults : Obligations.VectorGeneratorResults := by
  refine ⟨fun f s hfmt => ?_, fun f s hfmt => ?_, by decide +kernel⟩
  · intro m w
    rcases hfmt with hfmt | hfmt
    · have hm : f.fmt.toNat = 5 := congrArg BitVec.toNat hfmt
      refine vec_of_vrng (by rw [hm]; rfl) (if_neg (by rw [hm]; decide)) fun e _ => ?_
      rw [hm, if_pos hfmt, lane_rngWords]
    · have hm : f.fmt.toNat = 12 := congrArg BitVec.toNat hfmt
      refine vec_of_vrng (by rw [hm]; rfl) (if_pos hm) fun e he => ?_
      rw [hm, if_neg (by rw [hfmt]; decide), claimLane_ofLanes (by rw [List.length_map, length_rngWords]; rfl),
        List.getD_eq_getElem _ _ (by simpa [length_rngWords] using he), List.getElem_map,
        ← List.getD_eq_getElem _ 0 (by simpa [length_rngWords] using he)]
      exact Nat.mod_eq_of_lt (arithRound_scaled_lt (Nat.div_lt_of_lt_mul (getD_rngWords_lt _ e)))
  · have hm : f.fmt.toNat = 15 := congrArg BitVec.toNat hfmt
    simp only [← hm]
    refine vec_of_vrng (by rw [hm]; rfl) (if_neg (by rw [hm]; decide)) fun e _ => ?_
    rw [hm, byte_eq_of_word, lane_rngWords]

end Sys2Proof.Machine
end

section
/-!
PROOFS. O33: the reductions, the fixed tree as a sum, as an extreme and as it is (R150, R177).
-/

namespace Sys2Proof.Machine

open Sys2Proof

/-! ### Integers modulo 2^n -/

/-- A wrapped integer, as an integer. -/
theorem natCast_wrap (n : Nat) (x : Int) : (wrap n x : Int) = x % 2 ^ n := by
  rw [wrap, Int.toNat_of_nonneg (Int.emod_nonneg x (by positivity))]

/-- A wrapped integer has `n` bits. -/
theorem wrap_lt (n : Nat) (x : Int) : wrap n x < 2 ^ n := by
  zify
  rw [natCast_wrap]
  exact Int.emod_lt_of_pos x (by positivity)

/-- A sum of wrapped integers. -/
theorem wrap_add (n : Nat) (x y : Int) : (wrap n x + wrap n y) % 2 ^ n = wrap n (x + y) := by
  zify
  rw [natCast_wrap, natCast_wrap, natCast_wrap, ← Int.add_emod]

/-! ### The tree (R150) -/

/-- The tree over a list of 2^k values is the claims' tree. -/
theorem treeGo_eq_tree (g : Nat → Nat → Elem) (k : Nat) (l : List Nat) (fl : Nat) (x : Nat → Nat) (hl : l.length = 2 ^ k)
    (hx : ∀ e < 2 ^ k, l.getD e 0 = x e) : (treeGo g k l fl).1 = Claim.tree (fun a b => (g a b).1) k x := by
  induction k generalizing l fl x with
  | zero =>
    rw [treeGo, Claim.tree, ← hx 0 (by decide)]
    cases l <;> rfl
  | succ k ih =>
    have hhalf : l.length / 2 = 2 ^ k := by rw [hl, Nat.pow_succ]; omega
    rw [treeGo, Claim.tree, hhalf]
    refine ih _ _ _ (by simp [hl, Nat.pow_succ]; omega) fun e he => ?_
    have hlow := hx e (by rw [Nat.pow_succ]; omega)
    have hhigh := hx (e + 2 ^ k) (by rw [Nat.pow_succ]; omega)
    rw [List.getD_eq_getElem _ _ (by rw [hl, Nat.pow_succ]; omega)] at hlow hhigh
    rw [List.getD_eq_getElem _ _ (by simp [hl, Nat.pow_succ]; omega), List.getElem_map, List.getElem_zipWith, List.getElem_take,
      List.getElem_drop]
    simp only [hlow, Nat.add_comm (2 ^ k), hhigh]

/-- The tree raises no flag when no step does. -/
theorem treeGo_flags (g : Nat → Nat → Elem) (hg : ∀ a b, (g a b).2 = 0) (k : Nat) (l : List Nat) : (treeGo g k l 0).2 = 0 := by
  induction k generalizing l with
  | zero => rfl
  | succ k ih =>
    have hfold : ∀ r : List Elem, (∀ x ∈ r, x.2 = 0) → r.foldl (fun a x => a ||| x.2) 0 = 0 := by
      intro r
      induction r with
      | nil => simp
      | cons x t ih => intro h; rw [List.foldl_cons, h x (by simp), Nat.or_self, ih fun y hy => h y (by simp [hy])]
    rw [treeGo, hfold]
    · exact ih _
    · intro x hx
      obtain ⟨i, hi, rfl⟩ := List.getElem_of_mem hx
      rw [List.getElem_zipWith]
      exact hg _ _

/-- A tree of sums modulo 2^n gives the sum of its leaves modulo 2^n. -/
theorem tree_sum (n k : Nat) (v : Nat → Int) :
    Claim.tree (fun a b => (a + b) % 2 ^ n) k (fun e => wrap n (v e)) = wrap n ((List.range (2 ^ k)).map v).sum := by
  induction k generalizing v with
  | zero => simp [Claim.tree]
  | succ k ih =>
    have hsplit : ((List.range (2 ^ (k + 1))).map v).sum = ((List.range (2 ^ k)).map fun e => v e + v (e + 2 ^ k)).sum := by
      rw [Nat.pow_succ, Nat.mul_two, List.range_add, List.map_append, List.sum_append, List.map_map, List.sum_map_add]
      simp only [Function.comp_def, Nat.add_comm]
    rw [Claim.tree, hsplit, ← ih]
    simp only [wrap_add]

/-- What holds of a tree's leaves and is kept by its steps holds of its root. -/
theorem tree_induction {g : Nat → Nat → Nat} {P : Nat → Prop} (k : Nat) {x : Nat → Nat} (hx : ∀ e < 2 ^ k, P (x e))
    (hg : ∀ a b, P a → P b → P (g a b)) : P (Claim.tree g k x) := by
  induction k generalizing x with
  | zero => exact hx 0 (by decide)
  | succ k ih =>
    exact ih fun e he => hg _ _ (hx e (by rw [Nat.pow_succ]; omega)) (hx _ (by rw [Nat.pow_succ]; omega))

/-- The value at the root of a tree of `max` or `min`: it is one of the leaves, and it bounds each. -/
theorem tree_bound {g : Nat → Nat → Nat} {R : Nat → Nat → Prop} (k : Nat) {x : Nat → Nat} (hrefl : ∀ a, R a a)
    (htrans : ∀ a b c, R a b → R b c → R a c) (hleft : ∀ a b, R a (g a b)) (hright : ∀ a b, R b (g a b)) :
    ∀ e < 2 ^ k, R (x e) (Claim.tree g k x) := by
  induction k generalizing x with
  | zero =>
    intro e he
    obtain rfl : e = 0 := by omega
    exact hrefl _
  | succ k ih =>
    intro e he
    by_cases h : e < 2 ^ k
    · exact htrans _ _ _ (hleft _ _) (ih (x := fun i => g (x i) (x (i + 2 ^ k))) e h)
    · have hhigh := ih (x := fun i => g (x i) (x (i + 2 ^ k))) (e - 2 ^ k) (by rw [Nat.pow_succ] at he; omega)
      rw [show e - 2 ^ k + 2 ^ k = e by omega] at hhigh
      exact htrans _ _ _ (hright _ _) hhigh

/-! ### Integer elements (R131, R164) -/

/-- An integer element has a bit. -/
theorem intBits_pos (m : Nat) : 0 < intBits m := by
  unfold intBits
  rcases laneBits_cases m with h | h | h <;> split <;> simp [h]

/-- An element's integer is within its format's bounds. -/
theorem intVal_mem_range (m c : Nat) :
    (intRange (isSigned m) (intBits m)).1 ≤ intVal m c ∧ intVal m c ≤ (intRange (isSigned m) (intBits m)).2 := by
  unfold intVal intRange
  cases isSigned m with
  | true =>
    have hlow := BitVec.le_toInt (BitVec.ofNat (intBits m) c)
    have hhigh := BitVec.toInt_lt (x := BitVec.ofNat (intBits m) c)
    simp only [if_true, sgn_eq_toInt]
    omega
  | false =>
    have hlt : ((c % 2 ^ intBits m : Nat) : Int) < 2 ^ intBits m := by exact_mod_cast Nat.mod_lt c (Nat.two_pow_pos _)
    simp only [Bool.false_eq_true, if_false]
    omega

/-- An integer within a format's bounds is its code's. -/
theorem intVal_wrap {m : Nat} {x : Int} (hlow : (intRange (isSigned m) (intBits m)).1 ≤ x)
    (hhigh : x ≤ (intRange (isSigned m) (intBits m)).2) : intVal m (wrap (intBits m) x) = x := by
  unfold intVal
  unfold intRange at hlow hhigh
  cases hs : isSigned m with
  | true =>
    rw [hs] at hlow hhigh
    simp only [if_true] at hlow hhigh ⊢
    have hcode : BitVec.ofNat (intBits m) (wrap (intBits m) x) = BitVec.ofInt (intBits m) x := by
      refine BitVec.eq_of_toNat_eq ?_
      rw [BitVec.toNat_ofNat, Nat.mod_eq_of_lt (wrap_lt _ _), BitVec.toNat_ofInt, wrap]
      norm_cast
    rw [sgn_eq_toInt, hcode]
    exact BitVec.toInt_ofInt_eq_self (intBits_pos m) hlow (by omega)
  | false =>
    rw [hs] at hlow hhigh
    simp only [Bool.false_eq_true, if_false] at hlow hhigh ⊢
    rw [Nat.mod_eq_of_lt (wrap_lt _ _), natCast_wrap]
    exact Int.emod_eq_of_lt hlow (by omega)

/-- An element's integer depends on its low bits alone. -/
theorem intVal_mod (m c : Nat) : intVal m (c % 2 ^ intBits m) = intVal m c := by
  unfold intVal sgn
  rw [Nat.mod_mod]

/-- The lane of an integer format but those of 4 bits is its element. -/
theorem intBits_eq_laneBits {m : Nat} (hm : m ≤ 5) : intBits m = laneBits m := by
  rw [intBits, if_neg (by omega)]

/-! ### The instructions (R177) -/

/-- A reduction: the tree over the active elements, the identity standing for the others, in lane 0. -/
theorem vec_of_reduce {i : Instr} {s : State} {f : V2} {rfmt ident : Nat} {pre : Nat → Nat} {g : Nat → Nat → Elem}
    {ok : Flight → Prop} (h : exec i s = s.reduce f rfmt ident pre g)
    (hok : ∀ r : Flight, r.val.toNat = Claim.tree (fun a b => (g a b).1) (Nat.log2 (laneCount f.fmt.toNat))
        (fun e => if Claim.active s.pl f.cl.toNat f.pred f.fmt.toNat e
          then pre (Claim.code f.fmt.toNat (s.pl.operand f.cl.toNat f.va.toNat f.fmt.toNat).data e) else ident) %
        2 ^ laneBits rfmt → ((∀ a b, (g a b).2 = 0) → r.flags = 0#5) → ok r) :
    Claim.Vec i s f.ar f.cl.toNat [(f.va, f.pa)] [] 6 (.vq (16 * f.cl.toNat + f.vd.toNat)) ok := by
  unfold State.reduce at h
  refine vec_of_vec2 h rfl rfl fun r hv hf _ => hok r ?_ fun hg => ?_
  · dsimp only at hv
    rw [hv, toNat_ofLanes rfmt [_] (laneCount_pos rfmt), packs, packs, Nat.zero_shiftLeft, Nat.add_zero]
    refine congrArg (· % 2 ^ laneBits rfmt) (treeGo_eq_tree g _ _ 0 _ ?_ fun e he => ?_)
    · rw [List.length_zipWith, length_active, length_codes, Nat.min_self]; exact laneCount_eq_two_pow _
    · rw [← laneCount_eq_two_pow] at he
      rw [List.getD_eq_getElem _ _ (by simpa using he), List.getElem_zipWith, getElem_codes,
        ← getD_active_mask _ _ _ _ _ he, List.getD_eq_getElem _ _ (by simpa using he)]
      rfl
  · dsimp only at hf
    rw [hf, treeGo_flags g hg]

/-- `op` chooses of two integers the later in the order `R`. -/
structure Chooses (op : Int → Int → Int) (R : Int → Int → Prop) : Prop where
  choice : ∀ x y, op x y = x ∨ op x y = y
  refl : ∀ x, R x x
  trans : ∀ x y z, R x y → R y z → R x z
  left : ∀ x y, R x (op x y)
  right : ∀ x y, R y (op x y)

theorem chooses_max : Chooses max (· ≤ ·) :=
  ⟨max_choice, le_refl, fun _ _ _ => le_trans, le_max_left, le_max_right⟩

theorem chooses_min : Chooses min (· ≥ ·) :=
  ⟨min_choice, le_refl, fun _ _ _ => ge_trans, min_le_left, min_le_right⟩

/-- The root of a tree that chooses among integers: no active element's is later, and it is that of one of them or the
identity's. -/
theorem tree_extreme {m k : Nat} {op : Int → Int → Int} {R : Int → Int → Prop} {bound : Int} {on : Nat → Bool} {c : Nat → Nat}
    (hop : Chooses op R) (hlow : (intRange (isSigned m) (intBits m)).1 ≤ bound)
    (hhigh : bound ≤ (intRange (isSigned m) (intBits m)).2) :
    let root := intVal m (Claim.tree (fun a b => wrap (intBits m) (op (intVal m a) (intVal m b))) k
      fun e => if on e then c e else wrap (intBits m) bound)
    (∀ e < 2 ^ k, on e = true → R (intVal m (c e)) root) ∧
      ((∃ e < 2 ^ k, on e = true ∧ intVal m (c e) = root) ∨ root = bound) := by
  intro root
  have hstep : ∀ a b, intVal m (wrap (intBits m) (op (intVal m a) (intVal m b))) = op (intVal m a) (intVal m b) := by
    intro a b
    rcases hop.choice (intVal m a) (intVal m b) with h | h
    · rw [h]; exact intVal_wrap (intVal_mem_range m a).1 (intVal_mem_range m a).2
    · rw [h]; exact intVal_wrap (intVal_mem_range m b).1 (intVal_mem_range m b).2
  refine ⟨fun e he hon => ?_, ?_⟩
  · have hbound := tree_bound (R := fun a b => R (intVal m a) (intVal m b)) k
      (x := fun e => if on e then c e else wrap (intBits m) bound)
      (g := fun a b => wrap (intBits m) (op (intVal m a) (intVal m b))) (fun _ => hop.refl _) (fun _ _ _ => hop.trans _ _ _)
      (fun a b => by rw [hstep]; exact hop.left _ _) (fun a b => by rw [hstep]; exact hop.right _ _) e he
    simpa only [hon, if_true] using hbound
  · refine tree_induction (P := fun a => (∃ e < 2 ^ k, on e = true ∧ intVal m (c e) = intVal m a) ∨ intVal m a = bound) k
      (fun e he => ?_) fun a b ha hb => ?_
    · by_cases hon : on e = true
      · exact .inl ⟨e, he, hon, by rw [if_pos hon]⟩
      · exact .inr (by rw [if_neg hon]; exact intVal_wrap hlow hhigh)
    · rw [hstep]
      rcases hop.choice (intVal m a) (intVal m b) with h | h
      · rwa [h]
      · rwa [h]

/-- A result that is such a root, in the lane of an integer format of 8 bits or more. -/
theorem extreme_of_tree {m : Nat} {op : Int → Int → Int} {R : Int → Int → Prop} {bound : Int} {on : Nat → Bool} {c : Nat → Nat}
    {x : Nat} (hm : m ≤ 5) (hop : Chooses op R) (hlow : (intRange (isSigned m) (intBits m)).1 ≤ bound)
    (hhigh : bound ≤ (intRange (isSigned m) (intBits m)).2)
    (hx : x = Claim.tree (fun a b => wrap (intBits m) (op (intVal m a) (intVal m b))) (Nat.log2 (laneCount m))
      (fun e => if on e then c e else wrap (intBits m) bound) % 2 ^ laneBits m) :
    x < 2 ^ intBits m ∧ (∀ e < laneCount m, on e = true → R (intVal m (c e)) (intVal m x)) ∧
      ((∃ e < laneCount m, on e = true ∧ intVal m (c e) = intVal m x) ∨ intVal m x = bound) := by
  have hroot := tree_extreme (k := Nat.log2 (laneCount m)) (on := on) (c := c) hop hlow hhigh
  rw [← intBits_eq_laneBits hm] at hx
  rw [← laneCount_eq_two_pow, ← intVal_mod, ← hx] at hroot
  exact ⟨hx ▸ Nat.mod_lt _ (Nat.two_pow_pos _), hroot⟩

/-- The bounds of a format are in order. -/
theorem intRange_le (m : Nat) : (intRange (isSigned m) (intBits m)).1 ≤ (intRange (isSigned m) (intBits m)).2 :=
  (intVal_mem_range m 0).1.trans (intVal_mem_range m 0).2

/-- The code of −0. -/
theorem packF_neg_zero {m : Nat} (hm : m = 10 ∨ m = 11 ∨ m = 12) : packF (fltOf m) true 0 0 = 2 ^ (laneBits m - 1) := by
  rcases hm with rfl | rfl | rfl <;> rfl

/-- Settles O33: each reduction by its tree; that of sums is the sum, those of extremes bound the elements and choose one. -/
theorem vectorReductionResults : Obligations.VectorReductionResults := by
  intro f s cl m a on V v
  have hcount : 2 ^ Nat.log2 (laneCount m) = laneCount m := (laneCount_eq_two_pow m).symm
  refine ⟨fun hm => ⟨?_, ?_, ?_⟩, fun hm => ⟨?_, ?_⟩⟩
  · refine vec_of_reduce (i := .vradd f) (execVradd.eq_def f s) fun r hv hf => ⟨hf fun _ _ => rfl, ?_⟩
    have hleaf : (fun e => if on e then wrap 32 (v e) else 0) = fun e => wrap 32 (if on e then v e else 0) := by
      funext e; cases on e <;> rfl
    have hsum := tree_sum 32 (Nat.log2 (laneCount m)) fun e => if on e then v e else 0
    rw [← hleaf, hcount] at hsum
    rw [hv]
    exact (congrArg (· % 2 ^ 32) hsum).trans (Nat.mod_eq_of_lt (wrap_lt 32 _))
  · exact vec_of_reduce (i := .vrmax f) (execVrmax.eq_def f s) fun r hv hf =>
      ⟨hf fun _ _ => rfl, extreme_of_tree hm chooses_max le_rfl (intRange_le m) hv⟩
  · exact vec_of_reduce (i := .vrmin f) (execVrmin.eq_def f s) fun r hv hf =>
      ⟨hf fun _ _ => rfl, extreme_of_tree hm chooses_min (intRange_le m) le_rfl hv⟩
  · refine vec_of_reduce (i := .vrfadd f) (execVrfadd.eq_def f s) fun r hv _ => ?_
    rw [hv, packF_neg_zero hm]
    rfl
  · exact vec_of_reduce (i := .vrfmax f) (execVrfmax.eq_def f s) fun r hv _ => hv

end Sys2Proof.Machine
end

section
/-!
PROOFS. O34: the sparse group (R178 to R180).
-/

namespace Sys2Proof.Machine

open Sys2Proof

/-! ### Maps of whole lanes (R178, R180) -/

/-- An element that fills its lane is its lane. -/
theorem claimCode_eq_lane {m : Nat} (hm : elemBits m = laneBits m) (r : Row) (e : Nat) : Claim.code m r e = Claim.lane m r e := by
  rw [Claim.code, hm, claimLane_mod]

/-- The set bits of a number's low `n`. -/
theorem popcount_eq_countP_testBit (n x : Nat) : popcount n x = (List.range n).countP fun i => x.testBit i := by
  rw [popcount, upTo_eq, List.countP_eq_length_filter, List.range_eq_range']

/-- A compare-and-swap maps the pairs of its sources. -/
theorem vec_of_vecSwap {i : Instr} {s : State} {f : V3} {loser : Bool} (h : exec i s = s.vecSwap f loser) :
    let a := (s.pl.operand f.cl.toNat f.va.toNat f.fmt.toNat).data
    let b := (s.pl.operand f.cl.toNat f.vb.toNat f.fmt.toNat).data
    Claim.Vec i s f.ar f.cl.toNat [(f.va, f.pa), (f.vb, f.pb)] [] 4 (.vq (16 * f.cl.toNat + f.vd.toNat))
      (Claim.Elementwise 5 (Claim.active s.pl f.cl.toNat f.pred 5) a fun e =>
        cswap loser f.fmt.toNat (Claim.lane 5 a e) (Claim.lane 5 b e)) := by
  intro a b
  unfold State.vecSwap at h
  refine vec_of_vector (own := none) h rfl fun r hv hf ht => ?_
  have hmap := elementwise_map2 (by simp) (getD_active_mask s.pl f.cl.toNat f.pred 5) hv hf (by rw [ht, hv]; rfl)
  simpa only [claimCode_eq_lane (m := 5) rfl] using hmap

/-! ### Running sums (R178) -/

/-- There is one sum for each element. -/
@[simp] theorem length_prefixSums (w : Nat) {on : List Bool} {l : List Nat} (acc : Nat) (h : on.length = l.length) :
    (prefixSums w on l acc).length = l.length := by
  induction l generalizing on acc with
  | nil => obtain rfl := List.length_eq_zero_iff.1 h; rfl
  | cons x l ih =>
    obtain ⟨b, on, rfl⟩ := List.exists_cons_of_length_eq_add_one h
    have hlen : on.length = l.length := by simpa using h
    cases b <;> simp [prefixSums, ih _ hlen]

/-- An active element's sum is `acc` and the active elements before it; an inactive element keeps its own. -/
theorem getD_prefixSums (w : Nat) {on : List Bool} {l : List Nat} (acc : Nat) (h : on.length = l.length) {e : Nat}
    (he : e < l.length) : (prefixSums w on l acc).getD e 0 =
      if on.getD e false then
        (acc + ((List.range e).map fun i => if on.getD i false then l.getD i 0 else 0).sum) % 2 ^ w
      else l.getD e 0 := by
  induction l generalizing on acc e with
  | nil => simp at he
  | cons x l ih =>
    obtain ⟨b, on, rfl⟩ := List.exists_cons_of_length_eq_add_one h
    have hlen : on.length = l.length := by simpa using h
    cases e with
    | zero => cases b <;> simp [prefixSums]
    | succ e =>
      have he : e < l.length := by simpa using he
      rw [List.range_succ_eq_map, List.map_cons, List.sum_cons, List.map_map]
      cases b with
      | true => simpa [prefixSums, Function.comp_def, Nat.add_assoc] using ih (acc + x) hlen he
      | false => simpa [prefixSums, Function.comp_def] using ih acc hlen he

/-- A lane of VPFX's result. -/
theorem lane_prefixSums {m : Nat} {on : List Bool} {act : Nat → Bool} (a : Row) (acc : Nat) (ho : on.length = laneCount m)
    (hon : ∀ e < laneCount m, on.getD e false = act e) {e : Nat} (he : e < laneCount m) :
    Claim.lane m (ofLanes m (prefixSums (laneBits m) on (lanes m a) acc)) e =
      if act e then (acc + ((List.range e).map fun i => if act i then Claim.lane m a i else 0).sum) % 2 ^ laneBits m
      else Claim.lane m a e := by
  have hlen : on.length = (lanes m a).length := by rw [ho, length_lanes]
  have hsum : (List.range e).map (fun i => if on.getD i false then (lanes m a).getD i 0 else 0) =
      (List.range e).map fun i => if act i then Claim.lane m a i else 0 :=
    List.map_congr_left fun i hi => by
      have hi : i < laneCount m := (List.mem_range.1 hi).trans he
      rw [hon i hi, getD_lanes_eq_lane a hi]
  rw [claimLane_ofLanes (by rw [length_prefixSums _ _ hlen, length_lanes]), getD_prefixSums _ _ hlen (by rwa [length_lanes]),
    hsum, hon e he, getD_lanes_eq_lane a he]
  split
  · exact Nat.mod_mod _ _
  · exact claimLane_mod m a e

/-! ### Packing (R179) -/

/-- The numbers below `n` that meet a test, `g` of each, in order. -/
def selected (p : Nat → Bool) (g : Nat → Nat) (n : Nat) : List Nat :=
  (upTo 0 n).filterMap fun i => if p i then some (g i) else none

/-- There are as many as meet the test. -/
theorem length_selected (p : Nat → Bool) (g : Nat → Nat) (n : Nat) : (selected p g n).length = (List.range n).countP p := by
  rw [selected, upTo_eq, ← List.range_eq_range', List.length_filterMap_eq_countP]
  refine congrArg (List.countP · _) (funext fun i => ?_)
  cases p i <;> rfl

/-- There are no more than were looked at. -/
theorem length_selected_le (p : Nat → Bool) (g : Nat → Nat) (n : Nat) : (selected p g n).length ≤ n := by
  rw [length_selected]
  exact List.countP_le_length.trans (List.length_range).le

/-- One that meets the test stands at the place of their number before it. -/
theorem getD_selected (p : Nat → Bool) (g : Nat → Nat) {n i : Nat} (hi : i < n) (hp : p i = true) :
    (selected p g n).getD ((List.range i).countP p) 0 = g i := by
  have hsplit : selected p g n =
      selected p g i ++ (List.range' i (n - i)).filterMap fun i => if p i then some (g i) else none := by
    have hrange : List.range' 0 n = List.range' 0 i ++ List.range' i (n - i) := by
      have h := List.range'_append_1 (s := 0) (m := i) (n := n - i)
      rw [Nat.zero_add, Nat.add_sub_cancel' hi.le] at h
      exact h.symm
    rw [selected, selected, upTo_eq, upTo_eq, hrange, List.filterMap_append]
  rw [hsplit, ← length_selected p g i, List.getD_append_right _ _ _ _ le_rfl, Nat.sub_self,
    show n - i = n - i - 1 + 1 by omega, List.range'_succ, List.filterMap_cons, if_pos hp]
  rfl

/-- After the last there is none. -/
theorem getD_selected_of_le (p : Nat → Bool) (g : Nat → Nat) {n j : Nat} (hj : (List.range n).countP p ≤ j) :
    (selected p g n).getD j 0 = 0 :=
  List.getD_eq_default _ _ (by rwa [length_selected])

/-- Bits of `b` packed by the bits of `a`: a selected one stands at the place of their number before it, and after the last
there is none. -/
theorem getLsbD_packs_selected (a b : Row) :
    let x := BitVec.ofNat 2048 (packs 1 (selected (fun i => a.getLsbD i) (fun i => b2n (b.getLsbD i)) 2048))
    (∀ i < 2048, a.getLsbD i = true → x.getLsbD ((List.range i).countP fun j => a.getLsbD j) = b.getLsbD i) ∧
      ∀ j, ((List.range 2048).countP fun i => a.getLsbD i) ≤ j → x.getLsbD j = false := by
  intro x
  have hbit : ∀ j, x.getLsbD j = (decide (j < 2048) &&
      ((selected (fun i => a.getLsbD i) (fun i => b2n (b.getLsbD i)) 2048).getD j 0).testBit 0) := fun j => by
    rw [BitVec.getLsbD_ofNat, testBit_packs (by decide), Nat.div_one, Nat.mod_one]
  refine ⟨fun i hi ha => ?_, fun j hj => ?_⟩
  · have hplace : ((List.range i).countP fun j => a.getLsbD j) < 2048 :=
      (List.countP_le_length.trans List.length_range.le).trans_lt hi
    rw [hbit, decide_eq_true hplace, Bool.true_and, getD_selected _ _ hi ha]
    cases b.getLsbD i <;> rfl
  · rw [hbit, getD_selected_of_le _ _ hj, Nat.zero_testBit, Bool.and_false]

/-- The same for the elements of `a` packed by the bits of `b`. -/
theorem lane_ofLanes_selected (m : Nat) (a b : Row) :
    let x := ofLanes m (selected (fun e => b.getLsbD e) (fun e => (lanes m a).getD e 0) (laneCount m))
    (∀ e < laneCount m, b.getLsbD e = true →
      Claim.lane m x ((List.range e).countP fun j => b.getLsbD j) = Claim.lane m a e) ∧
      ∀ j, ((List.range (laneCount m)).countP fun e => b.getLsbD e) ≤ j → Claim.lane m x j = 0 := by
  intro x
  have hlane := claimLane_ofLanes (m := m)
    (length_selected_le (fun e => b.getLsbD e) (fun e => (lanes m a).getD e 0) (laneCount m))
  refine ⟨fun e he hb => ?_, fun j hj => ?_⟩
  · rw [hlane, getD_selected _ _ he hb, getD_lanes_eq_lane a he, claimLane_mod]
  · rw [hlane, getD_selected_of_le _ _ hj, Nat.zero_mod]

/-- Settles O34: VBAND, VPOPC and the compare-and-swaps map their lanes; VPFX by its running sum; VISECT by the places of
the selected ones. -/
theorem sparseResults : Obligations.SparseResults := by
  refine ⟨fun f s => ?_, fun f s hm => ?_, fun f s => ⟨?_, ?_⟩, fun f s => ?_⟩
  · refine vec_of_vector (i := .vband f) (own := none) (execVband.eq_def f s) rfl fun r hv hf ht => ?_
    have hmap := elementwise_map2 (by simp) (getD_active_mask s.pl f.cl.toNat f.pred 15) hv hf (by rw [ht, hv]; rfl)
    simpa only [claimCode_eq_lane (m := 15) rfl] using hmap
  · have hmap := vec_of_map1_after (i := .vpopc f) (execVpopc.eq_def f s)
    have helem : elemBits f.fmt.toNat = laneBits f.fmt.toNat := by
      rw [elemBits, if_neg (by omega), if_neg (by omega)]
    simpa only [claimCode_eq_lane helem, popcount_eq_countP_testBit] using hmap
  · refine vec_of_vec3 (i := .vpfx f) (execVpfx.eq_def f s) rfl rfl fun r hv hf _ => ⟨hf, fun e he => ?_⟩
    rw [hv, ← headD_lanes]
    exact lane_prefixSums _ _ (by simp) (getD_active_mask _ _ _ _) he
  · dsimp only
    simp only [List.forall_mem_cons, List.not_mem_nil, false_imp_iff, implies_true, and_true]
    exact ⟨vec_of_vecSwap (execVcsw.eq_def f s), vec_of_vecSwap (execVcswx.eq_def f s)⟩
  · by_cases hm : f.fmt.toNat = 15
    · refine vec_of_vector_eq (i := .visect f) (own := none) (execVisect.eq_def f s) (if_pos hm) rfl fun r hv hf _ => ⟨hf, ?_⟩
      rw [if_pos hm, hv]
      exact getLsbD_packs_selected _ _
    · refine vec_of_vector_eq (i := .visect f) (own := none) (execVisect.eq_def f s) (if_neg hm) rfl fun r hv hf _ => ⟨hf, ?_⟩
      rw [if_neg hm, hv]
      obtain ⟨hplace, hrest⟩ := lane_ofLanes_selected f.fmt.toNat (s.pl.operand f.cl.toNat f.va.toNat f.fmt.toNat).data
        (s.pl.operand f.cl.toNat f.vb.toNat f.fmt.toNat).data
      exact ⟨hplace, fun j _ => hrest j⟩

end Sys2Proof.Machine
end

section
/-!
PROOFS. What an instruction of the M slot leaves whose checks pass: its entry joins the engine's list, and its AR selector
counts the issue (R189, R190, R193, R230).
-/

namespace Sys2Proof.Machine

open Sys2Proof Sys2Proof.Claim

/-! ### Checks (R190, R191, R193, R196) -/

/-- None of no checks fails. -/
theorem passes_nil : Passes [] := fun _ h => absurd h List.not_mem_nil

@[simp] theorem passes_cons (o : Option Cause) (l : List (Option Cause)) : Passes (o :: l) ↔ o = none ∧ Passes l :=
  List.forall_mem_cons

@[simp] theorem passes_append (l m : List (Option Cause)) : Passes (l ++ m) ↔ Passes l ∧ Passes m := List.forall_mem_append

/-- Outside a handler, with room in the engine's list, an instruction whose own checks pass has its effect. -/
theorem State.mGuarded_pass {s : State} (hf : Free s) {i : Instr} {l : List (Option Cause)} {eff : State → State}
    (hl : Passes l) : s.mGuarded i l eff = .next (eff s) := by
  obtain ⟨hin, hroom⟩ := hf
  refine s.guarded_pass 4 _ eff ((passes_cons _ _).2 ⟨?_, (passes_cons _ _).2 ⟨?_, hl⟩⟩)
  · rw [hin]; rfl
  · exact (need_none _ _).2 (decide_eq_true hroom)

/-- A register's range is kept. -/
@[simp] theorem State.mRange_none (s : State) (i : Instr) (field : Nat) (ok : Bool) : s.mRange i field ok = none ↔ ok = true :=
  need_none ok _

/-- A bank of a range of rows holds one of them. -/
theorem row_of_bank {lo n b : Nat} (h : b ∈ upTo (lo / 128) ((lo + n - 1) / 128 + 1 - lo / 128)) (hn : n ≠ 0) :
    ∃ r, lo ≤ r ∧ r < lo + n ∧ r / 128 = b := by
  rw [mem_upTo] at h
  exact ⟨max lo (128 * b), by omega⟩

/-- Rows below 8,192 in allocated banks, `p`'s where a plane is named, raise no fault. -/
theorem Core.accFault_none {c : Core} {p : Option Nat} {lo n : Nat} (h : ∀ r, lo ≤ r → r < lo + n →
    r < 8192 ∧ (c.bankOf (r / 128)).isSome = true ∧ ∀ q, p = some q → c.bankOf (r / 128) = some q) :
    c.accFault p lo n = none := by
  unfold Core.accFault
  split
  · rfl
  · next hn =>
    rw [Option.map_eq_none_iff, List.find?_eq_none]
    intro b hb
    obtain ⟨r, hlo, hhi, rfl⟩ := row_of_bank hb hn
    obtain ⟨hr, hsome, hown⟩ := h r hlo hhi
    have hbank : ¬64 ≤ r / 128 := by omega
    cases p with
    | none => simpa [hbank, Option.isSome_iff_ne_none] using hsome
    | some q => simp [hbank, hown q rfl]

/-- Rows of the executing plane's own banks raise no fault (R196). -/
theorem accFault_of_ownRows {s : State} {lo n : Nat} (h : OwnRows s lo n) : s.accFault lo n = none :=
  Core.accFault_none fun r hlo hhi => by
    obtain ⟨hr, hbank⟩ := h r hlo hhi
    refine ⟨hr, by rw [hbank]; rfl, fun q hq => ?_⟩
    cases hq
    exact hbank

/-! ### The entry -/

/-- The state in which an M-slot instruction has joined the engine's list as `e`: the plane `p` with `e` at the list's end, the
core `co`, the barriers of the issue and the next number `n`. -/
def State.entered (s : State) (p : Plane) (co : Core) (n : Nat) (ar : BitVec 2) (e : MEnt) : State :=
  { s with pl := { p with m := s.pl.m ++ [e] }, co := co, dv := { s.dv with bars := (s.owe ar).2.dv.bars, nextId := n } }

/-- `e` is `i` as its issue enters it, with the arrival that its AR selector owes. -/
def Issued (i : Instr) (s : State) (ar : BitVec 2) (e : MEnt) : Prop :=
  e.ins = i ∧ e.issued = s.pl.tcount ∧ e.arr = s.pl.owes ar ∧ e.start = none

/-- An issue that moves the list alone. -/
theorem State.owe_issueM (s : State) (ar : BitVec 2) (e : MEnt) :
    (s.owe ar).2.issueM e = s.entered s.pl s.co s.dv.nextId ar e := by
  rw [State.owe_eq]; rfl

/-- An issue that moves the core as well. -/
theorem State.owe_issueM_core (s : State) (ar : BitVec 2) (co : Core) (e : MEnt) :
    ({ (s.owe ar).2 with co := co } : State).issueM e = s.entered s.pl co s.dv.nextId ar e := by
  rw [State.owe_eq]; rfl

/-- An instruction of the M slot whose checks pass joins the list. -/
theorem enters_of_mGuarded {i : Instr} {s : State} {ar : BitVec 2} {e : MEnt} {l : List (Option Cause)} {eff : State → State}
    {p : Plane} {co : Core} {n : Nat} (h : exec i s = s.mGuarded i l eff) (hf : Free s) (hl : Passes l)
    (he : eff s = s.entered p co n ar e) (hi : Issued i s ar e) : Enters i s (s.entered p co n ar e) ar e :=
  ⟨h.trans ((State.mGuarded_pass hf hl).trans (congrArg _ he)), rfl, hi.1, hi.2.1, hi.2.2.1, hi.2.2.2, rfl, rfl⟩

end Sys2Proof.Machine
end

section
/-!
PROOFS. O41: MALLOC, MFREE, MBAND and MZERO (R205 to R208).
-/

namespace Sys2Proof.Machine

open Sys2Proof Sys2Proof.Claim

/-! ### Banks (R205, R206) -/

/-- A table with one value written at every key of a list. -/
theorem SMap.get_foldl_set {α : Type} [DecidableEq α] (d x : α) (l : List Nat) (m : SMap α) (i : Nat) :
    SMap.get d (l.foldl (fun m k => SMap.set d m k x) m) i = if i ∈ l then x else SMap.get d m i := by
  induction l generalizing m with
  | nil => simp
  | cons k t ih =>
    rw [List.foldl_cons, ih, SMap.get_set]
    by_cases hi : i ∈ t <;> simp [hi]

/-- The plane of a bank after a run of banks is given the same number: 0 frees them, a plane's number plus 1 allocates them. -/
theorem Core.bankOf_foldl_set (c : Core) (b n x i : Nat) :
    ({ c with bank := (upTo b n).foldl (fun m k => SMap.set 0 m k x) c.bank } : Core).bankOf i =
      if b ≤ i ∧ i < b + n then (if x = 0 then none else some (x - 1)) else c.bankOf i := by
  unfold Core.bankOf
  dsimp only
  rw [SMap.get_foldl_set]
  by_cases hi : b ≤ i ∧ i < b + n
  · rw [if_pos ((mem_upTo b n i).2 hi), if_pos hi]
    cases x <;> rfl
  · rw [if_neg (mt (mem_upTo b n i).1 hi), if_neg hi]

/-- `n` banks from `b` are free. -/
def Core.FreeFrom (c : Core) (n b : Nat) : Prop := ∀ i, b ≤ i → i < b + n → c.bankOf i = none

/-- The test that a search for a free run makes. -/
theorem Core.all_isNone_iff (c : Core) (n b : Nat) :
    ((upTo b n).all fun i => (c.bankOf i).isNone) = true ↔ c.FreeFrom n b := by
  simp [List.all_eq_true, Core.FreeFrom]

/-- The search gives the first free run. -/
theorem Core.freeRun_eq_some {c : Core} {n b : Nat} (hb : b + n ≤ 64) (hfree : c.FreeFrom n b)
    (hfirst : ∀ b' < b, ¬c.FreeFrom n b') : c.freeRun n = some b := by
  rw [Core.freeRun, upTo_eq, ← List.range_eq_range', List.find?_range_eq_some]
  refine ⟨(c.all_isNone_iff n b).2 hfree, List.mem_range.2 (by omega), fun j hj => ?_⟩
  rw [Bool.not_eq_true', ← Bool.not_eq_true, c.all_isNone_iff]
  exact hfirst j hj

/-- Where no run is free the search gives none. -/
theorem Core.freeRun_eq_none {c : Core} {n : Nat} (h : ∀ b, b + n ≤ 64 → ¬c.FreeFrom n b) : c.freeRun n = none := by
  rw [Core.freeRun, List.find?_eq_none]
  intro b hb
  rw [mem_upTo] at hb
  rw [c.all_isNone_iff]
  exact h b (by omega)

/-! ### MALLOC (R205) -/

/-- MALLOC's result in flight. -/
def State.bankResult (s : State) (f : MBk) (v : Word) : Flight :=
  { s.sentOff 4 1 (.sreg f.sx) (v.setWidth 2048) 0#24 7 0#5 f.ar with arr := none }

/-- MALLOC's entry. -/
def State.bankEntry (s : State) (f : MBk) (v : Word) : MEnt :=
  { s.mEnt (.malloc f) (s.pl.owes f.ar) 0 with x := v, y := BitVec.ofNat 64 (f.n.toNat + 1) }

/-- The core with `n` banks from `b` allocated to the executing plane. -/
def Core.allocate (c : Core) (b n : Nat) : Core :=
  { c with bank := (upTo b n).foldl (fun m i => SMap.set 0 m i (c.lit + 1)) c.bank }

/-- MALLOC that finds a free run takes it and gives its first bank. -/
theorem malloc_takes (f : MBk) {s : State} (hf : Free s) {b : Nat} (hrun : s.co.freeRun (f.n.toNat + 1) = some b) :
    Enters (.malloc f) s (s.entered { s.pl with flight := s.pl.flight ++ [s.bankResult f (BitVec.ofNat 64 b)] }
      (s.co.allocate b (f.n.toNat + 1)) (s.dv.nextId + 1) f.ar (s.bankEntry f (BitVec.ofNat 64 b))) f.ar
      (s.bankEntry f (BitVec.ofNat 64 b)) := by
  refine enters_of_mGuarded (show execMalloc f s = _ from rfl) hf passes_nil ?_ ⟨rfl, rfl, rfl, rfl⟩
  dsimp only
  rw [hrun, State.owe_fst, State.owe_eq]
  rfl

/-- MALLOC that finds none takes none and gives −1. -/
theorem malloc_takes_none (f : MBk) {s : State} (hf : Free s) (hrun : s.co.freeRun (f.n.toNat + 1) = none) :
    Enters (.malloc f) s (s.entered { s.pl with flight := s.pl.flight ++ [s.bankResult f (BitVec.allOnes 64)] } s.co
      (s.dv.nextId + 1) f.ar (s.bankEntry f (BitVec.allOnes 64))) f.ar (s.bankEntry f (BitVec.allOnes 64)) := by
  refine enters_of_mGuarded (show execMalloc f s = _ from rfl) hf passes_nil ?_ ⟨rfl, rfl, rfl, rfl⟩
  dsimp only
  rw [hrun, State.owe_fst, State.owe_eq]
  rfl

/-- The number of a bank, as a row. -/
theorem setWidth_bankNumber {b : Nat} (hb : b < 2 ^ 64) : (BitVec.ofNat 64 b).setWidth 2048 = BitVec.ofNat 2048 b := by
  refine BitVec.eq_of_toNat_eq ?_
  rw [BitVec.toNat_setWidth, BitVec.toNat_ofNat, BitVec.toNat_ofNat, Nat.mod_eq_of_lt hb]

/-! ### The row ranges of a register pair (R206 to R208) -/

/-- Two row ranges meet. -/
theorem meets_iff (a b : Nat × Nat) : meets a b = true ↔ a.1 < b.1 + b.2 ∧ b.1 < a.1 + a.2 := by
  simp [meets]

/-- The range check of a row count. -/
theorem rowCount_ok {n : Nat} (hlo : 1 ≤ n) (hhi : n ≤ 8192) : (decide (1 ≤ n) && decide (n ≤ 8192)) = true := by
  simp [hlo, hhi]

/-! ### MFREE, MBAND and MZERO (R206 to R208) -/

/-- MFREE of the executing plane's banks releases them and every band that meets them. -/
theorem mfree_releases (f : MBk) {s : State} (hf : Free s) (hx : (s.rdS f.sx).toNat < 64)
    (hown : OwnRows s (128 * (s.rdS f.sx).toNat) (128 * (f.n.toNat + 1))) :
    ∃ e, Enters (.mfree f) s (s.entered s.pl { s.co with
      bank := (upTo (s.rdS f.sx).toNat (f.n.toNat + 1)).foldl (fun m i => SMap.set 0 m i 0) s.co.bank,
      bands := s.co.bands.filter fun b => !meets (b.row, b.count) (128 * (s.rdS f.sx).toNat, 128 * (f.n.toNat + 1)) }
      s.dv.nextId f.ar e) f.ar e := by
  refine ⟨_, enters_of_mGuarded (show execMfree f s = _ from rfl) hf ?_ (State.owe_issueM_core ..) ⟨rfl, rfl, s.owe_fst f.ar, rfl⟩⟩
  simp only [passes_cons, State.mRange_none]
  refine ⟨decide_eq_true hx, ?_, passes_nil⟩
  rw [Nat.mod_eq_of_lt hx]
  exact accFault_of_ownRows hown

/-- A band is `n` rows from `x`. -/
def Band.Spans (b : Band) (x n : Nat) : Prop := b.row = x ∧ b.count = n

/-- Some band of a list is `n` rows from `x`. -/
theorem any_spans_iff (l : List Band) (x n : Nat) :
    (l.any fun b => b.row == x && b.count == n) = true ↔ ∃ b ∈ l, b.Spans x n := by
  simp [Band.Spans]

/-- No band of a list meets `n` rows from `x`. -/
theorem any_meets_eq_false (l : List Band) (x n : Nat) :
    (l.any fun b => meets (b.row, b.count) (x, n)) = false ↔ ∀ b ∈ l, ¬(b.row < x + n ∧ x < b.row + b.count) := by
  simp only [List.any_eq_false, meets_iff]

/-- The bands after MBAND: those of other rows, and the new one unless it releases. -/
def State.bandsAfter (s : State) (f : MBd) (x n : Nat) : List Band :=
  let rest := s.co.bands.filter fun b => !(b.row == x && b.count == n)
  if f.rel == 1#1 then rest else rest ++ [⟨x, n, s.pl.lid, f.pos.toNat⟩]

theorem State.mem_bandsAfter (s : State) (f : MBd) (x n : Nat) (b : Band) : b ∈ s.bandsAfter f x n ↔
    (b ∈ s.co.bands ∧ ¬b.Spans x n) ∨ (f.rel = 0#1 ∧ b = ⟨x, n, s.pl.lid, f.pos.toNat⟩) := by
  rcases BitVec.eq_zero_or_eq_one f.rel with hrel | hrel <;> simp [State.bandsAfter, hrel, Band.Spans, imp_iff_not_or]

/-- MBAND of the executing plane's rows, when it may release or enter them, gives the band table after it. -/
theorem mband_moves (f : MBd) {s : State} (hf : Free s) {x n : Nat} (hx : (s.rdS f.sx).toNat = x) (hn : (s.rdS f.sy).toNat = n)
    (hlo : 1 ≤ n) (hhi : n ≤ 8192) (hown : OwnRows s x n)
    (hband : if f.rel = 1#1 then ∃ b ∈ s.co.bands, b.Spans x n else (∃ b ∈ s.co.bands, b.Spans x n) ∨
      ((∀ b ∈ s.co.bands, ¬(b.row < x + n ∧ x < b.row + b.count)) ∧ s.co.bands.length < Config.bandMax)) :
    ∃ e, Enters (.mband f) s (s.entered s.pl { s.co with bands := s.bandsAfter f x n } s.dv.nextId f.ar e) f.ar e := by
  subst hx hn
  refine ⟨_, enters_of_mGuarded (show execMband f s = _ from rfl) hf ?_
    (by dsimp only; rw [State.owe_co]; exact State.owe_issueM_core ..) ⟨rfl, rfl, s.owe_fst f.ar, rfl⟩⟩
  simp only [passes_cons, State.mRange_none, need_none]
  rw [Nat.min_eq_left hhi]
  rw [← any_spans_iff, ← any_meets_eq_false] at hband
  refine ⟨rowCount_ok hlo hhi, accFault_of_ownRows hown, ?_, ?_, passes_nil⟩
  · by_cases hrel : f.rel = 1#1
    · simpa [hrel] using hband
    · rcases (if_neg hrel ▸ hband) with hsame | ⟨hfree, -⟩
      · simp [hrel, hsame]
      · simp [hrel, hfree]
  · by_cases hrel : f.rel = 1#1
    · simp [hrel]
    · rcases (if_neg hrel ▸ hband) with hsame | ⟨-, hroom⟩
      · simp [hsame]
      · simp [hroom]

/-- MZERO of the executing plane's rows joins the list with its operands. -/
theorem mzero_enters (f : R2) {s : State} (hf : Free s) (hlo : 1 ≤ (s.rdS f.sy).toNat) (hhi : (s.rdS f.sy).toNat ≤ 8192)
    (hown : OwnRows s (s.rdS f.sx).toNat (s.rdS f.sy).toNat) :
    ∃ e, Enters (.mzero f) s (s.entered s.pl s.co s.dv.nextId f.ar e) f.ar e ∧ e.x = s.rdS f.sx ∧ e.y = s.rdS f.sy := by
  refine ⟨_, enters_of_mGuarded (show execMzero f s = _ from rfl) hf ?_ (State.owe_issueM ..)
    ⟨rfl, rfl, s.owe_fst f.ar, rfl⟩, rfl, rfl⟩
  simp only [passes_cons, State.mRange_none]
  rw [Nat.min_eq_left hhi]
  exact ⟨rowCount_ok hlo hhi, accFault_of_ownRows hown, passes_nil⟩

/-- Settles O41: the search for a free run gives the first one; the bank and band tables after MFREE and MBAND, entry by entry. -/
theorem matrixAllocation : Obligations.MatrixAllocation := by
  refine ⟨fun f s hf => ?_, fun f s hf => ?_, fun f s hf => ?_, fun f s hf => ?_⟩ <;> dsimp only
  · cases hrun : s.co.freeRun (f.n.toNat + 1) with
    | some b =>
      refine ⟨_, _, _, malloc_takes f hf hrun, rfl, rfl, rfl, rfl, fun b' hb' hfree hfirst => ?_, fun hnone => ?_⟩
      · obtain rfl : b = b' := Option.some.inj (hrun.symm.trans (Core.freeRun_eq_some hb' hfree hfirst))
        exact ⟨setWidth_bankNumber (by omega), fun i => Core.bankOf_foldl_set s.co b (f.n.toNat + 1) (s.co.lit + 1) i⟩
      · cases hrun.symm.trans (Core.freeRun_eq_none hnone)
    | none =>
      refine ⟨_, _, _, malloc_takes_none f hf hrun, rfl, rfl, rfl, rfl, fun b' hb' hfree hfirst => ?_, fun _ => ⟨rfl, rfl⟩⟩
      cases hrun.symm.trans (Core.freeRun_eq_some hb' hfree hfirst)
  · intro hx hown
    obtain ⟨e, he⟩ := mfree_releases f hf hx hown
    refine ⟨_, e, he, rfl, rfl, fun i => Core.bankOf_foldl_set s.co _ (f.n.toNat + 1) 0 i, fun b => ?_⟩
    have hend : 128 * ((s.rdS f.sx).toNat + (f.n.toNat + 1)) = 128 * (s.rdS f.sx).toNat + 128 * (f.n.toNat + 1) :=
      Nat.mul_add ..
    rw [hend, ← meets_iff (b.row, b.count) (128 * (s.rdS f.sx).toNat, 128 * (f.n.toNat + 1)), Bool.not_eq_true]
    simp [State.entered]
  · intro hlo hhi hown hband
    obtain ⟨e, he⟩ := mband_moves f hf rfl rfl hlo hhi hown hband
    exact ⟨_, e, he, rfl, rfl, s.mem_bandsAfter f _ _⟩
  · intro hlo hhi hown
    obtain ⟨e, he, hx, hy⟩ := mzero_enters f hf hlo hhi hown
    exact ⟨_, e, he, rfl, rfl, hx, hy⟩

end Sys2Proof.Machine
end

section
/-!
PROOFS. What a streaming product leaves whose checks pass: its entry with the tiles it samples and the pops it will make, or
suppressed (R192, R203, R204).
-/

namespace Sys2Proof.Machine

open Sys2Proof Sys2Proof.Claim

/-! ### Fields of an operand register (R204) -/

/-- A field of a register's number is the field of the register. -/
theorem bitsOf_toNat {w : Nat} (x : BitVec w) (lo n : Nat) : bitsOf x.toNat lo n = (x.extractLsb' lo n).toNat := by
  rw [BitVec.extractLsb'_toNat, bitsOf]

/-- A field of one bit is 0 when the bit is clear. -/
theorem bitsOf_one_eq_zero {w : Nat} {x : BitVec w} {i : Nat} (h : x.getLsbD i = false) : bitsOf x.toNat i 1 = 0 := by
  rw [← BitVec.testBit_toNat, Nat.testBit_eq_decide_div_mod_eq] at h
  rw [bitsOf, Nat.shiftRight_eq_div_pow]
  have := of_decide_eq_false h
  omega

/-! ### The checks of a product (R187, R192, R204, R261) -/

/-- Operands in their ranges keep a product's register checks. -/
theorem prodRanges_pass {s : State} {i : Instr} {x y z : Word} {maxM kf nf : Nat} {aux ch : Bool}
    (h : Operands x y z maxM kf nf aux ch) : Passes (s.prodRanges i x y z maxM kf nf aux ch) := by
  obtain ⟨hx, hy, h23, h9, haux, hch, hpos, hmax, hkf, hz, hnf⟩ := h
  simp only [State.prodRanges, passes_cons, State.mRange_none, bitsOf_one_eq_zero h23, bitsOf_one_eq_zero h9]
  simp only [bitsOf_toNat]
  refine ⟨decide_eq_true hx, ?_, ?_, passes_nil⟩
  · have haux : aux = true ∨ (y.extractLsb' 20 3).toNat = 0 := haux.imp_right fun h => by rw [h]; rfl
    have hch : ch = true ∨ (y.extractLsb' 24 2).toNat = 0 := hch.imp_right fun h => by rw [h]; rfl
    simp only [Bool.and_eq_true, Bool.or_eq_true, decide_eq_true_eq]
    exact ⟨⟨⟨⟨⟨⟨⟨hy, trivial⟩, trivial⟩, haux⟩, hch⟩, hpos⟩, hmax⟩, hkf⟩
  · rw [decide_eq_true hz, decide_eq_true hnf]; rfl

/-- A loaded buffer of the properties asked keeps the buffer check. -/
theorem bufFault_pass {s : State} {i : Instr} {wb : Nat} {ok : WProp → Bool} {p : WProp} (hp : s.bufProp wb = some p)
    (hok : ok p = true) : s.bufFault i wb ok = none := by
  simp only [State.bufFault, hp, need_none, hok]

/-- A slot that may be claimed raises no fault. -/
theorem claimFault_of_claimable {s : State} {slot : Option Nat} (h : Claimable s slot) : s.claimFault slot = none := by
  cases slot with
  | none => rfl
  | some k => exact h k rfl

/-- Tiles that may be claimed keep the checks of a list of claims. -/
theorem claims_pass {s : State} {l : List Claim} (h : ∀ c ∈ l, Claimable s (s.pl.tileAt c.ring c.pos)) :
    Passes ((s.claimSlots l).map s.claimFault) := by
  simp only [Passes, State.claimSlots, List.map_map, List.forall_mem_map]
  exact fun c hc => claimFault_of_claimable (h c hc)

/-- Rows of the executing plane's own banks keep the check of an accumulator descriptor. -/
theorem prodRows_pass {s : State} {x : Word} {n : Nat} (h : OwnRows s (x.extractLsb' 0 13).toNat n) : s.prodRows x n = none := by
  rw [State.prodRows, bitsOf_toNat]
  exact accFault_of_ownRows h

/-! ### The tiles of a list of claims (R130, R192) -/

/-- What the tiles of a list of claims sample to. -/
def State.tilesRead (s : State) (l : List Claim) : List TileRd := (s.claimSlots l).filterMap fun k => k.map s.sampleTile

/-- Every claim of a list finds a published tile. -/
def State.AllPublished (s : State) (l : List Claim) : Prop := ∀ c ∈ l, (s.pl.tileAt c.ring c.pos).isSome = true

/-- No ring is found empty when every tile is published. -/
theorem firstEmpty_eq_none_iff (s : State) (l : List Claim) : s.firstEmpty l = none ↔ s.AllPublished l := by
  simp [State.firstEmpty, State.AllPublished, Option.isSome_iff_ne_none]

/-- The cause of the first ring without a tile. -/
theorem firstEmpty_eq_some {s : State} {l : List Claim} {c : Cause} (h : s.firstEmpty l = some c) :
    ∃ c' ∈ l, s.pl.tileAt c'.ring c'.pos = none ∧ c = ringEmpty c'.ring := by
  obtain ⟨c', hc', rfl⟩ := Option.map_eq_some_iff.1 h
  exact ⟨c', List.mem_of_find?_eq_some hc', by simpa using List.find?_some hc', rfl⟩

/-- Published tiles are sampled one for each claim. -/
theorem map_some_tilesRead {s : State} {l : List Claim} (h : s.AllPublished l) :
    (s.tilesRead l).map some = l.map fun c => (s.pl.tileAt c.ring c.pos).map s.sampleTile := by
  induction l with
  | nil => rfl
  | cons c t ih =>
    obtain ⟨k, hk⟩ := Option.isSome_iff_exists.1 (h c List.mem_cons_self)
    have ih := ih fun c hc => h c (List.mem_cons_of_mem _ hc)
    have hcons : s.tilesRead (c :: t) = s.sampleTile k :: s.tilesRead t := by simp [State.tilesRead, State.claimSlots, hk]
    rw [hcons, List.map_cons, List.map_cons, hk, ih]
    rfl

/-! ### The issue of a product (R192, R203) -/

/-- A product's entry, from its registers and its row of indices. -/
def State.prodEntry (s : State) (i : Instr) (ar : BitVec 2) (x y z : Word) (idx : Row) : MEnt :=
  { s.mEnt i (s.pl.owes ar) (bitsOf y.toNat 0 9) with x := x, y := y, z := z, idx := idx }

section
variable {s : State} {i : Instr} {ar : BitVec 2} {x y z : Word} {idx : Row} {l : List Claim} {pops : List (Nat × Nat)}
  {skip : List TileRd → Bool}

/-- A product whose tiles are all published samples them. -/
theorem issueProd_sampled (h : s.AllPublished l) : s.issueProd i ar x y z idx l pops skip = s.entered s.pl s.co s.dv.nextId ar
    { s.prodEntry i ar x y z idx with reads := s.tilesRead l, pops := pops, skip := skip (s.tilesRead l) } := by
  unfold State.issueProd
  rw [(firstEmpty_eq_none_iff s l).2 h]
  dsimp only
  rw [State.owe_fst]
  exact State.owe_issueM ..

/-- A product that finds a ring empty is suppressed with the cause of the first. -/
theorem issueProd_suppressed {c : Cause} (h : s.firstEmpty l = some c) : ∃ rds, s.issueProd i ar x y z idx l pops skip =
    s.entered s.pl s.co s.dv.nextId ar { s.prodEntry i ar x y z idx with supp := some c, reads := rds } := by
  unfold State.issueProd
  rw [h]
  dsimp only
  rw [State.owe_fst]
  exact ⟨_, State.owe_issueM ..⟩

/-- The pops of a bundle noted behind those already noted. -/
def State.notePops (s : State) (popped : List Nat) : State := s.modPl fun p => { p with popped := p.popped ++ popped }

@[simp] theorem State.notePops_nil (s : State) : s.notePops [] = s := by simp [State.notePops, State.modPl]

/-- Pops noted by an instruction that has joined the list. -/
theorem State.notePops_entered (s : State) (ar : BitVec 2) (e : MEnt) (popped : List Nat) :
    (s.entered s.pl s.co s.dv.nextId ar e).notePops popped =
      s.entered { s.pl with popped := s.pl.popped ++ popped } s.co s.dv.nextId ar e := rfl

/-- An instruction whose checks pass, and which then issues a product and notes pops, completes as a product. -/
theorem product_of_mGuarded {checks : List (Option Cause)} {eff : State → State} {popped : List Nat}
    (h : exec i s = s.mGuarded i checks eff) (hf : Free s) (hl : Passes checks)
    (he : eff s = (s.issueProd i ar x y z idx l pops skip).notePops popped) :
    Product i s ar x y z idx l pops skip popped := by
  cases hempty : s.firstEmpty l with
  | none =>
    have hall := (firstEmpty_eq_none_iff s l).1 hempty
    rw [issueProd_sampled hall, State.notePops_entered] at he
    refine ⟨_, _, enters_of_mGuarded h hf hl he ⟨rfl, rfl, rfl, rfl⟩, rfl, rfl, rfl, rfl, rfl, rfl, bitsOf_toNat y 0 9,
      fun _ => ⟨rfl, rfl, map_some_tilesRead hall, rfl⟩, fun c hc hn => ?_⟩
    have := hall c hc
    rw [hn] at this
    cases this
  | some c =>
    obtain ⟨c', hc', hn, rfl⟩ := firstEmpty_eq_some hempty
    obtain ⟨rds, hrds⟩ := issueProd_suppressed (i := i) (ar := ar) (x := x) (y := y) (z := z) (idx := idx) (pops := pops)
      (skip := skip) hempty
    rw [hrds, State.notePops_entered] at he
    refine ⟨_, _, enters_of_mGuarded h hf hl he ⟨rfl, rfl, rfl, rfl⟩, rfl, rfl, rfl, rfl, rfl, rfl, bitsOf_toNat y 0 9,
      fun hall => ?_, fun _ _ _ => ⟨c', hc', rfl, rfl⟩⟩
    have := hall c' hc'
    rw [hn] at this
    cases this

end

end Sys2Proof.Machine
end

section
/-!
PROOFS. O42: MLDW, the streaming products, MCHAIN and MCOND (R187, R192, R203, R204, R209 to R216).
-/

namespace Sys2Proof.Machine

open Sys2Proof Sys2Proof.Claim

/-! ### MLDW (R209) -/

/-- The ring and codebook fields of MLDW's register. -/
def mldwLegal (f : MLd) (x : Nat) : Prop := x % 256 < 8 ∧ x < (if f.cb = 1#1 then 2 ^ 24 else 8)

/-- MLDW's register check. -/
theorem mldwLegal_check {f : MLd} {x : Nat} (h : mldwLegal f x) :
    (decide (x % 256 < 8) && (if f.cb = 1#1 then decide (x < 0x1000000) else decide (x < 8))) = true := by
  obtain ⟨hring, hcb⟩ := h
  rw [decide_eq_true hring]
  by_cases hbook : f.cb = 1#1
  · rw [if_pos hbook] at hcb ⊢
    exact decide_eq_true hcb
  · rw [if_neg hbook] at hcb ⊢
    exact decide_eq_true hcb

/-- MLDW of a published tile joins the list with it, and gives its buffer new properties. -/
theorem mldw_loads (f : MLd) {s : State} (hf : Free s) {x k : Nat} (hx : (s.rdS f.sx).toNat = x) (hlegal : mldwLegal f x)
    (hk : s.pl.tileAt (x % 8) 0 = some k) (hc : s.claimFault (some k) = none) :
    ∃ e, Enters (.mldw f) s (s.entered s.pl { s.co with wprop := vput s.co.wprop f.buf.toNat (some
        ⟨f.fmt, f.cb == 1#1, f.west == 1#1, (s.sampleTile k).nf, (s.sampleTile k).zero, s.dv.nextId⟩) } (s.dv.nextId + 1) f.ar e)
        f.ar e ∧ e.x = s.rdS f.sx ∧ e.steps = 256 ∧ e.supp = none ∧ e.reads = [s.sampleTile k] ∧ e.pops = [(x % 8, 1)] := by
  subst hx
  refine ⟨_, enters_of_mGuarded (show execMldw f s = _ from rfl) hf ?_
    (by dsimp only; rw [hk]; dsimp only; rw [State.owe_fst, State.owe_eq]; rfl) ⟨rfl, rfl, rfl, rfl⟩, rfl, rfl, rfl, rfl, rfl⟩
  simp only [passes_cons, State.mRange_none]
  exact ⟨mldwLegal_check hlegal, by rw [hk]; exact hc, passes_nil⟩

/-- MLDW that finds its ring empty joins the list suppressed. -/
theorem mldw_suppressed (f : MLd) {s : State} (hf : Free s) {x : Nat} (hx : (s.rdS f.sx).toNat = x) (hlegal : mldwLegal f x)
    (hk : s.pl.tileAt (x % 8) 0 = none) :
    ∃ e, Enters (.mldw f) s (s.entered s.pl s.co s.dv.nextId f.ar e) f.ar e ∧ e.x = s.rdS f.sx ∧ e.steps = 256 ∧
      e.supp = some (ringEmpty (x % 8)) ∧ e.pops = [] := by
  subst hx
  refine ⟨_, enters_of_mGuarded (show execMldw f s = _ from rfl) hf ?_
    (by dsimp only; rw [hk]; exact State.owe_issueM ..) ⟨rfl, rfl, s.owe_fst f.ar, rfl⟩, rfl, rfl, rfl, rfl⟩
  simp only [passes_cons, State.mRange_none]
  exact ⟨mldwLegal_check hlegal, by rw [hk]; rfl, passes_nil⟩

/-! ### MMUL and MMULC (R210, R214) -/

/-- What MMUL and MMULC share: given their form and the accumulator rows of each of their rows, they complete as products. -/
theorem mmulLike_product {i : Instr} {s : State} {f : MMu} {form rowsPer : Nat} {ok : WProp → Bool} {more : List (Option Cause)}
    {p : WProp} {skip : List TileRd → Bool} (h : exec i s = s.mmulLike i f form rowsPer ok more) (hf : Free s)
    (hops : Operands (s.rdS f.sx) (s.rdS f.sy) (s.rdS f.sz) 256 (kFull form) (nFull form) false false)
    (hp : s.bufProp ((s.rdS f.sx).extractLsb' 14 1).toNat = some p) (hok : ok p = true)
    (hown : OwnRows s ((s.rdS f.sx).extractLsb' 0 13).toNat (rowsPer * ((s.rdS f.sy).extractLsb' 0 9).toNat))
    (hc : Claimable s (s.pl.tileAt f.rg.toNat 0)) (hmore : Passes more)
    (hskip : skips (some p) = skip) :
    Product i s f.ar (s.rdS f.sx) (s.rdS f.sy) (s.rdS f.sz) 0#2048 [⟨f.rg.toNat, 0⟩]
      (if f.keep = 1#1 then [] else [(f.rg.toNat, 1)]) skip [] := by
  refine product_of_mGuarded h hf ?_ ?_
  · simp only [passes_append, passes_cons, bitsOf_toNat]
    exact ⟨⟨prodRanges_pass hops, bufFault_pass hp hok, prodRows_pass hown, claims_pass (by simpa using hc)⟩, hmore⟩
  · rw [State.notePops_nil, bitsOf_toNat, hp, hskip]

/-- A product is skipped by its first tile and its buffer (R203). -/
theorem skips_some (p : WProp) : skips (some p) = fun l => match l with
    | t :: _ => (t.zero && !p.nf) || (p.zero && !t.nf)
    | [] => false := by
  funext l
  cases l <;> rfl

/-! ### MMULG (R211) -/

/-- The positions that MMULG reads, by its row's lanes of 16 bits. -/
theorem gatherPos_eq (aux m : Nat) (idx : Row) : gatherPos aux m idx =
    (List.range aux ++ (List.range m).map fun j => Claim.lane 3 idx j / 256).eraseDups := by
  have hlane : (fun j => bitsOf idx.toNat (16 * j) 16 / 256) = fun j => Claim.lane 3 idx j / 256 :=
    funext fun j => by rw [bitsOf, Nat.shiftRight_eq_div_pow]; rfl
  rw [gatherPos, upTo_eq, upTo_eq, ← List.range_eq_range', ← List.range_eq_range', hlane]

/-! ### The ends of a chain (R216) -/

/-- With every earlier instruction retired, a chain may issue. -/
theorem mIdle_of_closed {s : State} (h : ∀ e ∈ s.pl.m, e.open_ = false) : s.mIdle = none := by
  rw [State.mIdle, need_none, List.all_eq_true]
  exact fun e he => by rw [h e he]; rfl

/-- A receiver joins the list, its rows being its source's, or one where no source has issued. -/
theorem mchainRecv_enters (f : R3) {s : State} {p : WProp} {x y : Word} {h : Nat} (hf : Free s) (hx : s.rdS f.sx = x)
    (hy : s.rdS f.sy = y) (hh : (y.extractLsb' 24 2).toNat + 1 = h) (hxlt : x.toNat < 2 ^ 15) (hylt : y.toNat < 2 ^ 26)
    (hymod : y.toNat % 2 ^ 24 = 0) (hpos : h ≤ s.co.id % 4) (hmax : h ≤ 3) (hz : (s.rdS f.sz).toNat ≤ 256)
    (hp : s.bufProp (x.extractLsb' 14 1).toNat = some p) (hidle : ∀ e ∈ s.pl.m, e.open_ = false)
    (hsome : ∀ e, s.chainSource h = some e →
      h ≤ (e.y.extractLsb' 24 2).toNat + 1 ∧ OwnRows s (x.extractLsb' 0 13).toNat (e.y.extractLsb' 0 9).toNat)
    (hnone : s.chainSource h = none → OwnRows s (x.extractLsb' 0 13).toNat 1) :
    ∃ e, Enters (.mchainRecv f) s (s.entered s.pl s.co s.dv.nextId f.ar e) f.ar e ∧ e.x = x ∧ e.y = y ∧ e.z = s.rdS f.sz := by
  subst hx hy hh
  refine ⟨_, enters_of_mGuarded (show execMchainRecv f s = _ from rfl) hf ?_ (State.owe_issueM ..)
    ⟨rfl, rfl, s.owe_fst f.ar, rfl⟩, rfl, rfl, rfl⟩
  simp only [passes_cons, State.mRange_none, bitsOf_toNat]
  refine ⟨decide_eq_true hxlt, ?_, decide_eq_true hz, bufFault_pass hp rfl, mIdle_of_closed hidle, ?_, passes_nil⟩
  · cases hsrc : s.chainSource (((s.rdS f.sy).extractLsb' 24 2).toNat + 1) with
    | none => simp only [hymod, hylt, hpos, hmax, decide_true, Bool.and_self]
    | some e => simp only [hymod, hylt, hpos, hmax, (hsome e hsrc).1, decide_true, Bool.and_self]
  · cases hsrc : s.chainSource (((s.rdS f.sy).extractLsb' 24 2).toNat + 1) with
    | none => exact prodRows_pass (hnone hsrc)
    | some e => exact prodRows_pass (hsome e hsrc).2

/-! ### MCOND (R215) -/

/-- A ring has room for `n` more tiles, those that unretired MCONDs will publish counted. -/
def State.Room (s : State) (ring n : Nat) : Prop :=
  (s.pl.ring ring).count.toNat + s.pl.publishing ring + n ≤ (s.pl.ring ring).size.toNat

/-- A register with no bit outside the four ring fields. -/
theorem condMask_toNat {y : Word} (h : y &&& 0x07070707#64 = y) : y.toNat &&& 0x07070707 = y.toNat := by
  simpa using congrArg BitVec.toNat h

/-- The pops of MCOND's two rings. -/
def condPops (ra rb : Nat) : List (Nat × Nat) := if ra = rb then [(ra, 2)] else [(ra, 1), (rb, 1)]

/-- The tiles of MCOND's two rings. -/
def condClaims (ra rb : Nat) : List Claim := [⟨ra, 0⟩, ⟨rb, if rb = ra then 1 else 0⟩]

/-- MCOND's entry: its tiles sampled with the pops of their rings, or suppressed. -/
def State.condEntry (s : State) (f : MCo) (ra rb : Nat) : MEnt :=
  let e := { s.mEnt (.mcond f) (s.pl.owes f.ar) 256 with y := s.rdS f.sy }
  match s.firstEmpty (condClaims ra rb) with
  | some c => { e with supp := some c }
  | none => { e with reads := s.tilesRead (condClaims ra rb), pops := condPops ra rb }

/-- Of published tiles the entry is the sampled one. -/
theorem condEntry_of_published {s : State} {f : MCo} {ra rb : Nat} (h : s.AllPublished (condClaims ra rb)) :
    s.condEntry f ra rb = { s.mEnt (.mcond f) (s.pl.owes f.ar) 256 with
      y := s.rdS f.sy, reads := s.tilesRead (condClaims ra rb), pops := condPops ra rb } := by
  rw [State.condEntry, (firstEmpty_eq_none_iff s _).2 h]

/-- Whatever its tiles, that entry is MCOND's. -/
theorem condEntry_issued (s : State) (f : MCo) (ra rb : Nat) :
    Issued (.mcond f) s f.ar (s.condEntry f ra rb) ∧ (s.condEntry f ra rb).y = s.rdS f.sy ∧ (s.condEntry f ra rb).steps = 256 := by
  unfold State.condEntry
  cases s.firstEmpty (condClaims ra rb) <;> exact ⟨⟨rfl, rfl, rfl, rfl⟩, rfl, rfl⟩

/-- MCOND joins the list, when its register, the room of its rings and its tiles pass their checks. -/
theorem mcond_enters (f : MCo) {s : State} {y : Word} {ra rb oa ob : Nat} (hf : Free s) (hy : s.rdS f.sy = y)
    (hra : (y.extractLsb' 0 3).toNat = ra) (hrb : (y.extractLsb' 8 3).toNat = rb) (hoa : (y.extractLsb' 16 3).toNat = oa)
    (hob : (y.extractLsb' 24 3).toNat = ob) (hmask : y &&& 0x07070707#64 = y) (hroomA : s.Room oa 1)
    (hroomB : s.Room ob (if oa = ob then 2 else 1)) (hc : ∀ c ∈ condClaims ra rb, Claimable s (s.pl.tileAt c.ring c.pos)) :
    Enters (.mcond f) s (s.entered s.pl s.co s.dv.nextId f.ar (s.condEntry f ra rb)) f.ar (s.condEntry f ra rb) := by
  subst hy
  rw [← bitsOf_toNat] at hra hrb hoa hob
  subst hra hrb hoa hob
  refine enters_of_mGuarded (show execMcond f s = _ from rfl) hf ?_ ?_ (condEntry_issued s f _ _).1
  · simp only [passes_append, passes_cons, State.mRange_none, need_none]
    exact ⟨⟨decide_eq_true (condMask_toNat hmask), decide_eq_true hroomA, decide_eq_true hroomB, passes_nil⟩, claims_pass hc⟩
  · unfold State.condEntry condClaims
    dsimp only
    rw [State.owe_fst]
    cases s.firstEmpty _ <;> exact State.owe_issueM ..

/-- Settles O42: each instruction's own checks follow from the operands, and its effect is the entry of a product or of a load. -/
theorem matrixProducts : Obligations.MatrixProducts := by
  refine ⟨fun f s hf => ?_, fun s hf => ?_, fun f s p hf => ?_, fun f s p hf => ?_, fun f s p hf => ?_, fun f s p hf => ?_,
    fun f s p hf => ?_, fun f s hf => ?_⟩ <;> dsimp only
  · intro hring hcb hc
    cases hslot : s.pl.tileAt ((s.rdS f.sx).toNat % 8) 0 with
    | none =>
      obtain ⟨e, he, hx, hsteps, hsupp, hpops⟩ := mldw_suppressed f hf rfl ⟨hring, hcb⟩ hslot
      exact ⟨_, e, he, rfl, hx, hsteps, fun _ => ⟨rfl, hsupp, hpops⟩, fun k hk => by cases hk⟩
    | some k =>
      obtain ⟨e, he, hx, hsteps, hsupp, hreads, hpops⟩ := mldw_loads f hf rfl ⟨hring, hcb⟩ hslot (hc k hslot)
      refine ⟨_, e, he, rfl, hx, hsteps, fun hk => absurd hk (Option.some_ne_none k), fun k' hk => ?_⟩
      cases hk
      exact ⟨hsupp, hreads, hpops, _, rfl⟩
  · refine List.forall_mem_cons.2 ⟨fun f p hops _ hp hcb hfmt hown hc => ?_,
      List.forall_mem_cons.2 ⟨fun f p hops heven hp hcb _ hown hc => ?_, fun _ h => absurd h List.not_mem_nil⟩⟩
    · exact mmulLike_product (show execMmul f s = _ from rfl) hf hops hp (by simp [hcb, hfmt rfl]) hown hc passes_nil (skips_some p)
    · refine mmulLike_product (show execMmulc f s = _ from rfl) hf hops hp hcb hown hc ?_ (skips_some p)
      simp only [passes_cons, State.mRange_none]
      exact ⟨decide_eq_true (bitsOf_one_eq_zero (heven rfl)), passes_nil⟩
  · intro hops hp hcb hfmt hown hc
    refine product_of_mGuarded (show execMmulb f s = _ from rfl) hf ?_ (by rw [State.notePops_nil, bitsOf_toNat])
    simp only [passes_append, passes_cons, bitsOf_toNat]
    exact ⟨prodRanges_pass hops, bufFault_pass hp (by simp [hcb, hfmt]), prodRows_pass hown, claims_pass hc⟩
  · intro hops hp hcb hfmt hwest hown hc
    refine product_of_mGuarded (show execMmuls f s = _ from rfl) hf ?_ (by rw [State.notePops_nil, bitsOf_toNat])
    simp only [passes_append, passes_cons, State.mRange_none, bitsOf_toNat, hp, hwest]
    exact ⟨prodRanges_pass hops, bufFault_pass hp (by simp [hcb, hfmt]), rfl, prodRows_pass hown, claims_pass hc⟩
  · intro hops hp hcb hq hown hc
    refine product_of_mGuarded (show execMmulg f s = _ from rfl) hf ?_ (by rw [bitsOf_toNat, bitsOf_toNat, gatherPos_eq]; rfl)
    simp only [passes_append, passes_cons, Plane.popFault_none, bitsOf_toNat, gatherPos_eq, hp]
    exact ⟨prodRanges_pass hops, bufFault_pass hp (by simp [hcb]), prodRows_pass hown, hq, claims_pass hc⟩
  · intro hops hp hcb hfmt hidle hhop hown hc
    refine product_of_mGuarded (show execMchain f s = _ from rfl) hf ?_ (by rw [State.notePops_nil])
    simp only [passes_append, passes_cons, State.mRange_none, bitsOf_toNat]
    exact ⟨prodRanges_pass hops, bufFault_pass hp (by simp [hcb, hfmt]), mIdle_of_closed hidle, decide_eq_true hhop,
      prodRows_pass hown, claims_pass (by simpa using hc)⟩
  · intro hx hy hmod hpos hmax hz hfits hp hidle hown
    obtain ⟨e, he, hex, hey, hez⟩ := mchainRecv_enters f hf rfl rfl rfl hx hy hmod hpos hmax hz hp hidle
      (fun e he => ⟨hfits e he, by rwa [he] at hown⟩) (fun hn => by rwa [hn] at hown)
    exact ⟨_, e, he, rfl, rfl, hex, hey, hez⟩
  · intro hmask hroomA hroomB hc
    obtain ⟨-, hy, hsteps⟩ := condEntry_issued s f ((s.rdS f.sy).extractLsb' 0 3).toNat ((s.rdS f.sy).extractLsb' 8 3).toNat
    refine ⟨_, _, mcond_enters f hf rfl rfl rfl rfl rfl hmask hroomA hroomB hc, rfl, rfl, hy, hsteps, fun hall => ?_⟩
    rw [condEntry_of_published hall]
    exact ⟨rfl, map_some_tilesRead hall, rfl⟩

end Sys2Proof.Machine
end

section
/-!
PROOFS. O43: MDRAIN and MCHK (R217, R218).
-/

namespace Sys2Proof.Machine

open Sys2Proof Sys2Proof.Claim

/-! ### The checks of a drain (R197, R198, R217) -/

/-- The bits that MDRAIN's third register may set. -/
def drainMask (f : MDr) : Nat := (if f.lux = 1#1 then 0xFFFF else 0) + (if f.q = 1#1 then 0x70000 else 0)

/-- A bit of that mask: a launch and rank field with .lux, a scale register's number with .q. -/
theorem testBit_drainMask (f : MDr) (i : Nat) :
    (drainMask f).testBit i = true ↔ (i < 16 ∧ f.lux = 1#1) ∨ (16 ≤ i ∧ i < 19 ∧ f.q = 1#1) := by
  have hlux : (0xFFFF : Nat).testBit i = decide (i < 16) := Nat.testBit_two_pow_sub_one 16 i
  have hq : (0x70000 : Nat).testBit i = (decide (16 ≤ i) && decide (i < 19)) := by
    rw [show 0x70000 = (2 ^ 3 - 1) <<< 16 by rfl, Nat.testBit_shiftLeft, Nat.testBit_two_pow_sub_one]
    by_cases h : 16 ≤ i
    · simp [h, Nat.sub_lt_iff_lt_add' h]
    · simp [h]
  have hor : drainMask f = (if f.lux = 1#1 then 0xFFFF else 0) ||| (if f.q = 1#1 then 0x70000 else 0) := by
    unfold drainMask
    split <;> split <;> rfl
  rw [hor, Nat.testBit_or, Bool.or_eq_true]
  refine or_congr ?_ ?_
  · by_cases h : f.lux = 1#1 <;> simp [h, hlux]
  · by_cases h : f.q = 1#1 <;> simp [h, hq]

/-- A register without other bits keeps the check of the mask. -/
theorem and_drainMask {f : MDr} {z : Word}
    (h : ∀ i < 64, z.getLsbD i = true → (i < 16 ∧ f.lux = 1#1) ∨ (16 ≤ i ∧ i < 19 ∧ f.q = 1#1)) :
    z.toNat &&& drainMask f = z.toNat := by
  refine Nat.eq_of_testBit_eq fun i => ?_
  rw [Nat.testBit_and, BitVec.testBit_toNat]
  cases hz : z.getLsbD i with
  | false => rfl
  | true =>
    have hi : i < 64 := by
      by_contra hge
      rw [BitVec.getLsbD_of_ge z i (by omega)] at hz
      cases hz
    rw [(testBit_drainMask f i).2 (h i hi hz)]
    rfl

/-- Rows that the executing task may drain raise no fault. -/
theorem ownerFault_none {s : State} {c lo n : Nat} (h : ∀ r, lo ≤ r → r < lo + n → s.drainOwner c r = true) :
    s.ownerFault c lo n = none := by
  rw [State.ownerFault, Option.map_eq_none_iff, List.find?_eq_none]
  intro r hr
  rw [mem_upTo] at hr
  simp [h r hr.1 hr.2]

/-- A queue with room for `n` more entries takes them. -/
theorem pushFault_none {p : Plane} {q n : Nat} (h : (p.queue q).length + p.reserved q + n ≤ qCap q) (own : List Nat) :
    p.pushFault q n own = none := by
  rw [Plane.pushFault]
  exact if_neg (by omega)

/-! ### MDRAIN (R217) -/

/-- MDRAIN's entry: its registers and the scale register it names. -/
def State.drainEntry (s : State) (f : MDr) : MEnt :=
  let z := s.rdS f.sz
  let k := vget s.pl.ks (bitsOf z.toNat 16 3) ⟨0#64, 0#32⟩
  { s.mEnt (.mdrain f) (s.pl.owes f.ar) ((s.rdS f.sy).toNat * drainV f.fmt.toNat) with
    x := s.rdS f.sx, y := s.rdS f.sy, z := z, idx := BitVec.ofNat 2048 (k.w.toNat + k.rcp.toNat <<< 64) }

/-- The low word of a scale register's number is its word. -/
theorem setWidth_scale (k : Scale) :
    (BitVec.ofNat 2048 (k.w.toNat + k.rcp.toNat <<< 64)).setWidth 64 = k.w := by
  rw [BitVec.setWidth_ofNat_of_le (by decide), Nat.shiftLeft_eq]
  refine BitVec.eq_of_toNat_eq ?_
  rw [BitVec.toNat_ofNat, Nat.add_mul_mod_self_right, Nat.mod_eq_of_lt k.w.isLt]

/-- MDRAIN of rows that its task may drain, with room in mq, joins the list; a remote one freezes the core for 4 cycles. -/
theorem mdrain_enters (f : MDr) {s : State} {x y z : Word} {c lo v : Nat} (hf : Free s) (hx : s.rdS f.sx = x) (hy : s.rdS f.sy = y)
    (hz : s.rdS f.sz = z) (hc : s.co.id / 4 * 4 + (x.extractLsb' 14 2).toNat = c) (hlo : (x.extractLsb' 0 13).toNat = lo)
    (hv : drainV f.fmt.toNat = v) (hxlt : x.toNat < 2 ^ 17) (h13 : x.getLsbD 13 = false)
    (hpos : x.getLsbD 16 = true ∨ (x.extractLsb' 14 2).toNat = s.co.id % 4) (hmin : 1 ≤ y.toNat) (hmax : y.toNat ≤ 32)
    (hvec : y.toNat * v ≤ 32)
    (hmask : ∀ i < 64, z.getLsbD i = true → (i < 16 ∧ f.lux = 1#1) ∨ (16 ≤ i ∧ i < 19 ∧ f.q = 1#1))
    (hrows : ∀ r, lo ≤ r → r < lo + y.toNat → r < 8192 ∧ s.drainOwner c r = true ∧
      (if x.getLsbD 16 then ((s.core c).bankOf (r / 128)).isSome = true else (s.core c).bankOf (r / 128) = some s.co.lit))
    (hroom : (s.pl.queue 32).length + s.pl.reserved 32 + y.toNat * v ≤ qCap 32) :
    exec (.mdrain f) s = .next (let t := s.entered s.pl s.co s.dv.nextId f.ar (s.drainEntry f)
      if x.getLsbD 16 then t.pass 4 else t) := by
  subst hx hy hz hv
  rw [← bitsOf_toNat] at hc hlo hpos
  subst hc hlo
  refine (show execMdrain f s = _ from State.mGuarded_pass hf ?_).trans ?_
  · simp only [passes_cons, State.mRange_none, bitsOf_one_eq_zero h13, Nat.min_eq_left hmax]
    refine ⟨?_, ?_, decide_eq_true (and_drainMask hmask), ?_, ownerFault_none fun r hr hr' => (hrows r hr hr').2.1,
      pushFault_none hroom [], passes_nil⟩
    · rw [decide_eq_true hxlt]
      rcases hpos with hpos | hpos <;> simp [hpos]
    · simp [hmin, hmax, hvec]
    · refine Core.accFault_none fun r hr hr' => ?_
      obtain ⟨hlt, -, hbank⟩ := hrows r hr hr'
      by_cases hremote : (s.rdS f.sx).getLsbD 16 = true
      · rw [if_pos hremote] at hbank ⊢
        exact ⟨hlt, hbank, fun q hq => nomatch hq⟩
      · rw [if_neg hremote] at hbank ⊢
        exact ⟨hlt, by simpa [clusterOf] using congrArg Option.isSome hbank, fun q hq => hq ▸ hbank⟩
  · dsimp only
    rw [State.owe_fst, State.owe_issueM]
    rfl

/-! ### MCHK (R218) -/

/-- A bank number below 64 whose rows are the executing plane's keeps the column check. -/
theorem mchkChecks_pass {f : MCk} {s : State} {y : Word}
    (h : f.col = 1#1 → y.toNat < 64 ∧ OwnRows s (128 * y.toNat) 128) :
    Passes [s.mRange (.mchk f) 13 (f.col = 0#1 || y.toNat < 64),
      if f.col = 1#1 then s.accFault (128 * (y.toNat % 64)) 128 else none] := by
  simp only [passes_cons, State.mRange_none]
  by_cases hcol : f.col = 1#1
  · obtain ⟨hlt, hown⟩ := h hcol
    rw [if_pos hcol, Nat.mod_eq_of_lt hlt]
    exact ⟨by simp [hlt], accFault_of_ownRows hown, passes_nil⟩
  · rw [if_neg hcol]
    exact ⟨by simp [(BitVec.eq_zero_or_eq_one f.col).resolve_right hcol], rfl, passes_nil⟩

/-- MCHK outside a handler joins the list. -/
theorem mchk_enters (f : MCk) {s : State} (hf : Free s)
    (h : f.col = 1#1 → (s.rdS f.sy).toNat < 64 ∧ OwnRows s (128 * (s.rdS f.sy).toNat) 128) :
    ∃ e, Enters (.mchk f) s (s.entered s.pl s.co s.dv.nextId f.ar e) f.ar e ∧ e.y = s.rdS f.sy := by
  refine ⟨{ s.mEnt (.mchk f) (s.pl.owes f.ar) 0 with y := s.rdS f.sy }, ⟨?_, rfl, rfl, rfl, rfl, rfl, rfl, rfl⟩, rfl⟩
  refine exec_of_guarded (execMchk.eq_def f s) ?_ ?_
  · refine (passes_cons _ _).2 ⟨?_, mchkChecks_pass h⟩
    rw [hf.1]
    exact (need_none _ _).2 (decide_eq_true hf.2)
  · dsimp only
    rw [hf.1, State.owe_fst]
    exact State.owe_issueM ..

/-- The log that MCHK gives inside a handler, that of a bank's columns with .col. -/
def State.checkLog (s : State) (f : MCk) : Word :=
  if f.col = 1#1 then s.co.checkCols ((s.rdS f.sy).toNat % 64) s.co.chk else s.co.chk

/-- The state after MCHK inside a handler, before a column check's cycles pass. -/
def State.checked (s : State) (f : MCk) : State :=
  { s with
    pl := { s.pl with flight := s.pl.flight ++ [s.sentOff 4 1 (.sreg f.sx) ((s.checkLog f).setWidth 2048) 0#24 7 0#5 f.ar] },
    co := { s.co with chk := 0#64 }, dv := { s.dv with bars := (s.owe f.ar).2.dv.bars, nextId := s.dv.nextId + 1 } }

/-- MCHK inside a handler gives the log and clears it. -/
theorem mchk_gives (f : MCk) {s : State} (hin : s.pl.intrap = true)
    (h : f.col = 1#1 → (s.rdS f.sy).toNat < 64 ∧ OwnRows s (128 * (s.rdS f.sy).toNat) 128) :
    exec (.mchk f) s = .next (if f.col = 1#1 then (s.checked f).pass 128 else s.checked f) := by
  refine exec_of_guarded (execMchk.eq_def f s) ?_ ?_
  · refine (passes_cons _ _).2 ⟨?_, mchkChecks_pass h⟩
    rw [hin]
    rfl
  · dsimp only
    rw [hin, State.owe_fst, State.owe_eq]
    rfl

/-- Settles O43: MDRAIN's checks follow from its rows and registers; MCHK by whether a handler runs. -/
theorem matrixDrainAndCheck : Obligations.MatrixDrainAndCheck := by
  refine ⟨fun f s hf => ?_, fun f s h => ⟨fun _ hf => ?_, fun hin hcol => ?_, fun hin hcol => ?_⟩⟩
  · dsimp only
    intro hxlt h13 hpos hmin hmax hvec hmask hrows hroom
    have hexec := mdrain_enters f hf rfl rfl rfl rfl rfl rfl hxlt h13 hpos hmin hmax hvec hmask hrows hroom
    have hidx : (s.drainEntry f).idx.setWidth 64 = (vget s.pl.ks ((s.rdS f.sz).extractLsb' 16 3).toNat ⟨0#64, 0#32⟩).w := by
      rw [← bitsOf_toNat]
      exact setWidth_scale _
    cases hremote : (s.rdS f.sx).getLsbD 16 with
    | false =>
      rw [hremote] at hexec
      exact ⟨_, _, hexec, rfl, rfl, rfl, rfl, rfl, rfl, rfl, rfl, hidx, fun _ => ⟨rfl, rfl⟩, fun h => Bool.noConfusion h⟩
    | true =>
      rw [hremote] at hexec
      exact ⟨_, _, hexec, rfl, rfl, rfl, rfl, rfl, rfl, rfl, rfl, hidx, fun h => Bool.noConfusion h, fun _ => ⟨rfl, rfl⟩⟩
  · obtain ⟨e, he, hy⟩ := mchk_enters f hf h
    exact ⟨_, e, he, rfl, rfl, hy⟩
  · have hcol' : f.col ≠ 1#1 := by rw [hcol]; decide
    have hexec := mchk_gives f hin h
    rw [if_neg hcol'] at hexec
    refine ⟨_, _, hexec, rfl, rfl, ⟨rfl, rfl, rfl, rfl⟩, ?_⟩
    simp only [State.sentOff, State.checkLog, if_neg hcol']
  · have hexec := mchk_gives f hin h
    rw [if_pos hcol] at hexec
    refine ⟨_, _, hexec, rfl, rfl, ⟨rfl, rfl, rfl, rfl⟩, ?_⟩
    simp only [State.sentOff, State.checkLog, if_pos hcol, Nat.mod_eq_of_lt (h hcol).1]

end Sys2Proof.Machine
end

section
/-!
PROOFS. O44: an integer product in a core's accumulator rows (R147, R195, R203, R210).
-/

namespace Sys2Proof.Machine

open Sys2Proof

/-! ### Exact sums of integers (R147) -/

/-- A value that stands for an integer with exponent 0. -/
def Num.Integral (x : Num) : Prop := ∃ neg m, x = .fin neg m 0

/-- The integer of such a value. -/
theorem Num.toInt_fin (neg : Bool) (m : Nat) : (Num.fin neg m 0).toInt = (m : Int) * if neg then -1 else 1 := by
  rw [Num.toInt, mul_comm]
  rfl

/-- An exact integer is one. -/
theorem Num.integral_ofInt (a : Int) : (Num.ofInt a).Integral := ⟨_, _, rfl⟩

/-- An exact integer stands for itself. -/
@[simp] theorem Num.toInt_ofInt (a : Int) : (Num.ofInt a).toInt = a := by
  rw [Num.ofInt, Num.toInt_fin]
  by_cases h : a < 0
  · rw [decide_eq_true h, if_pos rfl]; omega
  · rw [decide_eq_false h, if_neg Bool.false_ne_true]; omega

/-- The product of two integers is exact. -/
theorem nmul_ofInt (a b : Int) : (nmul (.ofInt a) (.ofInt b)).1.Integral ∧ (nmul (.ofInt a) (.ofInt b)).1.toInt = a * b := by
  refine ⟨⟨_, _, rfl⟩, ?_⟩
  have ha := Num.toInt_ofInt a
  have hb := Num.toInt_ofInt b
  rw [Num.ofInt, Num.toInt_fin] at ha hb
  refine (Num.toInt_fin (decide (a < 0) != decide (b < 0)) (a.natAbs * b.natAbs)).trans ?_
  generalize decide (a < 0) = s at ha ⊢
  generalize decide (b < 0) = t at hb ⊢
  rw [← ha, ← hb]
  cases s <;> cases t <;> simp

/-- The sum of two integers is exact. -/
theorem nadd_integral {x y : Num} (hx : x.Integral) (hy : y.Integral) :
    (nadd x y).1.Integral ∧ (nadd x y).1.toInt = x.toInt + y.toInt := by
  obtain ⟨s, m, rfl⟩ := hx
  obtain ⟨t, n, rfl⟩ := hy
  have hzero : (0 : Int) - min 0 0 = 0 := rfl
  simp only [nadd, hzero, Int.toNat_zero, Nat.shiftLeft_zero]
  rw [Num.toInt_fin, Num.toInt_fin]
  generalize (m : Int) * (if s then -1 else 1) + (n : Int) * (if t then -1 else 1) = z
  by_cases hz : z = 0
  · rw [if_pos hz, hz]
    exact ⟨⟨_, _, rfl⟩, (Num.toInt_fin _ _).trans (by simp)⟩
  · rw [if_neg hz]
    exact ⟨Num.integral_ofInt z, Num.toInt_ofInt z⟩

/-- The exact sum of integers. -/
theorem sumTerms_toInt {l : List Num} (h : ∀ x ∈ l, x.Integral) : (sumTerms l).toInt = (l.map Num.toInt).sum := by
  have hgo (l : List Num) : ∀ a : Num, a.Integral → (∀ x ∈ l, x.Integral) →
      (l.foldl (fun a x => (nadd a x).1) a).toInt = a.toInt + (l.map Num.toInt).sum := by
    induction l with
    | nil => intro a _ _; simp
    | cons x t ih =>
      intro a ha h
      obtain ⟨hint, hsum⟩ := nadd_integral ha (h x List.mem_cons_self)
      rw [List.foldl_cons, ih _ hint fun y hy => h y (List.mem_cons_of_mem x hy), hsum, List.map_cons, List.sum_cons, add_assoc]
  rw [sumTerms, hgo l _ ⟨_, _, rfl⟩ h, Num.toInt_fin]
  simp

/-- The exact sum of products of integers. -/
theorem sumTerms_terms (ks : List Nat) (A B : Nat → Int) :
    (sumTerms (terms ks (fun k => some (.ofInt (A k))) fun k => some (.ofInt (B k)))).toInt = (ks.map fun k => A k * B k).sum := by
  have hterms : terms ks (fun k => some (.ofInt (A k))) (fun k => some (.ofInt (B k))) =
      ks.map fun k => (nmul (.ofInt (A k)) (.ofInt (B k))).1 := by simp [terms]
  rw [hterms, sumTerms_toInt fun x hx => ?_, List.map_map]
  · exact congrArg List.sum (List.map_congr_left fun k _ => (nmul_ofInt (A k) (B k)).2)
  · obtain ⟨k, -, rfl⟩ := List.mem_map.1 hx
    exact (nmul_ofInt (A k) (B k)).1

/-! ### Blocks (R147) -/

/-- The blocks below `m` cover the k below 16 m and the extent. -/
theorem flatMap_blockKs (kc m : Nat) : (upTo 0 m).flatMap (blockKs kc) = List.range (min (16 * m) kc) := by
  induction m with
  | zero => simp [upTo]
  | succ m ih =>
    have hsplit : upTo 0 (m + 1) = upTo 0 m ++ [m] := by
      rw [upTo_eq, upTo_eq, ← List.range_eq_range', ← List.range_eq_range', List.range_succ]
    rw [hsplit, List.flatMap_append, ih, List.flatMap_singleton, blockKs, upTo_eq, List.range_eq_range', List.range_eq_range']
    by_cases h : 16 * m ≤ kc
    · have happ := List.range'_append_1 (s := 0) (m := 16 * m) (n := min 16 (kc - 16 * m))
      rw [Nat.zero_add] at happ
      rw [Nat.min_eq_left h, happ]
      congr 1
      omega
    · rw [show min 16 (kc - 16 * m) = 0 by omega, show min (16 * (m + 1)) kc = min (16 * m) kc by omega]
      simp

/-- A product's blocks cover its extent. -/
theorem flatMap_blocks (p : Prod) : p.blocks.flatMap (blockKs p.kc) = List.range p.kc := by
  rw [Prod.blocks, flatMap_blockKs, ceilDiv]
  congr 1
  omega

/-! ### An accumulator row (R195) -/

/-- Column `j` of an accumulator row. -/
def AccRow.col (x : AccRow) (j : Nat) : Nat := (x.data.extractLsb' (32 * j) 32).toNat

/-- A column has 32 bits. -/
theorem AccRow.col_lt (x : AccRow) (j : Nat) : x.col j < 2 ^ 32 := (x.data.extractLsb' (32 * j) 32).isLt

/-- Packed elements fill a vector of their width. -/
theorem toNat_ofNat_packs {w k : Nat} {l : List Nat} (hl : w * l.length = k) : (BitVec.ofNat k (packs w l)).toNat = packs w l := by
  rw [BitVec.toNat_ofNat, Nat.mod_eq_of_lt (hl ▸ packs_lt w l)]

/-- A column of a row given by its list of columns. -/
theorem col_of_packs {x : AccRow} {l : List Nat} (h : x.data = BitVec.ofNat 8192 (packs 32 l)) (hl : l.length = 256) (j : Nat) :
    x.col j = l.getD j 0 % 2 ^ 32 := by
  rw [AccRow.col, BitVec.extractLsb'_toNat, h, toNat_ofNat_packs (by rw [hl]), Nat.shiftRight_eq_div_pow, packs_elem]

/-- A column as an element of the row. -/
theorem AccRow.col_eq_elem (x : AccRow) {j : Nat} (hj : j < 256) : (elems 32 256 x.data.toNat).getD j 0 = x.col j := by
  rw [getD_elems _ _ _ _ _ hj, AccRow.col, BitVec.extractLsb'_toNat, Nat.shiftRight_eq_div_pow]

/-- An integer that a column holds already. -/
theorem wrap_of_lt {n x : Nat} (h : x < 2 ^ n) : wrap n (x : Int) = x := by
  zify
  rw [natCast_wrap]
  exact Int.emod_eq_of_lt (by positivity) (by exact_mod_cast h)

/-- A sum wrapped twice is wrapped once. -/
theorem wrap_wrap_add (n : Nat) (x y : Int) : wrap n ((wrap n x : Int) + y) = wrap n (x + y) := by
  zify
  rw [natCast_wrap, natCast_wrap, natCast_wrap, Int.emod_add_emod]

/-- An integer product: its A values and B values, the row and columns it writes, and whether ow clears the row. -/
def intProd (kc n row : Nat) (ow : Bool) (A : Nat → Int) (B : Nat → Nat → Int) : Prod :=
  ⟨true, kc, if ow then [row] else [], [(row, n, 0, fun k => some (Num.ofInt (A k)))], fun k j => some (Num.ofInt (B k j))⟩

/-- A column and its number after a block. -/
def intCol (kc n : Nat) (A : Nat → Int) (B : Nat → Nat → Int) (blk : Nat) (v : Nat × Nat) : Nat :=
  if v.2 < n then wrap 32 ((v.1 : Int) + (sumTerms (terms (blockKs kc blk) (fun k => some (Num.ofInt (A k)))
    fun k => some (Num.ofInt (B k (0 + v.2))))).toInt)
  else v.1

section
variable {kc n row : Nat} {ow : Bool} {A : Nat → Int} {B : Nat → Nat → Int}

/-- A block accumulated into a row of integers. -/
theorem rowBlock_col (x : AccRow) (blk : Nat) {j : Nat} (hj : j < 256) :
    (rowBlock (intProd kc n row ow A B) n 0 (fun k => some (Num.ofInt (A k))) x blk).col j =
      if j < n then wrap 32 ((x.col j : Int) + ((blockKs kc blk).map fun k => A k * B k j).sum) else x.col j := by
  have hdata : (rowBlock (intProd kc n row ow A B) n 0 (fun k => some (Num.ofInt (A k))) x blk).data =
      BitVec.ofNat 8192 (packs 32 (((elems 32 256 x.data.toNat).zip (upTo 0 256)).map (intCol kc n A B blk))) := rfl
  have hcol := x.col_eq_elem hj
  rw [List.getD_eq_getElem _ _ (by simpa using hj)] at hcol
  rw [col_of_packs hdata (by simp), List.getD_eq_getElem _ _ (by simpa using hj), List.getElem_map, List.getElem_zip, hcol]
  simp only [intCol, upTo_eq, List.getElem_range', Nat.zero_add, Nat.one_mul]
  split
  · rw [sumTerms_terms]
    exact Nat.mod_eq_of_lt (wrap_lt 32 _)
  · exact Nat.mod_eq_of_lt (x.col_lt j)

/-- Blocks accumulated into a row of integers. -/
theorem foldl_rowBlock_col (l : List Nat) (x : AccRow) {j : Nat} (hj : j < 256) :
    (l.foldl (rowBlock (intProd kc n row ow A B) n 0 fun k => some (Num.ofInt (A k))) x).col j =
      if j < n then wrap 32 ((x.col j : Int) + ((l.flatMap (blockKs kc)).map fun k => A k * B k j).sum) else x.col j := by
  induction l generalizing x with
  | nil =>
    split
    · simp [wrap_of_lt (x.col_lt j)]
    · rfl
  | cons blk t ih =>
    rw [List.foldl_cons, ih, rowBlock_col x blk hj, List.flatMap_cons, List.map_append, List.sum_append]
    split
    · rw [wrap_wrap_add, add_assoc]
    · rfl

/-- A block leaves a row of integers. -/
theorem rowBlock_isInt (a : Nat → Option Num) (x : AccRow) (blk : Nat) :
    (rowBlock (intProd kc n row ow A B) n 0 a x blk).isInt = true := by
  have hint : (intProd kc n row ow A B).isInt = true := rfl
  rw [rowBlock, if_pos hint]

/-- A row of integers stays one. -/
theorem foldl_rowBlock_isInt (l : List Nat) (a : Nat → Option Num) {x : AccRow} (hx : x.isInt = true) :
    (l.foldl (rowBlock (intProd kc n row ow A B) n 0 a) x).isInt = true := by
  induction l generalizing x with
  | nil => exact hx
  | cons blk t ih =>
    rw [List.foldl_cons]
    exact ih (rowBlock_isInt a x blk)

end

/-! ### A core's accumulator memory (R195, R202) -/

/-- A row read after a row is replaced. -/
theorem Core.accRow_setAcc (c : Core) (r : Nat) (x : AccRow) (q : Nat) :
    (c.setAcc r x).accRow q = if q = r then x else c.accRow q := SMap.get_set accReset c.acc r q x

/-- A fold whose steps leave the accumulator memory leaves it. -/
theorem foldl_acc {α : Type} (f : Core → α → Core) (hf : ∀ c x, (f c x).acc = c.acc) (l : List α) (c : Core) :
    (l.foldl f c).acc = c.acc := by
  induction l generalizing c with
  | nil => rfl
  | cons x t ih => rw [List.foldl_cons, ih, hf]

/-- The column states are apart from the rows. -/
theorem Core.applyCols_acc (c : Core) (p : Prod) (ok : Nat → Bool) : (c.applyCols p ok).acc = c.acc := by
  unfold Core.applyCols
  refine foldl_acc _ (fun c bk => ?_) _ c
  split
  · rfl
  · refine foldl_acc _ (fun c boff => ?_) _ c
    split <;> rfl

/-- A core whose row ow has cleared (R203). -/
def Core.cleared (c : Core) (row : Nat) (ow : Bool) : Core := if ow then c.setAcc row accReset else c

/-- Its rows. -/
theorem Core.accRow_cleared (c : Core) (row : Nat) (ow : Bool) (r : Nat) :
    (c.cleared row ow).accRow r = if ow = true ∧ r = row then accReset else c.accRow r := by
  cases ow with
  | false => rfl
  | true => simpa [Core.cleared] using c.accRow_setAcc row accReset r

/-- The row that an integer product starts from. -/
def Core.prodRow (c : Core) (row : Nat) (ow : Bool) : AccRow := { (c.cleared row ow).accRow row with isInt := true }

/-- Its columns. -/
theorem Core.prodRow_col (c : Core) (row : Nat) (ow : Bool) (j : Nat) :
    (c.prodRow row ow).col j = if ow then 0 else (c.accRow row).col j := by
  rw [Core.prodRow, Core.accRow_cleared]
  cases ow with
  | false => rfl
  | true => simp [AccRow.col, accReset]

/-- The rows that an integer product writes: its one row, block by block. -/
theorem applyRows_intProd (c : Core) (kc n row : Nat) (ow : Bool) (A : Nat → Int) (B : Nat → Nat → Int) :
    c.applyRows (intProd kc n row ow A B) (fun _ => true) = (c.cleared row ow).setAcc row
      ((intProd kc n row ow A B).blocks.foldl (rowBlock (intProd kc n row ow A B) n 0 fun k => some (Num.ofInt (A k)))
        (c.prodRow row ow)) := by
  cases ow <;> rfl

/-- A row after an integer product. -/
theorem accRow_intProd (c : Core) (kc n row : Nat) (ow : Bool) (A : Nat → Int) (B : Nat → Nat → Int) (r : Nat) :
    (c.applyProd (intProd kc n row ow A B) (fun _ => true) fun _ => true).accRow r =
      if r = row then
        (intProd kc n row ow A B).blocks.foldl (rowBlock (intProd kc n row ow A B) n 0 fun k => some (Num.ofInt (A k)))
          (c.prodRow row ow)
      else c.accRow r := by
  rw [Core.applyProd, Core.accRow, Core.applyCols_acc, ← Core.accRow, applyRows_intProd, Core.accRow_setAcc]
  by_cases hr : r = row
  · rw [if_pos hr, if_pos hr]
  · rw [if_neg hr, if_neg hr, Core.accRow_cleared, if_neg fun h => hr h.2]

/-- Settles O44: a row's columns block by block, the blocks covering the extent. -/
theorem integerProductAccumulates : Obligations.IntegerProductAccumulates := by
  intro c kc n row ow A B _
  dsimp only
  have hrow := accRow_intProd c kc n row ow A B
  refine ⟨fun j hj => ?_, ?_, fun r hr => (hrow r).trans (if_neg hr)⟩
  · refine (congrArg (AccRow.col · j) ((hrow row).trans (if_pos rfl))).trans ?_
    have hks : (intProd kc n row ow A B).blocks.flatMap (blockKs kc) = List.range kc := flatMap_blocks (intProd kc n row ow A B)
    rw [foldl_rowBlock_col _ _ hj, hks, Core.prodRow_col]
    cases ow <;> rfl
  · exact (congrArg AccRow.isInt ((hrow row).trans (if_pos rfl))).trans (foldl_rowBlock_isInt _ _ rfl)

end Sys2Proof.Machine
end

section
/-!
PROOFS. Accesses to memory leave the tasks' part of the device: its launches, barriers, supersteps, arrivals and block requests.
-/

namespace Sys2Proof.Machine

/-- What the device holds of the tasks: launches, barriers, supersteps, arrivals that wait, and block requests. -/
def Dev.tasking (d : Dev) : (List Launch × List Launch) × (List Bar × List SStep) × List Arr × List JReq :=
  ((d.launches, d.gone), (d.bars, d.steps), d.arrQ, d.jcbQ)

/-- A run of changes that each leave some part leaves it. -/
theorem foldl_keeps {α β γ : Type} (part : β → γ) (f : β → α → β) (hf : ∀ b a, part (f b a) = part b) (l : List α) (b : β) :
    part (l.foldl f b) = part b := by
  induction l generalizing b with
  | nil => rfl
  | cons a t ih => rw [List.foldl_cons, ih, hf]

/-! ### Bytes of memory, translations and descriptors -/

@[simp] theorem Dev.store_tasking (d : Dev) (id agent level a : Nat) (bs : List Byte) (lid rank plane : Nat) :
    (d.store id agent level a bs lid rank plane).tasking = d.tasking := by
  unfold Dev.store; split <;> rfl

@[simp] theorem Dev.atomic_tasking (d : Dev) (id agent a : Nat) (bs : List Byte) : (d.atomic id agent a bs).tasking = d.tasking :=
  Dev.store_tasking _ _ _ _ _ _ _ _ _

@[simp] theorem Dev.patch_tasking (d : Dev) (fmt agent a : Nat) (bs : List Byte) : (d.patch fmt agent a bs).tasking = d.tasking := by
  unfold Dev.patch Dev.keepSums
  dsimp only
  split
  · refine (foldl_keeps Dev.tasking _ ?_ _ _).trans (Dev.atomic_tasking _ _ _ _ _)
    exact fun _ _ => rfl
  · exact Dev.atomic_tasking _ _ _ _ _

@[simp] theorem Dev.setUsed_tasking (d : Dev) (agent : Nat) (lf : Leaf) (write : Bool) :
    (d.setUsed agent lf write).tasking = d.tasking := by
  unfold Dev.setUsed; split
  · rfl
  · exact Dev.patch_tasking _ _ _ _ _

@[simp] theorem Dev.markUsed_tasking (d : Dev) (sp : Nat) (write : Bool) (va : Nat) : (d.markUsed sp write va).tasking = d.tasking := by
  unfold Dev.markUsed; split
  · exact Dev.setUsed_tasking _ _ _ _
  · rfl

@[simp] theorem Dev.useLeaf_tasking (d : Dev) (die : Nat) (tlb : Option Nat) (sp : Nat) (write : Bool) (va : Nat) (lf : Leaf) :
    (d.useLeaf die tlb sp write va lf).2.tasking = d.tasking := by
  unfold Dev.useLeaf
  cases tlb <;> exact Dev.setUsed_tasking _ _ _ _

@[simp] theorem Dev.xlate_tasking (d : Dev) (die : Nat) (tlb : Option Nat) (sp : Nat) (write fetch : Bool) (va : Nat) :
    (d.xlate die tlb sp write fetch va).2.tasking = d.tasking := by
  unfold Dev.xlate
  have hwalk : (match d.walk sp write fetch va with
      | .error c => (.error c, d)
      | .ok lf => d.useLeaf die tlb sp write va lf : Except Cause Nat × Dev).2.tasking = d.tasking := by
    split
    · rfl
    · exact Dev.useLeaf_tasking _ _ _ _ _ _ _
  split
  · rfl
  · split
    · rfl
    · dsimp only
      split
      · split
        · rfl
        · split
          · exact hwalk
          · cases tlb with
            | none => rfl
            | some h => dsimp only; split <;> rfl
      · exact hwalk

@[simp] theorem Dev.markDescs_tasking (d : Dev) (sp n : Nat) : (d.markDescs sp n).tasking = d.tasking := by
  unfold Dev.markDescs
  dsimp only
  split
  · rfl
  · exact foldl_keeps Dev.tasking _ (fun _ _ => Dev.markUsed_tasking _ _ _ _) _ _

@[simp] theorem Dev.markEntry_tasking (d : Dev) (l : TLoc) (write : Bool) : (d.markEntry l write).tasking = d.tasking := by
  unfold Dev.markEntry
  split
  · rfl
  · split
    · exact Dev.markUsed_tasking _ _ _ _
    · rfl

@[simp] theorem Dev.putDesc_tasking (d : Dev) (sp i byte n v : Nat) : (d.putDesc sp i byte n v).tasking = d.tasking := by
  unfold Dev.putDesc
  split
  · rw [Dev.patch_tasking, Dev.markUsed_tasking]
  · rfl

/-! ### Tile entries and frames -/

@[simp] theorem State.setEntry_tasking (s : State) (l : TLoc) (w0 w1 : Word) : (s.setEntry l w0 w1).dv.tasking = s.dv.tasking := by
  unfold State.setEntry
  split
  · rw [State.modCore_dv]
  · simp

@[simp] theorem State.markChain_tasking (n : Nat) (s : State) (l : TLoc) : (s.markChain n l).dv.tasking = s.dv.tasking := by
  induction n generalizing s l with
  | zero => rfl
  | succ n ih =>
    have hmark : ((s.dv.markUsed l.sp false ((SMap.get (0, 0) s.dv.descs l.sp).1 + 128 * l.desc)).markEntry l false).tasking =
        s.dv.tasking := by simp
    unfold State.markChain
    split
    · rfl
    · dsimp only
      split
      · split
        · rw [ih]; exact hmark
        · exact hmark
      · exact hmark

@[simp] theorem State.undirty_tasking (s : State) (l : TLoc) : (s.undirty l).dv.tasking = s.dv.tasking := rfl

@[simp] theorem State.dropFrame_tasking (s : State) (l : TLoc) (w0 : Word) : (s.dropFrame l w0).dv.tasking = s.dv.tasking := by
  unfold State.dropFrame; split <;> rfl

@[simp] theorem State.unmapTiles_tasking (s : State) (sp i x : Nat) (ts : List Nat) :
    (s.unmapTiles sp i x ts).dv.tasking = s.dv.tasking := by
  refine foldl_keeps (fun s : State => s.dv.tasking) _ (fun s t => ?_) ts s
  split
  · simp
  · rfl

@[simp] theorem State.evict_tasking (s : State) (sp i x : Nat) : (s.evict sp i x).dv.tasking = s.dv.tasking := by
  unfold State.evict
  dsimp only
  split
  · rw [State.modDev_dv, Dev.setRes, Dev.putDesc_tasking, State.unmapTiles_tasking]
  · exact Dev.putDesc_tasking _ _ _ _ _ _

@[simp] theorem State.residency_tasking (s : State) (die : Nat) : (s.residency die).dv.tasking = s.dv.tasking := by
  unfold State.residency
  split
  · refine foldl_keeps (fun s : State => s.dv.tasking) _ (fun s c => ?_) _ s
    split
    · exact State.evict_tasking _ _ _ _
    · rfl
  · rfl

@[simp] theorem State.cancelOffload_tasking (s : State) (l : TLoc) : (s.cancelOffload l).dv.tasking = s.dv.tasking := by
  unfold State.cancelOffload
  split
  · exact Dev.putDesc_tasking _ _ _ _ _ _
  · rfl

@[simp] theorem State.claimFrame_tasking (s : State) (die f : Nat) : (s.claimFrame die f).dv.tasking = s.dv.tasking :=
  State.residency_tasking _ _

theorem State.takeFrame_tasking {s u : State} {die f : Nat} (h : s.takeFrame die = some (f, u)) : u.dv.tasking = s.dv.tasking := by
  unfold State.takeFrame at h
  split at h
  · nomatch h
  · cases h
    exact State.claimFrame_tasking _ _ _

@[simp] theorem State.giveBack_tasking (s : State) (frame : Option Nat) : (s.giveBack frame).dv.tasking = s.dv.tasking := by
  cases frame <;> rfl

/-! ### Lookups (R126, R265) -/

@[simp] theorem State.lookIn_tasking (s : State) (die : Nat) (tlb : Option Nat) (sp asp cls : Nat) (write : Bool) (va n : Nat)
    (frame : Bool) : (s.lookIn die tlb sp asp cls write va n frame).2.dv.tasking = s.dv.tasking := by
  have hx : ((s.dv.xlate die tlb sp write false va).2.noteBroken die sp).tasking = s.dv.tasking :=
    Dev.xlate_tasking _ _ _ _ _ _ _
  unfold State.lookIn
  split
  · split
    · rfl
    · dsimp only
      split
      · rfl
      · split <;> rfl
  · dsimp only
    split
    · exact hx
    · split
      · split <;> exact (Dev.markDescs_tasking _ _ _).trans hx
      · split
        · exact (Dev.markDescs_tasking _ _ _).trans hx
        · exact (Dev.markDescs_tasking _ _ _).trans hx
        · have hm (u : State) (hu : u.dv.tasking = s.dv.tasking) (l : TLoc) : (u.markChain 5 l).dv.tasking = s.dv.tasking :=
            (State.markChain_tasking 5 u l).trans hu
          have hd := fun n => (Dev.markDescs_tasking ((s.dv.xlate die tlb sp write false va).2.noteBroken die sp) sp n).trans hx
          split
          · exact hm _ (hd _) _
          · split
            · split <;> exact hm _ (hd _) _
            · split
              · split <;> exact hm _ (hd _) _
              · exact hm _ (hd _) _

theorem State.infraLook_tasking (s : State) (sp : Nat) (write : Bool) (va n : Nat) :
    (s.infraLook sp write va n).2.dv.tasking = s.dv.tasking := State.lookIn_tasking _ _ _ _ _ _ _ _ _ _

theorem State.infraCheck_tasking (s : State) (sp : Nat) (write : Bool) (fuel va n : Nat) :
    (s.infraCheck sp write fuel va n).2.dv.tasking = s.dv.tasking := by
  induction fuel generalizing s va n with
  | zero => rfl
  | succ fuel ih =>
    unfold State.infraCheck
    split
    · rfl
    · dsimp only
      split
      · exact State.infraLook_tasking _ _ _ _ _
      · rw [ih]; exact State.infraLook_tasking _ _ _ _ _

/-! ### Sums and their checks (R294 to R300, R371) -/

@[simp] theorem State.logErr_tasking (s : State) (die kind : Nat) (ref : Word) : (s.logErr die kind ref).dv.tasking = s.dv.tasking := rfl

@[simp] theorem State.setSide_tasking (s : State) (st : Store) (x : BitVec 16384) : (s.setSide st x).dv.tasking = s.dv.tasking := by
  cases st with
  | slot c k => rw [State.setSide, State.modCore_dv]
  | frame f => rfl

@[simp] theorem State.putRow_tasking (s : State) (st : Store) (r : Nat) (x : Row) : (s.putRow st r x).dv.tasking = s.dv.tasking := by
  cases st with
  | slot c k => rw [State.putRow, State.modCore_dv]
  | frame f => exact Dev.atomic_tasking _ _ _ _ _

@[simp] theorem State.scrub_tasking (s : State) (pa n : Nat) : (s.scrub pa n).dv.tasking = s.dv.tasking := by
  unfold State.scrub
  dsimp only
  split
  · rfl
  · show (List.foldl (fun s x => State.logErr s (homeDie (32 * x)) 4 0#64) s _).dv.tasking = _
    exact foldl_keeps (fun s : State => s.dv.tasking) _ (fun s x => s.logErr_tasking _ _ _) _ s

@[simp] theorem State.healAs_tasking (s : State) (pa n fmt : Nat) : (s.healAs pa n fmt).dv.tasking = s.dv.tasking := by
  unfold State.healAs
  dsimp only
  split <;> rfl

@[simp] theorem State.checkTile_tasking (s : State) (st : Store) (fmt : Nat) (ref : Word) :
    (s.checkTile st fmt ref).2.dv.tasking = s.dv.tasking := by
  unfold State.checkTile
  dsimp only
  generalize classify fmt (s.storeRows st) (s.side st) = k
  split
  · split
    · exact State.putRow_tasking _ _ _ _
    · exact State.setSide_tasking _ _ _
    · rfl
  · rw [State.logErr_tasking]
    split
    · exact State.putRow_tasking _ _ _ _
    · exact State.setSide_tasking _ _ _
    · rfl

@[simp] theorem State.checkRow_tasking (s : State) (st : Store) (fmt r : Nat) (ref : Word) :
    (s.checkRow st fmt r ref).2.2.dv.tasking = s.dv.tasking := by
  unfold State.checkRow
  split
  · dsimp only
    exact State.checkTile_tasking _ _ _ _
  · rfl

@[simp] theorem State.checkAgain_tasking (s : State) (st : Store) (fmt r : Nat) (ref : Word) :
    (s.checkAgain st fmt r ref).2.2.dv.tasking = s.dv.tasking := by
  unfold State.checkAgain
  dsimp only
  split
  · rfl
  · exact State.checkRow_tasking _ _ _ _ _

/-! ### Dirty tiles and promotion (R278, R281 to R284) -/

@[simp] theorem State.settle_tasking (s : State) (l : TLoc) : (s.settle l).2.dv.tasking = s.dv.tasking := by
  unfold State.settle
  dsimp only
  split
  · rfl
  · split
    · simp
    · split <;> simp

@[simp] theorem State.settleRef_tasking (s : State) (sp : Nat) (ref : Word) : (s.settleRef sp ref).dv.tasking = s.dv.tasking := by
  unfold State.settleRef
  split
  · exact State.settle_tasking _ _
  · rfl

@[simp] theorem State.listDirty_tasking (s : State) (l : TLoc) (lid rank : Nat) : (s.listDirty l lid rank).dv.tasking = s.dv.tasking := by
  unfold State.listDirty
  dsimp only
  split
  · rfl
  · split
    · rfl
    · exact State.settleRef_tasking _ _ _

@[simp] theorem State.noteDirty_tasking (s : State) (l : TLoc) (lid rank : Nat) (was : Bool) :
    (s.noteDirty l lid rank was).dv.tasking = s.dv.tasking := by
  unfold State.noteDirty
  split
  · rfl
  · exact State.listDirty_tasking _ _ _ _

theorem State.promoteInto_tasking {s u : State} {l : TLoc} {lid rank : Nat} {frame : Option Nat} {st : Store}
    (h : s.promoteInto l lid rank frame = .ok (st, u)) : u.dv.tasking = s.dv.tasking := by
  unfold State.promoteInto at h
  dsimp only at h
  split at h
  · nomatch h
  · split at h
    · cases h
      simp
    · split at h
      · nomatch h
      · next f s1 hf =>
        have hs1 : s1.dv.tasking = s.dv.tasking := by
          split at hf
          · cases hf; rfl
          · exact State.takeFrame_tasking hf
        cases h
        simp [hs1]

theorem State.readyWrite_tasking {s u : State} {l : TLoc} {lid rank : Nat} {st : Store}
    (h : s.readyWrite l lid rank = .ok (st, u)) : u.dv.tasking = s.dv.tasking := by
  unfold State.readyWrite State.readyWith at h
  dsimp only at h
  split at h
  · cases h
    simp
  · rw [State.promoteInto_tasking h, State.cancelOffload_tasking]

/-! ### Bytes of a tile (R281, R283, R294, R305, R344) -/

@[simp] theorem State.bumpPair_tasking (s : State) (l : TLoc) : (s.bumpPair l).dv.tasking = s.dv.tasking := by
  unfold State.bumpPair
  split
  · rfl
  · exact State.setEntry_tasking _ _ _ _
  · exact State.setEntry_tasking _ _ _ _

@[simp] theorem State.bumpOnce_tasking (s : State) (l : TLoc) (id : Nat) : (s.bumpOnce l id).dv.tasking = s.dv.tasking := by
  unfold State.bumpOnce
  split
  · exact State.bumpPair_tasking _ _
  · split
    · rfl
    · exact State.bumpPair_tasking _ _

@[simp] theorem State.sendMerge_tasking (s : State) (lux : Option (BitVec 16)) (lid rank fmt : Nat) (codes : List Nat) (store : Nat) :
    (s.sendMerge lux lid rank fmt codes store).dv.tasking = s.dv.tasking := by
  obtain ⟨q, hq⟩ := s.sendMerge_eq lux lid rank fmt codes store
  rw [hq]
  rfl

@[simp] theorem State.noteWrite_tasking (s : State) (l : TLoc) (w : Wr) (new : Row) (mask : Nat) :
    (s.noteWrite l w new mask).dv.tasking = s.dv.tasking := by
  unfold State.noteWrite State.dropViews
  rw [State.sendMerge_tasking]
  show (ite _ _ _ : State).dv.tasking = _
  split <;> split <;> simp

@[simp] theorem State.writeBitsAt_tasking (s : State) (first : Bool) (l : Option TLoc) (st : Store) (w : Wr) (r lo hi mask : Nat)
    (f : Row → Row) : (s.writeBitsAt first l st w r lo hi mask f).2.dv.tasking = s.dv.tasking := by
  unfold State.writeBitsAt
  dsimp only
  generalize hq : (if first = true then _ else _ : Row × Option Nat × State) = q
  have hq2 : q.2.2.dv.tasking = s.dv.tasking := by
    subst hq
    split
    · exact State.checkRow_tasking _ _ _ _ _
    · exact State.checkAgain_tasking _ _ _ _ _
  cases l <;> cases st <;> simp [hq2]

theorem State.writeRowAt_tasking (s : State) (l : Option TLoc) (st : Store) (w : Wr) (r lo hi : Nat) (f : Row → Row) :
    (s.writeRowAt l st w r lo hi f).2.dv.tasking = s.dv.tasking := State.writeBitsAt_tasking _ _ _ _ _ _ _ _ _ _

/-! ### Physical addresses (R252, R389) -/

theorem State.writeSt_tasking (s : State) (q v : Nat) : (s.writeSt q v).dv.tasking = s.dv.tasking := by
  unfold State.writeSt; split
  · rfl
  · split <;> rfl

theorem State.writeHc_tasking (s : State) (q v : Nat) : (s.writeHc q v).dv.tasking = s.dv.tasking := by
  unfold State.writeHc; split
  · rfl
  · split <;> rfl

theorem State.queueWrite_tasking {s u : State} {q off v : Nat} (h : s.queueWrite q off v = some u) : u.dv.tasking = s.dv.tasking := by
  unfold State.queueWrite at h
  dsimp only at h
  split at h
  · split at h
    · nomatch h
    · cases h; rfl
  · split at h
    · nomatch h
    · cases h; rfl
  · split at h
    · nomatch h
    · cases h; rfl
  · cases h; exact State.writeSt_tasking _ _ _
  · cases h; exact State.writeHc_tasking _ _ _
  · nomatch h

@[simp] theorem State.pageWrite_tasking (s : State) (pa lo hi : Nat) (new : Row) :
    (s.pageWrite pa lo hi new).dv.tasking = s.dv.tasking := by
  refine foldl_keeps (fun s : State => s.dv.tasking) _ (fun s j => ?_) _ s
  split
  · cases hq : s.queueWrite (pageQueue pa) (8 * j) (bitsOf new.toNat (64 * j) 64) with
    | none => rfl
    | some u => exact State.queueWrite_tasking hq
  · rfl

@[simp] theorem State.putBits_tasking (s : State) (first : Bool) (w : Wr) (pa : Nat) (l : Option TLoc) (lo hi mask : Nat)
    (f : Row → Row) : (s.putBits first w pa l lo hi mask f).2.dv.tasking = s.dv.tasking := by
  generalize hq : s.putBits first w pa l lo hi mask f = q
  unfold State.putBits at hq
  split at hq
  · subst hq
    exact State.pageWrite_tasking _ _ _ _ _
  · split at hq
    · extract_lets c off r at hq
      split at hq
      · split at hq
        · subst hq; rfl
        · next hr =>
          subst hq
          rw [State.writeBitsAt_tasking, State.readyWrite_tasking hr]
      · split at hq
        · subst hq
          exact congrArg Dev.tasking (State.modCore_dv _ _ _)
        · split at hq
          · subst hq
            exact congrArg Dev.tasking (State.modPlane_dv _ _ _ _)
          · subst hq; rfl
    · split at hq
      · subst hq
        rw [State.writeBitsAt_tasking, State.scrub_tasking]
      · subst hq
        exact Dev.store_tasking _ _ _ _ _ _ _ _ _
/-! ### Writes of the infrastructure (R239, R265, R379) -/

theorem State.infraPut_tasking (s : State) (sp level va : Nat) (bs : List Byte) :
    (s.infraPut sp level va bs).2.dv.tasking = s.dv.tasking := by
  have hlook := s.infraLook_tasking sp true va bs.length
  generalize hq : s.infraPut sp level va bs = q
  unfold State.infraPut at hq
  generalize s.infraLook sp true va bs.length = r at hq hlook
  obtain ⟨k, u⟩ := r
  extract_lets w lo hi f at hq
  split at hq
  · subst hq
    exact (State.healAs_tasking _ _ _ _).trans ((State.putBits_tasking _ _ _ _ _ _ _ _ _).trans hlook)
  · split at hq
    · next st s1 hr =>
      have hs1 := (State.readyWrite_tasking hr).trans hlook
      subst hq
      cases st with
      | slot c k => exact (State.writeRowAt_tasking _ _ _ _ _ _ _ _).trans hs1
      | frame y => exact (State.healAs_tasking _ _ _ _).trans ((State.writeRowAt_tasking _ _ _ _ _ _ _ _).trans hs1)
    · subst hq; exact hlook
  · subst hq; exact hlook
  · subst hq; exact hlook

theorem State.infraPuts_tasking (s : State) (sp level fuel va : Nat) (bs : List Byte) :
    (s.infraPuts sp level fuel va bs).2.dv.tasking = s.dv.tasking := by
  induction fuel generalizing s va bs with
  | zero => rfl
  | succ fuel ih =>
    cases bs with
    | nil => rfl
    | cons b t =>
      unfold State.infraPuts
      exact (ih _ _ _).trans (State.infraPut_tasking _ _ _ _ _)

theorem State.infraWrite_tasking (s : State) (sp level va : Nat) (bs : List Byte) :
    (s.infraWrite sp level va bs).2.2.dv.tasking = s.dv.tasking := by
  unfold State.infraWrite
  dsimp only
  split
  · exact State.infraCheck_tasking _ _ _ _ _ _
  · exact (State.infraPuts_tasking _ _ _ _ _ _).trans (State.infraCheck_tasking _ _ _ _ _ _)

/-- Completion records written leave the tasks' part (R239, R245). -/
theorem State.flush_tasking (s : State) (q fuel : Nat) : (s.flush q fuel).dv.tasking = s.dv.tasking := by
  induction fuel generalizing s with
  | zero => rfl
  | succ fuel ih =>
    generalize hu : s.flush q (fuel + 1) = u
    unfold State.flush at hu
    extract_lets x at hu
    split at hu
    · subst hu; rfl
    · next r hr =>
      split at hu
      · subst hu; rfl
      · have hw := s.infraWrite_tasking q 4 (x.cring.toNat + 32 * (x.chead % 2 ^ x.size.toNat)) (bytesOfNat 32 r.2.toNat)
        generalize s.infraWrite q 4 (x.cring.toNat + 32 * (x.chead % 2 ^ x.size.toNat)) (bytesOfNat 32 r.2.toNat) = w at hu hw
        obtain ⟨c, c', u'⟩ := w
        dsimp only at hu hw
        split at hu
        · subst hu; exact hw
        · subst hu; exact (ih _).trans hw

theorem State.flushAll_tasking (s : State) : s.flushAll.dv.tasking = s.dv.tasking := by
  unfold State.flushAll
  split
  · rfl
  · exact foldl_keeps (fun s : State => s.dv.tasking) _ (fun _ _ => State.flush_tasking _ _ _) _ s

end Sys2Proof.Machine
end

section
/-!
PROOFS. Numbered barriers and supersteps as they stand after one is replaced (R229, R230, R232).
-/

namespace Sys2Proof.Machine

/-! ### Finding a replaced element -/

/-- An element put in place of those that meet a test is found where the test asked meets that one, and nothing else changes
where no element meets both tests. -/
theorem find_cons_filter {α : Type} (x : α) (p q : α → Bool) (l : List α) :
    (q x = true → (x :: l.filter fun y => !p y).find? q = some x) ∧
    (q x = false → (∀ y, q y = true → p y = false) → (x :: l.filter fun y => !p y).find? q = l.find? q) := by
  refine ⟨fun hx => List.find?_cons_of_pos hx, fun hx hpq => ?_⟩
  rw [List.find?_cons_of_neg (by simp [hx]), List.find?_filter]
  refine congrArg (List.find? · l) (funext fun y => ?_)
  cases hy : q y with
  | false => simp
  | true => simp [hpq y hy]

/-! ### Barriers (R229) -/

/-- A barrier's key. -/
theorem Bar.is_iff {b : Bar} {o : Bool × Nat} {l i n : Nat} :
    b.is o l i n = true ↔ (b.grp, b.own) = o ∧ b.level = l ∧ b.inst = i ∧ b.num = n := by
  obtain ⟨g, w⟩ := o
  simp [Bar.is, and_assoc]

/-- The barrier found has the key asked for. -/
theorem State.bar_is (s : State) (o : Bool × Nat) (l i n : Nat) : (s.bar o l i n).is o l i n = true := by
  unfold State.bar
  cases h : s.dv.bars.find? fun b => b.is o l i n with
  | none => simp [Bar.is]
  | some b => exact List.find?_some (p := fun b : Bar => b.is o l i n) h

/-- After a barrier is replaced, it is found under its key, and every other barrier stands. -/
theorem State.bar_setBar (s : State) (b : Bar) (o : Bool × Nat) (l i n : Nat) :
    (s.setBar b).bar o l i n = if b.is o l i n then b else s.bar o l i n := by
  obtain ⟨hsame, hother⟩ := find_cons_filter b (·.is (b.grp, b.own) b.level b.inst b.num) (·.is o l i n) s.dv.bars
  cases h : b.is o l i n with
  | true => exact congrArg (Option.getD · _) (hsame h)
  | false =>
    refine congrArg (Option.getD · _) (hother h fun y hy => Bool.eq_false_iff.2 fun hk => ?_)
    obtain ⟨rfl, rfl, rfl, rfl⟩ := Bar.is_iff.1 hy
    obtain ⟨ho, hl, hi, hn⟩ := Bar.is_iff.1 hk
    rw [Bar.is_iff.2 ⟨ho.symm, hl.symm, hi.symm, hn.symm⟩] at h
    nomatch h

/-- The counts found are the member's. -/
theorem Bar.counts_key (b : Bar) (lid rank : Nat) : (b.counts lid rank).lid = lid ∧ (b.counts lid rank).rank = rank := by
  unfold Bar.counts
  cases h : b.cnt.find? fun c => c.lid == lid && c.rank == rank with
  | none => exact ⟨rfl, rfl⟩
  | some c => simpa using List.find?_some h

/-- After a member's counts are replaced, they are found for that member, and every other member's stand. -/
theorem Bar.counts_put (b : Bar) (c : BarCnt) (lid rank : Nat) :
    (b.put c).counts lid rank = if lid = c.lid ∧ rank = c.rank then c else b.counts lid rank := by
  obtain ⟨hsame, hother⟩ := find_cons_filter c (fun x => x.lid == c.lid && x.rank == c.rank)
    (fun x => x.lid == lid && x.rank == rank) b.cnt
  split
  · next h => exact congrArg (Option.getD · _) (hsame (by simp [h]))
  · next h =>
    refine congrArg (Option.getD · _) (hother (Bool.eq_false_iff.2 fun hc => h ?_) fun y hy => Bool.eq_false_iff.2 fun hk => h ?_)
    · simp only [Bool.and_eq_true, beq_iff_eq] at hc
      exact ⟨hc.1.symm, hc.2.symm⟩
    · simp only [Bool.and_eq_true, beq_iff_eq] at hy hk
      exact ⟨hy.1.symm.trans hk.1, hy.2.symm.trans hk.2⟩

/-! ### Supersteps (R232) -/

/-- A superstep's key. -/
theorem SStep.is_iff {x : SStep} {o : Bool × Nat} {l i : Nat} :
    x.is o l i = true ↔ (x.grp, x.own) = o ∧ x.level = l ∧ x.inst = i := by
  obtain ⟨g, w⟩ := o
  simp [SStep.is, and_assoc]

/-- The superstep found has the key asked for. -/
theorem State.sstep_is (s : State) (o : Bool × Nat) (l i : Nat) : (s.sstep o l i).is o l i = true := by
  unfold State.sstep
  cases h : s.dv.steps.find? fun x => x.is o l i with
  | none => simp [SStep.is]
  | some x => exact List.find?_some (p := fun x : SStep => x.is o l i) h

/-- After a superstep is replaced, it is found under its key. -/
theorem State.sstep_setSStep (s : State) {x : SStep} {o : Bool × Nat} {l i : Nat} (h : x.is o l i = true) :
    (s.setSStep x).sstep o l i = x :=
  congrArg (Option.getD · _) ((find_cons_filter x (·.is (x.grp, x.own) x.level x.inst) (·.is o l i) s.dv.steps).1 h)

/-! ### An issue counted (R230) -/

/-- An arrival's issue raises I of its member at its barrier by 1. -/
theorem State.bar_issueArrival (s : State) (o : Owed) (w : Bool × Nat) (l i n : Nat) :
    (s.issueArrival o).bar w l i n =
      if w = s.barOwner o.lid o.level ∧ l = o.level ∧ i = s.barInst o.lid o.rank o.level ∧ n = o.num then
        let b := s.bar w l i n
        b.put { b.counts o.lid o.rank with i := (b.counts o.lid o.rank).i + 1 }
      else s.bar w l i n := by
  obtain ⟨ho, hl, hi, hn⟩ := Bar.is_iff.1 (s.bar_is (s.barOwner o.lid o.level) o.level (s.barInst o.lid o.rank o.level) o.num)
  by_cases h : w = s.barOwner o.lid o.level ∧ l = o.level ∧ i = s.barInst o.lid o.rank o.level ∧ n = o.num
  · rw [if_pos h]
    obtain ⟨rfl, rfl, rfl, rfl⟩ := h
    exact (State.bar_setBar _ _ _ _ _ _).trans (if_pos (Bar.is_iff.2 ⟨ho, hl, hi, hn⟩))
  · rw [if_neg h]
    refine (State.bar_setBar _ _ _ _ _ _).trans (if_neg fun hk => h ?_)
    obtain ⟨ho', hl', hi', hn'⟩ := Bar.is_iff.1 hk
    exact ⟨ho'.symm.trans ho, hl'.symm.trans hl, hi'.symm.trans hi, hn'.symm.trans hn⟩

/-- A barrier with I of one member raised by 1. -/
theorem Bar.counts_raiseI (b : Bar) (lid rank lid' rank' : Nat) :
    (b.put { b.counts lid rank with i := (b.counts lid rank).i + 1 }).counts lid' rank' =
      if lid' = lid ∧ rank' = rank then { b.counts lid rank with i := (b.counts lid rank).i + 1 } else b.counts lid' rank' := by
  obtain ⟨hl, hr⟩ := b.counts_key lid rank
  rw [Bar.counts_put]
  exact if_congr (by rw [hl, hr]) rfl rfl

/-- Settles O13: a bound selector owes the arrival of its binding, whose issue is counted at that barrier. -/
theorem arrivalIssueCounts : Obligations.ArrivalIssueCounts := by
  intro s ar b lv nm own inst t
  refine ⟨State.owe_eq s ar, ?_⟩
  split
  · next h =>
    have howes : s.pl.owes ar = none := by
      unfold Plane.owes
      by_cases har : ar = 0#2
      · exact if_pos har
      · exact (if_neg har).trans (if_pos (h.resolve_left har))
    refine ⟨howes, ?_⟩
    show (s.owe ar).2 = s
    unfold State.owe
    rw [howes]
  · next h =>
    obtain ⟨har, hlv⟩ := not_or.1 h
    have howes : s.pl.owes ar = some ⟨s.pl.lid, s.pl.rank, lv, nm, ar.toNat⟩ := (if_neg har).trans (if_neg hlv)
    have ht : t = s.issueArrival ⟨s.pl.lid, s.pl.rank, lv, nm, ar.toNat⟩ := by
      show (s.owe ar).2 = _
      unfold State.owe
      rw [howes]
    have hbar := s.bar_issueArrival ⟨s.pl.lid, s.pl.rank, lv, nm, ar.toNat⟩
    have hcnt := (s.bar own lv inst nm).counts_raiseI s.pl.lid s.pl.rank
    rw [ht, (hbar own lv inst nm).trans (if_pos ⟨rfl, rfl, rfl, rfl⟩)]
    refine ⟨howes, ?_, ?_, rfl, fun lid rank hm => (hcnt lid rank).trans (if_neg hm), fun o l i n hk => (hbar o l i n).trans (if_neg hk)⟩
    · rw [hcnt, if_pos ⟨rfl, rfl⟩]
    · rw [hcnt, if_pos ⟨rfl, rfl⟩]

end Sys2Proof.Machine
end

section
/-!
PROOFS. What follows every step: no task sleeps on a condition that holds, and no arrival that waits for no store is left
(R226, R227, R230).
-/

namespace Sys2Proof.Machine

/-- What follows a turn or an event that goes on. -/
theorem settle_next {o : Host.Outcome State Fault Refusal} {t : State} (h : settle o = .next t) : ∃ u : State, t = u.settled := by
  cases o with
  | next u => exact ⟨u, (Host.Outcome.next.inj h).symm⟩
  | fault f => nomatch h
  | refused r => nomatch h

/-- A step ends with what follows every step. -/
theorem step_settled {s t : State} (h : step s = .next t) : ∃ u : State, t = u.settled := by
  unfold step at h
  split at h <;> exact settle_next h

/-! ### Waking (R226, R227) -/

/-- Whether a wait is over depends on the device alone, besides the plane that waits. -/
theorem State.waitHolds_congr {s u : State} (h : u.dv = s.dv) (p : Plane) (w : Wait) : u.waitHolds p w = s.waitHolds p w := by
  obtain ⟨_, _, _, d, _, _⟩ := s
  obtain ⟨_, _, _, e, _, _⟩ := u
  obtain rfl : e = d := h
  cases w <;> rfl

/-- A plane as waking leaves it: ready when it was parked and its condition holds. -/
def State.woken (s : State) (p : Plane) : Plane :=
  match p.status, p.wait with
  | .parked, some w => if s.waitHolds p w then { p with status := .ready, wait := none } else p
  | _, _ => p

/-- A woken plane that is parked waits for a condition that does not hold. -/
theorem State.waitHolds_woken {s : State} {p : Plane} {w : Wait} (hp : (s.woken p).status = .parked)
    (hw : (s.woken p).wait = some w) : s.waitHolds (s.woken p) w = false := by
  by_cases hst : p.status = .parked
  · cases hpw : p.wait with
    | none =>
      have hsame : s.woken p = p := by simp [State.woken, hpw]
      rw [hsame, hpw] at hw
      nomatch hw
    | some v =>
      by_cases hv : s.waitHolds p v = true
      · have hready : (s.woken p).status = .ready := by simp [State.woken, hst, hpw, hv]
        rw [hready] at hp
        nomatch hp
      · have hsame : s.woken p = p := by simp [State.woken, hst, hpw, hv]
        rw [hsame] at hw ⊢
        obtain rfl : v = w := Option.some.inj (hpw.symm.trans hw)
        exact Bool.eq_false_iff.2 hv
  · have hsame : s.woken p = p := by simp [State.woken, hst]
    exact absurd (hsame ▸ hp) hst

/-- Waking wakes both planes of every core. -/
theorem State.boxes_wake (s : State) :
    s.wake.boxes = s.boxes.map fun b => ⟨s.woken b.pl, { b.co with shadow := s.woken b.co.shadow }⟩ := rfl

/-- After waking, no task sleeps on a condition that holds. -/
theorem State.wake_noLostWake (s : State) : s.wake.noLostWake := by
  intro b hb p hp w hst hw
  rw [State.boxes_wake] at hb
  obtain ⟨c, -, rfl⟩ := List.mem_map.1 hb
  rw [State.waitHolds_congr s.wake_dv]
  obtain rfl | rfl := hp
  · exact State.waitHolds_woken hst hw
  · exact State.waitHolds_woken hst hw

/-- Settles O7: waking ends every step. -/
theorem stepsLoseNoWakeup : Obligations.StepsLoseNoWakeup := by
  intro s t _ h
  obtain ⟨u, rfl⟩ := step_settled h
  exact State.wake_noLostWake _

/-- Settles O8: no plane of the reset state is parked. -/
theorem resetLosesNoWakeup : Obligations.ResetLosesNoWakeup := by
  refine ⟨fun b hb p hp w hst _ => ?_, reset_memory_wf⟩
  have hboxes : ∀ b ∈ State.reset.boxes, b.pl.status = .empty ∧ b.co.shadow.status = .empty := by decide
  obtain ⟨hpl, hsh⟩ := hboxes b hb
  obtain rfl | rfl := hp
  · rw [hpl] at hst; nomatch hst
  · rw [hsh] at hst; nomatch hst

/-! ### Delivery (R229, R230) -/

/-- A delivery takes no arrival from those that wait and adds none. -/
theorem State.delivered_arrQ (s : State) (o : Owed) : (s.delivered o).dv.arrQ = s.dv.arrQ := by
  unfold State.delivered
  split
  · rfl
  · dsimp only
    split <;> rfl

/-- After the deliveries of a step, the arrivals that follow stores are left, and no other. -/
theorem State.deliverDone_arrQ (s : State) : s.deliverDone.dv.arrQ = s.dv.arrQ.filter fun a => !a.stores.isEmpty :=
  foldl_keeps (fun s : State => s.dv.arrQ) _ (fun _ _ => State.delivered_arrQ _ _) _ _

/-- Settles O9: the completion records and wakings that follow the deliveries of a step move no arrival. -/
theorem arrivalsAreDelivered : Obligations.ArrivalsAreDelivered := by
  intro s t h a ha
  obtain ⟨u, rfl⟩ := step_settled h
  have hkeep : u.settled.dv.arrQ = u.reap.sweep.deliverDone.dv.arrQ :=
    congrArg (·.2.2.1) (State.flushAll_tasking u.reap.sweep.deliverDone)
  rw [hkeep, State.deliverDone_arrQ] at ha
  simpa using (List.mem_filter.1 ha).2

end Sys2Proof.Machine
end

section
/-!
PROOFS. WAITB, ARRIVE, ARWAIT, SSTEP and WAITJ (R226, R231, R232, R237).
-/

namespace Sys2Proof.Machine

open Sys2Proof Sys2Proof.Claim

/-! ### Waits and arrivals at a barrier (R226, R231) -/

/-- A wait whose condition holds is none; any other is noted on the executing plane. -/
theorem State.waitFor_eq (s : State) (w : Wait) :
    s.waitFor w = if s.waitHolds s.pl w = true then s else { s with pl := { s.pl with wait := some w } } := rfl

/-- The arrival that ARRIVE and ARWAIT owe. -/
def State.ownArrival (s : State) (level num : Nat) : Owed := ⟨s.pl.lid, s.pl.rank, level, num, 0⟩

/-- An arrival's issue is counted at the barrier that the task's waits name. -/
theorem State.bar_arriveAt (s : State) (level num : Nat) :
    (s.arriveAt level num).bar (s.barOwner s.pl.lid level) level (s.barInst s.pl.lid s.pl.rank level) num =
      let b := s.bar (s.barOwner s.pl.lid level) level (s.barInst s.pl.lid s.pl.rank level) num
      b.put { b.counts s.pl.lid s.pl.rank with i := (b.counts s.pl.lid s.pl.rank).i + 1 } :=
  (s.bar_issueArrival (s.ownArrival level num) _ _ _ _).trans (if_pos ⟨rfl, rfl, rfl, rfl⟩)

/-- The member's own issued count is one more, and the phase stands. -/
theorem State.issued_arriveAt (s : State) (level num : Nat) :
    let own := s.barOwner s.pl.lid level
    let inst := s.barInst s.pl.lid s.pl.rank level
    (((s.arriveAt level num).bar own level inst num).counts s.pl.lid s.pl.rank).i =
      ((s.bar own level inst num).counts s.pl.lid s.pl.rank).i + 1 ∧
    ((s.arriveAt level num).bar own level inst num).phase = (s.bar own level inst num).phase := by
  intro own inst
  rw [State.bar_arriveAt]
  exact ⟨congrArg BarCnt.i ((Bar.counts_raiseI _ _ _ _ _).trans (if_pos ⟨rfl, rfl⟩)), rfl⟩

/-- A wait at a barrier ends when the phase has reached the task's issued count. -/
theorem State.waitAt_eq (s : State) (level num : Nat) :
    let b := s.bar (s.barOwner s.pl.lid level) level (s.barInst s.pl.lid s.pl.rank level) num
    let n := (b.counts s.pl.lid s.pl.rank).i
    s.waitAt level num = { s with pl := if n ≤ b.phase then s.pl else { s.pl with wait := some (.bar level num n) } } := by
  intro b n
  refine (State.waitFor_eq _ _).trans ?_
  by_cases h : n ≤ b.phase
  · rw [if_pos h]
    exact if_pos (decide_eq_true h)
  · rw [if_neg h]
    exact if_neg fun hd => h (of_decide_eq_true hd)

/-! ### The instructions -/

/-- WAITB waits at its barrier. -/
theorem waitb_waits (f : CBar) (s : State) :
    let b := s.bar (s.barOwner s.pl.lid f.lvl.toNat) f.lvl.toNat (s.barInst s.pl.lid s.pl.rank f.lvl.toNat) f.num.toNat
    let n := (b.counts s.pl.lid s.pl.rank).i
    OnPlane (.waitb f) s (if n ≤ b.phase then s.pl else { s.pl with wait := some (.bar f.lvl.toNat f.num.toNat n) }) :=
  onPlane_of_guarded (slot := 0) (eff := fun s => s.waitAt f.lvl.toNat f.num.toNat) rfl passes_nil (State.waitAt_eq s _ _)

/-- ARRIVE arrives at its barrier. -/
theorem arrive_arrives (f : CBar) (s : State) : exec (.arrive f) s = .next (s.arriveAt f.lvl.toNat f.num.toNat) :=
  exec_of_guarded (slot := 0) (eff := fun s => s.arriveAt f.lvl.toNat f.num.toNat) rfl passes_nil rfl

/-- ARWAIT arrives at its barrier and waits there. -/
theorem arwait_waits (f : CBar) (s : State) : exec (.arwait f) s =
    .next ((s.arriveAt f.lvl.toNat f.num.toNat).waitAt f.lvl.toNat f.num.toNat) :=
  exec_of_guarded (slot := 0) (eff := fun s => (s.arriveAt f.lvl.toNat f.num.toNat).waitAt f.lvl.toNat f.num.toNat) rfl
    passes_nil rfl

/-- A superstep with a task's mark. -/
def SStep.marked (x : SStep) (lid rank : Nat) : SStep :=
  { x with marks := (lid, rank) :: x.marks.filter fun m => !(m == (lid, rank)) }

/-- SSTEP marks the task and waits for the phase that follows the present count. -/
theorem sstep_marks (f : CLvl) (s : State) :
    let lv := f.lvl.toNat
    let x := s.sstep (s.barOwner s.pl.lid lv) lv (s.barInst s.pl.lid s.pl.rank lv)
    exec (.sstep f) s = .next { s with
      pl := { s.pl with wait := some (.sstep lv x.count), safe := s.pl.safe || !s.pl.intrap },
      dv := { s.dv with steps := (s.setSStep (x.marked s.pl.lid s.pl.rank)).dv.steps } } := by
  intro lv x
  have hfound : (s.setSStep (x.marked s.pl.lid s.pl.rank)).sstep (s.barOwner s.pl.lid lv) lv (s.barInst s.pl.lid s.pl.rank lv) =
      x.marked s.pl.lid s.pl.rank := s.sstep_setSStep (s.sstep_is _ _ _)
  refine (State.guarded_nil s 0 _ : execSstep f s = _).trans (congrArg Host.Outcome.next ?_)
  refine (State.waitFor_eq _ _).trans (if_neg fun h => ?_)
  have hlt : x.count < ((s.setSStep (x.marked s.pl.lid s.pl.rank)).sstep (s.barOwner s.pl.lid lv) lv
      (s.barInst s.pl.lid s.pl.rank lv)).count := of_decide_eq_true h
  rw [hfound] at hlt
  exact Nat.lt_irrefl _ hlt

/-- WAITJ whose block translates waits for it. -/
theorem waitj_waits (f : CS) {s s1 : State} {blk : Block} (h : s.blockPa false (s.rdS f.s) = (.ok blk, s1)) :
    exec (.waitj f) s = .next (s1.waitFor (match blk with
      | .at_ pa => .jcb pa
      | .row b => .jcbBit (b.getLsbD 96))) := by
  refine exec_of_guarded (by show execWaitj f s = _; unfold execWaitj; rfl) (by simp [h]) ?_
  simp only [h]
  cases blk <;> rfl

/-- Settles O18: one lemma per instruction. -/
theorem barriersAndWaits : Obligations.BarriersAndWaits := by
  refine ⟨fun f s => ?_, fun f s => ?_, fun f s s1 blk h => ?_⟩
  · intro lv nm own inst mine
    obtain ⟨hi, hphase⟩ := s.issued_arriveAt lv nm
    refine ⟨waitb_waits f s, ⟨_, arrive_arrives f s, hi, rfl⟩, ⟨_, arwait_waits f s, ?_, ?_, ?_⟩⟩
    · rw [State.waitAt_eq]
      exact hi
    · rw [State.waitAt_eq, ← hi, ← hphase]
      rfl
    · rw [State.waitAt_eq]
      rfl
  · intro lv own inst
    have hfound : (s.setSStep ((s.sstep own lv inst).marked s.pl.lid s.pl.rank)).sstep own lv inst =
        (s.sstep own lv inst).marked s.pl.lid s.pl.rank := s.sstep_setSStep (s.sstep_is _ _ _)
    have hmark : (s.pl.lid, s.pl.rank) ∈
        ((s.setSStep ((s.sstep own lv inst).marked s.pl.lid s.pl.rank)).sstep own lv inst).marks := by
      rw [hfound]
      exact List.mem_cons_self
    have hcount := congrArg SStep.count hfound
    exact ⟨_, sstep_marks f s, hmark, hcount, rfl⟩
  · have hw := waitj_waits f h
    constructor
    · rintro pa rfl
      exact hw
    · rintro b rfl
      dsimp only at hw
      generalize b.getLsbD 96 = done at hw ⊢
      cases done <;> exact hw

end Sys2Proof.Machine
end

section
/-!
PROOFS. Requests of the job-block, journal and residency instructions (R236, R358, R401 to R403, R409, R411).
-/

namespace Sys2Proof.Machine

open Sys2Proof Sys2Proof.Claim

/-! ### Promotion leaves the executing plane (R126, R278) -/

@[simp] theorem State.setSide_pl (s : State) (st : Store) (x : BitVec 16384) : (s.setSide st x).pl = s.pl := by
  cases st with
  | slot c k => exact State.modCore_pl _ _ _
  | frame f => rfl

@[simp] theorem State.undirty_pl (s : State) (l : TLoc) : (s.undirty l).pl = s.pl := rfl

@[simp] theorem State.settle_pl (s : State) (l : TLoc) : (s.settle l).2.pl = s.pl := by
  unfold State.settle
  dsimp only
  split
  · rfl
  · split
    · simp
    · split <;> simp

@[simp] theorem State.listDirty_pl (s : State) (l : TLoc) (lid rank : Nat) : (s.listDirty l lid rank).pl = s.pl := by
  unfold State.listDirty
  dsimp only
  split
  · rfl
  · split
    · rfl
    · unfold State.settleRef
      split
      · exact State.settle_pl _ _
      · rfl

/-- A tile readied for a write leaves the executing plane. -/
theorem State.readyWrite_pl {s u : State} {l : TLoc} {lid rank : Nat} {st : Store}
    (h : s.readyWrite l lid rank = .ok (st, u)) : u.pl = s.pl := by
  have hcancel : (s.cancelOffload l).pl = s.pl := by
    unfold State.cancelOffload
    split <;> rfl
  unfold State.readyWrite State.readyWith at h
  dsimp only at h
  split at h
  · cases h
    exact hcancel
  · rw [← hcancel]
    unfold State.promoteInto at h
    dsimp only at h
    split at h
    · nomatch h
    · split at h
      · cases h
        simp
      · split at h
        · nomatch h
        · next f s1 hf =>
          have hs1 : s1.pl = (s.cancelOffload l).pl := by
            unfold State.takeFrame at hf
            split at hf
            · nomatch hf
            · cases hf
              exact State.claimFrame_pl _ _ _
          cases h
          simp [hs1]

/-- A block's translation leaves the executing plane (R126, R236). -/
theorem State.blockPa_pl {s s1 : State} {write : Bool} {a : Word} {r : Except Cause Block} (h : s.blockPa write a = (r, s1)) :
    s1.pl = s.pl := by
  have hlook := s.lookIn_pl (dieOf s.co.id) none s.pl.space s.pl.space clsCore false (a.toNat / 64 * 64) 64 true
  unfold State.blockPa State.look at h
  dsimp only at h
  generalize s.lookIn (dieOf s.co.id) none s.pl.space s.pl.space clsCore false (a.toNat / 64 * 64) 64 true = q at h hlook
  obtain ⟨k, u⟩ := q
  cases k with
  | error c => cases h; exact hlook
  | ok k =>
    cases k with
    | mem pa l => cases write <;> cases h <;> exact hlook
    | view n v =>
      cases write with
      | true => cases h; exact hlook
      | false =>
        cases h
        unfold State.viewFill
        split <;> exact hlook
    | sym l t =>
      cases write with
      | true =>
        dsimp only at h
        rw [if_pos rfl] at h
        split at h
        · next hr => cases h; exact (State.readyWrite_pl hr).trans hlook
        · next hr => cases h; exact (State.readyWrite_pl hr).trans hlook
        · cases h; exact hlook
      | false =>
        dsimp only at h
        rw [if_neg Bool.false_ne_true] at h
        split at h <;> cases h <;> exact hlook

/-! ### Requests to blocks (R236) -/

/-- The request that a job-block instruction sends to a block's home. -/
def State.blockRequest (s : State) (pa : Nat) (op : JOp) (stores : List Nat) (arr : Option Owed) : JReq :=
  ⟨pa, s.pl.lid, s.pl.rank, op, stores, arr⟩

/-- A job-block instruction whose block translates and whose other checks pass has its effect where the translation left the
machine. -/
theorem exec_of_jcbOp {i : Instr} {s s1 : State} {write : Bool} {a : Word} {more : List (Option Cause)}
    {eff : State → Block → State} {blk : Block} (h : exec i s = s.jcbOp write a more eff)
    (hb : s.blockPa write a = (.ok blk, s1)) (hmore : ∀ c ∈ more, c = none) : exec i s = .next (eff s1 blk) := by
  refine exec_of_guarded h ?_ (by rw [hb])
  rw [hb]
  exact List.forall_mem_cons.2 ⟨rfl, hmore⟩

/-- The awaited result of an instruction with an AR selector. -/
def State.awaited (s : State) (slot lat : Nat) (dest : Dest) (lb : Bool) (ar : BitVec 2) : Flight :=
  { id := s.dv.nextId, due := s.pl.bcount + lat, dest := dest, val := 0#2048, tag := 0#24, flags := 0#5, eng := 7,
    arr := s.pl.owes ar, lb := lb, known := false, arrived := false, raised := false, slot := slot,
    issued := s.pl.tcount, take := none, qfSet := none }

/-- A result awaited with its arrival moves the flight, the barriers and the next number, and nothing else. -/
theorem State.owe_await (s : State) (slot lat : Nat) (dest : Dest) (lb : Bool) (ar : BitVec 2) :
    (s.owe ar).2.await slot lat dest lb (s.owe ar).1 = (s.dv.nextId,
      { s with pl := { s.pl with flight := s.pl.flight ++ [s.awaited slot lat dest lb ar] },
               dv := { s.dv with bars := (s.owe ar).2.dv.bars, nextId := s.dv.nextId + 1 } }) := by
  rw [State.owe_fst, State.owe_eq]
  rfl

/-- A request sent with its arrival moves the barriers and the requests, and nothing else. -/
theorem State.owe_jcbSend (s : State) (pa : Nat) (op : JOp) (stores : List Nat) (ar : BitVec 2) :
    (s.owe ar).2.jcbSend (.at_ pa) op stores (s.owe ar).1 = { s with dv := { s.dv with
      bars := (s.owe ar).2.dv.bars, jcbQ := s.dv.jcbQ ++ [s.blockRequest pa op stores (s.pl.owes ar)] } } := by
  rw [State.owe_fst, State.owe_eq]
  rfl

/-- JCBADD adds to its block. -/
theorem jcbadd_sends (f : KJa) {s s1 : State} {pa : Nat} (hb : s.blockPa true (s.rdS f.sx) = (.ok (.at_ pa), s1))
    (hy : (s.rdS f.sy).toNat < 2 ^ 32) : exec (.jcbadd f) s = .next { s1 with dv := { s1.dv with
      bars := (s1.owe f.ar).2.dv.bars,
      jcbQ := s1.dv.jcbQ ++
        [s1.blockRequest pa (.add ((s.rdS f.sy).setWidth 32) f.slot.toNat) [] (s1.pl.owes f.ar)] } } := by
  have hrd : s1.rdS f.sy = s.rdS f.sy := congrArg (Plane.rdS · f.sy) (State.blockPa_pl hb)
  refine (exec_of_jcbOp (by show execJcbadd f s = _; unfold execJcbadd; rfl) hb fun c hc => by
    obtain rfl := List.mem_singleton.1 hc
    exact (need_none _ _).2 (decide_eq_true hy)).trans ?_
  rw [← State.owe_jcbSend, ← hrd]

/-- JCBDONE reports to its block, after the task's far stores. -/
theorem jcbdone_sends (f : KJd) {s s1 : State} {pa : Nat} (hb : s.blockPa true (s.rdS f.sx) = (.ok (.at_ pa), s1)) :
    exec (.jcbdone f) s = .next { s1 with dv := { s1.dv with
      bars := (s1.owe f.ar).2.dv.bars,
      jcbQ := s1.dv.jcbQ ++ [s1.blockRequest pa
        (.done (some f.slot.toNat) (f.close == 1#1) (if f.err = 1#1 then some 0x30#8 else none))
        (s1.taskStores s1.pl) (s1.pl.owes f.ar)] } } := by
  refine (exec_of_jcbOp (by show execJcbdone f s = _; unfold execJcbdone; rfl) hb passes_nil).trans ?_
  rw [← State.owe_jcbSend]

end Sys2Proof.Machine
end

section
/-!
PROOFS. O51: the job-block, journal and residency instructions (R236, R358, R402, R403, R409, R411).
-/

namespace Sys2Proof.Machine

open Sys2Proof Sys2Proof.Claim

/-! ### JCBQ (R236) -/

/-- JCBQ asks its block's home, or the tile's row sampled at issue, and awaits the answer 96 bundles on. -/
theorem jcbq_asks (f : R2) {s s1 : State} {blk : Block} (hb : s.blockPa false (s.rdS f.sy) = (.ok blk, s1))
    (hlb : s.pl.lbUsed < Config.lbCap) :
    ∃ t r, exec (.jcbq f) s = .next t ∧ t.pl = { s1.pl with flight := s1.pl.flight ++ [r] } ∧ r.due = s1.pl.bcount + 96 ∧
      r.dest = .sreg f.sx ∧ r.known = false ∧ r.arr = s1.pl.owes f.ar ∧
      (∀ pa, blk = .at_ pa → t.dv.jcbQ = s1.dv.jcbQ ++ [s1.blockRequest pa (.query s1.co.id s1.co.lit r.id) [] none]) ∧
      (∀ b, blk = .row b → t.dv.jcbQ = s1.dv.jcbQ ++ [s1.blockRequest 0 (.queryRow b s1.co.id s1.co.lit r.id) [] none]) ∧
      t.dv.mem = s1.dv.mem := by
  have hlb' : s.lbFault = none := (need_none _ _).2 (decide_eq_true hlb)
  have hexec := exec_of_jcbOp (i := .jcbq f) (by show execJcbq f s = _; unfold execJcbq; rfl) hb
    fun c hc => (List.mem_singleton.1 hc).trans hlb'
  dsimp only at hexec
  rw [State.owe_await] at hexec
  refine ⟨_, s1.awaited 7 96 (.sreg f.sx) true f.ar, hexec, rfl, rfl, rfl, rfl, rfl, fun pa h => ?_, fun b h => ?_, rfl⟩
  · subst h
    rfl
  · subst h
    rfl

/-! ### Requests to the journal's controller (R402, R403, R409, R411) -/

/-- The request that an instruction of the executing task sends to the journal's controller. -/
def State.journalRequest (s : State) (op : JnlOp) (arr : Option Owed) : JnlReq :=
  ⟨s.pl.stream, s.pl.lid, s.pl.rank, s.pl.tcount, op, arr⟩

/-- The journal with one request more. -/
def Journal.asked (j : Journal) (r : JnlReq) : Journal := { j with reqs := j.reqs ++ [r] }

/-- An append whose checks pass sends its entry and awaits the answer one bundle on, the sequencer frozen meanwhile. -/
theorem asks_of_append {i : Instr} {s : State} {f : R3} {more : List (Option Cause)} {entry : State → BitVec 512}
    {e : BitVec 512} (h : exec i s = s.append i f more entry) (hentry : entry s = e) (hmore : Passes more)
    (hj : s.pl.jact = true) (hstep : s.lstepNow ≤ (s.rdS f.sz).toNat) :
    Asks i s f.ar (.sreg f.sx) 1 fun id =>
      { s.dv with jnl := s.dv.jnl.asked (s.journalRequest (.append e s.co.id s.co.lit id) none) } := by
  subst hentry
  have hjact : s.jactFault i = none := (need_none _ _).2 hj
  have horder : need (!s.pl.jact || decide (s.lstepNow ≤ (s.rdS f.sz).toNat)) (s.illegal i 3 8) = none :=
    (need_none _ _).2 (by rw [decide_eq_true hstep, Bool.or_true])
  have hexec := exec_of_guarded h
    ((passes_append _ _).2 ⟨(passes_cons _ _).2 ⟨hjact, (passes_cons _ _).2 ⟨horder, passes_nil⟩⟩, hmore⟩) rfl
  dsimp only at hexec
  rw [State.owe_await] at hexec
  exact ⟨_, s.awaited 7 1 (.sreg f.sx) false f.ar, Config.freezeCycles s.fresh, hexec, rfl, rfl, rfl, rfl, rfl, rfl, rfl⟩

/-- JRPL asks for the stream's next entry of a kind, for a vector queue 96 bundles on. -/
theorem jrpl_asks (f : KJp) {s : State} (hj : s.pl.jact = true) (hlb : s.pl.lbUsed < Config.lbCap)
    (hpush : s.pl.pushFault (16 * f.cl.toNat + f.q.toNat) 1 [] = none) :
    Asks (.jrpl f) s f.ar (.vq (16 * f.cl.toNat + f.q.toNat)) 96 fun id =>
      { s.dv with jnl := s.dv.jnl.asked (s.journalRequest (.read f.kind.toNat s.co.id s.co.lit id) none) } := by
  have hjact : s.jactFault (.jrpl f) = none := (need_none _ _).2 hj
  have hlb' : s.lbFault = none := (need_none _ _).2 (decide_eq_true hlb)
  have hexec := exec_of_guarded (i := .jrpl f) (by show execJrpl f s = _; unfold execJrpl; rfl)
    ((passes_cons _ _).2 ⟨hjact, (passes_cons _ _).2 ⟨hpush, (passes_cons _ _).2 ⟨hlb', passes_nil⟩⟩⟩) rfl
  dsimp only at hexec
  rw [State.owe_await] at hexec
  refine ⟨_, s.awaited 7 96 (.vq (16 * f.cl.toNat + f.q.toNat)) true f.ar, 0, hexec, rfl, ?_, rfl, rfl, rfl, rfl, rfl⟩
  rw [Plane.tick_zero]
  rfl

/-- JTRUNC asks for the truncation, its arrival owed by the request. -/
theorem jtrunc_sends (f : R1) {s : State} (hj : s.pl.jact = true) :
    exec (.jtrunc f) s = .next { s with dv := { s.dv with
      bars := (s.owe f.ar).2.dv.bars,
      jnl := s.dv.jnl.asked (s.journalRequest (.trunc (s.rdS f.sx).toNat) (s.pl.owes f.ar)) } } := by
  have hjact : s.jactFault (.jtrunc f) = none := (need_none _ _).2 hj
  refine exec_of_guarded (by show execJtrunc f s = _; unfold execJtrunc; rfl)
    (fun c hc => (List.mem_singleton.1 hc).trans hjact) ?_
  dsimp only
  rw [State.owe_fst, State.owe_eq]
  rfl

/-! ### Journal entries (R401) -/

/-- An entry as R401 lays it out. -/
theorem mkJournal_eq (header : BitVec 64) (step : Word) (payload : BitVec 320) :
    mkJournal header.toNat step payload.toNat = (payload ++ 0#64 ++ step ++ header : BitVec 512) := by
  have hsum : header.toNat + step.toNat <<< 64 + payload.toNat <<< 192 =
      (payload ++ 0#64 ++ step ++ header : BitVec 512).toNat := by
    simp only [toNat_append_add, Nat.shiftLeft_eq, BitVec.toNat_ofNat]
    ring
  rw [mkJournal, Nat.mod_eq_of_lt payload.isLt, hsum, BitVec.ofNat_toNat, BitVec.setWidth_eq]

/-- An entry's header as R401 lays it out. -/
theorem jHeader_eq (stream : Nat) (layer : BitVec 16) (gfmt : BitVec 4) (count : BitVec 8) (kind : BitVec 4) :
    jHeader stream layer.toNat gfmt.toNat count.toNat kind.toNat =
      (0#22 ++ BitVec.ofNat 10 stream ++ layer ++ gfmt ++ count ++ kind : BitVec 64).toNat := by
  have hl := layer.isLt
  simp only [jHeader, toNat_append_add, Nat.shiftLeft_eq, BitVec.toNat_ofNat] at *
  omega

/-- The low bits of a number under a mask. -/
theorem lowBits_toNat {w k n : Nat} (b : BitVec w) (hn : n ≤ k) :
    (b.setWidth k &&& (BitVec.allOnes k >>> (k - n))).toNat = b.toNat % 2 ^ n := by
  have hmask : (BitVec.allOnes k >>> (k - n)).toNat = 2 ^ n - 1 := by
    refine Nat.eq_of_testBit_eq fun j => ?_
    rw [Nat.testBit_two_pow_sub_one, BitVec.testBit_toNat, BitVec.getLsbD_ushiftRight, BitVec.getLsbD_allOnes]
    exact decide_eq_decide.2 (by omega)
  rw [BitVec.toNat_and, hmask, Nat.and_two_pow_sub_one_eq_mod, BitVec.toNat_setWidth,
    Nat.mod_mod_of_dvd _ (Nat.pow_dvd_pow 2 hn)]

/-- The header of an entry of the executing task's stream, as R401 lays it out. -/
def State.entryHead (s : State) (layer : BitVec 16) (gfmt : BitVec 4) (count : BitVec 8) (kind : BitVec 4) : BitVec 64 :=
  0#22 ++ BitVec.ofNat 10 s.pl.stream ++ layer ++ gfmt ++ count ++ kind

/-- An entry of a header, a step and a payload, its sequence number 0. -/
def entryOf (h : BitVec 64) (step : Word) (payload : BitVec 320) : BitVec 512 := payload ++ 0#64 ++ step ++ h

/-- An entry from the numbers of its parts. -/
theorem State.mkJournal_entry (s : State) (layer : BitVec 16) (gfmt : BitVec 4) (count : BitVec 8) (kind : BitVec 4) (step : Word)
    (payload : BitVec 320) {l g c k p : Nat} (hl : layer.toNat = l) (hg : gfmt.toNat = g) (hc : count.toNat = c)
    (hk : kind.toNat = k) (hp : payload.toNat = p) :
    mkJournal (jHeader s.pl.stream l g c k) step p = entryOf (s.entryHead layer gfmt count kind) step payload := by
  rw [← hl, ← hg, ← hc, ← hk, ← hp, jHeader_eq]
  exact mkJournal_eq _ _ _

/-- The first `n` words of the block at an address, as a payload. -/
def State.blockWords (s : State) (a : Word) (n : Nat) : BitVec 320 :=
  (s.blockAt a).setWidth 320 &&& (BitVec.allOnes 320 >>> (320 - 32 * n))

/-- The number of a block's first words. -/
theorem State.blockWords_toNat (s : State) (a : Word) {n : Nat} (hn : n ≤ 10) :
    (s.blockWords a n).toNat = (s.blockAt a).toNat % 2 ^ (32 * n) :=
  lowBits_toNat _ (by omega)

/-- A count of words is its byte. -/
theorem countByte_toNat {n : Nat} (hn : n ≤ 10) : (BitVec.ofNat 8 n).toNat = n := by
  rw [BitVec.toNat_ofNat]
  exact Nat.mod_eq_of_lt (by omega)

/-- The payload of a GEN entry: the latch's generator before and after the draws, and its key. -/
def Plane.genPayload (p : Plane) (n : Nat) : BitVec 320 :=
  let latch := vget p.bl 1 0#2048
  let ctr := latch.extractLsb' 64 128
  latch.setWidth 64 ++ (ctr + BitVec.ofNat 128 (16 * n)) ++ ctr

/-- The number of a GEN entry's payload. -/
theorem Plane.genPayload_toNat (p : Plane) (n : Nat) :
    (p.genPayload n).toNat =
      let b := (vget p.bl 1 0#2048).toNat
      let c := bitsOf b 64 128
      c + ((c + 16 * n) % 2 ^ 128) <<< 128 + (bitsOf b 0 64) <<< 256 := by
  have hc := ((vget p.bl 1 0#2048).extractLsb' 64 128).isLt
  simp only [Plane.genPayload, toNat_append_add, bitsOf_toNat, BitVec.toNat_add, BitVec.toNat_ofNat, Nat.shiftLeft_eq,
    ← BitVec.setWidth_eq_extractLsb' (show 64 ≤ 2048 by omega)] at *
  omega

/-! ### Appends (R402) -/

/-- JEMIT appends a TOKEN entry. -/
theorem jemit_asks (g : KJe) {s : State} (hrow : s.rowFault (s.rdS g.sy).toNat = none) (hn : g.n.toNat ≤ 9)
    (hj : s.pl.jact = true) (hstep : s.lstepNow ≤ (s.rdS g.sz).toNat) :
    Asks (.jemit g) s g.ar (.sreg g.sx) 1 fun id =>
      { s.dv with jnl := s.dv.jnl.asked (s.journalRequest (.append
        (entryOf (s.entryHead 0 0 (BitVec.ofNat 8 (g.n.toNat + 1)) 0) (s.rdS g.sz) (s.blockWords (s.rdS g.sy) (g.n.toNat + 1)))
        s.co.id s.co.lit id) none) } := by
  have hentry := s.mkJournal_entry 0 0 (BitVec.ofNat 8 (g.n.toNat + 1)) 0 (s.rdS g.sz) (s.blockWords (s.rdS g.sy) (g.n.toNat + 1))
    rfl rfl (countByte_toNat (Nat.succ_le_succ hn)) rfl (s.blockWords_toNat _ (Nat.succ_le_succ hn))
  refine asks_of_append (f := ⟨g.ar, g.sx, g.sy, g.sz⟩) (by show execJemit g s = _; unfold execJemit; rfl) ?_
    ((passes_cons _ _).2 ⟨hrow, passes_nil⟩) hj hstep
  exact hentry

/-- JEMIT.MARK appends a MARKER entry. -/
theorem jemitMark_asks (f : R3) {s : State} (hrow : s.rowFault (s.rdS f.sy).toNat = none)
    (hj : s.pl.jact = true) (hstep : s.lstepNow ≤ (s.rdS f.sz).toNat) :
    Asks (.jemitMark f) s f.ar (.sreg f.sx) 1 fun id =>
      { s.dv with jnl := s.dv.jnl.asked (s.journalRequest (.append
        (entryOf (s.entryHead 0 0 0 3) (s.rdS f.sz) ((s.blockAt (s.rdS f.sy)).setWidth 320)) s.co.id s.co.lit id) none) } := by
  have hentry := s.mkJournal_entry 0 0 0 3 (s.rdS f.sz) ((s.blockAt (s.rdS f.sy)).setWidth 320)
    rfl rfl rfl rfl (BitVec.toNat_setWidth _ _)
  refine asks_of_append (by show execJemitMark f s = _; unfold execJemitMark; rfl) ?_
    ((passes_cons _ _).2 ⟨hrow, passes_nil⟩) hj hstep
  exact hentry

/-- JROUTE appends a ROUTE entry. -/
theorem jroute_asks (g : KJr) {s : State} (hrow : s.rowFault (s.rdS g.sy).toNat = none) (hn : g.n.toNat ≤ 7)
    (hj : s.pl.jact = true) (hstep : s.lstepNow ≤ (s.rdS g.sz).toNat) :
    Asks (.jroute g) s g.ar (.sreg g.sx) 1 fun id =>
      { s.dv with jnl := s.dv.jnl.asked (s.journalRequest (.append
        (entryOf (s.entryHead ((s.blockAt (s.rdS g.sy)).extractLsb' 256 16) (if g.gf = 1#1 then 8 else 6)
          (BitVec.ofNat 8 (g.n.toNat + 1)) 1) (s.rdS g.sz) (s.blockWords (s.rdS g.sy) (g.n.toNat + 1)))
        s.co.id s.co.lit id) none) } := by
  have hfmt : (if g.gf = 1#1 then 8 else 6 : BitVec 4).toNat = if g.gf = 1#1 then 8 else 6 := by split <;> rfl
  have hentry := s.mkJournal_entry ((s.blockAt (s.rdS g.sy)).extractLsb' 256 16) (if g.gf = 1#1 then 8 else 6)
    (BitVec.ofNat 8 (g.n.toNat + 1)) 1 (s.rdS g.sz) (s.blockWords (s.rdS g.sy) (g.n.toNat + 1))
    (bitsOf_toNat _ _ _).symm hfmt (countByte_toNat (by omega)) rfl (s.blockWords_toNat _ (by omega))
  refine asks_of_append (f := ⟨g.ar, g.sx, g.sy, g.sz⟩) (by show execJroute g s = _; unfold execJroute; rfl) ?_
    ((passes_cons _ _).2 ⟨hrow, passes_nil⟩) hj hstep
  exact hentry

/-- JGEN appends a GEN entry. -/
theorem jgen_asks (f : R3) {s : State} (hn : (s.rdS f.sy).toNat < 2 ^ 32) (hj : s.pl.jact = true)
    (hstep : s.lstepNow ≤ (s.rdS f.sz).toNat) :
    Asks (.jgen f) s f.ar (.sreg f.sx) 1 fun id =>
      { s.dv with jnl := s.dv.jnl.asked (s.journalRequest (.append
        (entryOf (s.entryHead 0 0 1 2) (s.rdS f.sz) (s.pl.genPayload (s.rdS f.sy).toNat)) s.co.id s.co.lit id) none) } := by
  have hentry := s.mkJournal_entry 0 0 1 2 (s.rdS f.sz) (s.pl.genPayload (s.rdS f.sy).toNat)
    rfl rfl rfl rfl (s.pl.genPayload_toNat _)
  refine asks_of_append (by show execJgen f s = _; unfold execJgen; rfl) ?_
    ((passes_cons _ _).2 ⟨(need_none _ _).2 (decide_eq_true hn), passes_nil⟩) hj hstep
  exact hentry

/-! ### Residency (R358) -/

/-- A descriptor that is there is active. -/
theorem State.descActive_none {s : State} {d : Nat} (h : (s.dv.desc s.pl.space d).isSome = true) : s.descActive d = none :=
  (need_none _ _).2 h

/-- CTAG writes its tensor's use count and cost, the sequencer frozen meanwhile. -/
theorem ctag_tags (f : R3) {s : State} (hd : (s.rdS f.sx).toNat < 2 ^ 24) (hy : (s.rdS f.sy).toNat < 2 ^ 48)
    (hz : (s.rdS f.sz).toNat < 2 ^ 16) (hact : (s.dv.desc s.pl.space (s.rdS f.sx).toNat).isSome = true)
    (hdesc : s.descFault s.pl.space (s.rdS f.sx).toNat true = none) :
    ∃ t, Arrives (.ctag f) s t f.ar ∧ t.pl = { s.pl with cycle := t.pl.cycle } ∧ t.co = { s.co with shadow := t.co.shadow } ∧
      t.dv.mem = (s.dv.putDesc s.pl.space (s.rdS f.sx).toNat 0x28 8
        ((s.rdS f.sz).toNat * 2 ^ 48 + (s.rdS f.sy).toNat)).mem := by
  have hkeep := s.dv.putDesc_tasking s.pl.space (s.rdS f.sx).toNat 0x28 8 ((s.rdS f.sz).toNat <<< 48 + (s.rdS f.sy).toNat)
  have hactive := State.descActive_none hact
  have harr := arrives_of_guarded (s := s) (ar := f.ar)
    (u := (s.modDev fun dv =>
      dv.putDesc s.pl.space (s.rdS f.sx).toNat 0x28 8 ((s.rdS f.sz).toNat <<< 48 + (s.rdS f.sy).toNat)).freeze)
    (i := .ctag f) (by show execCtag f s = _; unfold execCtag; rfl)
    (by
      show Passes _
      simp only [passes_cons, State.kLimit, need_none, hactive, hdesc, hd, hy, hz, decide_true, ite_self, passes_nil, and_self])
    rfl rfl (congrArg (·.2.1.1) hkeep) (congrArg (·.1.1) hkeep) (congrArg (·.2.2.1) hkeep)
  refine ⟨_, harr, ?_, ?_, ?_⟩ <;> rw [State.retireNow_eq]
  · rfl
  · rfl
  · rw [← Nat.shiftLeft_eq]
    rfl

/-- The machine with the descriptor `d` of the executing task's space marked used (R256). -/
def State.descTouched (s : State) (d : Nat) : State :=
  { s with dv := s.dv.markUsed s.pl.space false ((SMap.get (0, 0) s.dv.descs s.pl.space).1 + 128 * d) }

/-- RESQ gives its tensor's residency word, its descriptor marked used. -/
theorem resq_gives (f : R2) {s : State} {x : Nat} (hd : (s.rdS f.sy).toNat < 2 ^ 24)
    (hact : (s.dv.desc s.pl.space (s.rdS f.sy).toNat).isSome = true)
    (hdesc : s.descFault s.pl.space (s.rdS f.sy).toNat false = none)
    (hx : (s.descTouched (s.rdS f.sy).toNat).dv.desc s.pl.space (s.rdS f.sy).toNat = some x) :
    GivesIn (.resq f) s (s.descTouched (s.rdS f.sy).toNat) f.ar f.sx (BitVec.ofNat 64 (descF x 0x38 0 64)) s.pl true := by
  have hkeep := s.dv.markUsed_tasking s.pl.space false ((SMap.get (0, 0) s.dv.descs s.pl.space).1 + 128 * (s.rdS f.sy).toNat)
  have hbars : ((s.descTouched (s.rdS f.sy).toNat).freeze.owe f.ar).2.dv.bars = (s.owe f.ar).2.dv.bars :=
    State.owe_bars_congr rfl (congrArg (·.2.1.1) hkeep) (congrArg (·.1.1) hkeep)
  have hactive := State.descActive_none hact
  have hexec : exec (.resq f) s =
      .next ((s.descTouched (s.rdS f.sy).toNat).freeze.resultK f.ar f.sx (BitVec.ofNat 64 (descF x 0x38 0 64))) := by
    refine exec_of_guarded (by show execResq f s = _; unfold execResq; rfl) ?_ ?_
    · show Passes _
      simp only [passes_cons, State.kLimit, need_none, hactive, hdesc, hd, decide_true, ite_self, passes_nil, and_self]
    · unfold State.descTouched at hx ⊢
      dsimp only [State.modDev] at hx ⊢
      rw [hx]
      rfl
  rw [State.resultK, State.resultS, State.owe_result, hbars] at hexec
  exact ⟨_, (s.descTouched (s.rdS f.sy).toNat).freeze.sentOff 7 1 (.sreg f.sx)
      ((BitVec.ofNat 64 (descF x 0x38 0 64)).setWidth 2048) 0#24 7 0#5 f.ar,
    Config.freezeCycles s.fresh, hexec, ⟨rfl, rfl, rfl, rfl⟩, rfl, rfl, rfl, (fun h => nomatch h), rfl⟩

/-- Settles O51: each instruction's request, entry or residency effect, instruction by instruction. -/
theorem jobJournalAndResidency : Obligations.JobJournalAndResidency := by
  unfold Obligations.JobJournalAndResidency
  refine ⟨fun s s1 pa a i ar op st hb hcase => ?_, fun f s s1 blk hb hlb => jcbq_asks f hb hlb,
    fun s i f e => ?_, fun f s hj hlb hpush => jrpl_asks f hj hlb hpush, fun f s hj => jtrunc_sends f hj,
    fun f s hd hy hz hact hdesc => ctag_tags f hd hy hz hact hdesc,
    fun f s x hd hact hdesc => ?_⟩
  · rcases hcase with ⟨f, rfl, rfl, rfl, hy, rfl, rfl⟩ | ⟨f, rfl, rfl, rfl, rfl, rfl⟩
    · exact jcbadd_sends f hb hy
    · exact jcbdone_sends f hb
  · intro b latch ctr head entry words hcase hj hstep _
    rcases hcase with ⟨g, rfl, rfl, hrow, hn, rfl⟩ | ⟨rfl, hrow, rfl⟩ | ⟨g, rfl, rfl, hrow, hn, rfl⟩ | ⟨rfl, hn, rfl⟩
    · exact jemit_asks g hrow hn hj hstep
    · exact jemitMark_asks f hrow hj hstep
    · exact jroute_asks g hrow hn hj hstep
    · exact jgen_asks f hn hj hstep
  · intro u hx
    have hword : descF x 0x38 0 64 = x / 2 ^ (8 * 0x38) % 2 ^ 64 := by
      rw [descF, bitsOf, Nat.add_zero, Nat.shiftRight_eq_div_pow]
    exact hword ▸ resq_gives f hd hact hdesc hx

end Sys2Proof.Machine
end

section
/-!
PROOFS. Rules of the dispatcher's state: launch queues, records, launches, planes and cores (R221, R239, R245).
-/

namespace Sys2Proof.Machine

open Sys2Proof Sys2Proof.Claim

/-! ### Queues (R239) -/

/-- A queue changed is found changed. -/
theorem Dev.queue_modQueue (d : Dev) {q : Nat} (f : LQueue → LQueue) (h : q < 16) : (d.modQueue q f).queue q = f (d.queue q) :=
  (vget_vput _ _ _ _ _).trans (if_pos ⟨rfl, h⟩)

/-- A queue's change leaves every other queue. -/
theorem Dev.queue_modQueue_other (d : Dev) {q k : Nat} (f : LQueue → LQueue) (h : k ≠ q) :
    (d.modQueue q f).queue k = d.queue k :=
  (vget_vput _ _ _ _ _).trans (if_neg fun hq => h hq.1.symm)

/-- A queue that does not change leaves the device. -/
theorem Dev.modQueue_self (d : Dev) {q : Nat} {f : LQueue → LQueue} (h : q < 16) (hf : f (d.queue q) = d.queue q) :
    d.modQueue q f = d := by
  have hput : vput d.queues q (d.queue q) = d.queues := by
    have hget : d.queue q = d.queues[q] := by
      unfold Dev.queue vget
      rw [Vector.getElem?_eq_getElem h, Option.getD_some]
    refine Vector.ext fun i hi => ?_
    rw [hget, vput, Vector.getElem_setIfInBounds]
    split
    · next hi' => simp only [hi']
    · rfl
  unfold Dev.modQueue
  rw [hf, hput]

/-! ### Completion records (R239, R245) -/

/-- A queue with no record due writes none. -/
theorem State.flush_noRecordDue {s : State} {q : Nat} (h : NoRecordDue (s.dv.queue q)) (fuel : Nat) : s.flush q fuel = s := by
  cases fuel with
  | zero => rfl
  | succ n =>
    unfold State.flush
    dsimp only
    split
    · rfl
    · next r hr =>
      refine if_pos ?_
      rcases h with hheld | hroom | hdone
      · exact .inl hheld
      · exact .inr hroom
      · exact absurd (by simpa using List.find?_some hr) (hdone r (List.mem_of_find?_eq_some hr))

/-- A launch without a completion block posts nothing. -/
theorem State.postDone_noBlock (s : State) (q : Nat) {rc : BitVec 1024} (e : Option (BitVec 8)) (h : recDone rc = 0) :
    s.postDone q rc e = s := if_pos h

/-- A queue with a record finished. -/
def LQueue.recorded (x : LQueue) (r : Nat × BitVec 256) : LQueue := { x with done := x.done ++ [r] }

/-- A completion without a block to post, whose record is not due, waits in its queue. -/
theorem State.finish_waits {s : State} {q seq status : Nat} {rc : BitVec 1024} {err : Option (Nat × Cause × Word)} (hq : q < 16)
    (hdone : recDone rc = 0)
    (h : NoRecordDue ((s.dv.queue q).recorded (seq, mkRecord seq (recTag rc) status err))) :
    s.finish q seq rc status err = s.modDev fun d => d.modQueue q fun x =>
      x.recorded (seq, mkRecord seq (recTag rc) status err) := by
  unfold State.finish
  dsimp only
  rw [State.postDone_noBlock s q _ hdone]
  refine State.flush_noRecordDue ?_ _
  show NoRecordDue ((s.dv.modQueue q _).queue q)
  rw [Dev.queue_modQueue _ _ hq]
  exact h

/-- A queue whose head is taken. -/
def LQueue.dismissed (x : LQueue) : LQueue := { x with dh := x.dh + 1, head := none, raised := 0 }

/-- The device with the head of a queue taken, and no longer chosen. -/
def Dev.dismissHead (d : Dev) (q : Nat) : Dev :=
  { d.modQueue q LQueue.dismissed with chosen := if d.chosen.map (·.1) = some q then none else d.chosen }

/-- A head completed without running is taken, then its record finished (R222, R247). -/
theorem State.dismiss_eq (s : State) (q : Nat) (rc : BitVec 1024) (status : Nat) (c : Cause) :
    s.dismiss q rc status c =
      (s.modDev (Dev.dismissHead · q)).finish q (s.dv.queue q).dh rc status (some (0, c, 0#64)) := rfl

/-- A head taken shows in its queue. -/
theorem Dev.queue_dismissHead (d : Dev) {q : Nat} (h : q < 16) : (d.dismissHead q).queue q = (d.queue q).dismissed :=
  d.queue_modQueue _ h

/-! ### Lists -/

/-- A list without an element is what stands before it and what stands after it. -/
theorem dropAt_eq {α : Type} (l : List α) (i : Nat) : dropAt l i = l.take i ++ l.drop (i + 1) := by
  induction l generalizing i with
  | nil => simp [dropAt]
  | cons x t ih =>
    cases i with
    | zero => rfl
    | succ i => simp [dropAt, ih]

/-! ### Launches -/

/-- A launch found has its number. -/
theorem State.launch_lid {s : State} {lid : Nat} {l : Launch} (h : s.launch? lid = some l) : l.lid = lid := by
  simpa using List.find?_some h

/-- A launch changed is found changed. -/
theorem State.launch_modLaunch (s : State) (lid : Nat) (f : Launch → Launch) (hf : ∀ l, (f l).lid = l.lid) :
    (s.modLaunch lid f).launch? lid = (s.launch? lid).map f := find_launch_map _ _ _ hf

/-! ### Planes and cores -/

/-- A change to a core that keeps its lit plane and its shadow leaves the core's planes. -/
theorem State.plane_modCore (s : State) (c p : Nat) {f : Core → Core} (hlit : ∀ co, (f co).lit = co.lit)
    (hshadow : ∀ co, (f co).shadow = co.shadow) : (s.modCore c f).plane c p = s.plane c p := by
  unfold State.plane
  cases hb : s.box c with
  | none =>
    have : s.modCore c f = s := by
      unfold State.modCore
      rw [hb]
    rw [this, hb]
  | some b =>
    rw [State.box_modCore f hb]
    dsimp only
    rw [hlit, hshadow]

/-- A change to a core keeps the cores there are. -/
theorem State.box_modCore_ne_none {s : State} {c : Nat} (f : Core → Core) (h : s.box c ≠ none) : (s.modCore c f).box c ≠ none := by
  obtain ⟨b, hb⟩ := Option.ne_none_iff_exists'.1 h
  rw [State.box_modCore f hb]
  exact Option.some_ne_none _

/-- Slots freed leave the launch queues. -/
theorem State.freeSlots_queue (s : State) (t : Nat → Nat → Slot → Bool) (q : Nat) : (s.freeSlots t).dv.queue q = s.dv.queue q := by
  unfold State.freeSlots
  dsimp only
  split <;> rfl

end Sys2Proof.Machine
end

section
/-!
PROOFS. O53: the events of launch queues and launches (R221, R222, R239, R241, R244, R245, R247, R389).
-/

namespace Sys2Proof.Machine

open Sys2Proof Sys2Proof.Claim

/-! ### Writes of the queues' numbers (R239, R389) -/

/-- ST written below its value is a sequence error; at or above it, it stands, and disables a queue that it overruns. -/
theorem stWrite_ends (s : State) {q : Nat} (v : BitVec 64) (hq : q < 16) :
    Ends (.stWrite q v) s fun t =>
      (v.toNat < (s.dv.queue q).st → t = { s with dv := t.dv } ∧ t.dv.queues = s.dv.queues ∧
        t.dv.mg = { s.dv.mg with seqErrors := s.dv.mg.seqErrors + 1 }) ∧
      ((s.dv.queue q).st ≤ v.toNat → t.dv.queue q = { s.dv.queue q with
          st := v.toNat, en := (s.dv.queue q).en && decide (v.toNat ≤ (s.dv.queue q).dh + 2 ^ (s.dv.queue q).size.toNat) } ∧
        ∀ k, k < 16 → k ≠ q → t.dv.queue k = s.dv.queue k) := by
  have hin : ¬ 16 ≤ q := Nat.not_le.2 hq
  refine ⟨_, rfl, fun hlt => ?_, fun hge => ?_⟩
  · unfold State.writeSt
    rw [if_neg hin, if_pos hlt]
    exact ⟨rfl, rfl, rfl⟩
  · unfold State.writeSt
    rw [if_neg hin, if_neg (Nat.not_lt.2 hge)]
    refine ⟨(Dev.queue_modQueue _ _ hq).trans ?_, fun k _ hk => Dev.queue_modQueue_other _ _ hk⟩
    simp only [LQueue.guard, LQueue.overrun, ← decide_not, Nat.not_lt]

/-- HC written at or above its value stands. -/
theorem hcWrite_ends (s : State) {q : Nat} {v : BitVec 64} (hq : q < 16) (hge : (s.dv.queue q).hc ≤ v.toNat) :
    Ends (.hcWrite q v) s fun t => t = { s with dv := { s.dv with queues := t.dv.queues } } ∧
      t.dv.queue q = { s.dv.queue q with hc := v.toNat } := by
  refine ⟨_, rfl, ?_⟩
  unfold State.writeHc
  rw [if_neg (Nat.not_le.2 hq), if_neg (Nat.not_lt.2 hge)]
  exact ⟨rfl, Dev.queue_modQueue _ _ hq⟩

/-! ### Reading a record (R222, R239) -/

/-- A queue that may take a record has not overrun. -/
theorem LQueue.guard_of_takes {x : LQueue} (h : x.takes = true) : x.guard = x := by
  have hen : (x.en && !x.overrun) = true := by
    simp only [LQueue.takes, Bool.and_eq_true] at h ⊢
    exact h.1.1.1.1
  unfold LQueue.guard
  rw [hen, ← (Bool.and_eq_true_iff.1 hen).1]

/-- The record at a queue's DH, and what its reading leaves. -/
def State.recordAt (s : State) (q : Nat) : Except Cause (List Byte) × State :=
  s.infraRead q 2 ((s.dv.queue q).lring.toNat + 128 * ((s.dv.queue q).dh % 2 ^ (s.dv.queue q).size.toNat)) 128

/-- A queue that may take a record has it read. -/
theorem State.readRecord_takes {s : State} {q : Nat} (hq : q < 16) (hf : s.dv.mg.failed = false) (hp : s.dv.mg.power ≠ .low)
    (ht : (s.dv.queue q).takes = true) :
    s.readRecord q =
      match (s.recordAt q).1 with
      | .error c => (s.recordAt q).2.modDev fun d =>
          (d.modQueue q fun x => { x with en := false }).queueFault 0 q (s.dv.queue q).dh c (.queueFault q)
      | .ok b =>
        let rc := BitVec.ofNat 1024 (natOfBytes b)
        let k := (s.recordAt q).2.rejects q rc
        if k.1 = 0 then k.2.modDev fun d => d.modQueue q fun x => { x with head := some rc, raised := 0 }
        else k.2.dismiss q rc 1 ⟨0#8, BitVec.ofNat 64 k.1⟩ := by
  have hguard : (s.modDev fun d => d.modQueue q LQueue.guard) = s :=
    congrArg (fun d => { s with dv := d }) (Dev.modQueue_self _ hq (LQueue.guard_of_takes ht))
  unfold State.readRecord
  rw [if_pos hq, hguard]
  refine if_neg ?_
  simp [Nat.not_le.2 hq, hf, hp, ht]

/-- A record that is read and not rejected becomes its queue's head. -/
theorem launchRecordRead_accepts {s s1 s2 : State} {q : Nat} {b : List Byte} (hq : q < 16) (hf : s.dv.mg.failed = false)
    (hp : s.dv.mg.power ≠ .low) (ht : (s.dv.queue q).takes = true) (hread : s.recordAt q = (.ok b, s1))
    (hrej : s1.rejects q (BitVec.ofNat 1024 (natOfBytes b)) = (0, s2)) :
    exec (.launchRecordRead q) s = .next { s2 with
      dv := s2.dv.modQueue q fun x => { x with head := some (BitVec.ofNat 1024 (natOfBytes b)), raised := 0 } } := by
  refine congrArg Host.Outcome.next ((State.readRecord_takes hq hf hp ht).trans ?_)
  rw [hread]
  dsimp only
  rw [hrej]
  exact if_pos rfl

/-- A record that cannot be read disables its queue and is noted. -/
theorem launchRecordRead_fails {s s1 : State} {q : Nat} {c : Cause} (hq : q < 16) (hf : s.dv.mg.failed = false)
    (hp : s.dv.mg.power ≠ .low) (ht : (s.dv.queue q).takes = true) (hread : s.recordAt q = (.error c, s1)) :
    Ends (.launchRecordRead q) s fun t => (t.dv.queue q).en = false ∧
      t.dv.faultQ = s1.dv.faultQ ++ [⟨s1.dv.mg.dispDie, 0, q, (s.dv.queue q).dh, c⟩] ∧
      t.dv.mg.events = s1.dv.mg.events ++ [.queueFault q] := by
  have hexec : exec (.launchRecordRead q) s = _ := congrArg Host.Outcome.next (State.readRecord_takes hq hf hp ht)
  rw [hread] at hexec
  dsimp only at hexec
  refine ⟨_, hexec, ?_, rfl, rfl⟩
  exact congrArg LQueue.en (Dev.queue_modQueue s1.dv (fun x => { x with en := false }) hq)

/-! ### Placing (R221, R241, R244) -/

/-- The head chosen goes where there is a spot for it. -/
theorem launchPlace_places {s : State} {q v k base : Nat} {rc : BitVec 1024} (hf : s.dv.mg.failed = false)
    (hp : s.dv.mg.power ≠ .low) (hhead : (s.dv.queue q).head = some rc)
    (hchosen : s.dv.chosen = some (q, v) ∨ (s.dv.chosen = none ∧ s.choose = some q ∧ recNvar rc = 0 ∧ v = 0))
    (hspot : s.dv.mg.spot s.planeFree (recT rc) (recCpc rc) (recOneDie rc) = some (k, base)) :
    exec .launchPlace s = .next (s.placeAt q rc v k base) := by
  have hnext : s.decideNext = (some (q, .ok v), s) := by
    unfold State.decideNext
    rcases hchosen with hch | ⟨hch, hchoose, hnv, rfl⟩
    · rw [hch]
    · rw [hch]
      dsimp only
      rw [hchoose]
      dsimp only
      rw [hhead]
      exact if_pos hnv
  refine congrArg Host.Outcome.next ?_
  unfold State.place1
  rw [if_neg (by simp [hf, hp]), hnext]
  dsimp only
  rw [hhead]
  dsimp only
  rw [hspot]

/-- An eligible head that ages spends one more limit. -/
theorem agingTick_raises {s : State} {q : Nat} {rc : BitVec 1024} (hq : q < 16) (hhead : (s.dv.queue q).head = some rc)
    (hage : recAge rc ≠ 0) (hprio : recPrio rc ≠ 3) (hel : s.eligible q = true) :
    Ends (.agingTick q) s fun t => t = { s with dv := { s.dv with queues := t.dv.queues } } ∧
      t.dv.queue q = { s.dv.queue q with raised := (s.dv.queue q).raised + 1 } := by
  have hexec : exec (.agingTick q) s = .next (s.modDev fun d => d.modQueue q fun x => { x with raised := x.raised + 1 }) := by
    refine congrArg Host.Outcome.next ?_
    rw [hhead]
    exact if_pos (by simp [hage, hprio, hel])
  exact ⟨_, hexec, rfl, Dev.queue_modQueue _ _ hq⟩

/-! ### Completing (R245, R247) -/

/-- An acknowledged fault lets the held record go, when none is due. -/
theorem faultAck_ends {s : State} {q : Nat} (hq : q < 16) (hf : s.dv.mg.failed = false)
    (hdue : NoRecordDue { s.dv.queue q with heldRec := false }) :
    Ends (.faultAck q) s fun t => t = { s with dv := { s.dv with queues := t.dv.queues } } ∧
      t.dv.queue q = { s.dv.queue q with heldRec := false } := by
  have hqueue := s.dv.queue_modQueue (fun x => { x with heldRec := false }) hq
  have hexec : exec (.faultAck q) s = .next (s.modDev fun d => d.modQueue q fun x => { x with heldRec := false }) := by
    refine congrArg Host.Outcome.next ((if_neg (by simp [Nat.not_le.2 hq, hf])).trans (State.flush_noRecordDue ?_ _))
    show NoRecordDue ((s.dv.modQueue q _).queue q)
    rw [hqueue]
    exact hdue
  exact ⟨_, hexec, rfl, hqueue⟩

/-- A head whose dependences are incomplete completes with status 3. -/
theorem dependenceWatchdog_dismisses {s : State} {q : Nat} {rc : BitVec 1024} (hq : q < 16) (hf : s.dv.mg.failed = false)
    (hhead : (s.dv.queue q).head = some rc) (hdep : ∃ a ∈ recDeps rc, s.depDone q a = false) (hdone : recDone rc = 0)
    {y : LQueue} (hy : y = (s.dv.queue q).dismissed.recorded
      ((s.dv.queue q).dh, mkRecord (s.dv.queue q).dh (recTag rc) 3 (some (0, ⟨0x3F#8, 0#64⟩, 0#64))))
    (hdue : NoRecordDue y) :
    Ends (.dependenceWatchdog q) s fun t => t.dv.queue q = y ∧ t.pl = s.pl ∧ t.co = s.co := by
  obtain ⟨a, ha, hna⟩ := hdep
  have hnot : ¬ (s.dv.mg.failed = true ∨ (recDeps rc).all (s.depDone q) = true) := by
    simp only [hf, Bool.false_eq_true, false_or, List.all_eq_true, not_forall]
    exact ⟨a, ha, by simp [hna]⟩
  have hexec : exec (.dependenceWatchdog q) s = .next (s.dismiss q rc 3 ⟨0x3F#8, 0#64⟩) := by
    refine congrArg Host.Outcome.next ?_
    rw [hhead]
    exact if_neg hnot
  have hqueue : (s.modDev (Dev.dismissHead · q)).dv.queue q = (s.dv.queue q).dismissed := s.dv.queue_dismissHead hq
  rw [State.dismiss_eq, State.finish_waits hq hdone (by rw [hqueue, ← hy]; exact hdue)] at hexec
  refine ⟨_, hexec, (Dev.queue_modQueue _ _ hq).trans ?_, rfl, rfl⟩
  rw [hqueue, hy]

/-- Commands dropped leave the executing plane and the dispatcher's queues and launches. -/
theorem State.dropCmds_keeps (s : State) (lid : Nat) : (s.dropCmds lid).pl = s.pl ∧
    (s.dropCmds lid).dv.queues = s.dv.queues ∧ (s.dropCmds lid).dv.launches = s.dv.launches :=
  ⟨rfl, rfl, rfl⟩

/-- A launch that ended its tasks and has nothing under way is retired, its record queued. -/
theorem launchComplete_retires {s : State} {lid : Nat} {l : Launch} (hf : s.dv.mg.failed = false) (hl : s.launch? lid = some l)
    (hended : ∀ t ∈ l.tasks, t.ended = true) {s0 : State} (hs0 : s0 = if l.limit = true then s.dropCmds lid else s)
    (hcmds : s0.hasCmds lid = false) (hstores : s0.hasStores lid = false) (hupd : s0.hasUpdates lid = false)
    (hdone : recDone l.rc = 0) (hq : l.q < 16)
    (hdue : NoRecordDue ((s.dv.queue l.q).recorded (l.seq, mkRecord l.seq (recTag l.rc) l.status l.err))) :
    Ends (.launchComplete lid) s fun t => t.launch? lid = none ∧ t.pl = s.pl ∧
      t.dv.launches = s.dv.launches.filter (fun x => decide (x.lid ≠ lid)) ∧
      (t.dv.queue l.q).done = (s.dv.queue l.q).done ++ [(l.seq, mkRecord l.seq (recTag l.rc) l.status l.err)] := by
  have hlid := State.launch_lid hl
  obtain ⟨hpl0, hq0, hl0⟩ : s0.pl = s.pl ∧ s0.dv.queues = s.dv.queues ∧ s0.dv.launches = s.dv.launches := by
    rw [hs0]
    split
    · exact s.dropCmds_keeps lid
    · exact ⟨rfl, rfl, rfl⟩
  have hexec : exec (.launchComplete lid) s = .next
      (((s0.freeSlots fun _ _ x => x.lid == lid && x.st != .free).modDev fun d => d.retire l).finish
        l.q l.seq l.rc l.status l.err) := by
    refine congrArg Host.Outcome.next ?_
    unfold State.completeLaunch
    rw [hl]
    dsimp only
    rw [if_neg (by simpa [hf] using hended), ← hs0]
    exact if_neg (by simp [hcmds, hstores, hupd])
  generalize hs1 : (s0.freeSlots fun _ _ x => x.lid == lid && x.st != .free) = s1 at hexec
  have hqueue1 : s1.dv.queue l.q = s.dv.queue l.q := by
    rw [← hs1, State.freeSlots_queue]
    exact congrArg (vget · l.q LQueue.reset) hq0
  have hlaunches1 : s1.dv.launches = s.dv.launches := by rw [← hs1, State.freeSlots_launches, hl0]
  have hpl1 : s1.pl = s.pl := by rw [← hs1, State.freeSlots_pl, hpl0]
  have hqueue : (s1.modDev fun d => d.retire l).dv.queue l.q = s.dv.queue l.q := hqueue1
  rw [State.finish_waits hq hdone (hqueue ▸ hdue)] at hexec
  have hlaunches : (s1.dv.retire l).launches = s.dv.launches.filter fun x => decide (x.lid ≠ lid) := by
    show s1.dv.launches.filter (fun x => x.lid != l.lid) = _
    rw [hlaunches1, hlid]
    exact List.filter_congr fun x _ => by simp [bne, beq_eq_decide]
  refine ⟨_, hexec, ?_, hpl1, hlaunches, ?_⟩
  · show (s1.dv.retire l).launches.find? _ = none
    rw [hlaunches, List.find?_filter]
    exact List.find?_eq_none.2 fun x _ => by simp
  · refine (congrArg LQueue.done (Dev.queue_modQueue _ _ hq)).trans ?_
    rw [hqueue]
    rfl

/-- The limit of a launch that has started stops it. -/
theorem runWatchdog_stops {s : State} {lid : Nat} {l : Launch} (hf : s.dv.mg.failed = false) (hl : s.launch? lid = some l)
    (hst : l.status = 0) (hsaved : l.saved = false)
    (hstarted : ∃ t ∈ l.tasks, t.ended = true ∨ t.saved = true ∨ (s.plane t.core t.plane).status ≠ .loaded ∨
      0 < (s.plane t.core t.plane).bcount)
    (hrun : ∃ t ∈ l.tasks, t.ended = false) :
    Ends (.runWatchdog lid) s fun t =>
      t.launch? lid = some { l with limit := true, status := 4, err := some (l.lowest, ⟨0x3F#8, 0#64⟩, 0#64) } ∧
      t.pl = (if s.pl.lid = lid ∧ s.pl.live = true then { s.pl with endReq := true } else s.pl) ∧ t.dv.mem = s.dv.mem := by
  have hnotall : l.tasks.all (·.ended) = false := by
    obtain ⟨t, ht, hte⟩ := hrun
    exact List.all_eq_false.2 ⟨t, ht, by simp [hte]⟩
  have hany : (l.tasks.any fun t => t.ended || t.saved || (s.plane t.core t.plane).status != .loaded ||
      0 < (s.plane t.core t.plane).bcount) = true := by
    obtain ⟨t, ht, h⟩ := hstarted
    exact List.any_eq_true.2 ⟨t, ht, by simpa [or_assoc] using h⟩
  have hexec : exec (.runWatchdog lid) s = .next (State.stopLaunch (s.modLaunch lid fun l => { l with limit := true }) lid 4
      (some (l.lowest, ⟨0x3F#8, 0#64⟩, 0#64))) := by
    refine congrArg Host.Outcome.next ((if_neg (by simp [hf])).trans ?_)
    unfold State.runLimit
    rw [hl]
    dsimp only
    rw [hany, hsaved, hnotall]
    rfl
  refine ⟨_, hexec, ?_, rfl, rfl⟩
  unfold State.stopLaunch
  show State.launch? (State.modLaunch _ lid _) lid = _
  rw [State.launch_modLaunch _ _ _ (fun l => by split <;> rfl), State.launch_modLaunch s lid (fun l => { l with limit := true }) (fun _ => rfl), hl]
  exact congrArg some (if_pos hst)

end Sys2Proof.Machine
end

section
/-!
PROOFS. O53: saving and restoring tasks, arrivals, communication phases and job control blocks (R229 to R236, R375 to R378).
-/

namespace Sys2Proof.Machine

open Sys2Proof Sys2Proof.Claim

/-! ### Saving (R375, R376) -/

/-- A launch with a task that is neither saved nor ended releases nothing. -/
theorem State.release_running {s : State} {lid : Nat} {l : Launch} (hl : s.launch? lid = some l)
    (h : ∃ t ∈ l.tasks, t.saved = false ∧ t.ended = false) : s.release lid = s := by
  obtain ⟨t, ht, hsaved, hended⟩ := h
  have hany : (l.tasks.any fun t => !t.saved && !t.ended) = true := List.any_eq_true.2 ⟨t, ht, by simp [hsaved, hended]⟩
  unfold State.release
  rw [hl]
  exact if_pos (.inr (.inr (.inl hany)))

/-- The image that a save takes of a plane's task. -/
def State.taskImage (s : State) (c p : Nat) (full : Prop) [Decidable full] : TaskImg :=
  { rank := (s.plane c p).rank, pl := (s.plane c p).image, banks := [], bands := [], rows := [], cols := [],
    wprop := if full then (s.core c).wprop else Vector.replicate 2 none, w := if full then (s.core c).w else Vector.replicate 2 none }

/-- The parts of that image in the save area. -/
def State.taskParts (s : State) (c p : Nat) (full : Prop) [Decidable full] : List (Nat × List Byte) :=
  (s.plane c p).image.imageParts c
    ((s.core c).bands.filter fun b => b.lid == (s.plane c p).lid && (s.core c).bankOf (b.row / 128) == some p)
    (s.taskImage c p full).wprop (s.taskImage c p full).w

/-- A launch with a task's image taken. -/
def Launch.imaged (l : Launch) (i : TaskImg) : Launch :=
  { l with images := l.images ++ [i], tasks := l.tasks.map fun t => if t.rank = i.rank then { t with saved := true } else t }

/-- The machine with a task's image taken: noted in its launch, its banks no plane's own, its plane empty. -/
def State.taskTaken (s : State) (c p lid : Nat) (img : TaskImg) : State :=
  ((s.modLaunch lid fun l => l.imaged img).modCore c fun co => co.reown (p + 1) (savedOwner lid p)).modPlane c p Plane.cleared

/-- A task's image taken moves the launches, and nothing else of the device. -/
theorem State.taskTaken_dv (s : State) (c p lid : Nat) (img : TaskImg) :
    (s.taskTaken c p lid img).dv = (s.modLaunch lid fun l => l.imaged img).dv := by
  rw [State.taskTaken, State.modPlane_dv, State.modCore_dv]

/-- The launch of a task whose image is taken holds the image. -/
theorem State.taskTaken_launch {s : State} (c p : Nat) {lid : Nat} {l : Launch} (img : TaskImg) (h : s.launch? lid = some l) :
    (s.taskTaken c p lid img).launch? lid = some (l.imaged img) := by
  have hmod := s.launch_modLaunch lid (fun l => l.imaged img) (fun _ => rfl)
  rw [h] at hmod
  unfold State.launch? at hmod ⊢
  rw [State.taskTaken_dv]
  exact hmod

/-- A task whose image is taken leaves its plane empty. -/
theorem State.taskTaken_plane {s : State} {c : Nat} (p lid : Nat) (img : TaskImg) (h : s.box c ≠ none) :
    ((s.taskTaken c p lid img).plane c p).status = .empty := by
  have hbox : (s.modLaunch lid fun l => l.imaged img).box c ≠ none := h
  rw [State.taskTaken, State.plane_modPlane _ _ _ _ (State.box_modCore_ne_none _ hbox)]
  rfl

/-- Tasks of an imaged launch with the image's rank are saved. -/
theorem Launch.imaged_saved {l : Launch} {i : TaskImg} {t : Task} (h : t ∈ (l.imaged i).tasks) (hr : t.rank = i.rank) :
    t.saved = true := by
  obtain ⟨t0, -, rfl⟩ := List.mem_map.1 h
  by_cases h0 : t0.rank = i.rank
  · rw [if_pos h0]
  · rw [if_neg h0] at hr
    exact absurd hr h0

/-- A task at a safe point whose image is written leaves its plane empty; its launch holds the image. -/
theorem taskSave_saves {s s1 : State} {c p : Nat} {l l1 : Launch} (hf : s.dv.mg.failed = false)
    (hl : s.launch? (s.plane c p).lid = some l) (hpre : l.preempt = true) (hst : l.status = 0)
    (hlive : (s.plane c p).live = true) (hsav : (s.plane c p).savable = true) (hphase : s.phaseBegun (s.plane c p).lid = false)
    (hput : s.putParts l.q (l.imageAt (s.plane c p).rank) (s.taskParts c p (recClass l.rc = 1)) = (none, s1))
    (hl1 : s1.launch? (s.plane c p).lid = some l1)
    (hrun : ∃ t ∈ l1.tasks, t.rank ≠ (s.plane c p).rank ∧ t.saved = false ∧ t.ended = false) (hbox : s1.box c ≠ none) :
    Ends (.taskSave c p) s fun t => (t.plane c p).status = .empty ∧ t.dv.mem = s1.dv.mem ∧
      ∃ l2 i, t.launch? (s.plane c p).lid = some l2 ∧ l2.images = l1.images ++ [i] ∧ i.rank = (s.plane c p).rank ∧
        i.pl = (s.plane c p).image ∧ ∀ t ∈ l2.tasks, t.rank = (s.plane c p).rank → t.saved = true := by
  have hexec : exec (.taskSave c p) s = .next
      ((s1.taskTaken c p (s.plane c p).lid (s.taskImage c p (recClass l.rc = 1))).release (s.plane c p).lid) := by
    refine congrArg Host.Outcome.next ((if_neg (by simp [hf])).trans ?_)
    unfold State.saveTask
    dsimp only
    rw [hl]
    dsimp only
    rw [if_neg (by simp [hpre, hst, hlive, hsav, hphase])]
    rw [State.taskParts] at hput
    dsimp only [State.taskImage] at hput
    rw [hput]
    rfl
  have hlaunch := State.taskTaken_launch c p (s.taskImage c p (recClass l.rc = 1)) hl1
  obtain ⟨t, ht, hrank, hts, hte⟩ := hrun
  rw [State.release_running hlaunch ⟨t, List.mem_map.2 ⟨t, ht, if_neg hrank⟩, hts, hte⟩] at hexec
  exact ⟨_, hexec, State.taskTaken_plane _ _ _ hbox, (congrArg Dev.mem (State.taskTaken_dv _ _ _ _ _)).trans rfl, _, _, hlaunch,
    rfl, rfl, rfl, fun _ => Launch.imaged_saved⟩

/-! ### Restoring (R376, R378) -/

/-- A core's box depends on the boxes only. -/
theorem State.box_congr {s u : State} (h : u.boxes = s.boxes) (c : Nat) : u.box c = s.box c := by
  obtain ⟨hfirst, hothers⟩ := List.cons.inj h
  obtain ⟨hpl, hco⟩ := CoreBox.mk.inj hfirst
  unfold State.box
  rw [hpl, hco, hothers]

/-- A plane depends on the boxes only. -/
theorem State.plane_congr {s u : State} (h : u.boxes = s.boxes) (c p : Nat) : u.plane c p = s.plane c p := by
  unfold State.plane
  rw [State.box_congr h]

/-- The header's barriers leave the boxes. -/
theorem State.mergeBars_boxes (lid fuel : Nat) (ws : List Nat) (s : State) : (State.mergeBars lid fuel ws s).boxes = s.boxes := by
  induction fuel generalizing ws s with
  | zero => rfl
  | succ n ih =>
    unfold State.mergeBars
    split
    · split
      · rfl
      · exact ih _ _
    · rfl

/-- The header's supersteps leave the boxes. -/
theorem State.mergeSteps_boxes (lid : Nat) (ws : List Nat) (s : State) : (State.mergeSteps lid ws s).boxes = s.boxes := by
  fun_induction State.mergeSteps lid ws s with
  | case1 => rfl
  | case2 _ _ _ _ _ _ _ _ ih => exact ih
  | case3 => rfl

/-- Banks given back leave the core's lit plane and its shadow. -/
theorem Core.putBanks_planes (c : Core) (full : Bool) (i : TaskImg) (owner : Nat) (l : List Nat) :
    ((l.foldl (fun co b => co.putBank full i owner b) c).lit, (l.foldl (fun co b => co.putBank full i owner b) c).shadow) =
      (c.lit, c.shadow) := by
  refine foldl_keeps (fun c : Core => (c.lit, c.shadow)) _ (fun c b => ?_) l c
  unfold Core.putBank
  generalize upTo (128 * b) 128 = rows
  exact foldl_keeps (fun c : Core => (c.lit, c.shadow))
    (fun c r => c.setAcc r (if full then SMap.get accReset i.rows r else accReset)) (fun _ _ => rfl) rows _

/-- A core with a task's banks, bands and buffers given back. -/
def Core.giveTask (co : Core) (full : Prop) [Decidable full] (i : TaskImg) (owner : Nat) : Core :=
  let co1 := i.banks.foldl (fun co b => co.putBank full i owner b) co
  { co1 with bands := co1.bands ++ i.bands, wprop := if full then i.wprop else co1.wprop, w := if full then i.w else co1.w }

/-- A task given back leaves the core's lit plane and its shadow. -/
theorem Core.giveTask_planes (full : Prop) [Decidable full] (i : TaskImg) (owner : Nat) (co : Core) :
    ((co.giveTask full i owner).lit, (co.giveTask full i owner).shadow) = (co.lit, co.shadow) :=
  Core.putBanks_planes co (decide full) i owner i.banks

/-- A saved task given back to its core and its plane (R376, R378). -/
def State.giveTask (l : Launch) (s : State) (i : TaskImg) : State :=
  let full := recClass l.rc = 1
  let c := l.coreOf i.rank
  let s4 := (s.takeId.2.modCore c (Core.giveTask · full i (l.pset + 1))).modPlane c l.pset fun old =>
    i.pl.restored old (if full then i.pl.born else s.takeId.1)
  if i.pl.enter.isSome then s4
  else (s4.loadCode c l.pset).modPlane c l.pset fun p => { p with seg := BitVec.ofNat 32 i.pl.seg.toNat, bun := i.pl.bun }

/-- A launch whose tasks are back. -/
def Launch.back (l : Launch) : Launch :=
  { l with preempt := false, saved := false, images := [], slots := [],
           tasks := l.tasks.map fun t => { t with saved := false } }

/-- A saved launch whose area is read back returns: its header, its slots, its tasks. -/
theorem State.restore_read {s s1 : State} {lid header : Nat} {l : Launch} {images : List TaskImg} {slots : List SlotImg}
    (hf : s.dv.mg.failed = false) (hl : s.launch? lid = some l) (hsaved : l.saved = true) (hst : l.status = 0)
    (hfree : s.restorable l = true) (hread : s.readArea l = (.ok (images, slots, header), s1)) :
    s.restore lid = (images.foldl (State.giveTask l) (slots.foldl State.putSlot
      (State.mergeSteps lid (fieldsAt header 0x3000 8 128)
        (State.mergeBars lid 1024 (fieldsAt header 0x1000 8 1024) s1)))).modLaunch lid Launch.back := by
  unfold State.restore
  rw [hl]
  dsimp only
  rw [if_neg (by simp [hf, hsaved, hst, hfree]), hread]
  rfl

/-- A task that had begun, given back, has its image in its plane. -/
theorem State.plane_giveTask {s : State} {l : Launch} {i : TaskImg} (hin : i.pl.enter.isSome = true)
    (hbox : s.box (l.coreOf i.rank) ≠ none) : ∃ born,
    (State.giveTask l s i).plane (l.coreOf i.rank) l.pset = i.pl.restored (s.plane (l.coreOf i.rank) l.pset) born := by
  have hkeep := Core.giveTask_planes (recClass l.rc = 1) i (l.pset + 1)
  have hbox' : s.takeId.2.box (l.coreOf i.rank) ≠ none := hbox
  unfold State.giveTask
  dsimp only
  rw [if_pos hin, State.plane_modPlane _ _ _ _ (State.box_modCore_ne_none _ hbox'),
    State.plane_modCore _ _ _ (fun co => congrArg (·.1) (hkeep co)) (fun co => congrArg (·.2) (hkeep co))]
  exact ⟨_, rfl⟩

/-- A saved launch of one task that had begun returns to its plane. -/
theorem launchRestore_restores {s s1 : State} {lid header : Nat} {l : Launch} {i : TaskImg} (hf : s.dv.mg.failed = false)
    (hl : s.launch? lid = some l) (hsaved : l.saved = true) (hst : l.status = 0) (hfree : s.restorable l = true)
    (hread : s.readArea l = (.ok ([i], [], header), s1)) (hin : i.pl.enter.isSome = true)
    (hbox : s1.box (l.coreOf i.rank) ≠ none) :
    Ends (.launchRestore lid) s fun t =>
      ∃ born, t.plane (l.coreOf i.rank) l.pset = i.pl.restored (s1.plane (l.coreOf i.rank) l.pset) born := by
  have hexec : exec (.launchRestore lid) s = .next (s.restore lid) := by
    refine congrArg Host.Outcome.next ?_
    rw [hl]
    exact if_pos hsaved
  rw [State.restore_read hf hl hsaved hst hfree hread] at hexec
  have hboxes := (State.mergeSteps_boxes lid (fieldsAt header 0x3000 8 128) _).trans
    (State.mergeBars_boxes lid 1024 (fieldsAt header 0x1000 8 1024) s1)
  generalize State.mergeSteps lid _ _ = m at hexec hboxes
  obtain ⟨born, hborn⟩ := State.plane_giveTask (s := m) (l := l) hin (by rw [State.box_congr hboxes]; exact hbox)
  rw [State.plane_congr hboxes] at hborn
  exact ⟨_, hexec, born, hborn⟩

end Sys2Proof.Machine
end

section
/-!
PROOFS. O53: arrivals, communication phases and job control blocks (R230 to R236), and the dispatcher's events together.
-/

namespace Sys2Proof.Machine

open Sys2Proof Sys2Proof.Claim

/-! ### Arrivals (R229, R230) -/

/-- A barrier that advances moves its phase only. -/
theorem State.barAdvance_eq (s : State) (b : Bar) : ∃ p, s.barAdvance b = { b with phase := p } := by
  unfold State.barAdvance
  dsimp only
  split
  · exact ⟨_, rfl⟩
  · split
    · exact ⟨_, rfl⟩
    · exact ⟨_, rfl⟩

/-- The counts of a barrier at which a member's D rises. -/
theorem Bar.counts_raiseD (b : Bar) (lid rank : Nat) :
    (b.put { b.counts lid rank with d := (b.counts lid rank).d + 1 }).counts lid rank =
      { b.counts lid rank with d := (b.counts lid rank).d + 1 } := by
  obtain ⟨hl, hr⟩ := b.counts_key lid rank
  rw [Bar.counts_put]
  exact if_pos ⟨hl.symm, hr.symm⟩

/-- The barrier that an arrival owed is due at. -/
def State.owedBar (s : State) (o : Owed) : Bar :=
  s.bar (s.barOwner o.lid o.level) o.level (s.barInst o.lid o.rank o.level) o.num

/-- A delivery below the limit of R229 raises its member's D at its barrier. -/
theorem State.owedBar_delivered {s : State} {o : Owed} {l : Launch} (hl : s.launch? o.lid = some l)
    (hlim : ((s.owedBar o).counts o.lid o.rank).d + 1 < 256 + (s.owedBar o).phase) :
    ((s.delivered o).bar (s.barOwner o.lid o.level) o.level (s.barInst o.lid o.rank o.level) o.num).counts o.lid o.rank =
        { (s.owedBar o).counts o.lid o.rank with d := ((s.owedBar o).counts o.lid o.rank).d + 1 } ∧
      (s.delivered o).dv.mem = s.dv.mem := by
  have hdel : s.delivered o = s.setBar (s.barAdvance ((s.owedBar o).put
      { (s.owedBar o).counts o.lid o.rank with d := ((s.owedBar o).counts o.lid o.rank).d + 1 })) := by
    unfold State.delivered
    rw [hl]
    exact if_neg (show ¬ 256 ≤ ((s.owedBar o).counts o.lid o.rank).d + 1 - (s.owedBar o).phase by omega)
  obtain ⟨p, hp⟩ := s.barAdvance_eq ((s.owedBar o).put
    { (s.owedBar o).counts o.lid o.rank with d := ((s.owedBar o).counts o.lid o.rank).d + 1 })
  have hkey : (s.owedBar o).is (s.barOwner o.lid o.level) o.level (s.barInst o.lid o.rank o.level) o.num = true :=
    s.bar_is _ _ _ _
  rw [hdel, hp]
  refine ⟨?_, rfl⟩
  rw [State.bar_setBar]
  refine (congrArg (Bar.counts · o.lid o.rank) (if_pos hkey)).trans ?_
  exact (s.owedBar o).counts_raiseD o.lid o.rank

/-- An arrival whose stores are seen is delivered. -/
theorem arrivalDeliver_delivers {s : State} {i : Nat} {a : Arr} {l : Launch} (ha : s.dv.arrQ[i]? = some a)
    (hseen : s.storesSeen a.stores a.level = true) (hl : s.launch? a.owed.lid = some l)
    (hlim : ((s.owedBar a.owed).counts a.owed.lid a.owed.rank).d + 1 < 256 + (s.owedBar a.owed).phase) :
    ∃ t, exec (.arrivalDeliver i) s = .next t ∧ t.dv.arrQ = s.dv.arrQ.take i ++ s.dv.arrQ.drop (i + 1) ∧
      (t.bar (s.barOwner a.owed.lid a.owed.level) a.owed.level (s.barInst a.owed.lid a.owed.rank a.owed.level)
        a.owed.num).counts a.owed.lid a.owed.rank = { (s.owedBar a.owed).counts a.owed.lid a.owed.rank with
          d := ((s.owedBar a.owed).counts a.owed.lid a.owed.rank).d + 1 } ∧ t.dv.mem = s.dv.mem := by
  have hexec : exec (.arrivalDeliver i) s =
      .next ((s.modDev fun d => { d with arrQ := dropAt d.arrQ i }).delivered a.owed).wake := by
    refine congrArg Host.Outcome.next ?_
    rw [ha]
    exact if_pos hseen
  obtain ⟨hcounts, hmem⟩ := State.owedBar_delivered (s := s.modDev fun d => { d with arrQ := dropAt d.arrQ i }) hl hlim
  refine ⟨_, hexec, ?_, hcounts, hmem⟩
  exact (State.delivered_arrQ _ _).trans (dropAt_eq _ _)

/-! ### The communication phase (R232, R233) -/

/-- Below level 4 a launch owns its barriers. -/
theorem State.barOwner_low (s : State) (lid : Nat) {level : Nat} (h : level ≠ 4) : s.barOwner lid level = (false, lid) := by
  unfold State.barOwner
  split
  · exact if_neg fun hg => h hg.1
  · rfl

/-- A phase of a domain below level 3 whose members are quiet, with no tile dirty and no record merged, counts one step. -/
theorem State.phase_quiet {s : State} {lid level inst : Nat} (hlevel : level < 3)
    (hlive : ∃ m ∈ s.members false lid level inst, m.2.2 = true)
    (hmarks : ∀ m ∈ s.members false lid level inst, m.2.2 = true → (m.1, m.2.1) ∈ (s.sstep (false, lid) level inst).marks)
    (hquiet : s.phaseQuiet ((s.members false lid level inst).map fun m => (m.1, m.2.1)) level = true)
    (hdirty : ∀ l ∈ s.dv.dirty.toList, l = []) (hmerged : s.dv.merged = []) :
    s.phase lid level inst = (s.setSStep { s.sstep (false, lid) level inst with
      count := (s.sstep (false, lid) level inst).count + 1, marks := [] }).wake := by
  have hown : s.barOwner lid level = (false, lid) := s.barOwner_low lid (by omega)
  have hflat : s.dv.dirty.toList.flatten = [] := List.flatten_eq_nil_iff.2 hdirty
  have hnonempty : ((s.members false lid level inst).filter (·.2.2)).isEmpty = false := by
    obtain ⟨m, hm, hlm⟩ := hlive
    exact List.isEmpty_eq_false_iff_exists_mem.2 ⟨m, List.mem_filter.2 ⟨hm, hlm⟩⟩
  have hall : (((s.members false lid level inst).filter (·.2.2)).all fun m =>
      (s.sstep (false, lid) level inst).marks.contains (m.1, m.2.1)) = true := by
    refine List.all_eq_true.2 fun m hm => ?_
    obtain ⟨hm, hlm⟩ := List.mem_filter.1 hm
    exact List.contains_iff_mem.2 (hmarks m hm hlm)
  have hself : ∀ g, (s.modDev fun d => { d with merged := d.merged.filter g }) = s := fun g => by
    have hfilter : s.dv.merged.filter g = s.dv.merged := by
      rw [hmerged]
      rfl
    show { s with dv := { s.dv with merged := s.dv.merged.filter g } } = s
    rw [hfilter]
  unfold State.phase
  dsimp only
  rw [hown]
  dsimp only
  rw [hnonempty, hall, hquiet, hflat]
  rw [if_neg (by simp [State.complete]), if_neg (by omega)]
  simp only [List.filter_nil, List.foldl_nil, hmerged, List.map_nil, List.eraseDups_nil, hself]

/-- A quiet phase below level 3 counts one step and clears its marks. -/
theorem communicationPhase_counts {s : State} {lid level inst : Nat} (hf : s.dv.mg.failed = false)
    {o : Bool × Nat} (ho : o = s.barOwner lid level) (hlevel : level < 3)
    (hlive : ∃ m ∈ s.members o.1 o.2 level inst, m.2.2 = true)
    (hmarks : ∀ m ∈ s.members o.1 o.2 level inst, m.2.2 = true → (m.1, m.2.1) ∈ (s.sstep o level inst).marks)
    (hquiet : s.phaseQuiet ((s.members o.1 o.2 level inst).map fun m => (m.1, m.2.1)) level = true)
    (hdirty : ∀ l ∈ s.dv.dirty.toList, l = []) (hmerged : s.dv.merged = []) :
    Ends (.communicationPhase lid level inst) s fun t =>
      (t.sstep o level inst).count = (s.sstep o level inst).count + 1 ∧ (t.sstep o level inst).marks = [] ∧
        t.dv.mem = s.dv.mem := by
  obtain rfl : o = (false, lid) := ho.trans (s.barOwner_low lid (by omega))
  have hexec : exec (.communicationPhase lid level inst) s = .next (s.phase lid level inst) :=
    congrArg Host.Outcome.next (if_neg (by simp [hf]))
  rw [State.phase_quiet hlevel hlive hmarks hquiet hdirty hmerged] at hexec
  have hstep := s.sstep_setSStep (x := { s.sstep (false, lid) level inst with
    count := (s.sstep (false, lid) level inst).count + 1, marks := [] }) (s.sstep_is (false, lid) level inst)
  exact ⟨_, hexec, congrArg SStep.count hstep, congrArg SStep.marks hstep, rfl⟩

/-! ### Job control blocks (R235, R236) -/

/-- An atomic write with no store on its way stands in memory at once. -/
theorem Dev.atomic_mem {d : Dev} (agent a : Nat) (bs : List Byte) (h : d.far = []) :
    (d.atomic 0 agent a bs).mem = Memory.puts d.mem a bs := by
  have hfar : (d.raise a bs.length).far = [] := by
    unfold Dev.raise
    rw [h]
    rfl
  unfold Dev.atomic Dev.store
  rw [if_pos ⟨hfar, Nat.le_refl 4⟩]
  rfl

/-- A patch with no store on its way stands in memory at once. -/
theorem Dev.patch_mem {d : Dev} (fmt agent a : Nat) (bs : List Byte) (h : d.far = []) :
    (d.patch fmt agent a bs).mem = Memory.puts d.mem a bs := by
  unfold Dev.patch Dev.keepSums
  dsimp only
  split
  · exact (foldl_keeps Dev.mem _ (by intros; rfl) _ _).trans (Dev.atomic_mem agent a bs h)
  · exact Dev.atomic_mem agent a bs h

/-- What JCBADD or JCBDONE makes of a block (R235, R236). -/
def JOp.Makes (op : JOp) (b n : Jcb) : Prop :=
  (∃ inc slot, op = .add inc slot ∧ n = (b.add inc.toNat slot).evaluate) ∨
    ∃ slot close err, op = .done slot close err ∧ n = (b.finish slot close (err.map (·.toNat))).evaluate

/-- An update writes its block, makes its arrival, and wakes who waits. -/
theorem State.applyJcb_update {s : State} {r : JReq} {n : Jcb} (h : r.op.Makes (jcbOf (s.dv.portNat r.pa 64)) n) :
    s.applyJcb r = ((s.modDev fun d => d.patch (d.frameFmt (r.pa / 65536)) agentInfra r.pa
      (bytesOfNat 64 (n.put (s.dv.portNat r.pa 64)))).arrive r.arr [] 0).wake := by
  unfold State.applyJcb
  dsimp only
  rcases h with ⟨inc, slot, hop, rfl⟩ | ⟨slot, close, err, hop, rfl⟩
  · rw [hop]
  · rw [hop]

/-- The data fixed for an awaited result is its value. -/
theorem State.fixData_flight {s : State} {c p id : Nat} {v : Row} {f : Flight} (hbox : s.box c ≠ none)
    (hf : f ∈ ((s.fixData c p id v).plane c p).flight) (hid : f.id = id) : f.known = true ∧ f.val = v := by
  unfold State.fixData at hf
  rw [State.plane_modPlane _ _ _ _ hbox] at hf
  obtain ⟨g, -, rfl⟩ := List.mem_map.1 hf
  by_cases hg : g.id = id
  · rw [if_pos hg]
    exact ⟨rfl, rfl⟩
  · rw [if_neg hg] at hid
    exact absurd hid hg

/-- A request applied sends no request. -/
theorem State.applyJcb_jcbQ (s : State) (r : JReq) : (s.applyJcb r).dv.jcbQ = s.dv.jcbQ := by
  have hupdate : ∀ n, r.op.Makes (jcbOf (s.dv.portNat r.pa 64)) n → (s.applyJcb r).dv.jcbQ = s.dv.jcbQ := fun n hn => by
    rw [State.applyJcb_update hn, State.wake_dv, State.arrive_eq]
    exact congrArg (·.2.2.2) (s.dv.patch_tasking _ _ _ _)
  cases hop : r.op with
  | add inc slot => exact hupdate _ (.inl ⟨inc, slot, hop, rfl⟩)
  | done slot close err => exact hupdate _ (.inr ⟨slot, close, err, hop, rfl⟩)
  | query c p fid =>
    unfold State.applyJcb
    rw [hop]
    exact congrArg Dev.jcbQ (State.modPlane_dv _ _ _ _)
  | queryRow blk c p fid =>
    unfold State.applyJcb
    rw [hop]
    exact congrArg Dev.jcbQ (State.modPlane_dv _ _ _ _)

/-- A query answers with its block. -/
theorem State.applyJcb_query {s : State} {r : JReq} {c p fid : Nat} (h : r.op = .query c p fid) :
    s.applyJcb r = s.fixData c p fid (BitVec.ofNat 2048 (jcbOf (s.dv.portNat r.pa 64)).query) := by
  unfold State.applyJcb
  rw [h]

/-- A query of a row sampled at issue answers with that row's block. -/
theorem State.applyJcb_queryRow {s : State} {r : JReq} {blk : BitVec 512} {c p fid : Nat} (h : r.op = .queryRow blk c p fid) :
    s.applyJcb r = s.fixData c p fid (BitVec.ofNat 2048 (jcbOf blk.toNat).query) := by
  unfold State.applyJcb
  rw [h]

/-- Data fixed leaves memory. -/
theorem State.fixData_mem (s : State) (c p id : Nat) (v : Row) : (s.fixData c p id v).dv.mem = s.dv.mem :=
  congrArg Dev.mem (State.modPlane_dv _ _ _ _)

/-- The machine without the waiting request `i`. -/
def State.unqueueJcb (s : State) (i : Nat) : State := s.modDev fun d => { d with jcbQ := dropAt d.jcbQ i }

/-- A request that leaves the queue leaves memory. -/
theorem State.unqueueJcb_portNat (s : State) (i a n : Nat) : (s.unqueueJcb i).dv.portNat a n = s.dv.portNat a n := rfl

/-- A block's first waiting request whose stores are seen is applied. -/
theorem jcbApply_applies {s : State} {i : Nat} {r : JReq} (hr : s.dv.jcbQ[i]? = some r)
    (hfirst : ∀ e ∈ s.dv.jcbQ.take i, ¬(e.pa = r.pa ∧ e.lid = r.lid ∧ e.rank = r.rank))
    (hseen : s.storesSeen r.stores 3 = true) : exec (.jcbApply i) s = .next ((s.unqueueJcb i).applyJcb r) := by
  have hnone : ((s.dv.jcbQ.take i).any fun e => e.pa == r.pa && e.lid == r.lid && e.rank == r.rank) = false :=
    List.any_eq_false.2 fun e he h => hfirst e he (by simpa [and_assoc] using h)
  refine congrArg Host.Outcome.next ?_
  rw [hr]
  exact if_neg (by simp [hnone, hseen])

/-- JCB_APPLY: the request leaves the queue; an update stands in memory, a query in the result that awaits it. -/
theorem jcbApply_ends {s : State} {i : Nat} {r : JReq} (hr : s.dv.jcbQ[i]? = some r)
    (hfirst : ∀ e ∈ s.dv.jcbQ.take i, ¬(e.pa = r.pa ∧ e.lid = r.lid ∧ e.rank = r.rank))
    (hseen : s.storesSeen r.stores 3 = true) {x : Nat} (hx : x = s.dv.portNat r.pa 64) :
    Ends (.jcbApply i) s fun t => t.dv.jcbQ = s.dv.jcbQ.take i ++ s.dv.jcbQ.drop (i + 1) ∧
      (∀ n : Jcb, s.dv.far = [] → r.op.Makes (jcbOf x) n →
        t.dv.mem = Memory.puts s.dv.mem r.pa (bytesOfNat 64 (n.put x))) ∧
      (∀ c p fid, r.op = .query c p fid → t.dv.mem = s.dv.mem ∧ ∀ f ∈ (t.plane c p).flight, f.id = fid → s.box c ≠ none →
        f.known = true ∧ f.val = BitVec.ofNat 2048 (jcbOf x).query) ∧
      ∀ blk c p fid, r.op = .queryRow blk c p fid → t.dv.mem = s.dv.mem ∧ ∀ f ∈ (t.plane c p).flight, f.id = fid →
        s.box c ≠ none → f.known = true ∧ f.val = BitVec.ofNat 2048 (jcbOf blk.toNat).query := by
  rw [← s.unqueueJcb_portNat i] at hx
  refine ⟨_, jcbApply_applies hr hfirst hseen, (State.applyJcb_jcbQ _ _).trans (dropAt_eq s.dv.jcbQ i), fun n hfar hn => ?_,
    fun c p fid hop => ?_, fun blk c p fid hop => ?_⟩
  · rw [hx] at hn ⊢
    rw [State.applyJcb_update hn, State.wake_dv, State.arrive_eq]
    exact Dev.patch_mem _ _ _ _ hfar
  · rw [State.applyJcb_query hop, ← hx]
    exact ⟨State.fixData_mem _ _ _ _ _, fun f hf hid hbox => State.fixData_flight (s := s.unqueueJcb i) hbox hf hid⟩
  · rw [State.applyJcb_queryRow hop]
    exact ⟨State.fixData_mem _ _ _ _ _, fun f hf hid hbox => State.fixData_flight (s := s.unqueueJcb i) hbox hf hid⟩

/-- Settles O53: each event of the dispatcher by the lemma that says what it does. -/
theorem dispatcherEvents : Obligations.DispatcherEvents := by
  unfold Obligations.DispatcherEvents
  refine ⟨fun s q v hq => stWrite_ends s v hq, fun s q v hq hge => hcWrite_ends s hq hge,
    fun s s1 s2 q b hq hf hp => launchRecordRead_accepts hq hf hp,
    fun s s1 q c hq hf hp => launchRecordRead_fails hq hf hp,
    fun s q v k base rc hf hp hhead hch hspot => launchPlace_places hf hp hhead hch hspot,
    fun s q rc hq hhead hage hprio hel => agingTick_raises hq hhead hage hprio hel,
    fun s s1 c p l l1 hf _ => ?_,
    fun s s1 lid header l i hf hl hsaved hst hfree hread _ hin hbox =>
      launchRestore_restores hf hl hsaved hst hfree hread hin hbox,
    fun s lid l hf hl hended => ?_,
    fun s q hq hf hdue => faultAck_ends hq hf hdue,
    fun s q rc hq hf hhead hdep hdone => dependenceWatchdog_dismisses hq hf hhead hdep hdone rfl,
    fun s lid l hf hl hst hsaved hstarted hrun => runWatchdog_stops hf hl hst hsaved hstarted hrun,
    fun s => rfl,
    fun s i a l ha hseen hl => ?_,
    fun s lid level inst hf hlevel => ?_,
    fun s i r hr hfirst hseen => jcbApply_ends hr hfirst hseen rfl⟩
  · intro pl hl hpre hst hlive hsav hphase co full hput hl1 hrun hbox
    exact taskSave_saves hf hl hpre hst hlive hsav hphase hput hl1 hrun hbox
  · intro s0 hcmds hstores hupd hdone hq hdue
    exact launchComplete_retires hf hl hended rfl hcmds hstores hupd hdone hq hdue
  · intro o own inst b hlim
    obtain ⟨t, hexec, harr, hcounts, hmem⟩ := arrivalDeliver_delivers ha hseen hl hlim
    exact ⟨t, hexec, harr, (congrArg BarCnt.d hcounts :), (congrArg BarCnt.i hcounts :), hmem⟩
  · intro o ms x hlive hmarks hquiet hdirty hmerged
    exact communicationPhase_counts hf rfl hlevel hlive hmarks hquiet hdirty hmerged

end Sys2Proof.Machine
end

section
/-!
PROOFS. O45: the channel commands (R290, R332, R335, R339 to R357): a command that keeps its limits joins its channel.
-/

namespace Sys2Proof.Machine

open Sys2Proof Sys2Proof.Claim

/-! ### A command queued (R332) -/

/-- The command that an issue queues: what it reads, and the ownership failure found then. -/
def State.issued (s : State) (i : Instr) (ar : BitVec 2) (pb emit : BitVec 1) (x y z : Word) (blk : BitVec 512)
    (err : Option Cause) : Cmd :=
  { ins := i, x := x, y := y, z := z, blk := blk, seq := s.dv.nextId, lid := s.pl.lid, rank := s.pl.rank, plane := s.co.lit,
    space := s.pl.space, jact := s.pl.jact, stream := s.pl.stream, issued := s.pl.tcount, arr := s.pl.owes ar, pb := pb == 1#1,
    emit := emit == 1#1 && s.pl.jact, wm := none, replay := (s.dv.stream s.pl.stream).mode == 1#2, st := .queued,
    err := none, result := err, pos := 0, done := 0, extra := none, fl := 0, peer := none, cur := [], sub := 0, bits := 0,
    unit := none, reads := [], asked := [], need := [], out := [] }

/-- A command queued moves its channel, the barriers and the next number, and nothing else. -/
theorem State.issueCmd_eq (s : State) (i : Instr) (ar : BitVec 2) (ch : BitVec 3) (pb emit : BitVec 1) (x y z : Word)
    (blk : BitVec 512) (err : Option Cause) :
    s.issueCmd i ar ch pb emit x y z blk err =
      { s with
        co := { s.co with ch := vput s.co.ch ch.toNat (vget s.co.ch ch.toNat [] ++ [s.issued i ar pb emit x y z blk err]) },
        dv := { s.dv with bars := (s.owe ar).2.dv.bars, nextId := s.dv.nextId + 1 } } := by
  unfold State.issueCmd
  dsimp only
  rw [State.owe_fst, State.owe_eq]
  rfl

/-- A command whose checks pass queues, without a failure when the windows it names are the task's. -/
theorem queues_of_guarded {i : Instr} {s : State} {slot : Nat} {l : List (Option Cause)} {eff : State → State} {ar : BitVec 2}
    {ch : BitVec 3} {pb emit : BitVec 1} {x y z : Word} {blk : BitVec 512} {err : Option Cause} {windows : List (Nat × Nat)}
    (h : exec i s = s.guarded slot l eff) (hl : Passes l) (he : eff s = s.issueCmd i ar ch pb emit x y z blk err)
    (herr : (∀ w ∈ windows, s.opForeign w.1 w.2 = none) → err = none) :
    Queues i s ar ch (pb == 1#1) (emit == 1#1) x y z blk windows :=
  ⟨_, s.issued i ar pb emit x y z blk err, exec_of_guarded h hl (he.trans (s.issueCmd_eq i ar ch pb emit x y z blk err)),
    rfl, rfl, rfl, rfl, rfl, rfl, rfl, rfl, rfl, rfl, rfl, rfl, rfl, rfl, rfl, herr⟩

/-- A block-form command whose block keeps its limits queues with the block (R339). -/
theorem blockQueues_of_blockForm {i : Instr} {s : State} {f : XBk} {emit : BitVec 1} {ok : BitVec 512 → Bool}
    {limits : BitVec 512 → Prop} {names : BitVec 512 → List (Nat × Nat)}
    (h : exec i s = s.blockForm i f emit ok (fun _ => []) names) (hok : ∀ b, limits b → ok b = true) :
    BlockQueues i s f (emit == 1#1) limits names := by
  intro hrow hheader hlimits
  unfold State.blockForm at h
  refine queues_of_guarded h ?_ rfl fun hw => List.findSome?_eq_none_iff.2 hw
  simp only [passes_cons, State.xLimit, need_none, hrow, hheader, hok _ hlimits, Bool.and_true, passes_nil, and_self]

/-! ### The commands in register form (R290, R335, R340, R346, R347, R357) -/

/-- XCOPY queues with its operands and its count. -/
theorem xcopy_queues (f : XCp) {s : State} {d b n : Nat} (hd : d = (s.rdS f.sx).toNat) (hb : b = (s.rdS f.sy).toNat)
    (hn : n = (s.rdS f.sz).toNat) (hdst : opAligned d [n] = true) (hsrc : opAligned b [n] = true) (hpos : 0 < n)
    (hmod : n % 32 = 0) (hlt : n < 2 ^ 40) :
    Queues (.xcopy f) s f.ar f.ch (f.pb == 1#1) (f.emit == 1#1) (s.rdS f.sx) (s.rdS f.sy) (s.rdS f.sz) 0#512
      [(d, n), (b, n)] := by
  subst hd hb hn
  refine queues_of_guarded (by show execXcopy f s = _; unfold execXcopy; rfl) ?_ rfl fun hw => ?_
  · simp only [passes_cons, State.xLimit, need_none, hdst, hsrc, hpos, hmod, hlt, decide_true, Bool.and_self, passes_nil,
      and_self]
  · obtain ⟨hwd, hwb⟩ := List.forall_mem_cons.1 hw
    rw [hwd, List.forall_mem_singleton.1 hwb]
    rfl

/-- XFILL of tiles that are all the task's queues with its reference, its count and its symbol. -/
theorem xfill_queues (f : XFi) {s : State} (hr : refBad (s.rdS f.sx) = false) (hpos : 1 ≤ (s.rdS f.sy).toNat)
    (hle : (s.rdS f.sy).toNat ≤ 2 ^ 24) (hk : f.kind = 0#3 ∨ 2 ≤ f.kind.toNat ∧ f.kind.toNat ≤ 5)
    (hown : s.fillForeign (s.rdS f.sx) (s.rdS f.sy).toNat = none) :
    Queues (.xfill f) s f.ar f.ch (f.pb == 1#1) false (s.rdS f.sx) (s.rdS f.sy) (s.rdS f.sz) 0#512 [] := by
  have hkind : kindOk f.kind.toNat = true := by
    rcases hk with h | ⟨h2, h5⟩
    · rw [h]; rfl
    · simp [kindOk, h2, h5]
  refine queues_of_guarded (emit := 0#1) (by show execXfill f s = _; unfold execXfill; rfl) ?_ rfl fun _ => hown
  simp only [passes_cons, State.xLimit, need_none, hr, hpos, hle, hkind, decide_true, Bool.not_false, Bool.and_self, passes_nil,
    and_self]

/-- XACC of an operation that its width has queues with its address and its operands. -/
theorem xacc_queues (f : XAc) {s : State} {z : Nat} (hz : z = (s.rdS f.sz).toNat)
    (halign : (s.rdS f.sx).toNat % (if z % 2 = 1 then 8 else 4) = 0) (hlt : z < 4) (hop : f.op.toNat < 12)
    (hfloat : ¬(z % 2 = 1 ∧ (f.op.toNat = 1 ∨ f.op.toNat = 6 ∨ f.op.toNat = 7))) :
    Queues (.xacc f) s f.ar f.ch (f.pb == 1#1) false (s.rdS f.sx) (s.rdS f.sy) (s.rdS f.sz) 0#512 [] := by
  subst hz
  have hwidth : ((s.rdS f.sz).toNat % 2 = 1 && accFloat f.op.toNat) = false := by
    simpa [accFloat, not_or, and_assoc] using hfloat
  refine queues_of_guarded (emit := 0#1) (by show execXacc f s = _; unfold execXacc; rfl) ?_ rfl fun _ => rfl
  simp only [passes_cons, State.xLimit, need_none, halign, hlt, hop, hwidth, decide_true, Bool.not_false, Bool.and_self,
    passes_nil, and_self]

/-- XCAS queues with its address, its compared value and its new one. -/
theorem xcas_queues (f : XCa) {s : State} (halign : (s.rdS f.sx).toNat % (if f.w64 = 1#1 then 8 else 4) = 0) :
    Queues (.xcas f) s f.ar f.ch (f.pb == 1#1) false (s.rdS f.sx) (s.rdS f.sy) (s.rdS f.sz) 0#512 [] := by
  refine queues_of_guarded (emit := 0#1) (by show execXcas f s = _; unfold execXcas; rfl) ?_ rfl fun _ => rfl
  simp only [passes_cons, State.xLimit, need_none, halign, decide_true, passes_nil, and_self]

/-- XSPILL queues with its tensor and its neighbour. -/
theorem xspill_queues (f : XSp) {s : State} (hx : (s.rdS f.sx).toNat < 2 ^ 24) (hsel : f.sel ≠ 0#2) :
    Queues (.xspill f) s f.ar f.ch (f.pb == 1#1) false (s.rdS f.sx) (s.rdS f.sy) 0#64 0#512 [] := by
  refine queues_of_guarded (emit := 0#1) (by show execXspill f s = _; unfold execXspill; rfl) ?_ rfl fun _ => rfl
  simp only [passes_cons, State.xLimit, need_none, hx, hsel, decide_true, ne_eq, not_false_iff, passes_nil, and_self]

/-- XRECALL queues with its tensor. -/
theorem xrecall_queues (f : XBk) {s : State} (hx : (s.rdS f.sx).toNat < 2 ^ 24) :
    Queues (.xrecall f) s f.ar f.ch (f.pb == 1#1) false (s.rdS f.sx) 0#64 0#64 0#512 [] := by
  refine queues_of_guarded (emit := 0#1) (by show execXrecall f s = _; unfold execXrecall; rfl) ?_ rfl fun _ => rfl
  simp only [passes_cons, State.xLimit, need_none, hx, decide_true, passes_nil, and_self]

/-- Settles O45: a register form's limits pass its checks, and a block form's those of its block. -/
theorem channelCommandsQueue : Obligations.ChannelCommandsQueue := by
  unfold Obligations.ChannelCommandsQueue
  refine fun s => ⟨fun f => xcopy_queues f rfl rfl rfl, fun f => xfill_queues f, fun f => xacc_queues f rfl,
    fun f => xcas_queues f, fun f => xspill_queues f, fun f => ?_, fun f => ⟨xrecall_queues f, ?_, ?_, ?_, ?_, ?_, ?_, ?_, ?_⟩⟩
  · refine blockQueues_of_blockForm (emit := f.emit) (show execXsend f s = _ from rfl) fun b hb => ?_
    obtain ⟨hpos, hmod, h49, h16, hz, hop⟩ := hb
    simp only [hpos, hmod, h49, h16, hz, hop, decide_true, Bool.and_self]
  · exact blockQueues_of_blockForm (emit := 0#1) (show execXcopyt f s = _ from rfl) fun b hb => hb
  · refine blockQueues_of_blockForm (emit := 0#1) (show execXpair f s = _ from rfl) fun b hb => ?_
    simpa [and_assoc] using hb
  · refine blockQueues_of_blockForm (emit := 0#1) (show execXgath f s = _ from rfl) fun b hb => ?_
    simpa using hb
  · refine blockQueues_of_blockForm (emit := 0#1) (show execXscat f s = _ from rfl) fun b hb => ?_
    simpa using hb
  · exact blockQueues_of_blockForm (emit := 0#1) (show execXnear f s = _ from rfl) fun b hb => hb
  · refine blockQueues_of_blockForm (emit := 0#1) (show execXpost f s = _ from rfl) fun b hb => ?_
    simpa [and_assoc] using hb
  · have hcoll : exec (.xcoll f) s = execXcoll f s := rfl
    unfold execXcoll at hcoll
    refine blockQueues_of_blockForm hcoll fun b hb => ?_
    simpa [and_assoc, imp_iff_not_or] using hb
  · refine blockQueues_of_blockForm (emit := 0#1) (show execXmedia f s = _ from rfl) fun b hb => ?_
    simpa [and_assoc, or_assoc] using hb

end Sys2Proof.Machine
end

section
/-!
PROOFS. Tile entries (R271, R272): the fields of an entry, and an entry written and read back, of a slot and of a tensor's tile.
-/

namespace Sys2Proof.Machine

open Sys2Proof Sys2Proof.Claim

/-! ### Fields of an entry (R272) -/

/-- A bit of a word as a number. -/
theorem b2n_getLsbD (w : Word) (i : Nat) : b2n (w.getLsbD i) = w.toNat / 2 ^ i % 2 := by
  rw [← BitVec.testBit_toNat, Nat.testBit_eq_decide_div_mod_eq]
  rcases Nat.mod_two_eq_zero_or_one (w.toNat / 2 ^ i) with h | h <;> rw [h] <;> rfl

/-- Truths that are one number are one truth. -/
theorem b2n_inj : ∀ {a b : Bool}, b2n a = b2n b → a = b := by decide

/-- A truth is 0 or 1. -/
theorem b2n_le : ∀ b : Bool, b2n b ≤ 1 := by decide

/-- DIRTY of an entry made of fields. -/
theorem entDirty_mkEnt (kind : Nat) (nf pr : Bool) (pgen : Nat) (d : Bool) (fmt frame : Nat) :
    entDirty (mkEnt kind nf pr pgen d fmt frame) = d := by
  have := b2n_le d
  refine b2n_inj ?_
  rw [entDirty, b2n_getLsbD]
  simp only [mkEnt, BitVec.toNat_ofNat, Nat.shiftLeft_eq]
  omega

/-- PROMOTED of an entry made of fields. -/
theorem entPromoted_mkEnt (kind : Nat) (nf pr : Bool) (pgen : Nat) (d : Bool) (fmt frame : Nat) :
    entPromoted (mkEnt kind nf pr pgen d fmt frame) = pr := by
  have := b2n_le d
  have := b2n_le pr
  refine b2n_inj ?_
  rw [entPromoted, b2n_getLsbD]
  simp only [mkEnt, BitVec.toNat_ofNat, Nat.shiftLeft_eq]
  omega

/-- The frame of an entry made of fields. -/
theorem entFrame_mkEnt {frame : Nat} (hf : frame < 2 ^ 36) (kind : Nat) (nf pr : Bool) (pgen : Nat) (d : Bool) (fmt : Nat) :
    entFrame (mkEnt kind nf pr pgen d fmt frame) = frame := by
  simp only [entFrame, mkEnt, bitsOf, BitVec.toNat_ofNat, Nat.shiftRight_eq_div_pow, Nat.shiftLeft_eq]
  omega

/-- The pair generation of an entry made of fields. -/
theorem entPgen_mkEnt {pgen : Nat} (hp : pgen < 256) (kind : Nat) (nf pr : Bool) (d : Bool) (fmt frame : Nat) :
    entPgen (mkEnt kind nf pr pgen d fmt frame) = pgen := by
  have := b2n_le d
  simp only [entPgen, mkEnt, bitsOf, BitVec.toNat_ofNat, Nat.shiftRight_eq_div_pow, Nat.shiftLeft_eq]
  omega

/-- A format code fits its field. -/
theorem entFmt_lt (w0 : Word) : entFmt w0 < 16 := bitsOf_lt _ _ _

/-- A pair generation fits its field. -/
theorem entPgen_lt (w0 : Word) : entPgen w0 < 256 := bitsOf_lt _ _ _

/-! ### Bytes written and read at the port (R326, R328) -/

/-- A number of `n` bytes is read back from them. -/
theorem natOfBytes_bytesOfNat (n x : Nat) : natOfBytes (bytesOfNat n x) = x % 256 ^ n := by
  induction n generalizing x with
  | zero => simp [bytesOfNat, natOfBytes, Nat.mod_one]
  | succ n ih =>
    have hsplit : x % 256 ^ (n + 1) = x % 256 + 256 * (x / 256 % 256 ^ n) := by rw [Nat.pow_succ', Nat.mod_mul]
    rw [bytesOfNat, natOfBytes, ih, BitVec.toNat_ofNat, hsplit]

/-- The pieces of a byte string: the first up to the end of its sector, then the others. -/
theorem sectors_succ {fuel a : Nat} {bs : List Byte} (h : bs ≠ []) : sectors (fuel + 1) a bs =
    (a, bs.take (32 - a % 32)) :: sectors fuel (a + (32 - a % 32)) (bs.drop (32 - a % 32)) := by
  cases bs with
  | nil => exact absurd rfl h
  | cons b t => rfl

/-- The store of a piece of a byte string: what `Dev.store` makes of it. -/
def pieceStore (id agent level lid rank plane : Nat) (p : Nat × List Byte) : Far :=
  { id := id, core := agent, addr := p.1, len := p.2.length, data := BitVec.ofNat 256 (natOfBytes p.2), level := level,
    lid := lid, rank := rank, plane := plane }

section
variable (id agent level lid rank plane : Nat)

/-- No piece of a byte string covers an address before it. -/
theorem newest_pieces_before (fuel : Nat) {a x : Nat} (bs : List Byte) (h : x < a) :
    newest (fun _ => true) x ((sectors fuel a bs).map (pieceStore id agent level lid rank plane)) = none := by
  induction fuel generalizing a bs with
  | zero => rfl
  | succ n ih =>
    by_cases hbs : bs = []
    · subst hbs; rfl
    · rw [sectors_succ hbs, List.map_cons, newest_cons, ih _ (by omega)]
      simp [Far.covers, pieceStore, Nat.not_le.2 h]

/-- The byte of a piece within one sector. -/
theorem byte_pieceStore {a i : Nat} {l : List Byte} (hl : l.length ≤ 32) :
    (pieceStore id agent level lid rank plane (a, l)).byte (a + i) = l.getD i 0#8 := by
  have hlt : natOfBytes l < 2 ^ 256 :=
    Nat.lt_of_lt_of_le (natOfBytes_lt l) (Nat.pow_le_pow_right (by decide) (by omega))
  simp only [Far.byte, pieceStore, BitVec.toNat_ofNat, Nat.mod_eq_of_lt hlt, Nat.add_sub_cancel_left, byte_natOfBytes]

/-- The newest of the pieces that covers a byte of the string writes it. -/
theorem newest_pieces (fuel : Nat) {a i : Nat} {bs : List Byte} (hi : i < bs.length) (hfuel : a % 32 + i < 32 * fuel) :
    ∃ f, newest (fun _ => true) (a + i) ((sectors fuel a bs).map (pieceStore id agent level lid rank plane)) = some f ∧
      f.byte (a + i) = bs.getD i 0#8 := by
  induction fuel generalizing a i bs with
  | zero => omega
  | succ n ih =>
    have hbs : bs ≠ [] := List.ne_nil_of_length_pos (by omega)
    rw [sectors_succ hbs, List.map_cons, newest_cons]
    by_cases hfirst : i < 32 - a % 32
    · rw [newest_pieces_before _ _ _ _ _ _ n _ (by omega)]
      refine ⟨pieceStore id agent level lid rank plane (a, bs.take (32 - a % 32)), ?_, ?_⟩
      · simp [Far.covers, pieceStore, hi, hfirst]
      · rw [byte_pieceStore _ _ _ _ _ _ (by rw [List.length_take]; omega), List.getD_eq_getElem?_getD, List.getElem?_take, if_pos hfirst,
          ← List.getD_eq_getElem?_getD]
    · obtain ⟨f, hf, hbyte⟩ := ih (a := a + (32 - a % 32)) (i := i - (32 - a % 32)) (bs := bs.drop (32 - a % 32))
        (by rw [List.length_drop]; omega) (by omega)
      rw [show a + (32 - a % 32) + (i - (32 - a % 32)) = a + i by omega] at hf hbyte
      refine ⟨f, by rw [hf]; rfl, ?_⟩
      rw [hbyte, List.getD_eq_getElem?_getD, List.getElem?_drop, ← List.getD_eq_getElem?_getD]
      congr 1
      omega

end

/-- A byte written in a store to every domain is what the port holds. -/
theorem Dev.port_store (d : Dev) (id agent a : Nat) {bs : List Byte} {i : Nat} (hi : i < bs.length) :
    (d.store id agent 4 a bs).port (a + i) = bs.getD i 0#8 := by
  obtain ⟨f, hf, hbyte⟩ := newest_pieces id agent 4 0 0 0 (bs.length / 32 + 2) (a := a) hi (by omega)
  unfold Dev.store
  split
  · next h =>
    rw [Dev.port_eq, h.1]
    exact Memory.byte_puts _ _ _ _ hi
  · rw [Dev.port_fold, Dev.port_eq, newest_append]
    unfold pieceStore at hf
    dsimp only
    rw [hf]
    exact hbyte

/-- A write with its sums is seen at the port as the write. -/
theorem Dev.patch_port (d : Dev) (fmt agent a : Nat) (bs : List Byte) :
    (d.patch fmt agent a bs).port = (d.atomic 0 agent a bs).port := by
  unfold Dev.patch Dev.keepSums
  dsimp only
  split
  · refine foldl_keeps Dev.port _ ?_ _ _
    exact fun _ _ => rfl
  · rfl

/-- A byte patched is what the port holds. -/
theorem Dev.port_patch (d : Dev) (fmt agent a : Nat) {bs : List Byte} {i : Nat} (hi : i < bs.length) :
    (d.patch fmt agent a bs).port (a + i) = bs.getD i 0#8 := by
  rw [Dev.patch_port]
  exact Dev.port_store _ _ _ _ hi

/-- A number patched among other bytes is read back at the port. -/
theorem Dev.portNat_patch (d : Dev) (fmt agent a : Nat) (before after : List Byte) (n x : Nat) :
    (d.patch fmt agent a (before ++ bytesOfNat n x ++ after)).portNat (a + before.length) n = x % 256 ^ n := by
  rw [← natOfBytes_bytesOfNat]
  unfold Dev.portNat Dev.portBytes
  congr 1
  refine List.ext_getElem (by simp) fun i hi _ => ?_
  have hlt : i < n := by simpa using hi
  have hport := d.port_patch fmt agent a (bs := before ++ bytesOfNat n x ++ after) (i := before.length + i) (by simp; omega)
  simp only [upTo_eq, List.getElem_map, List.getElem_range', Nat.one_mul, Nat.add_assoc, hport]
  simp [List.getElem?_append, hlt]

/-! ### An entry written and read back (R271) -/

/-- A tile's entry depends on the cores but for the shadow plane, and on the bytes at the port. -/
theorem State.entry_of_shadow {s u : State} {p : Plane} (hc : u.co = { s.co with shadow := p }) (ho : u.others = s.others)
    (hp : u.dv.port = s.dv.port) (l : TLoc) : u.entry l = s.entry l := by
  have hslots : (u.core l.c).slots = (s.core l.c).slots := by
    unfold State.core State.box
    rw [hc, ho]
    dsimp only
    split <;> rfl
  unfold State.entry Core.slot Dev.portNat Dev.portBytes
  rw [hslots, hp]

/-- A core once the entry of one of its slots is replaced. -/
theorem State.core_setEntry {s : State} {l : TLoc} (hs : l.isSlot = true) (hbox : s.box l.c ≠ none) (w0 w1 : Word) :
    (s.setEntry l w0 w1).core l.c =
      { (s.core l.c).setSlot l.k { (s.core l.c).slot l.k with w0 := w0, w1 := w1 } with id := l.c } := by
  rw [State.setEntry, if_pos hs]
  exact State.core_modCore _ _ _ hbox

/-- An entry written is the one read: of a slot whose core is there, or of a tensor's tile. -/
theorem State.entry_setEntry {s : State} {l : TLoc} (hbox : l.isSlot = true → s.box l.c ≠ none) (w0 w1 : Word) :
    (s.setEntry l w0 w1).entry l = (w0, w1) := by
  cases hs : l.isSlot with
  | true =>
    have hslot : ((s.setEntry l w0 w1).core l.c).slot l.k = { (s.core l.c).slot l.k with w0 := w0, w1 := w1 } := by
      rw [State.core_setEntry hs (hbox hs)]
      exact (Core.slot_setSlot _ _ _ _).trans (if_pos rfl)
    simp only [State.entry, hs, if_true, hslot]
  | false =>
    have hfirst := (s.dv.markEntry l true).portNat_patch 15 agentInfra l.ent [] (bytesOfNat 8 w1.toNat) 8 w0.toNat
    have hsecond := (s.dv.markEntry l true).portNat_patch 15 agentInfra l.ent (bytesOfNat 8 w0.toNat) [] 8 w1.toNat
    rw [List.append_nil, length_bytesOfNat] at hsecond
    rw [List.nil_append, List.length_nil, Nat.add_zero] at hfirst
    have hword (w : Word) : BitVec.ofNat 64 (w.toNat % 256 ^ 8) = w := by
      rw [Nat.mod_eq_of_lt (show w.toNat < 256 ^ 8 from w.isLt), BitVec.ofNat_toNat, BitVec.setWidth_eq]
    simp only [State.entry, State.setEntry, hs, Bool.false_eq_true, if_false, State.modDev_dv, hfirst, hsecond, hword]

/-- A frame released leaves every entry. -/
@[simp] theorem State.entry_dropFrame (s : State) (l : TLoc) (w0 : Word) (m : TLoc) : (s.dropFrame l w0).entry m = s.entry m := by
  unfold State.dropFrame
  split <;> rfl

/-- The core of a slot that a task owns is there. -/
theorem State.box_of_taskOwns {s : State} {c k lid rank : Nat} (h : s.taskOwns c k lid rank = true) : s.box c ≠ none := by
  intro hnone
  simp [State.taskOwns, State.core, hnone, Core.slot, Core.reset, SMap.get, slotReset] at h

/-! ### What a settle does (R281, R284) -/

/-- A tile that is not STORED only leaves the dirty list. -/
theorem State.settle_symbolic {s : State} {l : TLoc} (h : entKind (s.entry l).1 ≠ 1) : s.settle l = (false, s.undirty l) := by
  unfold State.settle
  exact if_pos h

/-- A STORED tile becomes the symbol of its rows, or returns to its REPEAT, or stays STORED; DIRTY is clear. -/
theorem State.settle_stored {s : State} {l : TLoc} (h : entKind (s.entry l).1 = 1) :
    (∃ k w1 nf, settleSym l.fmt (s.storeRows (storeOf l (s.entry l).1)) = some (k, w1) ∧ s.settle l = (true,
      ((s.undirty l).setEntry l (mkEnt k nf false (entPgen (s.entry l).1) false (entFmt (s.entry l).1) 0) w1).dropFrame l
        (s.entry l).1)) ∨
    (∃ nf w1, s.hintHolds l (s.entry l).1 (s.entry l).2 (s.storeRows (storeOf l (s.entry l).1)) = true ∧ s.settle l = (true,
      ((s.undirty l).setEntry l (mkEnt 5 nf false (entPgen (s.entry l).1) false (entFmt (s.entry l).1) 0) w1).dropFrame l
        (s.entry l).1)) ∨
    ∃ nf pr frame w1, s.settle l = (false,
      (s.undirty l).setEntry l (mkEnt 1 nf pr (entPgen (s.entry l).1) false (entFmt (s.entry l).1) frame) w1) := by
  unfold State.settle
  dsimp only
  rw [if_neg (not_not.2 h)]
  split
  · next k w1 hsym => exact .inl ⟨k, w1, _, hsym, rfl⟩
  · split
    · next hhint => exact .inr (.inl ⟨_, _, hhint, rfl⟩)
    · exact .inr (.inr ⟨_, _, _, _, rfl⟩)

end Sys2Proof.Machine
end

section
/-!
PROOFS. O50: settling (R281, R282): the symbol that a stored tile's rows give stands for those rows.
-/

namespace Sys2Proof.Machine

open Sys2Proof Sys2Proof.Claim

/-! ### Packed elements -/

/-- Elements split off a number and packed again give its low bits. -/
theorem packs_elems (w n x : Nat) : packs w (elems w n x) = x % 2 ^ (w * n) := by
  induction n generalizing x with
  | zero => simp [elems, packs, Nat.mod_one]
  | succ n ih =>
    rw [elems, packs, ih, Nat.mod_mod, Nat.shiftLeft_eq, Nat.shiftRight_eq_div_pow, Nat.mul_succ, Nat.add_comm (w * n),
      Nat.pow_add, Nat.mod_mul, Nat.mul_comm (2 ^ w)]

/-- Every element split off a number fits its width. -/
theorem lt_of_mem_elems {w n x y : Nat} (h : y ∈ elems w n x) : y < 2 ^ w := by
  induction n generalizing x with
  | zero => exact absurd h List.not_mem_nil
  | succ n ih =>
    rcases List.mem_cons.1 h with rfl | h
    · exact Nat.mod_lt _ (Nat.two_pow_pos w)
    · exact ih h

/-- Elements of two lists packed one after the other. -/
theorem packs_append (w : Nat) (l m : List Nat) : packs w (l ++ m) = packs w l + 2 ^ (w * l.length) * packs w m := by
  induction l with
  | nil => simp [packs]
  | cons x t ih =>
    rw [List.cons_append, packs, packs, ih, Nat.shiftLeft_eq, Nat.shiftLeft_eq, List.length_cons, Nat.mul_succ, Nat.pow_add]
    ring

/-- Packed groups of packed elements are the elements packed. -/
theorem packs_groups (w k : Nat) (ls : List (List Nat)) (h : ∀ l ∈ ls, l.length = k) :
    packs (w * k) (ls.map (packs w)) = packs w ls.flatten := by
  induction ls with
  | nil => rfl
  | cons l t ih =>
    have hl := h l List.mem_cons_self
    have hlt : packs w l < 2 ^ (w * k) := hl ▸ packs_lt w l
    rw [List.map_cons, packs, ih fun m hm => h m (List.mem_cons_of_mem _ hm), Nat.mod_eq_of_lt hlt, List.flatten_cons,
      packs_append, hl, Nat.shiftLeft_eq, Nat.mul_comm (2 ^ _)]

/-! ### Rows by their codes (R273) -/

/-- The widths of the formats: but for the 6 bits of format 9 each fills a word of 64 bits. -/
theorem elemBits_cases {fmt : Nat} (h : fmt ≠ 9) :
    elemBits fmt = 4 ∨ elemBits fmt = 8 ∨ elemBits fmt = 16 ∨ elemBits fmt = 32 := by
  unfold elemBits laneBits
  rw [if_neg h]
  repeat' split
  all_goals simp

/-- The codes of a row fill it, but for the two last bits in format 9. -/
theorem width_mul_rowElems {fmt : Nat} (h : fmt ≠ 9) : elemBits fmt * rowElems fmt = 2048 := by
  unfold rowElems
  rcases elemBits_cases h with h | h | h | h <;> rw [h]

/-- A number whose upper bits are clear. -/
theorem lt_of_bitsOf_zero {x lo n k : Nat} (hk : lo + n = k) (hx : x < 2 ^ k) (h : bitsOf x lo n = 0) : x < 2 ^ lo := by
  rw [← hk, Nat.pow_add] at hx
  rw [bitsOf, Nat.shiftRight_eq_div_pow, Nat.mod_eq_of_lt (Nat.div_lt_of_lt_mul hx)] at h
  exact Nat.lt_of_div_eq_zero (Nat.two_pow_pos _) h

/-- A row whose bits past its codes are clear is its codes packed. -/
theorem row_of_codes {fmt : Nat} {r : Row} (h : fmt = 9 → bitsOf r.toNat 2046 2 = 0) :
    BitVec.ofNat 2048 (packs (elemBits fmt) (rowCodes fmt r)) = r := by
  refine BitVec.eq_of_toNat_eq ?_
  rw [rowCodes, packs_elems, BitVec.toNat_ofNat]
  by_cases h9 : fmt = 9
  · subst h9
    have hlt : r.toNat < 2 ^ 2046 := lt_of_bitsOf_zero (k := 2048) rfl r.isLt (h rfl)
    have hwidth : elemBits 9 * rowElems 9 = 2046 := rfl
    rw [hwidth, Nat.mod_eq_of_lt hlt, Nat.mod_eq_of_lt r.isLt]
  · rw [width_mul_rowElems h9, Nat.mod_mod, Nat.mod_eq_of_lt r.isLt]

/-! ### CONST (R281, rule 2) -/

/-- A list of equal elements holds the one that names it. -/
theorem eq_of_allSame {l : List Nat} {c x : Nat} (h : allSame l = some c) (hx : x ∈ l) : x = c := by
  cases l with
  | nil => exact absurd hx List.not_mem_nil
  | cons a t =>
    rw [allSame, Option.ite_none_right_eq_some, List.all_eq_true] at h
    obtain ⟨hall, hc⟩ := h
    rw [← Option.some.inj hc]
    rcases List.mem_cons.1 hx with rfl | hx
    · rfl
    · simpa using hall x hx

/-- Word 1 of a CONST of a code (R273). -/
def constWord (fmt c : Nat) : Word :=
  BitVec.ofNat 64 (if fmt = 9 then packs 8 (List.replicate 8 c) else packs (elemBits fmt) (List.replicate (64 / elemBits fmt) c))

/-- A row of a CONST is its code in every element. -/
theorem symRow_const {w0 : Word} (hk : entKind w0 = 3) (fmt i : Nat) {c : Nat} (hc : c < 2 ^ elemBits fmt) :
    symRow w0 (constWord fmt c) fmt i = BitVec.ofNat 2048 (packs (elemBits fmt) (List.replicate (rowElems fmt) c)) := by
  unfold symRow constWord
  rw [hk]
  dsimp only
  by_cases h9 : fmt = 9
  · subst h9
    have hlow : packs 8 (List.replicate 8 c) % 2 ^ 8 = c := by
      have helem := packs_elem 8 (List.replicate 8 c) 0
      rw [Nat.mul_zero, Nat.pow_zero, Nat.div_one] at helem
      rw [helem, List.getD_replicate (h := by decide)]
      exact Nat.mod_eq_of_lt (Nat.lt_of_lt_of_le hc (by decide))
    have hmod : packs 8 (List.replicate 8 c) % 2 ^ 64 % 64 = c := by
      rw [Nat.mod_mod_of_dvd _ (by decide), ← Nat.mod_mod_of_dvd _ (show 64 ∣ 2 ^ 8 by decide), hlow]
      exact Nat.mod_eq_of_lt hc
    rw [if_pos rfl, if_pos rfl, BitVec.toNat_ofNat, hmod]
    rfl
  · have hgroups := packs_groups (elemBits fmt) (64 / elemBits fmt) (List.replicate 32 (List.replicate (64 / elemBits fmt) c))
      fun l hl => by rw [List.eq_of_mem_replicate hl, List.length_replicate]
    have hwidth : elemBits fmt * (64 / elemBits fmt) = 64 ∧ 32 * (64 / elemBits fmt) = rowElems fmt := by
      unfold rowElems
      rcases elemBits_cases h9 with h | h | h | h <;> rw [h] <;> decide
    rw [hwidth.1, List.map_replicate, List.flatten_replicate_replicate, hwidth.2] at hgroups
    rw [if_neg h9, if_neg h9, toNat_ofNat_packs (by rw [List.length_replicate, hwidth.1]), hgroups]
    rfl

/-- A row whose codes are all one code is a row of its CONST. -/
theorem symRow_of_allSame {w0 : Word} (hk : entKind w0 = 3) {fmt c : Nat} {rows : List Row} {r : Row} (i : Nat) (hr : r ∈ rows)
    (hsame : allSame (rows.map (rowCodes fmt)).flatten = some c) (htail : fmt = 9 → bitsOf r.toNat 2046 2 = 0) :
    symRow w0 (constWord fmt c) fmt i = r := by
  have hcodes : rowCodes fmt r = List.replicate (rowElems fmt) c :=
    List.eq_replicate_iff.2 ⟨length_elems _ _ _, fun x hx =>
      eq_of_allSame hsame (List.mem_flatten.2 ⟨_, List.mem_map_of_mem hr, hx⟩)⟩
  have hc : c ∈ rowCodes fmt r := by
    rw [hcodes]
    refine List.mem_replicate.2 ⟨?_, rfl⟩
    unfold rowElems elemBits laneBits
    repeat' split
    all_goals decide
  rw [symRow_const hk fmt i (lt_of_mem_elems hc), ← hcodes, row_of_codes htail]

/-! ### RAMP (R281, rule 3) -/

/-- A number's value in two's complement is the number modulo 2^n. -/
theorem sgn_modEq {n : Nat} (hn : 0 < n) (x : Nat) : sgn n x ≡ x [ZMOD 2 ^ n] := by
  have hmod : ((x % 2 ^ n : Nat) : Int) ≡ x [ZMOD 2 ^ n] := by
    push_cast
    exact Int.mod_modEq _ _
  unfold sgn
  dsimp only
  rw [if_neg (by omega)]
  split
  · exact hmod
  · refine Int.ModEq.trans ?_ hmod
    simp [Int.ModEq]

/-- A wrapped integer is the integer modulo a smaller power. -/
theorem wrap_modEq {n k : Nat} (h : k ≤ n) (x : Int) : (wrap n x : Int) ≡ x [ZMOD 2 ^ k] := by
  rw [natCast_wrap]
  exact Int.emod_emod_of_dvd _ (pow_dvd_pow 2 h)

/-- An integer of 16 bits survives its field. -/
theorem sgn_wrap_16 {x : Int} (hlow : -32768 ≤ x) (hhigh : x ≤ 32767) : sgn 16 (wrap 16 x) = x := by
  have hx := natCast_wrap 16 x
  have hlt := wrap_lt 16 x
  unfold sgn
  dsimp only
  rw [Nat.mod_eq_of_lt hlt]
  split <;> omega

/-- Integers that agree modulo 2^n wrap to one number. -/
theorem wrap_eq_of_modEq {n : Nat} {x y : Int} (h : x ≡ y [ZMOD 2 ^ n]) : wrap n x = wrap n y := congrArg Int.toNat h

/-- The elements that follow `p` in a progression. -/
theorem getD_of_go {w d p : Nat} {l : List Nat} (h : stepOf.go w d p l = true) (hl : ∀ x ∈ l, x < 2 ^ w) {j : Nat}
    (hj : j < l.length) : l.getD j 0 = wrap w ((p : Int) + (j + 1) * d) := by
  induction l generalizing p j with
  | nil => exact absurd hj (Nat.not_lt_zero j)
  | cons x t ih =>
    rw [stepOf.go, Bool.and_eq_true, decide_eq_true_eq] at h
    have hx : x = wrap w ((p : Int) + d) := by
      rw [← wrap_of_lt (hl x List.mem_cons_self), ← h.1]
      refine wrap_eq_of_modEq ?_
      have hd := (wrap_modEq (le_refl w) ((x : Int) - p)).symm.add_left p
      rwa [add_sub_cancel] at hd
    cases j with
    | zero => simpa using hx
    | succ j =>
      rw [List.getD_cons_succ, ih h.2 (fun y hy => hl y (List.mem_cons_of_mem _ hy)) (by simpa using hj), hx, wrap_wrap_add]
      congr 1
      push_cast
      ring

/-- Each element of a progression of the step that names it. -/
theorem getD_of_stepOf {w d : Nat} {l : List Nat} (h : stepOf w l = some d) (hl : ∀ x ∈ l, x < 2 ^ w) {j : Nat}
    (hj : j < l.length) : l.getD j 0 = wrap w ((l.getD 0 0 : Int) + j * d) := by
  have hfirst (x : Nat) (t : List Nat) (ht : l = x :: t) : x = wrap w ((x : Int) + (0 : Nat) * d) := by
    rw [Nat.cast_zero, zero_mul, add_zero, wrap_of_lt (hl x (by rw [ht]; exact List.mem_cons_self))]
  match l, h, hl, hj with
  | [a], _, _, hj =>
    obtain rfl : j = 0 := by simpa using hj
    exact hfirst a [] rfl
  | a :: b :: t, h, hl, hj =>
    rw [stepOf, Option.ite_none_right_eq_some] at h
    obtain ⟨hgo, hd⟩ := h
    obtain rfl := Option.some.inj hd
    cases j with
    | zero => exact hfirst a _ rfl
    | succ j =>
      have hall : stepOf.go w (wrap w ((b : Int) - a)) a (b :: t) = true := by
        rw [stepOf.go, Bool.and_eq_true]
        exact ⟨decide_eq_true rfl, hgo⟩
      rw [List.getD_cons_succ, getD_of_go hall (fun x hx => hl x (List.mem_cons_of_mem _ hx)) (by simpa using hj)]
      push_cast
      rfl

/-- Word 1 of a RAMP of a base, a row step and a column step (R273). -/
def rampWord (w c r s : Nat) : Word :=
  BitVec.ofNat 64 (wrap 32 (sgn w c) <<< 32 + wrap 16 (sgn w r) <<< 16 + wrap 16 (sgn w s))

/-- The fields of that word. -/
theorem rampWord_fields (w c r s : Nat) :
    bitsOf (rampWord w c r s).toNat 32 32 = wrap 32 (sgn w c) ∧ bitsOf (rampWord w c r s).toNat 16 16 = wrap 16 (sgn w r) ∧
    bitsOf (rampWord w c r s).toNat 0 16 = wrap 16 (sgn w s) := by
  have hc := wrap_lt 32 (sgn w c)
  have hr := wrap_lt 16 (sgn w r)
  have hs := wrap_lt 16 (sgn w s)
  simp only [rampWord, bitsOf, BitVec.toNat_ofNat, Nat.shiftLeft_eq, Nat.shiftRight_eq_div_pow]
  omega

/-- Whether a step fits the 16 bits of its field. -/
def StepFits (w x : Nat) : Prop := -32768 ≤ sgn w x ∧ sgn w x ≤ 32767

/-- The element of a RAMP at a row and a column. -/
theorem ramp_element {w c r s : Nat} (hw : 0 < w) (hw32 : w ≤ 32) (hr : StepFits w r) (hs : StepFits w s) (i j : Nat) :
    wrap w ((bitsOf (rampWord w c r s).toNat 32 32 : Int) + i * sgn 16 (bitsOf (rampWord w c r s).toNat 16 16) +
      j * sgn 16 (bitsOf (rampWord w c r s).toNat 0 16)) = wrap w ((c : Int) + i * r + j * s) := by
  obtain ⟨hbase, hrow, hcol⟩ := rampWord_fields w c r s
  rw [hbase, hrow, hcol, sgn_wrap_16 hr.1 hr.2, sgn_wrap_16 hs.1 hs.2]
  refine wrap_eq_of_modEq ?_
  have hc : (wrap 32 (sgn w c) : Int) ≡ c [ZMOD 2 ^ w] := (wrap_modEq hw32 _).trans (sgn_modEq hw c)
  exact (hc.add ((sgn_modEq hw r).mul_left i)).add ((sgn_modEq hw s).mul_left j)

/-- A row whose codes form the progression of a RAMP's row is that row. -/
theorem symRow_of_progression {w0 : Word} (hk : entKind w0 = 4) {fmt : Nat} (h9 : fmt ≠ 9) {c r s i : Nat}
    (hr : StepFits (elemBits fmt) r) (hs : StepFits (elemBits fmt) s) {row : Row}
    (h : ∀ j < rowElems fmt, (rowCodes fmt row).getD j 0 = wrap (elemBits fmt) ((c : Int) + i * r + j * s)) :
    symRow w0 (rampWord (elemBits fmt) c r s) fmt i = row := by
  have hw : 0 < elemBits fmt ∧ elemBits fmt ≤ 32 := by
    rcases elemBits_cases h9 with h | h | h | h <;> rw [h] <;> decide
  rw [← row_of_codes (r := row) fun h => absurd h h9]
  unfold symRow
  rw [hk]
  dsimp only
  simp only [ramp_element hw.1 hw.2 hr hs]
  congr 2
  have hlen : (rowCodes fmt row).length = rowElems fmt := length_elems _ _ _
  refine List.ext_getElem (by rw [List.length_map, length_upTo, hlen]; rfl) fun j hj hj' => ?_
  rw [← List.getD_eq_getElem _ 0 hj', h j (hlen ▸ hj')]
  simp [upTo_eq]

/-- Rows in a progression of equal steps, whose first codes form a progression too, are the rows of a RAMP. -/
theorem symRow_of_steps {w0 : Word} (hk : entKind w0 = 4) {fmt : Nat} (h9 : fmt ≠ 9) {rows : List Row} {r s : Nat}
    (hr : StepFits (elemBits fmt) r) (hs : StepFits (elemBits fmt) s)
    (hrows : ∀ x ∈ rows, stepOf (elemBits fmt) (rowCodes fmt x) = some s)
    (hfirst : stepOf (elemBits fmt) (rows.map fun x => (rowCodes fmt x).headD 0) = some r) {i : Nat} (hi : i < rows.length) :
    symRow w0 (rampWord (elemBits fmt) ((rows.map fun x => (rowCodes fmt x).headD 0).getD 0 0) r s) fmt i = rows[i] := by
  have hlt (x : Row) : ∀ y ∈ rowCodes fmt x, y < 2 ^ elemBits fmt := fun y hy => lt_of_mem_elems hy
  have hhead (x : Row) : (rowCodes fmt x).headD 0 = (rowCodes fmt x).getD 0 0 := by cases rowCodes fmt x <;> rfl
  have hfirstlt : ∀ y ∈ rows.map fun x => (rowCodes fmt x).headD 0, y < 2 ^ elemBits fmt := by
    intro y hy
    obtain ⟨x, -, rfl⟩ := List.mem_map.1 hy
    cases hx : rowCodes fmt x with
    | nil => exact Nat.two_pow_pos _
    | cons a t => exact hlt x a (hx ▸ List.mem_cons_self)
  refine symRow_of_progression hk h9 hr hs fun j hj => ?_
  have hstart := getD_of_stepOf hfirst hfirstlt (j := i) (by rwa [List.length_map])
  rw [List.getD_eq_getElem _ _ (by rwa [List.length_map]), List.getElem_map, hhead] at hstart
  rw [getD_of_stepOf (hrows _ (List.getElem_mem hi)) (hlt _) (hj.trans_eq (length_elems _ _ _).symm), hstart, wrap_wrap_add]

/-! ### The symbol of a tile's rows (R281) -/

/-- What the rules for a symbol have found of the rows: all zero, one code, or a progression. -/
theorem settleSym_cases {fmt k : Nat} {rows : List Row} {w1 : Word} (h : settleSym fmt rows = some (k, w1)) :
    (k = 2 ∧ ∀ r ∈ rows, r = 0#2048) ∨
    (k = 3 ∧ ∃ c, allSame (rows.map (rowCodes fmt)).flatten = some c ∧ w1 = constWord fmt c ∧
      ∀ r ∈ rows, fmt = 9 → bitsOf r.toNat 2046 2 = 0) ∨
    (k = 4 ∧ fmt ≠ 9 ∧ ∃ r s, StepFits (elemBits fmt) r ∧ StepFits (elemBits fmt) s ∧
      (∀ x ∈ rows, stepOf (elemBits fmt) (rowCodes fmt x) = some s) ∧
      stepOf (elemBits fmt) (rows.map fun x => (rowCodes fmt x).headD 0) = some r ∧
      w1 = rampWord (elemBits fmt) ((rows.map fun x => (rowCodes fmt x).headD 0).getD 0 0) r s) := by
  unfold settleSym at h
  split at h
  · next hzero =>
    cases h
    exact .inl ⟨rfl, fun r hr => by simpa using List.all_eq_true.1 hzero r hr⟩
  · dsimp only at h
    split at h
    · next c hc =>
      cases h
      rw [Option.ite_none_right_eq_some] at hc
      obtain ⟨htail, hsame⟩ := hc
      refine .inr (.inl ⟨rfl, c, hsame, rfl, fun r hr h9 => ?_⟩)
      rw [Bool.or_eq_true, List.all_eq_true] at htail
      simpa [h9] using htail.resolve_left (by simp [h9]) r hr
    · rw [Option.ite_none_right_eq_some] at h
      obtain ⟨hint, h⟩ := h
      split at h
      · next s r hsteps hfirst =>
        rw [Option.ite_none_right_eq_some] at h
        obtain ⟨hall, hw1⟩ := h
        cases hw1
        rw [Bool.and_eq_true, decide_eq_true_eq, List.all_eq_true] at hall
        obtain ⟨hrows, hs1, hs2, hr1, hr2⟩ := hall
        rw [List.map_map] at hfirst
        rw [Bool.and_eq_true] at hint
        refine .inr (.inr ⟨rfl, ?_, r, s, ⟨hr1, hr2⟩, ⟨hs1, hs2⟩, fun x hx => ?_, hfirst, ?_⟩)
        · rintro rfl
          exact absurd hint.1 (by decide)
        · simpa using hrows _ (List.mem_map_of_mem (List.mem_map_of_mem hx))
        · cases rows <;> rfl
      · exact absurd h (by simp)

/-- The symbol that a tile's rows give stands for them, row by row. -/
theorem symRow_of_settleSym {fmt k : Nat} {rows : List Row} {w0 w1 : Word} (h : settleSym fmt rows = some (k, w1))
    (hk : entKind w0 = k) {i : Nat} (hi : i < rows.length) : symRow w0 w1 fmt i = rows[i] := by
  rcases settleSym_cases h with ⟨rfl, hzero⟩ | ⟨rfl, c, hsame, rfl, htail⟩ | ⟨rfl, h9, r, s, hr, hs, hrows, hfirst, rfl⟩
  · rw [hzero _ (List.getElem_mem hi), symRow, hk]
    rfl
  · exact symRow_of_allSame hk i (List.getElem_mem hi) hsame (htail _ (List.getElem_mem hi))
  · exact symRow_of_steps hk h9 hr hs hrows hfirst hi

/-- The kinds of those symbols. -/
theorem kind_of_settleSym {fmt k : Nat} {rows : List Row} {w1 : Word} (h : settleSym fmt rows = some (k, w1)) :
    k = 2 ∨ k = 3 ∨ k = 4 := by
  rcases settleSym_cases h with ⟨rfl, -⟩ | ⟨rfl, -⟩ | ⟨rfl, -⟩ <;> decide

/-! ### A slot's tile settled (R281, R282) -/

/-- A tile whose entry is no REPEAT resolves to its own entry (R274). -/
theorem State.resolve_direct {s : State} {l : TLoc} (hk : entKind (s.entry l).1 ≠ 5) :
    s.resolve l = endTerm l (s.entry l).1 (s.entry l).2 false := by
  unfold State.resolve State.chain
  exact if_neg hk

/-- A symbol that is no REPEAT and no UNMAPPED ends its chain. -/
theorem endTerm_symbol {l : TLoc} {w0 w1 : Word} {b : Bool} (hk : entKind w0 = 2 ∨ entKind w0 = 3 ∨ entKind w0 = 4) :
    endTerm l w0 w1 b = .sym w0 w1 l.fmt := by
  unfold endTerm
  rcases hk with hk | hk | hk <;> rw [hk] <;> rfl

/-- A row of a slot whose entry is a symbol but no REPEAT is the symbol's. -/
theorem State.slotRow_symbol {s : State} {sp c k : Nat} {w0 w1 : Word} (he : s.entry (s.slotLoc sp c k) = (w0, w1))
    (hk : entKind w0 = 2 ∨ entKind w0 = 3 ∨ entKind w0 = 4) (i : Nat) :
    s.termRow (s.resolve (s.slotLoc sp c k)) i = symRow w0 w1 (entFmt w0) i := by
  have hfmt : (s.slotLoc sp c k).fmt = entFmt (s.entry (s.slotLoc sp c k)).1 := rfl
  rw [he] at hfmt
  rw [State.resolve_direct (by rw [he]; rcases hk with hk | hk | hk <;> rw [hk] <;> decide), he, endTerm_symbol hk, hfmt]
  rfl

/-- A row of a slot whose entry is STORED is the row at its port. -/
theorem State.slotRow_stored {s : State} {sp c k : Nat} (hk : entKind (s.entry (s.slotLoc sp c k)).1 = 1) (i : Nat) :
    s.termRow (s.resolve (s.slotLoc sp c k)) i = (s.core c).portRow (256 * k + i) := by
  rw [State.resolve_direct (by rw [hk]; decide)]
  unfold endTerm
  rw [hk]
  unfold State.slotLoc State.termRow
  rfl

/-- Without a former REPEAT a tile returns to none (R281, rule 4). -/
theorem State.hintHolds_unpromoted {s : State} {l : TLoc} {w0 w1 : Word} {rows : List Row} (h : entPromoted w0 = false) :
    s.hintHolds l w0 w1 rows = false := by
  simp [State.hintHolds, h]

/-- Row `i` of a store among its rows. -/
theorem State.getElem_storeRows (s : State) (st : Store) {i : Nat} (hi : i < (s.storeRows st).length) :
    (s.storeRows st)[i] = s.storeRow st i := by
  simp [State.storeRows, upTo_eq]

/-- A settled slot that remembered no REPEAT: STORED with its rows at the port, or a symbol of those rows; DIRTY is clear. -/
theorem State.settle_slot {s : State} {l : TLoc} (hs : l.isSlot = true) (hbox : s.box l.c ≠ none)
    (hk : entKind (s.entry l).1 = 1) (hpr : entPromoted (s.entry l).1 = false) :
    ∃ w0 w1, (s.settle l).2.entry l = (w0, w1) ∧ entDirty w0 = false ∧
      ((entKind w0 = 1 ∧ ∀ i, ((s.settle l).2.core l.c).portRow i = (s.core l.c).portRow i) ∨
       ((entKind w0 = 2 ∨ entKind w0 = 3 ∨ entKind w0 = 4) ∧
        ∀ i < 256, symRow w0 w1 l.fmt i = (s.core l.c).portRow (256 * l.k + i)) ∧ entFmt w0 = entFmt (s.entry l).1) := by
  have hbox' : (s.undirty l).box l.c ≠ none := hbox
  have hentry (w0 w1 : Word) : ((s.undirty l).setEntry l w0 w1).entry l = (w0, w1) := State.entry_setEntry (fun _ => hbox') w0 w1
  rcases State.settle_stored hk with ⟨kind, w1, nf, hsym, hset⟩ | ⟨nf, w1, hhint, -⟩ | ⟨nf, pr, frame, w1, hset⟩
  · have hkind := kind_of_settleSym hsym
    have hlt : kind < 8 := by omega
    rw [hset]
    refine ⟨_, _, (State.entry_dropFrame _ _ _ _).trans (hentry _ _), entDirty_mkEnt _ _ _ _ _ _ _, .inr ⟨⟨?_, fun i hi => ?_⟩, ?_⟩⟩
    · rwa [entKind_mkEnt hlt]
    · have hlen : i < (s.storeRows (storeOf l (s.entry l).1)).length := by simpa [State.storeRows] using hi
      rw [symRow_of_settleSym hsym (entKind_mkEnt hlt _ _ _ _ _ _) hlen, s.getElem_storeRows, storeOf, if_pos hs]
      rfl
    · exact entFmt_mkEnt (entFmt_lt _) _ _ _ _ _ _
  · rw [State.hintHolds_unpromoted hpr] at hhint
    exact absurd hhint (by decide)
  · rw [hset]
    refine ⟨_, _, hentry _ _, entDirty_mkEnt _ _ _ _ _ _ _, .inl ⟨entKind_mkEnt (by decide) _ _ _ _ _ _, fun i => ?_⟩⟩
    rw [State.core_setEntry hs hbox']
    rfl

/-- Settles O50: a symbol stands for the rows it was found from, and a tile that stays STORED keeps them. -/
theorem settlingKeepsContents : Obligations.SettlingKeepsContents := by
  unfold Obligations.SettlingKeepsContents
  intro s sp c k
  dsimp only
  intro hk hpr hbox _ _
  obtain ⟨w0, w1, hentry, hdirty, hcase⟩ := State.settle_slot (l := s.slotLoc sp c k) rfl hbox hk hpr
  have hpl := State.settle_pl s (s.slotLoc sp c k)
  generalize (s.settle (s.slotLoc sp c k)).2 = t at hentry hcase hpl ⊢
  have hentry' : t.entry (t.slotLoc sp c k) = (w0, w1) := hentry
  refine ⟨fun i hi => ?_, by rw [hentry']; exact hdirty, hpl⟩
  rw [State.slotRow_stored hk]
  rcases hcase with ⟨hkind, hrows⟩ | ⟨⟨hkind, hrows⟩, hfmt⟩
  · rw [State.slotRow_stored (by rw [hentry']; exact hkind)]
    exact hrows _
  · rw [State.slotRow_symbol hentry' hkind, hfmt]
    exact hrows i hi

end Sys2Proof.Machine
end

section
/-!
PROOFS. Translations and table entries used and written (R256, R268, R271): they move memory, its sums and cached translations
alone; and what a tile readied for a write is (R278, R284, R356).
-/

namespace Sys2Proof.Machine

open Sys2Proof Sys2Proof.Claim

/-! ### Accesses of the tables (R256, R268) -/

/-- `e` differs from `d` in memory, its sums and cached translations, and in nothing else. -/
def Dev.Accessed (d e : Dev) : Prop := e = { d with mem := e.mem, far := e.far, fside := e.fside, tcache := e.tcache }

theorem Dev.Accessed.refl (d : Dev) : d.Accessed d := rfl

theorem Dev.Accessed.trans {d e f : Dev} (h : d.Accessed e) (h' : e.Accessed f) : d.Accessed f := by
  unfold Dev.Accessed at h h' ⊢
  rw [h] at h'
  exact h'

/-- Such accesses leave the dirty lists. -/
theorem Dev.Accessed.dirty {d e : Dev} (h : d.Accessed e) : e.dirty = d.dirty := by rw [h]

/-- They leave what the device holds of the tasks. -/
theorem Dev.Accessed.tasking {d e : Dev} (h : d.Accessed e) : e.tasking = d.tasking := by
  rw [h]
  rfl

/-- A translation cached. -/
theorem Dev.accessed_cache (d : Dev) (t : TEntry) : d.Accessed (d.cache t) := rfl

/-- A store. -/
theorem Dev.accessed_store (d : Dev) (id agent level a : Nat) (bs : List Byte) (lid rank plane : Nat) :
    d.Accessed (d.store id agent level a bs lid rank plane) := by
  unfold Dev.store
  split <;> rfl

/-- An atomic write. -/
theorem Dev.accessed_atomic (d : Dev) (id agent a : Nat) (bs : List Byte) : d.Accessed (d.atomic id agent a bs) :=
  Dev.Accessed.trans (e := d.raise a bs.length) rfl (Dev.accessed_store _ _ _ _ _ _ _ _ _)

/-- A run of changes, each such an access. -/
theorem Dev.accessed_foldl {α : Type} (f : Dev → α → Dev) (hf : ∀ (d : Dev) x, d.Accessed (f d x)) (l : List α) (d : Dev) :
    d.Accessed (l.foldl f d) := by
  induction l generalizing d with
  | nil => exact .refl d
  | cons x t ih => exact (hf d x).trans (ih _)

/-- A write at the port that keeps the sums. -/
theorem Dev.accessed_patch (d : Dev) (fmt agent a : Nat) (bs : List Byte) : d.Accessed (d.patch fmt agent a bs) := by
  unfold Dev.patch Dev.keepSums
  dsimp only
  split
  · refine (Dev.accessed_atomic _ _ _ _ _).trans (Dev.accessed_foldl _ ?_ _ _)
    exact fun _ _ => rfl
  · exact Dev.accessed_atomic _ _ _ _ _

/-- A leaf used. -/
theorem Dev.accessed_setUsed (d : Dev) (agent : Nat) (lf : Leaf) (write : Bool) : d.Accessed (d.setUsed agent lf write) := by
  unfold Dev.setUsed
  split
  · rfl
  · exact d.accessed_patch _ _ _ _

/-- A translation that the infrastructure uses. -/
theorem Dev.accessed_markUsed (d : Dev) (sp : Nat) (write : Bool) (va : Nat) : d.Accessed (d.markUsed sp write va) := by
  unfold Dev.markUsed
  split
  · exact d.accessed_setUsed _ _ _
  · rfl

/-- The entry of a tensor's tile read or written. -/
theorem Dev.accessed_markEntry (d : Dev) (l : TLoc) (write : Bool) : d.Accessed (d.markEntry l write) := by
  unfold Dev.markEntry
  split
  · rfl
  · split
    · exact d.accessed_markUsed _ _ _
    · rfl

/-- Bytes of a descriptor replaced. -/
theorem Dev.accessed_putDesc (d : Dev) (sp i byte n v : Nat) : d.Accessed (d.putDesc sp i byte n v) := by
  unfold Dev.putDesc
  split
  · exact (d.accessed_markUsed _ _ _).trans (Dev.accessed_patch _ _ _ _ _)
  · rfl

/-- A walk's leaf used and cached. -/
theorem Dev.accessed_useLeaf (d : Dev) (die : Nat) (tlb : Option Nat) (sp : Nat) (write : Bool) (va : Nat) (lf : Leaf) :
    d.Accessed (d.useLeaf die tlb sp write va lf).2 := by
  have hdie := (d.accessed_setUsed (agentDie die) lf write).trans
    (Dev.accessed_cache _ (leafEntry (dieHolder die) sp va lf.level (lf.used write)))
  cases tlb with
  | none => exact hdie
  | some h => exact hdie.trans (Dev.accessed_cache _ _)

/-- A translation, by a cached one or by a walk. -/
theorem Dev.accessed_xlate (d : Dev) (die : Nat) (tlb : Option Nat) (sp : Nat) (write fetch : Bool) (va : Nat) :
    d.Accessed (d.xlate die tlb sp write fetch va).2 := by
  unfold Dev.xlate
  have hwalk : d.Accessed (match d.walk sp write fetch va with
      | .error c => (.error c, d)
      | .ok lf => d.useLeaf die tlb sp write va lf : Except Cause Nat × Dev).2 := by
    split
    · rfl
    · exact d.accessed_useLeaf _ _ _ _ _ _
  split
  · rfl
  · split
    · rfl
    · dsimp only
      split
      · split
        · rfl
        · split
          · exact hwalk
          · cases tlb with
            | none => rfl
            | some h =>
              dsimp only
              split
              · exact d.accessed_cache _
              · rfl
      · exact hwalk

/-! ### A tile's entry read, and its address walked (R256, R270) -/

/-- Entries read on a chain are such accesses. -/
theorem State.markChain_accessed (n : Nat) (s : State) (l : TLoc) : s.dv.Accessed (s.markChain n l).dv := by
  induction n generalizing s l with
  | zero => rfl
  | succ n ih =>
    have hmark := (s.dv.accessed_markUsed l.sp false ((SMap.get (0, 0) s.dv.descs l.sp).1 + 128 * l.desc)).trans
      (Dev.accessed_markEntry _ l false)
    unfold State.markChain
    split
    · rfl
    · dsimp only
      split
      · split
        · exact hmark.trans (ih _ _)
        · exact hmark
      · exact hmark

/-- A walk of a tile's address moves the device alone. -/
theorem State.tileWalk_eq (s : State) (die : Nat) (tlb : Option Nat) (write : Bool) (l : TLoc) :
    (s.tileWalk die tlb write l).2 = { s with dv := (s.tileWalk die tlb write l).2.dv } := by
  unfold State.tileWalk
  split
  · rfl
  · split <;> rfl

/-- It is such an access. -/
theorem State.tileWalk_accessed (s : State) (die : Nat) (tlb : Option Nat) (write : Bool) (l : TLoc) :
    s.dv.Accessed (s.tileWalk die tlb write l).2.dv := by
  unfold State.tileWalk
  split
  · rfl
  · split
    · rfl
    · exact s.dv.accessed_xlate _ _ _ _ _ _

/-- What an instruction touches of a tile moves the device alone. -/
theorem State.tileTouch_eq (s : State) (data : Option Bool) (l : TLoc) :
    s.tileTouch data l = { s with dv := (s.tileTouch data l).dv } := by
  have hchain := State.markChain_eq 5 s l
  cases data with
  | none => exact hchain
  | some w =>
    have hwalk := State.tileWalk_eq (s.markChain 5 l) (dieOf (s.markChain 5 l).co.id) none w l
    rw [State.tileTouch, State.tileWalkK, hwalk, hchain]

/-- It is such an access. -/
theorem State.tileTouch_accessed (s : State) (data : Option Bool) (l : TLoc) : s.dv.Accessed (s.tileTouch data l).dv := by
  cases data with
  | none => exact State.markChain_accessed 5 s l
  | some w => exact (State.markChain_accessed 5 s l).trans (State.tileWalk_accessed _ _ _ _ _)

end Sys2Proof.Machine
end

section
/-!
PROOFS. O49: the tile table's instructions (R286 to R289): TTQ and TTSET.
-/

namespace Sys2Proof.Machine

open Sys2Proof Sys2Proof.Claim

/-! ### References and what follows a frozen sequencer -/

/-- A reference that passes its checks names the tile (R267, R285). -/
theorem State.refLoc_of_tileRefK {s : State} {i : Instr} {field : Nat} {write : Bool} {r : Word} {l : TLoc}
    (h : s.tileRefK i field write r = .ok l) : s.refLoc s.pl.space r = .ok l := by
  unfold State.tileRefK at h
  split at h
  · nomatch h
  · nomatch h
  · next m hm =>
    have hml : m = l := by
      split at h
      · split at h
        · exact Except.ok.inj h
        · nomatch h
      · split at h
        · nomatch h
        · split at h
          · nomatch h
          · split at h
            · nomatch h
            · exact Except.ok.inj h
    exact hml ▸ hm

/-- A slot that passes the checks stands on a core that is there. -/
theorem State.box_of_tileRefK {s : State} {i : Instr} {field : Nat} {write : Bool} {r : Word} {l : TLoc}
    (h : s.tileRefK i field write r = .ok l) (hs : l.isSlot = true) : s.box l.c ≠ none := by
  have hloc := State.refLoc_of_tileRefK h
  simp only [State.tileRefK, hloc, hs, if_true] at h
  split at h
  · next howns => exact State.box_of_taskOwns howns
  · nomatch h

/-- The machine `u` once the sequencer has been frozen and the executing task of `s` has sent off the result `r`: the flight, the
cycles counted, the barriers and the next numbers move, and nothing else (R15, R19, R230). -/
def State.sentFrozen (u s : State) (ar : BitVec 2) (r : Flight) : State :=
  { u with
    pl := { s.pl with flight := s.pl.flight ++ [r], cycle := s.pl.cycle + Config.freezeCycles u.fresh },
    co := { u.co with shadow := u.co.shadow.tick (Config.freezeCycles u.fresh) }, fresh := u.fresh + 1,
    dv := { u.dv with bars := (s.owe ar).2.dv.bars, nextId := u.dv.nextId + 1 } }

/-- It leaves every entry. -/
@[simp] theorem State.entry_sentFrozen (u s : State) (ar : BitVec 2) (r : Flight) (l : TLoc) :
    (u.sentFrozen s ar r).entry l = u.entry l := by
  refine State.entry_of_shadow (s := u) (p := u.co.shadow.tick (Config.freezeCycles u.fresh)) ?_ ?_ ?_ l <;> rfl

/-- A result sent off after a freeze is in flight, due one bundle on. -/
theorem State.freeze_resultK {s u : State} (ar : BitVec 2) (sd : BitVec 5) (v : Word) (hpl : u.pl = s.pl)
    (ht : u.dv.tasking = s.dv.tasking) :
    ∃ r, u.freeze.resultK ar sd v = u.sentFrozen s ar r ∧ Due s r ar 1 (.sreg sd) ∧ r.val = v.setWidth 2048 ∧ r.known = true ∧
      r.flags = 0#5 := by
  have howes : u.freeze.pl.owes ar = s.pl.owes ar := by rw [← hpl]; rfl
  have hbars : (u.freeze.owe ar).2.dv.bars = (s.owe ar).2.dv.bars :=
    State.owe_bars_congr howes (congrArg (·.2.1.1) ht) (congrArg (·.1.1) ht)
  refine ⟨u.freeze.sentOff 7 1 (.sreg sd) (v.setWidth 2048) 0#24 7 0#5 ar, ?_, ⟨?_, rfl, howes, rfl⟩, rfl, rfl, rfl⟩
  · rw [State.resultK, State.resultS, State.owe_result, hbars, State.sentFrozen, ← hpl]
    rfl
  · rw [← hpl]; rfl

/-- A scalar given by a frozen sequencer, where the device alone has been touched before. -/
theorem givesIn_of_frozen {i : Instr} {s u : State} {ar : BitVec 2} {sd : BitVec 5} {v : Word}
    (h : exec i s = .next (u.freeze.resultK ar sd v)) (hu : u = { s with dv := u.dv }) (ht : u.dv.tasking = s.dv.tasking) :
    GivesIn i s u ar sd v s.pl true := by
  obtain ⟨r, hres, hdue, hval, hknown, hflags⟩ := State.freeze_resultK ar sd v (by rw [hu]) ht
  refine ⟨_, r, Config.freezeCycles u.fresh, h.trans (congrArg _ hres), hdue, hval, hknown, hflags, (fun h => nomatch h), ?_⟩
  rw [hu]
  rfl

/-- An instruction over one tile that passes its checks has its effect, on the state that has touched the tile. -/
theorem exec_of_tileOp {i : Instr} {s : State} {ar : BitVec 2} {sd : BitVec 5} {field : Nat} {write : Bool} {r : Word}
    {data : TLoc → Option Bool} {more : List (Option Cause)} {eff : State → TLoc → Word × State} {l : TLoc}
    (h : exec i s = s.tileOp i ar sd field write r data more eff) (hl : s.tileRefK i field write r = .ok l)
    (hwalk : ∀ w, data l = some w → (s.tileWalkK w l).1 = none) (hmore : Passes more) :
    exec i s = .next ((eff (s.tileTouch (data l) l) l).2.freeze.resultK ar sd (eff (s.tileTouch (data l) l) l).1) := by
  unfold State.tileOp at h
  refine exec_of_guarded h ?_ (by rw [hl])
  show Passes _
  have hnone : (data l).bind (fun w => (s.tileWalkK w l).1) = none := Option.bind_eq_none_iff.2 hwalk
  simp only [hl, passes_cons, errOf_ok, hnone, hmore, and_self]

/-! ### TTQ (R286) -/

/-- TTQ gives a word of the entry, its tile's tables marked as used. -/
theorem ttq_gives (f : KTq) {s : State} {l : TLoc} (hl : s.tileRefK (.ttq f) 13 false (s.rdS f.sy) = .ok l) :
    GivesIn (.ttq f) s (s.tileTouch none l) f.ar f.sx
      (if f.w1 = 1#1 then
        if l.isSlot then (((s.tileTouch none l).core l.c).slot l.k).winW1 else ((s.tileTouch none l).entry l).2
      else ((s.tileTouch none l).entry l).1) s.pl true := by
  have hexec := exec_of_tileOp (s := s) (i := .ttq f) (show _ = execTtq f s from rfl) hl (fun w hw => nomatch hw) passes_nil
  exact givesIn_of_frozen hexec (State.tileTouch_eq s none l) (State.tileTouch_accessed s none l).tasking

/-! ### TTSET (R287) -/

/-- An offload cancelled moves the device alone. -/
theorem State.cancelOffload_eq (s : State) (l : TLoc) : s.cancelOffload l = { s with dv := (s.cancelOffload l).dv } := by
  unfold State.cancelOffload
  split <;> rfl

/-- What stays on a die's dirty list when a tile is taken off it (R284). -/
theorem State.mem_undirty {s : State} {l : TLoc} {d : Dirty} (h : d ∈ vget (s.undirty l).dv.dirty l.die []) :
    d.sp = l.sp → d.ref ≠ l.ref := by
  change d ∈ vget (vput s.dv.dirty l.die _) l.die [] at h
  rw [vget_vput] at h
  split at h
  · intro hsp href
    simp [hsp, href] at h
  · next hdie =>
    rw [vget, Vector.getElem?_eq_none (by omega)] at h
    exact absurd h List.not_mem_nil

/-- The machine with a tile's entry replaced by a symbol's, its former frame released and the tile off the dirty list (R277, R284,
R287, R356). -/
def State.symbolEntry (s : State) (l : TLoc) (w0 w1 : Word) : State :=
  (((s.cancelOffload l).setEntry l w0 w1).dropFrame l (s.entry l).1).undirty l

/-- A symbol written: the entry, and besides it the cached tiles of views and the merges that wait. -/
theorem State.writeSym_eq (s : State) (l : TLoc) (kind fmt : Nat) (w1 : Word) (lid rank : Nat) :
    ∃ nf v q, let z := s.symbolEntry l (mkEnt kind nf false (entPgen (s.entry l).1) false fmt 0) w1
      s.writeSym l kind fmt w1 lid rank = { z with dv := { z.dv with vcache := v, luxQ := q } } := by
  unfold State.writeSym
  dsimp only
  generalize hz : ((((s.cancelOffload l).setEntry l _ w1).dropFrame l _).undirty l) = z
  obtain ⟨q, hq⟩ := (z.dropViews l).sendMerge_eq l.lux lid rank fmt
    (if kind = 0 then [] else ((z.termRows (z.resolve { l with fmt := fmt })).map (rowCodes fmt)).flatten) 0
  rw [hq, ← hz]
  exact ⟨_, _, q, rfl⟩

section
variable (s : State) (l : TLoc) (kind fmt : Nat) (w1 : Word) (lid rank : Nat)

/-- A symbol written leaves the executing plane. -/
@[simp] theorem State.writeSym_pl : (s.writeSym l kind fmt w1 lid rank).pl = s.pl := by
  obtain ⟨nf, v, q, h⟩ := s.writeSym_eq l kind fmt w1 lid rank
  rw [h]
  simp only [State.symbolEntry, State.undirty_pl, State.dropFrame_pl, State.setEntry_pl]
  rw [State.cancelOffload_eq]

/-- It leaves what the device holds of the tasks. -/
@[simp] theorem State.writeSym_tasking : (s.writeSym l kind fmt w1 lid rank).dv.tasking = s.dv.tasking := by
  obtain ⟨nf, v, q, h⟩ := s.writeSym_eq l kind fmt w1 lid rank
  rw [h]
  refine Eq.trans (b := (s.symbolEntry l _ w1).dv.tasking) rfl ?_
  simp only [State.symbolEntry, State.undirty_tasking, State.dropFrame_tasking, State.setEntry_tasking, State.cancelOffload_tasking]

/-- It is the tile's entry, which keeps the pair generation. -/
theorem State.entry_writeSym (hbox : l.isSlot = true → s.box l.c ≠ none) : ∃ nf, (s.writeSym l kind fmt w1 lid rank).entry l =
    (mkEnt kind nf false (entPgen (s.entry l).1) false fmt 0, w1) := by
  obtain ⟨nf, v, q, h⟩ := s.writeSym_eq l kind fmt w1 lid rank
  have hbox' : l.isSlot = true → (s.cancelOffload l).box l.c ≠ none := by
    rw [State.cancelOffload_eq]
    exact hbox
  rw [h]
  exact ⟨nf, (State.entry_of_shadow (s := s.symbolEntry l _ w1) rfl rfl rfl l).trans
    ((State.entry_dropFrame _ _ _ _).trans (State.entry_setEntry hbox' _ w1))⟩

/-- It takes the tile off its die's dirty list. -/
theorem State.mem_writeSym {d : Dirty} (h : d ∈ vget (s.writeSym l kind fmt w1 lid rank).dv.dirty l.die []) :
    d.sp = l.sp → d.ref ≠ l.ref := by
  obtain ⟨nf, v, q, heq⟩ := s.writeSym_eq l kind fmt w1 lid rank
  rw [heq] at h
  exact State.mem_undirty h

end

/-- An instruction that retires as it issues, the sequencer frozen meanwhile, makes its arrival, counts cycles, and leaves the entries
and the dirty lists as its effect has made them. -/
theorem arrives_of_frozen {i : Instr} {s u : State} {ar : BitVec 2} {l : List (Option Cause)} {eff : State → State}
    (h : exec i s = s.guarded 7 l eff) (hl : Passes l) (he : eff s = u.freeze.retireNow ar) (hpl : u.pl = s.pl)
    (ht : u.dv.tasking = s.dv.tasking) : ∃ t, Arrives i s t ar ∧ t.pl = { s.pl with cycle := t.pl.cycle } ∧
      (∀ l, t.entry l = u.entry l) ∧ t.dv.dirty = u.dv.dirty := by
  have howes : u.freeze.pl.owes ar = s.pl.owes ar := by rw [← hpl]; rfl
  have harr := arrives_of_guarded h hl he howes (congrArg (·.2.1.1) ht) (congrArg (·.1.1) ht) (congrArg (·.2.2.1) ht)
  refine ⟨_, harr, ?_, fun l => ?_, ?_⟩ <;> rw [State.retireNow_eq]
  · rw [← hpl]
    rfl
  · refine State.entry_of_shadow (s := u) (p := u.co.shadow.tick (Config.freezeCycles u.fresh)) ?_ ?_ ?_ l <;> rfl
  · rfl

/-- TTSET leaves the tile with the symbol as its entry, its pair generation kept, and off its die's dirty list. -/
theorem ttset_writes (f : KTs) {s : State} {l : TLoc} {w1 : Word} (hl : s.tileRefK (.ttset f) 18 true (s.rdS f.sx) = .ok l)
    (hsym : s.symbol l f.kind.toNat f.fmt.toNat (s.rdS f.sy) = .ok w1) :
    ∃ t nf, Arrives (.ttset f) s t f.ar ∧ t.pl = { s.pl with cycle := t.pl.cycle } ∧
      t.entry l = (mkEnt f.kind.toNat nf false (entPgen ((s.markChain 1 l).entry l).1) false f.fmt.toNat 0, w1) ∧
      ∀ d ∈ vget t.dv.dirty l.die [], d.sp = l.sp → d.ref ≠ l.ref := by
  have hbox : l.isSlot = true → (s.markChain 1 l).box l.c ≠ none := by
    have hbox := State.box_of_tileRefK hl
    rw [State.markChain_eq]
    exact hbox
  obtain ⟨nf, hentry⟩ := (s.markChain 1 l).entry_writeSym l f.kind.toNat f.fmt.toNat w1 s.pl.lid s.pl.rank hbox
  obtain ⟨t, harr, hpl, hentries, hdirty⟩ := arrives_of_frozen (s := s) (i := .ttset f) (ar := f.ar)
    (u := (s.markChain 1 l).writeSym l f.kind.toNat f.fmt.toNat w1 s.pl.lid s.pl.rank)
    (by show execTtset f s = _; unfold execTtset; rfl)
    (by
      simp only [passes_cons, hl, errOf_ok, State.refLoc_of_tileRefK hl, hsym, passes_nil, and_self])
    (by simp only [hl, hsym]) (by rw [State.writeSym_pl, State.markChain_pl])
    (by rw [State.writeSym_tasking, State.markChain_tasking])
  refine ⟨t, nf, harr, hpl, (hentries l).trans hentry, fun d hd => ?_⟩
  rw [hdirty] at hd
  exact State.mem_writeSym _ _ _ _ _ _ _ hd

end Sys2Proof.Machine
end

section
/-!
PROOFS. O49: TTSETTLE (R281, R288): the tiles of a run settled one after the other, and how many changed kind.
-/

namespace Sys2Proof.Machine

open Sys2Proof Sys2Proof.Claim

/-- A settle reports a change exactly when the tile's kind changes. -/
theorem State.settle_changed {s : State} {l : TLoc} (hbox : l.isSlot = true → s.box l.c ≠ none) :
    (s.settle l).1 = true ↔ entKind (s.entry l).1 ≠ entKind ((s.settle l).2.entry l).1 := by
  have hbox' : l.isSlot = true → (s.undirty l).box l.c ≠ none := hbox
  have hentry (w0 w1 : Word) : ((s.undirty l).setEntry l w0 w1).entry l = (w0, w1) := State.entry_setEntry hbox' w0 w1
  by_cases hk : entKind (s.entry l).1 = 1
  · rw [hk]
    rcases State.settle_stored hk with ⟨k, w1, nf, hsym, h⟩ | ⟨nf, w1, -, h⟩ | ⟨nf, pr, frame, w1, h⟩
    · have hkind := kind_of_settleSym hsym
      rw [h, State.entry_dropFrame, hentry, entKind_mkEnt (by omega)]
      simp only [true_iff]
      omega
    · rw [h, State.entry_dropFrame, hentry, entKind_mkEnt (by decide)]
      simp
    · rw [h, hentry, entKind_mkEnt (by decide)]
      simp
  · have hsame : (s.undirty l).entry l = s.entry l := rfl
    rw [State.settle_symbolic hk, hsame]
    simp

/-- The step of a run at its tile `j`: the tile settled, when its reference still names one, and whether its kind changed. -/
def State.settleTile (i : Instr) (r : Word) (now : State) (j : Nat) : Bool × State :=
  match now.tileRefK i 13 true (refPlus r j) with
  | .error _ => (false, now)
  | .ok l => (now.markChain 1 l).settle l

/-- The machine once the first tiles of a run have been settled. -/
def State.settleRun (i : Instr) (r : Word) (s : State) : Nat → State
  | 0 => s
  | j + 1 => (State.settleTile i r (s.settleRun i r j) j).2

/-- A tile's step where its reference names the tile. -/
theorem State.settleTile_ok {i : Instr} {r : Word} {now : State} {j : Nat} {l : TLoc}
    (h : now.tileRefK i 13 true (refPlus r j) = .ok l) : State.settleTile i r now j = (now.markChain 1 l).settle l := by
  rw [State.settleTile, h]

/-- A tile's step where its reference names none. -/
theorem State.settleTile_error {i : Instr} {r : Word} {now : State} {j : Nat}
    (h : ∀ l, now.tileRefK i 13 true (refPlus r j) ≠ .ok l) : State.settleTile i r now j = (false, now) := by
  unfold State.settleTile
  cases hl : now.tileRefK i 13 true (refPlus r j) with
  | error c => rfl
  | ok l => exact absurd hl (h l)

/-- A tile's step reports a change exactly when the tile's kind changes. -/
theorem State.settleTile_changed {i : Instr} {r : Word} {now : State} {j : Nat} {l : TLoc}
    (h : now.tileRefK i 13 true (refPlus r j) = .ok l) : (State.settleTile i r now j).1 = true ↔
      entKind ((now.markChain 1 l).entry l).1 ≠ entKind (((now.markChain 1 l).settle l).2.entry l).1 := by
  have hbox := State.box_of_tileRefK h
  rw [State.settleTile_ok h]
  refine State.settle_changed ?_
  rw [State.markChain_eq]
  exact hbox

/-- A tile's step leaves the executing plane and what the device holds of the tasks. -/
theorem State.settleTile_keeps (i : Instr) (r : Word) (now : State) (j : Nat) :
    (State.settleTile i r now j).2.pl = now.pl ∧ (State.settleTile i r now j).2.dv.tasking = now.dv.tasking := by
  unfold State.settleTile
  split
  · exact ⟨rfl, rfl⟩
  · exact ⟨by rw [State.settle_pl, State.markChain_pl], by rw [State.settle_tasking, State.markChain_tasking]⟩

/-- A run leaves them. -/
theorem State.settleRun_keeps (i : Instr) (r : Word) (s : State) (n : Nat) :
    (s.settleRun i r n).pl = s.pl ∧ (s.settleRun i r n).dv.tasking = s.dv.tasking := by
  induction n with
  | zero => exact ⟨rfl, rfl⟩
  | succ n ih =>
    obtain ⟨hpl, htask⟩ := State.settleTile_keeps i r (s.settleRun i r n) n
    exact ⟨hpl.trans ih.1, htask.trans ih.2⟩

/-- Whether the tile `j` of a run changes kind. -/
def State.settleChanges (i : Instr) (r : Word) (s : State) (j : Nat) : Bool := (State.settleTile i r (s.settleRun i r j) j).1

/-- A run settles tile after tile and counts the changes. -/
theorem State.foldl_settleTile {i : Instr} {r : Word} {step : Nat × State → Nat → Nat × State}
    (h : ∀ acc j, step acc j = (acc.1 + b2n (State.settleTile i r acc.2 j).1, (State.settleTile i r acc.2 j).2)) (s : State)
    (n : Nat) : (upTo 0 n).foldl step (0, s) = ((List.range n).countP (s.settleChanges i r), s.settleRun i r n) := by
  rw [upTo_eq, ← List.range_eq_range']
  induction n with
  | zero => rfl
  | succ n ih =>
    rw [List.range_succ, List.foldl_append, ih, List.countP_append, List.countP_singleton, List.foldl_cons, h]
    rfl

/-- TTSETTLE's effect: the run settled, the sequencer frozen, and the number of changes given. -/
theorem exec_ttsettle (f : R3) {s : State} {l : TLoc} {n : Nat} (hl : s.tileRefK (.ttsettle f) 13 true (s.rdS f.sy) = .ok l)
    (hn : (s.rdS f.sz).toNat = n) (hpos : 1 ≤ n) (hle : n ≤ 256) (hfits : s.runFits l n = true)
    (hrun : ∀ j < n, ∃ l', s.tileRefK (.ttsettle f) 13 true (refPlus (s.rdS f.sy) j) = .ok l') :
    exec (.ttsettle f) s = .next ((s.settleRun (.ttsettle f) (s.rdS f.sy) n).freeze.resultK f.ar f.sx
      (BitVec.ofNat 64 ((List.range n).countP (s.settleChanges (.ttsettle f) (s.rdS f.sy))))) := by
  have hrefs : Passes ((upTo 1 (n - 1)).map fun j => errOf (s.tileRefK (.ttsettle f) 13 true (refPlus (s.rdS f.sy) j))) := by
    intro c hc
    obtain ⟨j, hj, rfl⟩ := List.mem_map.1 hc
    rw [mem_upTo] at hj
    obtain ⟨l', hl'⟩ := hrun j (by omega)
    rw [hl', errOf_ok]
  subst hn
  refine exec_of_guarded (by show execTtsettle f s = _; unfold execTtsettle; rfl) ?_ ?_
  · show Passes _
    simp only [passes_cons, hl, errOf_ok, State.refLoc_of_tileRefK hl, State.kLimit, need_none, hfits, hpos, hle, if_true, hrefs,
      decide_true, Bool.and_self, and_self]
  · dsimp only
    rw [State.foldl_settleTile fun acc j => ?_]
    unfold State.settleTile
    cases acc.2.tileRefK (.ttsettle f) 13 true (refPlus (s.rdS f.sy) j) <;> rfl

/-- TTSETTLE settles the tiles of its run and gives how many changed kind. -/
theorem ttsettle_settles (f : R3) {s : State} {l : TLoc} {n : Nat} (hl : s.tileRefK (.ttsettle f) 13 true (s.rdS f.sy) = .ok l)
    (hn : (s.rdS f.sz).toNat = n) (hpos : 1 ≤ n) (hle : n ≤ 256) (hfits : s.runFits l n = true)
    (hrun : ∀ j < n, ∃ l', s.tileRefK (.ttsettle f) 13 true (refPlus (s.rdS f.sy) j) = .ok l') :
    ∃ r, exec (.ttsettle f) s = .next ((s.settleRun (.ttsettle f) (s.rdS f.sy) n).sentFrozen s f.ar r) ∧
      Due s r f.ar 1 (.sreg f.sx) ∧
      r.val = BitVec.ofNat 2048 ((List.range n).countP (s.settleChanges (.ttsettle f) (s.rdS f.sy))) := by
  obtain ⟨hpl, htask⟩ := s.settleRun_keeps (.ttsettle f) (s.rdS f.sy) n
  obtain ⟨r, hres, hdue, hval, -, -⟩ := State.freeze_resultK f.ar f.sx
    (BitVec.ofNat 64 ((List.range n).countP (s.settleChanges (.ttsettle f) (s.rdS f.sy)))) hpl htask
  refine ⟨r, (exec_ttsettle f hl hn hpos hle hfits hrun).trans (congrArg _ hres), hdue, hval.trans ?_⟩
  have hcount := List.countP_le_length (p := s.settleChanges (.ttsettle f) (s.rdS f.sy)) (l := List.range n)
  rw [List.length_range] at hcount
  refine BitVec.eq_of_toNat_eq ?_
  rw [BitVec.toNat_setWidth, BitVec.toNat_ofNat, BitVec.toNat_ofNat]
  omega

end Sys2Proof.Machine
end

section
/-!
PROOFS. O49: TTPROMO (R278, R284, R289, R356): a tile readied for a write is STORED; and the four instructions together.
-/

namespace Sys2Proof.Machine

open Sys2Proof Sys2Proof.Claim

/-! ### The dirty lists on the way to a frame (R277, R284, R356) -/

/-- No dirty list of `u` is longer than that of `s`. -/
def State.NoDirtier (s u : State) : Prop := ∀ die, (vget u.dv.dirty die []).length ≤ (vget s.dv.dirty die []).length

theorem State.NoDirtier.trans {s u v : State} (h : s.NoDirtier u) (h' : u.NoDirtier v) : s.NoDirtier v :=
  fun die => (h' die).trans (h die)

/-- Equal dirty lists. -/
theorem State.noDirtier_of_eq {s u : State} (h : u.dv.dirty = s.dv.dirty) : s.NoDirtier u := fun die => by rw [h]

/-- A run of changes, none of which lengthens a list. -/
theorem State.noDirtier_foldl {α : Type} (f : State → α → State) (hf : ∀ (s : State) x, s.NoDirtier (f s x)) (l : List α)
    (s : State) : s.NoDirtier (l.foldl f s) := by
  induction l generalizing s with
  | nil => exact State.noDirtier_of_eq rfl
  | cons x t ih => exact (hf s x).trans (ih _)

/-- A tile taken off a list. -/
theorem State.noDirtier_undirty (s : State) (l : TLoc) : s.NoDirtier (s.undirty l) := by
  intro die
  change (vget (vput s.dv.dirty l.die _) die []).length ≤ _
  rw [vget_vput]
  split
  · next h =>
    rw [← h.1]
    exact List.length_filter_le _ _
  · exact Nat.le_refl _

/-- An entry replaced leaves the dirty lists. -/
@[simp] theorem State.setEntry_dirty (s : State) (l : TLoc) (w0 w1 : Word) : (s.setEntry l w0 w1).dv.dirty = s.dv.dirty := by
  unfold State.setEntry
  split
  · rw [State.modCore_dv]
  · exact ((s.dv.accessed_markEntry l true).trans (Dev.accessed_patch _ _ _ _ _)).dirty

/-- A frame released leaves them. -/
@[simp] theorem State.dropFrame_dirty (s : State) (l : TLoc) (w0 : Word) : (s.dropFrame l w0).dv.dirty = s.dv.dirty := by
  unfold State.dropFrame
  split <;> rfl

/-- Sums replaced leave them. -/
@[simp] theorem State.setSide_dirty (s : State) (st : Store) (x : BitVec 16384) : (s.setSide st x).dv.dirty = s.dv.dirty := by
  cases st with
  | slot c k => rw [State.setSide, State.modCore_dv]
  | frame f => rfl

/-- Tiles unmapped. -/
theorem State.noDirtier_unmapTiles (s : State) (sp i x : Nat) (ts : List Nat) : s.NoDirtier (s.unmapTiles sp i x ts) := by
  refine State.noDirtier_foldl _ (fun s t => ?_) ts s
  split
  · refine State.NoDirtier.trans (State.noDirtier_of_eq ?_) (State.noDirtier_undirty _ _)
    rw [State.dropFrame_dirty, State.setEntry_dirty]
  · exact State.noDirtier_of_eq rfl

/-- A tensor evicted. -/
theorem State.noDirtier_evict (s : State) (sp i x : Nat) : s.NoDirtier (s.evict sp i x) := by
  unfold State.evict
  dsimp only
  split
  · exact (s.noDirtier_unmapTiles sp i x _).trans (State.noDirtier_of_eq (Dev.accessed_putDesc _ _ _ _ _ _).dirty)
  · exact State.noDirtier_of_eq (Dev.accessed_putDesc _ _ _ _ _ _).dirty

/-- The residency unit's reaction. -/
theorem State.noDirtier_residency (s : State) (die : Nat) : s.NoDirtier (s.residency die) := by
  unfold State.residency
  split
  · refine State.noDirtier_foldl _ (fun s c => ?_) _ s
    split
    · exact s.noDirtier_evict _ _ _
    · exact State.noDirtier_of_eq rfl
  · exact State.noDirtier_of_eq rfl

/-- A frame out of a pool. -/
theorem State.noDirtier_claimFrame (s : State) (die f : Nat) : s.NoDirtier (s.claimFrame die f) :=
  State.NoDirtier.trans (State.noDirtier_of_eq rfl) (State.noDirtier_residency _ die)

/-- An offload cancelled leaves the dirty lists. -/
@[simp] theorem State.cancelOffload_dirty (s : State) (l : TLoc) : (s.cancelOffload l).dv.dirty = s.dv.dirty := by
  unfold State.cancelOffload
  split
  · exact (Dev.accessed_putDesc _ _ _ _ _ _).dirty
  · rfl

/-! ### A tile readied for a write (R276, R278) -/

/-- A symbolic tile that can be written resolves, and a tensor's tile finds a frame in its pool. -/
theorem State.writable_symbol {s : State} {l : TLoc} (hk : entKind (s.entry l).1 ≠ 1) (h : s.writeFault l = none) :
    (∀ r, s.resolve l ≠ .bad r) ∧ (l.isSlot = false → ∃ f, s.takeFrame l.die = some (f, s.claimFrame l.die f)) := by
  simp only [State.writeFault, if_neg hk] at h
  refine ⟨fun r hr => ?_, fun hs => ?_⟩
  · rw [hr] at h
    nomatch h
  · unfold State.takeFrame
    cases hpool : vget s.dv.pool l.die [] with
    | cons f t => exact ⟨f, rfl⟩
    | nil =>
      simp only [hs, hpool] at h
      split at h
      · nomatch h
      · exact absurd h (by simp)

/-- A tile is made STORED: where it stands its entry is replaced by a STORED one, and then the tile is listed as dirty. -/
def State.Stores (s : State) (l : TLoc) (lid rank : Nat) (u : State) : Prop :=
  ∃ (x : State) (w0 w1 : Word), u = (x.setEntry l w0 w1).listDirty l lid rank ∧ entKind w0 = 1 ∧
    (l.isSlot = true → x.box l.c ≠ none) ∧ s.NoDirtier x

/-- A symbolic tile that can be written is promoted (R278). -/
theorem State.promoteInto_stores {s : State} {l : TLoc} (lid rank : Nat) (hbox : l.isSlot = true → s.box l.c ≠ none)
    (hk : entKind (s.entry l).1 ≠ 1) (h : s.writeFault l = none) :
    ∃ st u, s.promoteInto l lid rank none = .ok (st, u) ∧ s.Stores l lid rank u := by
  obtain ⟨hres, hframe⟩ := State.writable_symbol hk h
  have hkind := @entKind_mkEnt 1 (by decide)
  unfold State.promoteInto
  dsimp only
  split
  · next r hr => exact absurd hr (hres r)
  · cases hs : l.isSlot with
    | true =>
      have hslot := State.box_modCore_ne_none (fun c =>
        ((upTo 0 256).zip (s.termRows (s.resolve l))).foldl (fun c p => c.setRow (256 * l.k + p.1) p.2) c) (hbox hs)
      refine ⟨_, _, if_pos rfl, _, _, _, rfl, hkind _ _ _ _ _ _, fun _ => State.box_modCore_ne_none _ hslot, ?_⟩
      exact State.noDirtier_of_eq (by rw [State.setSide_dirty, State.modCore_dv])
    | false =>
      obtain ⟨f, hf⟩ := hframe hs
      rw [if_neg (by decide), hf]
      refine ⟨_, _, rfl, _, _, _, rfl, hkind _ _ _ _ _ _, fun h => absurd (hs.symm.trans h) (by decide), ?_⟩
      refine (s.noDirtier_claimFrame l.die f).trans (State.noDirtier_of_eq ?_)
      rw [State.setSide_dirty]
      exact (Dev.accessed_atomic _ _ _ _ _).dirty

/-- A tile listed on a list with room leaves every entry. -/
theorem State.entry_listDirty {s : State} {l : TLoc} (lid rank : Nat)
    (h : (vget s.dv.dirty l.die []).length + 1 < Config.dirtyCap) (m : TLoc) : (s.listDirty l lid rank).entry m = s.entry m := by
  rw [State.listDirty_room lid rank h]
  rfl

/-- A tile made STORED reads as STORED, where the dirty list has room for it. -/
theorem State.Stores.kind {s u : State} {l : TLoc} {lid rank : Nat} (h : s.Stores l lid rank u)
    (hroom : (vget s.dv.dirty l.die []).length + 1 < Config.dirtyCap) : entKind (u.entry l).1 = 1 := by
  obtain ⟨x, w0, w1, rfl, hkind, hbox, hdirty⟩ := h
  have hle := hdirty l.die
  have hlist := State.entry_listDirty (s := x.setEntry l w0 w1) (l := l) lid rank (by rw [State.setEntry_dirty]; omega) l
  rw [hlist, State.entry_setEntry hbox]
  exact hkind

/-- A tile readied for a write is STORED (R276, R278). -/
theorem State.readyWrite_kind {s : State} {l : TLoc} (lid rank : Nat) (hbox : l.isSlot = true → s.box l.c ≠ none)
    (h : entKind ((s.cancelOffload l).entry l).1 = 1 ∨ (s.cancelOffload l).writeFault l = none)
    (hroom : (vget s.dv.dirty l.die []).length + 1 < Config.dirtyCap) :
    ∃ st u, s.readyWrite l lid rank = .ok (st, u) ∧ entKind (u.entry l).1 = 1 := by
  have hbox' : l.isSlot = true → (s.cancelOffload l).box l.c ≠ none := by
    rw [State.cancelOffload_eq]
    exact hbox
  unfold State.readyWrite State.readyWith
  dsimp only
  by_cases hk : entKind ((s.cancelOffload l).entry l).1 = 1
  · rw [if_pos hk]
    exact ⟨_, _, rfl, hk⟩
  · rw [if_neg hk]
    obtain ⟨st, u, hu, hstores⟩ := State.promoteInto_stores lid rank hbox' hk (h.resolve_left hk)
    exact ⟨st, u, hu, hstores.kind (by rw [State.cancelOffload_dirty]; exact hroom)⟩

/-! ### TTPROMO (R289) -/

/-- The access that TTPROMO makes of its tile's data: none of a STORED tile, else a write. -/
def State.promoAccess (s : State) (l : TLoc) : Option Bool := if entKind (s.entry l).1 = 1 then none else some true

/-- What TTPROMO gives and leaves: the tile's kind, and the machine with the tile readied for a write where it can be. -/
def State.promoResult (s : State) (l : TLoc) : Word × State :=
  (BitVec.ofNat 64 (entKind (s.entry l).1),
    match s.readyWrite l s.pl.lid s.pl.rank with
    | .ok x => x.2
    | .error _ => s)

/-- TTPROMO as an instruction over one tile. -/
theorem exec_ttpromo_tileOp (f : R2) {s : State} {l : TLoc} (hl : s.tileRefK (.ttpromo f) 13 true (s.rdS f.sy) = .ok l) :
    exec (.ttpromo f) s = s.tileOp (.ttpromo f) f.ar f.sx 13 true (s.rdS f.sy) s.promoAccess
      [if entKind (s.entry l).1 = 1 then none else s.writeFault l] State.promoResult := by
  show execTtpromo f s = _
  unfold execTtpromo
  dsimp only
  rw [hl]
  rfl

/-- TTPROMO whose checks pass readies its tile for a write, the sequencer frozen, and gives the kind. -/
theorem exec_ttpromo (f : R2) {s : State} {l : TLoc} (hl : s.tileRefK (.ttpromo f) 13 true (s.rdS f.sy) = .ok l)
    (hsym : entKind (s.entry l).1 ≠ 1 → s.writeFault l = none ∧ (s.tileWalkK true l).1 = none) :
    exec (.ttpromo f) s = .next (((s.tileTouch (s.promoAccess l) l).promoResult l).2.freeze.resultK f.ar f.sx
      ((s.tileTouch (s.promoAccess l) l).promoResult l).1) := by
  refine exec_of_tileOp (exec_ttpromo_tileOp f hl) hl (fun w hw => ?_) ?_
  · rw [State.promoAccess, Option.ite_none_left_eq_some] at hw
    obtain ⟨hk, hw⟩ := hw
    rw [← Option.some.inj hw]
    exact (hsym hk).2
  · refine (passes_cons _ _).2 ⟨?_, passes_nil⟩
    split
    · rfl
    · next hk => exact (hsym hk).1

/-- The machine that TTPROMO leaves of a tile that can be written: the tile STORED, the executing plane and what the device holds of
the tasks as before. -/
theorem State.promoResult_stored {s : State} {l : TLoc} (hbox : l.isSlot = true → s.box l.c ≠ none)
    (h : entKind ((s.cancelOffload l).entry l).1 = 1 ∨ (s.cancelOffload l).writeFault l = none)
    (hroom : (vget s.dv.dirty l.die []).length + 1 < Config.dirtyCap) :
    entKind ((s.promoResult l).2.entry l).1 = 1 ∧ (s.promoResult l).2.pl = s.pl ∧
      (s.promoResult l).2.dv.tasking = s.dv.tasking := by
  obtain ⟨st, u, hu, hkind⟩ := State.readyWrite_kind s.pl.lid s.pl.rank hbox h hroom
  rw [State.promoResult, hu]
  exact ⟨hkind, State.readyWrite_pl hu, State.readyWrite_tasking hu⟩

/-- TTPROMO gives its tile's former kind and leaves the tile STORED. -/
theorem ttpromo_promotes (f : R2) {s : State} {l : TLoc} (hl : s.tileRefK (.ttpromo f) 13 true (s.rdS f.sy) = .ok l)
    (hsym : entKind (s.entry l).1 ≠ 1 → s.writeFault l = none ∧ (s.tileWalkK true l).1 = none)
    (hwrite : entKind (((s.tileTouch (s.promoAccess l) l).cancelOffload l).entry l).1 = 1 ∨
      ((s.tileTouch (s.promoAccess l) l).cancelOffload l).writeFault l = none)
    (hroom : (vget s.dv.dirty l.die []).length + 1 < Config.dirtyCap) :
    ∃ t r, exec (.ttpromo f) s = .next t ∧ t.pl = { s.pl with flight := s.pl.flight ++ [r], cycle := t.pl.cycle } ∧
      Due s r f.ar 1 (.sreg f.sx) ∧
      r.val = (BitVec.ofNat 64 (entKind ((s.tileTouch (s.promoAccess l) l).entry l).1)).setWidth 2048 ∧
      entKind (t.entry l).1 = 1 := by
  have hexec := exec_ttpromo f hl hsym
  have hacc := State.tileTouch_accessed s (s.promoAccess l) l
  have heq := State.tileTouch_eq s (s.promoAccess l) l
  have hbox := State.box_of_tileRefK hl
  generalize s.tileTouch (s.promoAccess l) l = u at hexec hacc heq hwrite ⊢
  have hbox' : l.isSlot = true → u.box l.c ≠ none := by
    rw [heq]
    exact hbox
  obtain ⟨hkind, hpl, htask⟩ := State.promoResult_stored hbox' hwrite (by rw [hacc.dirty]; exact hroom)
  obtain ⟨r, hres, hdue, hval, -, -⟩ := State.freeze_resultK (s := s) (u := (u.promoResult l).2) f.ar f.sx (u.promoResult l).1
    (hpl.trans (by rw [heq])) (htask.trans hacc.tasking)
  exact ⟨_, r, hexec.trans (congrArg _ hres), rfl, hdue, hval, by rw [State.entry_sentFrozen]; exact hkind⟩

/-- A tile's kind as a result of a register's width (R272). -/
theorem entKind_word (w0 : Word) : (BitVec.ofNat 64 (entKind w0)).setWidth 2048 = BitVec.ofNat 2048 (entKind w0) := by
  have hlt : entKind w0 < 2 ^ 3 := bitsOf_lt _ _ _
  refine BitVec.eq_of_toNat_eq ?_
  rw [BitVec.toNat_setWidth, BitVec.toNat_ofNat, BitVec.toNat_ofNat]
  omega

/-- Settles O49: each instruction's entry, run or promotion, instruction by instruction. -/
theorem tileTableInstructions : Obligations.TileTableInstructions := by
  unfold Obligations.TileTableInstructions
  refine ⟨fun f s l hl => ttq_gives f hl, fun f s l w1 hl hsym => ?_, fun f s l n hl hn hpos hle hfits hrun => ?_,
    fun f s l hl => ?_⟩
  · obtain ⟨t, nf, harr, hpl, hentry, hdirty⟩ := ttset_writes f hl hsym
    refine ⟨t, harr, hpl, ?_, hdirty⟩
    dsimp only
    rw [hentry]
    exact ⟨rfl, entKind_mkEnt f.kind.isLt _ _ _ _ _ _, entFmt_mkEnt f.fmt.isLt _ _ _ _ _ _, entPromoted_mkEnt _ _ _ _ _ _ _,
      entDirty_mkEnt _ _ _ _ _ _ _, entFrame_mkEnt (by decide) _ _ _ _ _ _, entPgen_mkEnt (entPgen_lt _) _ _ _ _ _ _⟩
  · obtain ⟨r, hexec, hdue, hval⟩ := ttsettle_settles f hl hn hpos hle hfits hrun
    refine ⟨_, r, hexec, rfl, hdue, s.settleRun (.ttsettle f) (s.rdS f.sy), s.settleChanges (.ttsettle f) (s.rdS f.sy), rfl,
      fun j _ => ⟨fun l' hl' => ⟨?_, State.settleTile_changed hl'⟩, fun hno => ?_⟩, hval, rfl, rfl, rfl, rfl, rfl, rfl⟩
    · exact congrArg Prod.snd (State.settleTile_ok hl')
    · exact ⟨congrArg Prod.snd (State.settleTile_error hno), congrArg Prod.fst (State.settleTile_error hno)⟩
  · dsimp only
    intro hsym hwrite hroom
    have haccess : (if decide (entKind (s.entry l).1 = 1) then none else some true) = s.promoAccess l := by
      simp only [decide_eq_true_eq, State.promoAccess]
    rw [haccess] at hwrite ⊢
    rw [← entKind_word]
    exact ttpromo_promotes f hl (fun hk => hsym (decide_eq_false hk)) hwrite hroom

end Sys2Proof.Machine
end
